-- ==== Sys2Proof/Word.lean ====
section
/-! DEFINITION. The plain word types of the DX20 model and tables of a fixed number of like things. -/

namespace Sys2Proof

/-- A control-port word (R448). -/
abbrev Word := BitVec 32
abbrev Byte := BitVec 8
/-- A 64 B line, byte 0 in bits [7:0] (R38). -/
abbrev Line := BitVec 512
/-- A line as stored in DRAM, 80 bytes: the 64 data bytes, then the 16 check symbols (R273, R289). -/
abbrev Stored := BitVec 640

abbrev PortId := Fin 24
abbrev ChanId := Fin 20
abbrev SetId := Fin 4
/-- Subchannel: 0 is A, 1 is B (R107). -/
abbrev Sub := Fin 2
/-- Millrace lane (R240). -/
abbrev Lane := Fin 4

/-- A table of `n` like things. -/
abbrev Tab (α : Type) (n : Nat) := Vector α n

/-- `t` with entry `i` replaced. -/
def Tab.put {α : Type} {n : Nat} (t : Tab α n) (i : Fin n) (x : α) : Tab α n := t.set i.val x i.isLt

/-- Entry `i` of `t`. -/
def Tab.at {α : Type} {n : Nat} (t : Tab α n) (i : Fin n) : α := t[i.val]

/-- The table whose every entry is `x`. -/
def Tab.all {α : Type} (n : Nat) (x : α) : Tab α n := Vector.replicate n x

/-- `f` applied to every entry. -/
def Tab.each {α β : Type} {n : Nat} (f : α → β) (t : Tab α n) : Tab β n := t.map f

end Sys2Proof
end

