-- ==== Sys2Proof/Config.lean ====
section
/-! DEFINITION. What the spec leaves to the implementation, or to a JEDEC or flash standard whose arithmetic it does not
give. Every constant here has no body: no proof can see a value of it (log entries 8 and 62). -/

namespace Sys2Proof

/-- What a byte lane of an internal SRAM's word holds (R288 tells data bytes from address, tag and record bytes;
R291 lanes beyond the word's width). -/
inductive LaneKind where
  | data      -- a data byte, or the parity byte of a stripe record
  | control   -- an address, tag or record byte
  | beyond    -- a lane beyond the word's width
  deriving DecidableEq, Repr, Inhabited

/-- The kind of lane `lane` of the SRAM with code `code` (R288); the spec gives no word layouts. UNVERIFIED, safe. -/
opaque Config.sramLane : (code lane : Nat) → LaneKind

/-- The `i`-th draw of the on-die random source, 16 bytes (R445). -/
opaque Config.random : Nat → BitVec 128
/-- JEDEC identification bytes and size in KiB of the keepsake flash (FLASH_INFO, R414). -/
opaque Config.flashId : Word
opaque Config.flashKib : Word
/-- The byte that device `d` returns for a mode-register read, out of the captured burst (R142, R414). -/
opaque Config.mrrByte : Stored → (d : Nat) → Byte
/-- Whether the device reports a free repair resource, out of the captured MRR burst (R329 step 1). -/
opaque Config.pprResource : Stored → Bool
/-- The whole degrees that a temperature sensor's I3C transfer reports (R354, JEDEC coding). -/
opaque Config.tempC : List Byte → Nat

/-- ERR of a job that ends for a cause R412 has no number for (a sever, R418; a failed repair, R330), by event. UNVERIFIED, safe. -/
opaque Config.openErr : Nat → BitVec 5

/-- A result word of JOB_STATUS while the job runs, when it is not valid (R416), by event. UNVERIFIED, safe. -/
opaque Config.openWord : Nat → Word

/-- The step in progress while training runs is the firmware's (R357), by tide and channel. UNVERIFIED, safe. -/
opaque Config.trainStat : (tide chan : Nat) → Word

/-- The WAKE_N pins that are still low as SLUMBER begins, of those that were in the commit window (R388), by event. UNVERIFIED, safe. -/
opaque Config.pinStill : Nat → BitVec 2

/-- How far work that the firmware or the flash does has come when its progress is read (R404, R416), by event. UNVERIFIED, safe. -/
opaque Config.workDone : Nat → Nat

/-- What training finds for a delay, by draw and number of the delay (R347, R357). UNVERIFIED, safe. -/
opaque Config.trainTap : (draw delay : Nat) → Nat

/-- The line of a write trial of a retraining pause, by trial (R363 names a pattern and gives none). UNVERIFIED, safe. -/
opaque Config.trainPattern : (trial : Nat) → BitVec 640

/-- The test pattern of a PPR for column line `j` (R329 step 6 gives none). UNVERIFIED, safe. -/
opaque Config.pprPattern : (j : Nat) → Line

end Sys2Proof
end

