-- ==== Sys2Proof/Syntax.lean ====
section
/-! DEFINITION. The commands of the block: one constructor per row of spec/opcode_table.json, in its order.
The table gives no operands and no bits; the operands are what comes in from outside the core with the
event (log entries 1 and 6). -/

namespace Sys2Proof

/-- The 24 crossbar destinations of R110: the 20 channels and the 4 span engines. -/
inductive Dest where
  | chan (c : ChanId)
  | span (m : SetId)
  deriving DecidableEq, Repr

/-- The three alias views of R449. -/
inductive View where
  | direct | set | clear | toggle
  deriving DecidableEq, Repr

/-- The PLLs of R474. -/
inductive Pll where
  | global | mirrorOut | mirrorIn
  | channel (c : ChanId)
  deriving DecidableEq, Repr

/-- A bank of a subchannel: chip select, chip ID, bank group, bank (R107, R144). -/
structure Bank where
  cs : Nat
  cid : Nat
  bg : Nat
  ba : Nat
  deriving DecidableEq, Repr

/-- What a job whose work lies outside the core reports when it ends (R414): pass and fail masks, a cause (R412) and
further result words. -/
structure JobEnd where
  ok : BitVec 20
  bad : BitVec 20
  err : Nat
  deriving DecidableEq, Repr

/-- What training reports of a failed channel (R359, TRN_STAT). -/
structure TrnFail where
  step : Nat
  err : Nat
  sub : Nat
  cs : Nat
  lane : Nat
  deriving DecidableEq, Repr

/-- The commands, one per row of spec/opcode_table.json. -/
inductive Instr where
  -- host ports: the request word and its parity as driven on the wires (R38, R40)
  | nop (p : PortId) (w : BitVec 144) (par : BitVec 18)
  | rd (p : PortId) (w : BitVec 144) (par : BitVec 18)
  | rds (p : PortId) (w : BitVec 144) (par : BitVec 18)
  | wr (p : PortId) (w : BitVec 144) (par : BitVec 18)
  | wrp (p : PortId) (w : BitVec 144) (par : BitVec 18)
  | wrs (p : PortId) (w : BitVec 144) (par : BitVec 18)
  | efence (p : PortId) (w : BitVec 144) (par : BitVec 18)
  | pfence (p : PortId) (w : BitVec 144) (par : BitVec 18)
  | writeDataBeat (p : PortId) (d : Line) (par : BitVec 64) (last : Bool)
  | responseCreditReturn (p : PortId)
  | requestAdmit (p : PortId)
  | crossbarTransfer (d : Dest)
  | writeAccept (d : Dest)
  | eddyLwinExpiry (c : ChanId) (line : Nat)
  | stripeSwinExpiry (m : SetId) (stripe : Nat)
  | internalReadReturn (c : ChanId)
  -- schedulers
  | commandSlot (c : ChanId) (x : Sub)
  | candidateAged (c : ChanId) (id : Nat)
  | mshareWindowEnd (c : ChanId) (x : Sub)
  | pageIdleExpiry (c : ChanId) (x : Sub) (b : Bank)
  | commandAck (c : ChanId) (x : Sub)
  | caParityAlert (c : ChanId) (x : Sub)
  | alertRelease (c : ChanId) (x : Sub)
  | alertRcvrExpiry (c : ChanId) (x : Sub)
  | alertStuckTimeout (c : ChanId) (x : Sub)
  | readDataDecode (c : ChanId) (x : Sub) (raw : Stored)
  | returnLine (c : ChanId)
  | responseBeat (p : PortId)
  -- tide, cadence, updates
  | tideSyncMark (seen : List (ChanId × Nat))
  | slotPost (k : Fin 8)
  | refreshWindow (c : ChanId) (x : Sub)
  | retrainPause (c : ChanId) (x : Sub) (fails : BitVec 4) (up : BitVec 4) (down : BitVec 4)
  | epochCut
  | updStrobe (data : Word)
  | updAtArm
  | updAtCancel
  | updAtPost
  | updateTakesEffect
  -- power failure
  | pwrFail
  | sluiceDone
  | sagWarn (pinLow : Bool) (droop : BitVec 6)
  | sagCrit (pinLow : Bool) (droop : BitVec 6)
  | warnClearTimeout
  | tallyClear (m : SetId) (t : Nat)
  -- millrace: payload and control word as received on the lane (R244)
  | moBeatSend (l : Lane)
  | miData (l : Lane) (d : Line) (ctl : BitVec 192)
  | miHeader (l : Lane) (d : Line) (ctl : BitVec 192)
  | miTrailer (l : Lane) (d : Line) (ctl : BitVec 192)
  | miAck (l : Lane) (d : Line) (ctl : BitVec 192)
  | miHello (l : Lane) (d : Line) (ctl : BitVec 192)
  | miSever (l : Lane) (d : Line) (ctl : BitVec 192)
  | miDrift (l : Lane) (d : Line) (ctl : BitVec 192)
  | miRsEnd (l : Lane) (d : Line) (ctl : BitVec 192)
  | miIdle (l : Lane) (d : Line) (ctl : BitVec 192)
  | miLineAdmit (l : Lane)
  | ackDue
  | linkUp
  | linkDown (mo : Bool) (mi : Bool)
  | lossTimeout (l : Lane)
  | splitTimeout
  | witnessGrant (high : Bool)
  | millStartResync
  | millForceSolo
  | millForceFence
  | millWitnessGrantCmd
  | millWitnessDeny
  | resyncGranule
  | resyncLineReturn (g : Nat) (r : Fin 16384) (l : Fin 4)
  -- stored-data integrity
  | injEncode (c : ChanId)
  | injWriteRaw (c : ChanId)
  | injReadRaw (c : ChanId)
  | injDecode (c : ChanId)
  | injRawComplete (c : ChanId) (raw : Stored)
  | injArm (c : ChanId)
  | injGarm
  | eccClr (c : ChanId)
  | freshFillGo
  | freshFillDone
  -- weir and maintenance
  | weirRequest (c : ChanId) (code : Fin 10)
  | backoffExpiry (c : ChanId) (code : Fin 10)
  | quantumExpiry (c : ChanId)
  | weirRelease (c : ChanId)
  | debugDramAccess (c : ChanId)
  | retirePop
  | ladderClr
  | keepsakeProgramDone (ok : Bool)
  | pprProgramEnd (c : ChanId)
  | pmicSettled (c : ChanId)
  -- PHY and sideband
  | channelPllLock (c : ChanId)
  | phyCalDone (c : ChanId)
  | pllLockTimeout (q : Pll)
  | pllUnlock (q : Pll)
  | tempPoll (c : ChanId)
  | i3cTransferDone (c : ChanId) (ack : Bool) (bytes : List Byte)
  -- service, power, standby monitor
  | buttonPress (c : ChanId)
  | presenceChange (c : ChanId) (present : Bool)
  | presenceLoss (c : ChanId)
  | sledPowerOn
  | prepareGate (c : ChanId)
  | preparePowerOff (c : ChanId)
  | idleWake (c : ChanId)
  | slumberCommit
  | wakePin (n : Fin 2)
  | wakePulse
  | sbmTempPoll (c : ChanId) (ack : Bool) (temp : Nat)
  | alarmClr
  | aonPowerUp
  | aonPowerLoss
  | bringBackRow
  | corePg
  | corePgTimeout
  | coreRst
  | coreRstRelease
  | refclkOutOfRange
  | debugPortActive
  -- command packets
  | cmdPiWrite (data : Word)
  | unknownOpcode
  | identify
  | status
  | loadBegin
  | loadChunk
  | loadEnd
  | imageVerified
  | flashImageReadDone
  | firmwareReady
  | startTimeout
  | nuinunWatchdog
  | echo
  | jobStatus
  | jobCancel
  | jobEnd (j : Fin 8) (r : JobEnd) (trn : Tab TrnFail 20)
  | commandTimeout
  | spdRead
  | spdFetch
  | i3cRead
  | pmicEnable
  | pmicSet
  | train
  | mrRead
  | mrWrite
  | patchLoad
  | scrub
  | patchInstall
  | ppr
  | pprUnstage
  | ladderTake
  | degradeRank
  | tallyZero
  | resweep
  | rebuild
  | prepare
  | idleEnter
  | idleExit
  | slumber
  | sluice
  | millAction
  | flashInfo
  | imgStoreBegin
  | imgStoreChunk
  | imgStoreEnd
  | evrChallenge
  | evrClear
  -- faults and records
  | faultLatch (srcs : List (Fin 576))
  | coreResetTimeout
  | fclr (data : Word)
  | evrFetch (data : Word)
  | evrFetchDone
  | evrRecordProgram
  | hourTick
  | portPerrClear (p : PortId) (data : Word)
  | wcuVstatClear (p : PortId) (data : Word)
  | wcuWbxClear (p : PortId) (data : Word)
  | eddyPsnClear (c : ChanId) (data : Word)
  | rdueClear (c : ChanId) (data : Word)
  | updAtStatClear (data : Word)
  | millBrkClear (data : Word)
  | svcPressClear (data : Word)
  | svcPchgClear (data : Word)
  | wakeCauseClear (data : Word)
  -- register interface
  | indDataWrite (v : View) (data : Word)
  | indDataRead (v : View)
  | aliasWrite (v : View) (addr : BitVec 22) (data : Word)
  | cinchWrite (data : Word)
  | stitchCommit (data : Word)
  | stitchSweepEnd
  | snapSelWrite (data : Word)
  | snapFetchDone
  | registerWrite (addr : BitVec 22) (data : Word)
  | idleGate (c : ChanId)
  | crossbarHeadWaitLimit (d : Dest)
  | mirrorInPllLock
  | pmicEnableSpacing (c : ChanId) (slot1 : Bool) (good : Bool)
  deriving DecidableEq, Repr

end Sys2Proof
end

