-- ==== Sys2Proof/Machine/State.lean ====
section
/-! DEFINITION. The state of the DX20 core as plain data (INVENTORY.md, State). Every field's default value is its
value at reset, so that `State.reset` is the default state. -/

namespace Sys2Proof.Machine

/-- The reasons a step can stop with a fault: none. The spec describes every error as an effect on the state
(fault sources, protocol errors, refusals in a reply), so no meaning raises a fault. Safe. -/
inductive Fault : Type where
  deriving DecidableEq, Repr

/-- The reasons a step can be refused. -/
inductive Refusal where
  /-- Raised by an arm of `exec` whose command has no meaning yet. Safe: the model stops where the core goes on. -/
  | notModelled (mnemonic : String)
  deriving DecidableEq, Repr

/-! ### Containers -/

/-- A RAM or register file: (address, word) cells, addresses strictly rising, no cell equal to its reset value
(`Cells.wf`, `resetWord`). -/
structure Cells where
  list : List (Nat × Word) := []
  deriving DecidableEq, Repr

/-- A set of naturals as half-open ranges, rising and with a gap between any two (the fresh map and the drift
map, R293, R267). -/
structure ISet where
  ranges : List (Nat × Nat) := []
  deriving DecidableEq, Repr

/-- A stored byte with inverted parity (R291): its lane, and CHECK_ONLY. -/
structure Bad where
  lane : Nat
  checkOnly : Bool
  deriving DecidableEq, Repr

/-- A saturating event count with its clearing sequence number (R457). -/
structure SeqCount where
  count : Nat := 0
  seq : Nat := 0
  deriving DecidableEq, Repr

/-! ### Requests -/

/-- The opcodes of R41. -/
inductive Opc where
  | nop | rd | rds | wr | wrp | wrs | efence | pfence
  deriving DecidableEq, Repr

/-- QoS classes (R40). -/
inductive Cls where
  | bulk | norm | high | rt
  deriving DecidableEq, Repr

/-- Response codes (R48). -/
inductive Code where
  | ok | poison | denied | absent | fenced
  deriving DecidableEq, Repr

/-- Crossbar sources (R110). -/
inductive Src where
  | hp (p : PortId)
  | mi
  deriving DecidableEq, Repr

/-- A request word with its fields apart (R40). -/
structure Req where
  opc : Opc
  addr : Nat
  len : Nat
  qos : Cls
  tag : BitVec 12
  key : BitVec 8
  priv : Bool
  wb : Bool
  strict : Bool
  mask : BitVec 64
  deriving DecidableEq, Repr

/-- A beat in a write-data buffer (R46). -/
structure Beat where
  data : Line
  bad : Option Bad := none
  deriving DecidableEq, Repr

/-- A request-buffer entry with the write-data group paired to it (R46, R52). -/
structure BufReq where
  id : Nat
  req : Req
  data : List Beat := []
  bad : Option Bad := none
  deriving DecidableEq, Repr

/-- A response beat held in a port's response buffer (R48, R137). -/
structure Rsp where
  lidx : Nat
  code : Code
  corr : Bool := false
  data : Line := 0
  bad : Option Bad := none
  deriving DecidableEq, Repr

/-- An admitted request that is not fully answered (R55, R57, R58). -/
structure Flight where
  id : Nat
  req : Req
  epoch : Nat
  cls : Cls
  strictOrder : Bool
  cache : BitVec 2 := 0
  order : Bool := false
  /-- CODE decided for the whole request under conditions 1 to 4 of R58. -/
  code : Option Code := none
  /-- A write accepted, or refused with a decided CODE (R208). -/
  settled : Bool := false
  /-- The epoch a fence covers, 0 for nothing (R211). -/
  cover : Nat := 0
  /-- LASTW and the write that set it, before this write (R211). -/
  prevW : Nat := 0
  prevWId : Nat := 0
  /-- Beats ready to leave, and line indices of those that have left. -/
  ready : List Rsp := []
  sent : List Nat := []
  /-- Beats still to leave. -/
  left : Nat
  deriving DecidableEq, Repr

/-- Port modes; HELD of R75 is OPEN with a hold cause. -/
inductive PortMode where
  | closed | isOpen | halted | safe | closing
  deriving DecidableEq, Repr

/-- PORT_PERR (R74). -/
structure Perr where
  reason : Nat := 0
  tag : BitVec 12 := 0
  count : Nat := 0
  seq : Nat := 0
  deriving DecidableEq, Repr

/-- WCU_VSTAT with WCU_VADDR_LO and WCU_VADDR_HI (R93). -/
structure Vstat where
  valid : Bool := false
  reason : Nat := 0
  win : Nat := 0
  priv : Bool := false
  wb : Bool := false
  opc : Nat := 0
  count : Nat := 0
  seq : Nat := 0
  addr : Nat := 0
  tag : BitVec 12 := 0
  deriving DecidableEq, Repr

/-- A response beat as driven on HPn_RSP_H and HPn_RSP_D (R38, R48). -/
structure RspOut where
  tag : BitVec 12
  code : Code
  kind : Nat
  lidx : Nat
  last : Bool
  key : BitVec 8
  cache : BitVec 2
  order : Bool
  corr : Bool
  data : Line
  deriving DecidableEq, Repr

/-- A host port with its WCU. -/
structure Port where
  mode : PortMode := .closed
  /-- HPn_HALT (R72, R73). -/
  haltPin : Bool := false
  /-- CLOSING discards what enters (R487). -/
  discard : Bool := false
  /-- OPEN was set again while CLOSING ran: the port opens afresh in the CCLK after CLOSING ends, and shows CLOSED for
  that one CCLK (R73). -/
  reopen : Bool := false
  /-- The effective OPEN is forced to 0 (R431), and the tide value at which the reaction came: an update due in that
  cycle does not undo it (R19). -/
  forcedShut : Bool := false
  shutAt : Nat := 0
  /-- Credits the host holds (R53, R54). -/
  reqCrd : Nat := 0
  wdCrd : Nat := 0
  /-- Write-data credits withheld under R78. -/
  wdOwed : Nat := 0
  /-- Unused response credits (R54). -/
  rspCrd : Nat := 0
  reqBuf : List BufReq := []
  wdOpen : List Beat := []
  wdGroups : List (List Beat) := []
  flights : List Flight := []
  /-- LASTW, 0 when empty (R211), and the write that set it. -/
  lastW : Nat := 0
  lastWId : Nat := 0
  /-- Update mode in effect (R96). -/
  updm : Bool := false
  /-- The default map taken in: DEFMAP, then DEFRGN_A and DEFRGN_B of k = 0 to 3 (R87, R97). -/
  defmap : Word := 0
  defrgn : List (Word × Word) := []
  perr : Perr := {}
  vstat : Vstat := {}
  wbx : SeqCount := {}
  flood : Bool := false
  rdCnt : Nat := 0
  wrCnt : Nat := 0
  /-- Outputs of the current CCLK: the beat driven, and the credits returned on HPn_REQ_CRD and HPn_WD_CRD (R38). -/
  rspOut : Option RspOut := none
  reqOut : Nat := 0
  wdOut : Nat := 0
  deriving DecidableEq, Repr

/-! ### Crossbar, write forms, reconstructions -/

/-- One line of a request on its way to a channel. -/
structure XLine where
  ch : ChanId
  line : Nat
  /-- Line index within the request (R48). -/
  lidx : Nat
  /-- Data line of the stripe, ADDR[7:6] of the line (R104). -/
  idx : Nat
  data : Line := 0
  mask : BitVec 64 := 0
  /-- The line is written with the poison signature (R284, R288 code 1). -/
  poison : Bool := false
  deriving DecidableEq, Repr

/-- What every queue and eddy entry carries of the request that it serves, beside its class and epoch (R119): the
request's stamp, its host tag, the line index within it. Lines of the core's own carry zeros. -/
structure Orig where
  rid : Nat := 0
  tag : BitVec 12 := 0
  lidx : Nat := 0
  deriving DecidableEq, Repr

/-- A crossbar request entry (R111). -/
structure XEntry where
  id : Nat
  src : Src
  dest : Dest
  cls : Cls
  epoch : Nat
  tag : BitVec 12 := 0
  write : Bool
  addr : Nat
  lines : List XLine
  /-- Span-set stripe, or plain stripe index (R103, R104). -/
  stripe : Nat
  /-- Waited 64 CCLK untaken at the head (R112). -/
  stuck : Bool := false
  deriving DecidableEq, Repr

structure Xbar where
  entries : List XEntry := []
  /-- Taken by their destination and not yet accepted (R112, R117). -/
  taken : List XEntry := []
  /-- Per destination and class, the source after which the turn begins (24 = MI, R112). -/
  rr : Tab (Tab Nat 4) 24 := Tab.all 24 (Tab.all 4 24)
  deriving DecidableEq, Repr

/-- What an internal read serves in a write form (R126): the old value of a written line, the old parity, an
unwritten data line. -/
inductive FRole where
  | old | par | other
  deriving DecidableEq, Repr

/-- An internal read of a write form. `res` is `none` while it is out, `some none` when it does not decode. -/
structure FRead where
  idx : Nat
  ch : ChanId
  line : Nat
  role : FRole
  res : Option (Option Line) := none
  deriving DecidableEq, Repr

/-- A new data line of a write form. -/
structure FLine where
  idx : Nat
  ch : ChanId
  line : Nat
  data : Line
  mask : BitVec 64
  /-- Write-queue stamp of the line (R130). -/
  wid : Nat
  poison : Bool := false
  orig : Orig := {}
  /-- DCLK in which the line arrived at its channel (R151). -/
  born : Option Nat := none
  deriving DecidableEq, Repr

/-- A released line or stripe that waits for its internal reads (R126, R127). -/
structure Form where
  id : Nat
  /-- Set and stripe; none for a plain line. -/
  stripe : Option (SetId × Nat)
  lines : List FLine
  reads : List FRead
  /-- The parity write of the form, its channel, line and stamp. -/
  par : Option (ChanId × Nat × Nat) := none
  /-- The form has gone over to reconstruct-write. -/
  rcw : Bool := false
  /-- Positions that counted as absent when it was planned, by data index, 4 for parity (R126, R375). -/
  gone : List Nat := []
  epoch : Nat
  cls : Cls
  src : Src
  orig : Orig := {}
  deriving DecidableEq, Repr

/-- What a queue access or a reconstruction serves. -/
inductive Purp where
  /-- A host or MI line: source, request stamp, line index. -/
  | host (src : Src) (rid lidx : Nat)
  /-- A line or internal read of write form `f` at index `k` (R126). -/
  | form (f k : Nat)
  /-- The parity line of a stripe (R126). -/
  | parity
  /-- A contributor of reconstruction `r` (R138, R174). -/
  | contrib (r : Nat)
  /-- A tally mark or clear of tally line `t` of set `m` (R230, R231). -/
  | tally (m : SetId) (t : Nat) (mark : Bool)
  /-- The clean mark written in the sluice (R233), and its read and zeroing (R234). -/
  | cleanMark
  | cleanRead
  | cleanZero
  /-- A wash write of granule `g` (R296). -/
  | wash (g : Nat)
  /-- Scrub read, write-back and verify read (R314, R315). -/
  | scrub
  | scrubWb
  | verify
  /-- Write-back of a reconstructed line (R175). -/
  | writeBack
  /-- Patch installation: copy read, spare write, verify read (R322, R323). -/
  | patchRead
  | patchWrite
  /-- PPR copies and test accesses (R329). -/
  | pprRead
  | pprWrite
  /-- Rebuild writes (R338). -/
  | rebuildRead
  | rebuildWrite
  /-- Reads and writes of a parity resweep or a tally zeroing (R235, R236). -/
  | sweepRead
  | sweepWrite
  /-- Raw accesses of the injection window (R290). -/
  | rawRead
  | rawWrite
  /-- Mode-register read (R142). -/
  | mrr
  /-- A read, or a mode-register read, already issued whose maintenance unit was lost (R308, R309). -/
  | dropped
  | mrrDropped
  deriving DecidableEq, Repr

/-- What becomes of a reconstructed line (R138, R174, R316, R128). -/
inductive RFor where
  | beat (src : Src) (rid lidx : Nat) (writeBack : Bool)
  | form (f k : Nat)
  | scrub
  | patch
  deriving DecidableEq, Repr

/-- A reconstruction from the other four lines of a stripe (R138). -/
structure Recon where
  id : Nat
  m : SetId
  ch : ChanId
  line : Nat
  use : RFor
  cls : Cls := .bulk
  /-- Contributors still to come back, and those of them whose read waits for a read-queue entry (R116). -/
  wait : Nat
  todo : List ChanId := []
  /-- Contributors that it began with. -/
  need : Nat := 0
  acc : Line := 0
  failed : Bool := false
  /-- A write to the line was accepted after the read (R175). -/
  stale : Bool := false
  /-- The RDUE event that it answers (R176). -/
  event : Option Nat := none
  /-- What its contributors' reads carry of the request (R119). -/
  src : Option Src := none
  orig : Orig := {}
  epoch : Nat := 0
  /-- The read that it serves had issued (R217). -/
  issued : Bool := false
  deriving DecidableEq, Repr

/-! ### Channels -/

/-- A read of a maintenance engine that waits for a read-queue entry (R116); `raw` goes past the patch table. -/
structure Fetch where
  purp : Purp
  line : Nat
  raw : Bool
  deriving DecidableEq, Repr

/-- How a queued line is encoded when it is written (R274, R281, R289). -/
inductive Enc where
  | code
  | poison
  | raw (check : BitVec 128)
  deriving DecidableEq, Repr

/-- A read-queue entry (R116, R119). `home` is the line asked for, `loc` the line accessed (R321). -/
structure RdE where
  id : Nat
  purp : Purp
  home : Nat
  loc : Nat
  cls : Cls
  epoch : Nat := 0
  src : Option Src := none
  orig : Orig := {}
  /-- DCLK of the entry's arrival, and that its wait has been seen to reach the ageing limit (R151). -/
  since : Nat := 0
  aged : Bool := false
  issued : Bool := false
  /-- The selector's count of issued commands when its RD issued (READ_DATA_DECODE takes the earliest). -/
  at_ : Nat := 0
  /-- The line waits for its one re-read, or has had it (R173). -/
  reread : Bool := false
  again : Bool := false
  /-- Held while the line's patch entry is in COPY (R321). -/
  held : Bool := false
  /-- What a mode-register read has captured, kept until its command is acknowledged (R171). -/
  got : Option Stored := none
  bad : Option Bad := none
  deriving DecidableEq, Repr

/-- A write-queue entry (R116, R119). -/
structure WrE where
  id : Nat
  purp : Purp
  /-- The source of the request; none for the core's own lines. -/
  src : Option Src := none
  home : Nat
  loc : Nat
  data : Line := 0
  enc : Enc := .code
  cls : Cls
  epoch : Nat := 0
  orig : Orig := {}
  since : Nat := 0
  aged : Bool := false
  /-- Its internal reads have returned (R127). -/
  ready : Bool := true
  issued : Bool := false
  held : Bool := false
  /-- Set and page whose tally bit must stand first (R230). -/
  page : Option (SetId × Nat) := none
  bad : Option Bad := none
  deriving DecidableEq, Repr

/-- An eddy-buffer entry (R122, R123). -/
structure EddyE where
  id : Nat
  line : Nat
  data : Line
  mask : BitVec 64
  epoch : Nat
  src : Src
  orig : Orig := {}
  cls : Cls
  /-- Set, stripe and data index in a span set. -/
  stripe : Option (SetId × Nat × Nat) := none
  poison : Bool := false
  bad : Option Bad := none
  /-- DCLK in which its line arrived at the channel (R151). -/
  born : Option Nat := none
  deriving DecidableEq, Repr

/-- A return-queue entry (R136). -/
structure RetE where
  src : Src
  rid : Nat
  lidx : Nat
  tag : BitVec 12 := 0
  cls : Cls := .bulk
  epoch : Nat := 0
  code : Code
  corr : Bool
  data : Line
  bad : Option Bad := none
  deriving DecidableEq, Repr

/-- An internal read that has come back, for INTERNAL_READ_RETURN (R127). -/
structure IntRet where
  f : Nat
  k : Nat
  res : Option Line
  deriving DecidableEq, Repr

/-- The DDR5 commands of R142. -/
inductive Kind where
  | act | rd | rda | wr | wra | pre | presb | preab | refab | refsb | rfmab | rfmsb
  | mrr | mrw | zqs | zql | sre | srx | pde | pdx | des
  deriving DecidableEq, Repr

/-- Who a command is issued for; it decides what is done when it issues (R150). -/
inductive CmdFor where
  | queue       -- a queue entry, `ent`
  | refresh     -- a refresh window or owed refresh (R157, R161)
  | initial     -- the first refresh after a start (R162)
  | pause       -- a retraining pause (R361)
  | pauseEnd    -- its last command
  | rfm         -- refresh management (R164)
  | nbr         -- neighbour refresh (R166)
  | recover     -- alert recovery (R170)
  | replay      -- replay (R171)
  | holder      -- mode-register access or PPR of the grant holder
  | idle        -- idle-limit precharge (R145)
  | selfRef     -- self-refresh entry or exit
  | pprEnd      -- the close of a PPR programming interval (R329)
  deriving DecidableEq, Repr

structure Cmd where
  kind : Kind
  bank : Bank
  row : Nat := 0
  col : Nat := 0
  ent : Nat := 0
  use : CmdFor := .queue
  /-- Mode register and value of an MRW or MRR. -/
  mr : Nat := 0
  val : Nat := 0
  /-- The DCLK before which it does not issue: a refresh of a rank whose precharge needed no command (R157). -/
  notBefore : Nat := 0
  deriving DecidableEq, Repr

/-- An issued command with its DCLK (R148). -/
structure Issued where
  cmd : Cmd
  time : Nat
  deriving DecidableEq, Repr

/-- An oxbow-buffer entry (R168). -/
structure Ox where
  cmd : Cmd
  acked : Bool := false
  captured : Bool := false
  /-- Marked for replay (R170). -/
  marked : Bool := false
  /-- Issued in a recovery or replay (R172). -/
  again : Bool := false
  bad : Option Bad := none
  deriving DecidableEq, Repr

/-- A bank's pending neighbour refresh (R166): rows still to have their ACT. -/
structure Nbr where
  bank : Bank
  rows : List Nat
  deriving DecidableEq, Repr

/-- OXB_STAT states (R177). -/
inductive OxState where
  | running | recovery | replay | stopped
  deriving DecidableEq, Repr

/-- The trials of a retraining step on the four bits of a device (R363, R364): bits whose centre trial failed, and bits the
centre of whose passing trials lies above or below the delay in use. -/
structure Trial where
  fails : BitVec 4
  up : BitVec 4
  down : BitVec 4
  deriving DecidableEq, Repr

/-- One command selector (R141 to R172). -/
structure Sel where
  /-- Command slots counted so far, and commands issued other than DES. -/
  dclk : Nat := 0
  count : Nat := 0
  hist : List Issued := []
  /-- Open banks with their rows; a bank not listed is precharged (R144). -/
  banks : List (Bank × Nat) := []
  wmode : Bool := false
  wbatch : Nat := 0
  credits : Tab Nat 4 := Tab.all 4 0
  share : Nat := 0
  rfm : List (Bank × Nat) := []
  nbr : List Nbr := []
  lfsr : BitVec 32 := 1
  idleDue : List Bank := []
  /-- Refresh, pause, refresh-management and start commands that are due, in order (R150 second step). -/
  plan : List Cmd := []
  /-- Commands of the grant holder's own: mode-register accesses and PPR (R310), the DCLK from which the first of them
  waits, and that it has been seen to age (R151). -/
  hold : List Cmd := []
  holdSince : Nat := 0
  holdAged : Bool := false
  /-- Refreshes owed, per chip select: all-bank, and bank indices of per-bank ones (R161). -/
  owed : Tab Nat 4 := Tab.all 4 0
  owedSb : List (Nat × Nat) := []
  /-- Those among them that a PPR programming interval kept back, which the limit of four does not count (R311). -/
  owedIn : Tab Nat 4 := Tab.all 4 0
  /-- The bank index that the next per-bank window refreshes (R159). DESIGN CHOICE: the spec gives no first index; it is 0
  from reset, and a rise of SCH_CTL.EN leaves it (log entry 61). -/
  refIx : Nat := 0
  /-- The DCLK in which the closure of the last refresh window, or the last pause, ends (R157, R190, R361). -/
  shutUntil : Nat := 0
  /-- The last 32 issued commands (R168). -/
  ox : List Ox := []
  ostate : OxState := .running
  retries : Nat := 0
  /-- Precharges of a recovery still to issue (R170 step 4); after them the marked oxbow entries are replayed. -/
  redo : List Cmd := []
  alertSeenHigh : Bool := true
  /-- tPAR_RCVR has passed in this recovery (R170 step 3). -/
  rcvrDone : Bool := false
  /-- Next retraining step (R362). -/
  rtr : Nat := 0
  /-- A pause closes the subchannel. -/
  pauseOpen : Bool := false
  /-- A pause that waits for a refresh closure to end, and whether it then counts as late (R189, R190). -/
  pauseDue : Option Bool := none
  /-- The step of the last pause begun, while the outcome of its trials has still to come (R363), and the step that follows
  it once the pause is over. -/
  rtrStep : Option Nat := none
  /-- What those trials find, once RETRAIN_PAUSE has said so. -/
  rtrFound : Option Trial := none
  rtrNext : Nat := 0
  /-- Lane groups whose centre trial failed in the last cycle (R364). -/
  failed : List Nat := []
  selfRef : Bool := false
  /-- CA and DQ outputs of the last slot. -/
  out : Option (Cmd × Option Stored) := none
  deriving DecidableEq, Repr

/-- The weir arbiter (R304 to R312). -/
structure Weir where
  holder : Option Nat := none
  /-- Requesters that request or wait out a back-off (WEIR_STAT.REQ). -/
  want : Tab Bool 10 := Tab.all 10 false
  exps : Tab Nat 10 := Tab.all 10 0
  susp : Bool := false
  revokes : Nat := 0
  /-- A revocation held back by a step of R311. -/
  revokeDue : Option Nat := none
  quantumOver : Bool := false
  /-- DCLK of the last grant, and the exponent that the holder had before it (R305, R306). -/
  at_ : Nat := 0
  rank : Nat := 0
  /-- Requesters that lost in DCLK `lostAt`, with the exponents they had: a release in that DCLK still grants to one of them
  (R305). -/
  lost : List (Fin 10 × Nat) := []
  lostAt : Nat := 0
  deriving DecidableEq, Repr

/-- The stage of the scrub requester's current line (R314, R315). -/
inductive ScrubStage where
  | idle | reading | recon | writing | verifying
  /-- The write-back was dropped for a newer write: the line is done with (R315). -/
  | dropped
  deriving DecidableEq, Repr

structure Scrub where
  /-- SCRUB_STAT.STATE. -/
  st : Nat := 0
  first : Nat := 0
  next : Nat := 0
  stop : Nat := 0
  rate : Nat := 1
  lines : Nat := 0
  ce : Tab Nat 20 := Tab.all 20 0
  ers : Nat := 0
  ue : Nat := 0
  recon : Nat := 0
  fresh : Nat := 0
  psn : Nat := 0
  hard : Nat := 0
  stage : ScrubStage := .idle
  /-- Line, device and subchannel in hand, and whether it comes from the suspect list. -/
  cur : Nat := 0
  dev : Nat := 0
  fromList : Bool := false
  /-- A write to the line was accepted after the scrub read (R315). -/
  stale : Bool := false
  /-- The line has been reconstructed and written back (R316). -/
  rebuilt : Bool := false
  /-- The line has proved hard (R315). -/
  proved : Bool := false
  suspect : List Nat := []
  /-- Lines read in the current 1,024 DCLK, and which 1,024 they are (R313). -/
  win : Nat := 0
  used : Nat := 0
  deriving DecidableEq, Repr

/-- A patch-table entry (R321): states 0 FREE, 1 COPY, 2 DUAL, 3 ACTIVE, 4 RELEASE. -/
structure PatchE where
  line : Nat := 0
  st : Nat := 0
  spare : Nat := 0
  bad : Option Bad := none
  deriving DecidableEq, Repr

/-- A patch keepsake record (R324). -/
structure KsRec where
  gen : Nat
  entries : List PatchE
  badSp : List Nat
  soft : List Nat
  pprBegin : Option (Nat × Bool)
  /-- CRC-32C over bytes 0 to 719 as programmed. -/
  crc : Word
  deriving DecidableEq, Repr

structure Patch where
  tab : Tab PatchE 64 := Tab.all 64 {}
  badSp : List Nat := []
  ksPend : Bool := false
  /-- A keepsake program has been given up, and none has succeeded since (R326). -/
  ksBad : Bool := false
  /-- The stamp at which the COPY in hand began (R322). -/
  copyAt : Nat := 0
  /-- The staged row, as the L of its column-line 0 (R329). -/
  staged : Option Nat := none
  /-- Redirections (home line, staging line). -/
  redir : List (Nat × Nat) := []
  soft : List Nat := []
  pprBegin : Option (Nat × Bool) := none
  /-- The installation in hand: table index, and the step of R322. -/
  inst : Option (Nat × Nat) := none
  /-- Lines that wait for their installation, those among them that waited out a PPR of their row, and the one of these that
  is read again first (R322, R340). -/
  wait : List Nat := []
  recheck : List Nat := []
  check : Option Nat := none
  deriving DecidableEq, Repr

/-- The PPR sequence (R329). -/
structure Ppr where
  step : Nat := 0
  err : Nat := 0
  row : Nat := 0
  hard : Bool := false
  restore : Bool := false
  /-- Running PPR_UNSTAGE: steps 7 and 8 alone. -/
  unstage : Bool := false
  lock : Bool := false
  /-- In the programming interval (R311). -/
  prog : Bool := false
  pos : Nat := 0
  /-- The commands of the current step have been placed. -/
  sent : Bool := false
  /-- The line whose copy is in hand, if one is, and the stamp at which the copy began. -/
  line : Option Nat := none
  copyAt : Nat := 0
  /-- A write to the line in hand was accepted after its copy was read. -/
  stale : Bool := false
  deriving DecidableEq, Repr

/-- A degrading of ranks that a grant is to carry (R17, R335); `line` is the hard line of rung 4, none for DEGRADE_RANK. -/
structure Carried where
  ranks : BitVec 8
  line : Option Nat
  /-- Rung 4 is wanted at a second position, which takes the set offline (R334). -/
  second : Bool := false
  deriving DecidableEq, Repr

structure Ladder where
  /-- What the next grant that completes carries into the span set (R17). -/
  carried : List Carried := []
  want : Nat := 0
  wantLine : Nat := 0
  wantDev : Nat := 0
  rungs : Nat := 0
  /-- Hard lines per (subchannel, chip select, device) since CLR (R331). -/
  hard : List ((Nat × Nat × Nat) × Nat) := []
  deriving DecidableEq, Repr

/-- INJ_STAT and the copy handed to the channel (R289, R290). -/
structure Inj where
  busy : Bool := false
  outcome : Nat := 0
  dev : Nat := 0
  nsym : Nat := 0
  err : Nat := 0
  op : Nat := 0
  line : Nat := 0
  buf : Stored := 0
  /-- The access has entered its queue. -/
  sent : Bool := false
  deriving DecidableEq, Repr

/-- A parity injection (R291): `pend` while its group-29 update is posted. -/
structure InjArm where
  pend : Bool := false
  /-- Tide value of its update. -/
  at_ : Nat := 0
  armed : Bool := false
  hit : Bool := false
  code : Nat := 0
  lane : Nat := 0
  checkOnly : Bool := true
  port : Nat := 0
  deriving DecidableEq, Repr

/-- A washing granule: C[39:22], start line within it, lines whose wash write has issued, background (R296 to R299). -/
structure WashG where
  gran : Nat
  start : Nat
  done : Nat
  bg : Bool
  /-- The wash write at the cursor is in the write queue. -/
  inQ : Bool := false
  deriving DecidableEq, Repr

/-- A delay of the PHY (R347): of a CA bump (0 to 6 DCA, 7 DPAR) or a chip select to DCKs, of a device's DQS launch or
read gate, of a bit's DQ launch or capture, by subchannel. -/
inductive Delay where
  | ca (x : Sub) (bump : Nat)
  | cs (x : Sub) (cs : Nat)
  | dqs (x : Sub) (dev cs : Nat)
  | dqWrite (x : Sub) (bit cs : Nat)
  | gate (x : Sub) (dev cs : Nat)
  | dqRead (x : Sub) (bit cs : Nat)
  deriving DecidableEq, Repr

/-- PHY_STAT, TRN_STAT, RTR_STAT counts and DRST_N (R366, R348). -/
structure Phy where
  started : Bool := false
  /-- REFCLK multiplier of the channel PLL since its last start (R30, R356). -/
  mul : Nat := 24
  /-- Delays in taps of 1/64 UI; one not listed stands at 0 (R347). -/
  delays : List (Delay × Int) := []
  lock : Bool := false
  cal : Bool := false
  trained : Bool := false
  /-- 0 inert, 1 running, 2 retention, 3 unpowered. -/
  level : Nat := 0
  trn : TrnFail := ⟨0, 0, 0, 0, 0⟩
  /-- Chip selects are still held low after a retention: no SRX has been given yet (R350). -/
  quiet : Bool := false
  moves : Nat := 0
  fails : Nat := 0
  drst : Bool := false
  deriving DecidableEq, Repr

/-- Why an I3C transfer is made (R354). -/
inductive XferFor where
  | spd (job : Nat)
  | i3cRead
  | pmicEnable (job : Nat)
  | pmicOff
  | pmicSet
  | temp
  deriving DecidableEq, Repr

/-- An I3C transfer waiting or running on a channel's bus (R351). -/
structure Xfer where
  slot : Nat
  target : Nat
  reg : Nat := 0
  len : Nat := 0
  data : List Byte := []
  use : XferFor
  /-- It is under way on the bus. -/
  sent : Bool := false
  deriving DecidableEq, Repr

/-- Why a channel is being drained (R216, R375, R383). -/
inductive Drain where
  | none | sluice | prepare | idle
  deriving DecidableEq, Repr

/-- Sled service state of a channel, kept by the SBM (R372, R396). -/
structure Svc where
  /-- 0 EMPTY, 1 POWERED, 2 IN_SERVICE, 3 PREPARING, 4 PREPARED, 5 SEVERED. -/
  st : Nat := 0
  pres : Bool := false
  pwrOn : Bool := false
  /-- CCLK until SLED_PWR_EN falls, once the PHY field has been released; 0 when it is not to fall (R350, R371). -/
  fall : Nat := 0
  /-- ATTN and OK of SVC_CTL as the PHY field entered retention, which the LEDs then keep (R348). -/
  leds : Nat := 0
  req : Bool := false
  lost : Bool := false
  abandon : Bool := false
  why : Nat := 0
  deriving DecidableEq, Repr

/-- Clean mark as read (R234). -/
structure Cmark where
  valid : Bool := false
  set : Nat := 0
  pos : Nat := 0
  abs : Nat := 0
  epoch : Nat := 0
  deriving DecidableEq, Repr

/-- EDDY_PSN and RDUE with their line registers (R129, R176): `flag` is PAR or RECON. -/
structure LineRec where
  valid : Bool := false
  /-- The model's stamp of the event recorded. -/
  id : Nat := 0
  flag : Bool := false
  line : Nat := 0
  count : Nat := 0
  seq : Nat := 0
  deriving DecidableEq, Repr

/-- A channel with its agent. -/
structure Chan where
  rq : List RdE := []
  wq : List WrE := []
  eddy : List EddyE := []
  /-- Writes and reads of the core's own that wait for a free queue entry (R116, R175, R315). -/
  backs : List WrE := []
  fetches : List Fetch := []
  ret : List RetE := []
  intRet : List IntRet := []
  /-- The selectors of subchannels A and B, their LFSRs loaded from NBR_SEED's reset value, that of B rotated left by 16
  (R167). -/
  sel : Tab Sel 2 := Vector.ofFn fun x => { lfsr := if x = 0 then 0x00000001#32 else 0x00010000#32 }
  psn : LineRec := {}
  rdue : LineRec := {}
  nAlert : Nat := 0
  nNbr : Nat := 0
  nRfm : Nat := 0
  nReread : Nat := 0
  tideValid : Bool := false
  tideReload : Bool := false
  /-- The tide copy (R180): its value at tide `copyFrom`, in units of 1 over the PLL's multiplier. -/
  copyBase : Nat := 0
  copyFrom : Nat := 0
  skew : Nat := 0
  late : Nat := 0
  /-- PHY_CFG.EN and SCH_CTL.EN forced to 0 (R373). -/
  forceOff : Bool := false
  failed : Bool := false
  /-- WHY of a sever that this step still has to carry out, 0 for none. -/
  failDue : Nat := 0
  /-- The effective SCH_CTL.EN of the last start (R162). -/
  schOn : Bool := false
  /-- The clean mark is to be read and zeroed before any other access (R234). -/
  cmarkDue : Bool := false
  weir : Weir := {}
  scrub : Scrub := {}
  patch : Patch := {}
  ppr : Ppr := {}
  ladder : Ladder := {}
  inj : Inj := {}
  arm : InjArm := {}
  wash : List WashG := []
  /-- Lines that the background wash has written in the current 1,024 DCLK (R299). -/
  washWin : Nat := 0
  washUsed : Nat := 0
  eccDev : Tab Nat 20 := Tab.all 20 0
  eccErs : Tab Nat 2 := Tab.all 2 0
  /-- Device counts that have raised the corrected-device source since they were cleared (R285). -/
  eccTold : Tab Bool 20 := Tab.all 20 false
  phy : Phy := {}
  t0 : Nat := 0
  t1 : Nat := 0
  /-- Slots whose reading reached HOT_C and has not fallen 2 °C below it since (R355). -/
  hot : Tab Bool 2 := Tab.all 2 false
  /-- Hottest reading so far of the poll under way, per slot. -/
  tacc : Tab (Option Nat) 2 := Tab.all 2 none
  i3c : List Xfer := []
  spd0 : Option (List Byte) := none
  spd1 : Option (List Byte) := none
  /-- A PMIC change settles (R311). -/
  settling : Bool := false
  /-- SVC_STAT.PWRST, PREP_STEP, gate tide and drain in progress (R375, R383). -/
  pwrst : Nat := 0
  prepStep : Nat := 0
  gate : Option Nat := none
  drain : Drain := .none
  /-- The channel is prepared from its gate on (R375 step 2). -/
  gated : Bool := false
  /-- Stamp from which requests came after the gate. -/
  wakeDue : Bool := false
  cmark : Cmark := {}
  svc : Svc := {}
  deriving DecidableEq, Repr

/-! ### Span sets -/

/-- A stripe record (R125). -/
structure StripeRec where
  id : Nat
  stripe : Nat
  epoch : Nat
  acc : Line
  full : List Nat
  cls : Cls
  src : Src
  orig : Orig := {}
  /-- Written lines whose channel is absent; their value goes into the parity alone (R126). -/
  gone : List EddyE := []
  bad : Option Bad := none
  /-- A bad parity byte has been found: the stripe is handled as a reconstruct-write (R288 code 9). -/
  rcw : Bool := false
  deriving DecidableEq, Repr

/-- A mark-list entry (R230): pages marked, pages whose mark is acknowledged, unissued stripe lines, EMAX. -/
structure Mark where
  t : Nat
  bits : BitVec 512
  acked : BitVec 512
  count : Nat
  emax : Nat
  /-- Written on the fallback area (R336). -/
  fallback : Bool := false
  clearing : Bool := false
  bad : Option Bad := none
  deriving DecidableEq, Repr

/-- The rebuild engine of a set (R338). -/
structure Rebuild where
  on : Bool := false
  isNew : Bool := false
  /-- The zeroing of step 1 is complete. -/
  walking : Bool := false
  cur : Nat := 0
  /-- The stripe or line at the cursor has begun. -/
  begun : Bool := false
  wait : Nat := 0
  acc : Line := 0
  failed : Bool := false
  /-- The stamp at which the stripe at the cursor began: later accesses to its lines wait (R339). -/
  stamp : Nat := 0
  /-- What the grant at the position rebuilt is to carry as it completes (R17): 1 REBUILDING begins, 2 the set is PROTECTED. -/
  turn : Nat := 0
  deriving DecidableEq, Repr

/-- Where a resweep stands (R236): at a tally line, waiting for its read, at its marked pages, waiting for the data lines of
a stripe, waiting for the tally line's zero. -/
inductive SweepStage where
  | line | tally | pages | stripe | zero
  deriving DecidableEq, Repr

/-- The parity resweep of a set, or the zeroing of its tally lines (R235, R236). -/
structure Sweep where
  on : Bool := false
  /-- TALLY_ZERO: the tally lines are written as zero and nothing else. -/
  zeroing : Bool := false
  stage : SweepStage := .line
  /-- Tally line in hand, counted twice: an even number for its own position, an odd one for the fallback area. -/
  cur : Nat := 0
  /-- Its bits, the page in hand among them, and the stripe of that page. -/
  bits : BitVec 512 := 0
  page : Nat := 0
  sub : Nat := 0
  /-- Data lines of the stripe still out, their exclusive-OR, and that one did not decode. -/
  wait : Nat := 0
  acc : Line := 0
  failed : Bool := false
  /-- Marked pages reswept. -/
  found : Nat := 0
  deriving DecidableEq, Repr

/-- A span set. -/
structure Span where
  recs : List StripeRec := []
  marks : List Mark := []
  markWrites : Nat := 0
  /-- A line waits for a free mark-list entry (TALLY_STAT.FULL). -/
  markFull : Bool := false
  /-- 0 PROTECTED, 1 DEGRADED, 2 REBUILDING, 3 OFFLINE (R333). -/
  st : Nat := 0
  pos : Nat := 0
  /-- `pos` is a lost position: the set has been DEGRADED since it was last PROTECTED. -/
  deg : Bool := false
  /-- Degraded ranks: bits 0 to 3 chip selects of subchannel A, 4 to 7 of B; 0 for the whole position. -/
  ranks : BitVec 8 := 0
  holes : List Nat := []
  reb : Rebuild := {}
  sweep : Sweep := {}
  deriving DecidableEq, Repr

/-! ### Global units -/

/-- The fresh map (R293, R302). -/
structure Fresh where
  bits : ISet := {}
  busy : Bool := false
  refused : Bool := false
  /-- The byte, of 8 granules, whose parity is bad (R288 code 11). -/
  bad : Option (Nat × Bad) := none
  deriving DecidableEq, Repr

/-- A posted slot (R187): its entry, tide value and kind, and for a window or pause its subchannels (bit 0 = A) and the
channels that it was posted to. -/
structure PostedSlot where
  entry : Nat
  at_ : Nat
  kind : Nat
  sub : BitVec 2
  chm : BitVec 20
  deriving DecidableEq, Repr

/-- The cadence scheduler (R183 to R188): next slots, and the slots posted and not yet reached. -/
structure Cadence where
  next : Tab (Option Nat) 8 := Tab.all 8 none
  posted : List PostedSlot := []
  deriving DecidableEq, Repr

/-- The persistence sequencer (R206 to R220). -/
structure Pers where
  cur : Nat := 1
  loc : Nat := 0
  dur : Nat := 0
  /-- The next epoch to become locally complete. -/
  locNext : Nat := 1
  /-- The sluice strobe has taken effect. -/
  strobe : Bool := false
  cause : Nat := 0
  mclosed : Bool := false
  /-- Channels that have completed step 2, that have a clean mark in their write queue or written, and whose ranks are
  all in self-refresh. -/
  drained : BitVec 20 := 0
  marked : BitVec 20 := 0
  inSelf : BitVec 20 := 0
  held : BitVec 20 := 0
  lost : BitVec 20 := 0
  done : Bool := false
  deriving DecidableEq, Repr

/-- Millrace states (R257). -/
inductive MillState where
  | off | handshake | mirrored | frozen | solo | fenced | resyncSrc | resyncTgt
  deriving DecidableEq, Repr

/-- A line in the MO buffer (R248). -/
structure MoLine where
  addr : Nat
  data : Line
  mask : BitVec 64
  epoch : Nat
  rs : Bool := false
  bad : Option Bad := none
  deriving DecidableEq, Repr

/-- A packet: control-word fields and payload (R244). -/
structure Pkt where
  ptype : Nat
  crd : Nat := 0
  pseq : Nat := 0
  rs : Bool := false
  laddr : Nat := 0
  mask : BitVec 64 := 0
  elo : Nat := 0
  data : Line := 0
  deriving DecidableEq, Repr

/-- An MO lane (R242 to R250). -/
structure MoLane where
  pseq : Nat := 0
  crd : Nat := 1024
  /-- Credits to return to the twin. -/
  ret : Nat := 0
  /-- The epoch whose HEADER has been sent, 0 for none yet. -/
  isOpen : Nat := 0
  /-- Its TRAILER has been sent. -/
  shut : Bool := true
  lines : Nat := 0
  digest : Word := 0xFFFFFFFF
  sever : Option Nat := none
  /-- A SEVER has been sent: the lane drives nothing until the next linking (R241). -/
  inert : Bool := false
  rsEnd : Bool := false
  /-- The last HELLO sent on the lane since this side began to greet carried READY (R259). -/
  greeted : Bool := false
  /-- Beats of the current 16, and resync beats among them (R250). -/
  slot : Nat := 0
  /-- Last 8 granule-log appends of the lane (R251). -/
  recent : List (Nat × Nat) := []
  out : Option Pkt := none
  deriving DecidableEq, Repr

/-- The HELLO of the twin (R258). -/
structure Hello where
  release : Nat
  top : Nat
  primacy : Bool
  wmode : Nat
  join : Nat
  ready : Bool
  st : Nat
  peerLast : Nat
  info : Nat
  deriving DecidableEq, Repr

/-- A beat in the MI elastic buffer (R242). -/
structure MiBeat where
  pkt : Pkt
  epoch : Nat
  bad : Option Bad := none
  deriving DecidableEq, Repr

/-- An MI lane (R242, R252). -/
structure MiLane where
  /-- Credits the twin holds. -/
  crd : Nat := 1024
  pseq : Option Nat := none
  broken : Bool := false
  /-- The epoch open on the lane and the last TRAILER's. -/
  isOpen : Option Nat := none
  lastTr : Option Nat := none
  lines : Nat := 0
  digest : Word := 0xFFFFFFFF
  buf : List MiBeat := []
  hello : Option Hello := none
  deriving DecidableEq, Repr

/-- MILL_BRK (R272). -/
structure Brk where
  valid : Bool := false
  lane : Nat := 0
  reason : Nat := 0
  count : Nat := 0
  seq : Nat := 0
  deriving DecidableEq, Repr

/-- A read of the resync engine that has entered the crossbar: its stamp, the first of its lines as ADDR[45:6], and how many
of them have still to come back. -/
structure RsRead where
  id : Nat
  first : Nat
  left : Nat
  deriving DecidableEq, Repr

/-- The resync engine (R268). Lines are named by ADDR[45:6]. -/
structure Resync where
  active : Bool := false
  full : Bool := false
  /-- The granule in hand, and how many of its lines have been asked for. -/
  gran : Option Nat := none
  next : Nat := 0
  reads : List RsRead := []
  /-- Lines whose read has arrived at its channel and whose copy has not been made, and those of them that a newer write
  superseded. -/
  out : ISet := {}
  newer : ISet := {}
  /-- Lines that have come back. -/
  back : List (Nat × Line) := []
  /-- Copies waiting to be sent. -/
  copies : List MoLine := []
  /-- RS_END is due, and the epoch it was sent in. -/
  ended : Option Nat := none
  deriving DecidableEq, Repr

/-- A line admitted from MI and not yet accepted (R254). -/
structure MiFlight where
  id : Nat
  twin : Nat
  epoch : Nat
  deriving DecidableEq, Repr

structure Mill where
  st : MillState := .off
  linked : Bool := false
  moUp : Bool := false
  miUp : Bool := false
  /-- A UNIT reaction holds the effective EN at 0 until the next update of the group (R431, R464), and the tide value at which
  the reaction came: an update due in that cycle does not undo it (R19). -/
  forceOff : Bool := false
  offAt : Nat := 0
  /-- MI_FCLK locked: WICLK runs (R474). -/
  wiclk : Bool := false
  /-- Refused until the link falls and rises, or an action changes the state (R259). -/
  barred : Bool := false
  refuse : Nat := 0
  why : Nat := 0
  driftOk : Bool := false
  driftGot : Nat := 0
  div : Nat := 0
  acked : Nat := 0
  applied : Nat := 0
  peerLast : Nat := 0
  peerInfo : Nat := 0
  mo : Tab MoLane 4 := Tab.all 4 {}
  mi : Tab MiLane 4 := Tab.all 4 {}
  moBuf : List MoLine := []
  /-- Granule log, oldest first: (granule, epoch). -/
  log : List (Nat × Nat) := []
  /-- The log entry that was stored with a bad byte (R288 code 15). -/
  logBad : Option ((Nat × Nat) × Bad) := none
  drift : ISet := {}
  driftBad : Option (Nat × Bad) := none
  /-- Next DRIFT chunk to send (R267). -/
  driftNext : Option Nat := none
  flights : List MiFlight := []
  /-- Twin epoch being applied, and lanes past its TRAILER. -/
  twin : Nat := 0
  trDone : List Nat := []
  /-- ACKs due on lane 0, and the last ACK that became due. -/
  acks : List Nat := []
  ackedTo : Nat := 0
  /-- The last ACK sent (PEER_LAST of R258). -/
  ackSent : Nat := 0
  /-- RS_END received, in this twin epoch (R269). -/
  rsEndAt : Option Nat := none
  lastAck : Nat := 0
  /-- The highest epoch whose TRAILER MO has sent on every lane. -/
  closed : Nat := 0
  /-- The last epoch whose TRAILERs MO has sent since linking (R252 reason 9, R255). -/
  trSent : Nat := 0
  rs : Resync := {}
  /-- WITNESS_REQ of mode 1 (R263). -/
  wreq : Bool := false
  /-- WITNESS_GRANT has been seen low since FROZEN was entered, and its level (R263). -/
  grantLow : Bool := false
  grantPin : Bool := false
  /-- Credit withhold of R256. -/
  withhold : Bool := false
  /-- MI raises flood (R68, R69, R243). -/
  flood : Bool := false
  brk : Brk := {}
  deriving DecidableEq, Repr

/-- A page-retire entry (R319): ADDR[45:12], channel, cause. -/
structure RetireE where
  page : Nat
  ch : ChanId
  cause : Nat
  deriving DecidableEq, Repr

structure Retire where
  list : List RetireE := []
  dropped : Nat := 0
  deriving DecidableEq, Repr

/-- The fault collector (R426 to R438). -/
structure Fcol where
  fstat : BitVec 576 := 0
  fseq : Tab Nat 18 := Tab.all 18 0
  /-- Fault lines asserted and not yet latched. -/
  lines : List Nat := []
  safe : Bool := false
  ehold : Bool := false
  corePend : Bool := false
  self : Bool := false
  cause : Nat := 1023
  /-- CRC over FREACT taken by the last commit (R437). -/
  ref : Word := 0
  deriving DecidableEq, Repr

/-- An event record (R440). -/
structure EvRec where
  rseq : Nat
  hours : Nat
  pcyc : Nat
  tide : Nat
  source : Nat
  type : Nat
  cls : Nat
  lostBefore : Bool
  detail : BitVec 64
  deriving DecidableEq, Repr

/-- The event recorder (R439 to R447). -/
structure Evr where
  buf : List (EvRec × Option Bad) := []
  made : Nat := 0
  hours : Nat := 0
  pcyc : Nat := 0
  lost : Nat := 0
  lostBefore : Bool := false
  /-- A counter entry waits for the warn decision to fall (R225, R443). -/
  ctrDue : Bool := false
  chal : Option (List Byte) := none
  busy : Bool := false
  valid : Bool := false
  rcd : BitVec 256 := 0
  deriving DecidableEq, Repr

/-- Why a keepsake program was started (R326). -/
inductive KsFor where
  | patch       -- step 6 of R322
  | pprBegin    -- step 2 of R329
  | pprEnd      -- step 8 of R329
  | prepare     -- step 7 of R375
  | free        -- the freeing of entries
  deriving DecidableEq, Repr

/-- A keepsake program waiting or running. -/
structure KsOp where
  ch : ChanId
  use : KsFor
  /-- The first attempt failed its read-back. -/
  retried : Bool := false
  deriving DecidableEq, Repr

/-- A firmware image store in progress (R414). -/
structure Store where
  total : Nat
  erased : Bool
  deriving DecidableEq, Repr

/-- A 16-byte entry of the counter area (R443). -/
structure CtrEntry where
  hours : Nat
  pcyc : Nat
  /-- The next RSEQ. -/
  next : Nat
  /-- CRC-32C over the 12 bytes before it, as programmed. -/
  crc : Word
  deriving DecidableEq, Repr

/-- The counter area at 0x6000 (R439): two 4 KiB sectors that take turns, their entries in the order written. -/
structure CtrArea where
  even : List CtrEntry := []
  odd : List CtrEntry := []
  /-- The sector at 0x7000 is the one written last. -/
  inOdd : Bool := false
  deriving DecidableEq, Repr

/-- The image descriptor at 0x38000 (R325). -/
structure ImgDesc where
  magic : Nat
  total : Nat
  /-- Bytes 8 to 11: the SVN and zeros. -/
  svn : Nat
  /-- CRC-32C over bytes 0 to 11, as programmed. -/
  crc : Word
  deriving DecidableEq, Repr

/-- The keepsake flash (R325). -/
structure Flash where
  kf : List EvRec := []
  circ : List EvRec := []
  counter : CtrArea := {}
  ks : Tab (Option KsRec × Option KsRec) 20 := Tab.all 20 (none, none)
  ksQ : List KsOp := []
  /-- The image descriptor; none: its sector is erased. -/
  desc : Option ImgDesc := none
  /-- The image area at 0x100000, as far as it is programmed. -/
  img : List Byte := []
  store : Option Store := none
  /-- A page program was under way as the warn decision rose, and has not completed (R225). DESIGN CHOICE: of several
  programs that waited then, the first to complete is the one under way (log entry 64). -/
  under : Bool := false
  /-- The flash has raised its fault line (source 556, R423): the next of its operations whose row does not say how it went
  fails (log entry 67). -/
  failed : Bool := false
  deriving DecidableEq, Repr

/-- Phases of the core's supply and reset (R382, R387, R394, R482). -/
inductive Phase where
  | off
  | bring (row : Nat)
  | on
  | commit      -- entry-commit window of SLUMBER
  | slumber
  | held        -- core reset held by CORE_RST_N
  deriving DecidableEq, Repr

/-- WAKE_CAUSE (R396). -/
structure WakeCause where
  wake : Bool := false
  por : Bool := true
  fail : Bool := false
  rule : Nat := 0
  cls : Nat := 0
  ch : Nat := 0
  seq : Nat := 0
  deriving DecidableEq, Repr

/-- The standby monitor (R223 to R227, R367 to R395). -/
structure Sbm where
  warn : Bool := false
  crit : Bool := false
  warnPin : Bool := true
  critPin : Bool := true
  pfPin : Bool := true
  droop : BitVec 6 := 0
  warnCount : Nat := 0
  /-- Debounced button values, 1 while pressed. A rise has no row and no effect (R367, R368), so that the fall of a press that the
  sender reports follows one. -/
  btn : BitVec 20 := 0
  press : BitVec 20 := 0
  pressSeq : Nat := 0
  pchg : BitVec 20 := 0
  pchgSeq : Nat := 0
  alarm : Bool := false
  eval : Bool := false
  wakeCause : WakeCause := {}
  powerReq : Bool := false
  corePg : Bool := false
  /-- PCYC is still to rise for this always-on power-up (R443). -/
  pcycDue : Bool := true
  /-- CORE_RST_N is low; its core reset waits for a running sluice (R482). -/
  rstLow : Bool := false
  rstPend : Bool := false
  /-- WAKE_N pins seen low in the commit window (R388). -/
  wakeLow : BitVec 2 := 0
  /-- Per channel, the last SLUMBER poll (R389): none yet, a failure, or a temperature. -/
  lastPoll : Tab (Option (Option Nat)) 20 := Tab.all 20 none
  deriving DecidableEq, Repr

/-- OTP contents (R403, R446): an all-zero hash is unprogrammed. -/
structure Otp where
  hash0 : BitVec 384 := 0
  hash1 : BitVec 384 := 0
  revoke0 : Bool := false
  revoke1 : Bool := false
  minSvn : Nat := 0
  evrKey : Option (List Byte) := none
  deriving DecidableEq, Repr

/-- A job slot (R416): state 0 FREE, 1 RUNNING, 2 DONE, 3 FAILED, 4 CANCELLED, 5 ABANDONED. -/
structure Job where
  st : Nat := 0
  opc : Nat := 0
  target : Nat := 0
  err : Nat := 0
  prog : Nat := 0
  cseq : Nat := 0
  mask : BitVec 20 := 0
  ok : BitVec 20 := 0
  bad : BitVec 20 := 0
  aux : BitVec 20 := 0
  res : List Word := []
  /-- The engine has finished: the ERR it ends with, 0 for success. -/
  fin : Option Nat := none
  /-- PMIC_ENABLE: power-good of the module in hand, and its polls so far (R419). -/
  flag : Bool := false
  polls : Nat := 0
  /-- Modules still to enable (PMIC_ENABLE, R419). -/
  todo : List (ChanId × Nat) := []
  /-- The line of PATCH_INSTALL, LADDER_TAKE or PPR. -/
  line : Nat := 0
  /-- JOB_CANCEL has been taken: the job ends CANCELLED (R417). -/
  cancel : Bool := false
  deriving DecidableEq, Repr

/-- The boot state machine (R399, R404, R413). -/
structure Boot where
  ready : Bool := false
  st : Nat := 0
  err : Nat := 0
  src : Bool := false
  keySlot : Bool := false
  svn : Nat := 0
  total : Nat := 0
  /-- Image bytes received. -/
  image : List Byte := []
  deriving DecidableEq, Repr

/-- A packet being carried out whose reply is still to come (kind S† of R413). -/
structure Cur where
  opc : Nat
  seq : Nat
  params : List Word
  ch : ChanId
  mask : BitVec 20 := 0
  ok : BitVec 20 := 0
  bad : BitVec 20 := 0
  refused : BitVec 20 := 0
  /-- Its DRAM or I3C access has begun. -/
  begun : Bool := false
  /-- Subchannels whose command of an MR_WRITE has issued already (R310). -/
  mrDone : BitVec 2 := 0
  data : List Byte := []
  deriving DecidableEq, Repr

/-- The command processor, Nuinun and the boot state machine (R398 to R418). -/
structure Cmp where
  rpl : Cells := {}
  ci : Nat := 0
  ovf : Bool := false
  seqSet : Bool := false
  lseq : Nat := 0
  cur : Option Cur := none
  jobs : Tab Job 8 := Tab.all 8 {}
  boot : Boot := {}
  nuRun : Bool := false
  nuHalt : Bool := false
  /-- Halted by a reaction or a bad byte, and so held in reset until a core reset (R398, R431). -/
  nuHeld : Bool := false
  nuEntry : Nat := 0
  nuBad : Option Bad := none
  /-- Nuinun's instruction and data memories, as far as they are loaded; what lies behind is zero (R397, R401). -/
  imem : List Byte := []
  dmem : List Byte := []
  deriving DecidableEq, Repr

/-- A held shadow write, and the tide value after which it lands (R462). -/
structure HeldWrite where
  key : Nat
  val : Word
  until_ : Nat
  deriving DecidableEq, Repr

/-- A posted update: its groups and its tide value (R461, R199). -/
structure Posting where
  groups : Word
  at_ : Nat
  armed : Bool := false
  deriving DecidableEq, Repr

/-- Register files and the register interface (R9, R448 to R472). -/
structure Regs where
  prog : Cells := {}
  live : Cells := {}
  held : List HeldWrite := []
  posted : List Posting := []
  /-- The postings that took effect in this CCLK: R462 holds writes until the CCLK after. -/
  lately : List Posting := []
  cinch : BitVec 6 := 0
  indErr : Nat := 0
  atPend : Bool := false
  atPosted : Bool := false
  atDone : Bool := false
  atLate : Bool := false
  atSeq : Nat := 0
  stRef : Word := 0
  stArmed : Bool := false
  stPend : Bool := false
  stMism : Bool := false
  stAuto : Nat := 0
  stSweeps : Nat := 0
  snapItem : Nat := 0
  snapValid : Bool := false
  snapErr : Bool := false
  snapBusy : Bool := false
  snapLo : Word := 0
  snapHi : Word := 0
  cpData : Word := 0
  cpErr : Bool := false
  deriving DecidableEq, Repr

/-- The whole core. -/
structure State where
  /-- Commands waiting, first in, first out. -/
  pending : List Instr
  phase : Phase
  tide : Nat
  /-- The model's own stamps: arrival and admission order (log entry 17). -/
  nextId : Nat
  /-- The model's own counter that free values are applied to (log entry 8). -/
  freeIx : Nat
  regs : Regs
  ports : Tab Port 24
  xbar : Xbar
  forms : List Form
  recons : List Recon
  chans : Tab Chan 20
  spans : Tab Span 4
  fresh : Fresh
  garm : InjArm
  cad : Cadence
  pers : Pers
  mill : Mill
  retire : Retire
  fcol : Fcol
  evr : Evr
  flash : Flash
  sbm : Sbm
  otp : Otp
  cmp : Cmp
  deriving DecidableEq, Repr

/-- The core as the always-on supply has come up: core reset holds, row 1 of the bring-back table runs (R394,
R397), and every register is at the reset value its table gives (log entries 10, 15, 16). -/
def State.reset : State where
  pending := []
  phase := .bring 1
  tide := 0
  nextId := 1
  freeIx := 0
  regs := {}
  ports := Tab.all 24 {}
  xbar := {}
  forms := []
  recons := []
  chans := Tab.all 20 {}
  spans := Tab.all 4 {}
  fresh := {}
  garm := {}
  cad := {}
  pers := {}
  mill := {}
  retire := {}
  fcol := {}
  evr := {}
  flash := {}
  sbm := {}
  otp := {}
  cmp := {}

end Sys2Proof.Machine
end

