-- ==== Sys2Proof/Machine/Bits.lean ====
section
/-! DEFINITION. Bit fields, saturating counts, byte strings, CRC-32C (R5), and the sparse tables of the state
(`Cells`, `ISet`). -/

namespace Sys2Proof.Machine

/-- Bits [hi:lo] of `w` as a number (R6). -/
def field {n : Nat} (w : BitVec n) (hi lo : Nat) : Nat := (w.toNat >>> lo) % 2 ^ (hi + 1 - lo)

/-- Bit `i` of `w`. -/
def flag {n : Nat} (w : BitVec n) (i : Nat) : Bool := w.getLsbD i

/-- The mask of bits [hi:lo]. -/
def maskBits (hi lo : Nat) : Word := BitVec.ofNat 32 ((2 ^ (hi + 1 - lo) - 1) <<< lo)

/-- `v` placed at bit `lo` in a field of `n` bits. -/
def place (v n lo : Nat) : Nat := (v % 2 ^ n) <<< lo

/-- A Boolean as one bit at `lo`. -/
def placeB (b : Bool) (lo : Nat) : Nat := if b then 2 ^ lo else 0

/-- A count that saturates at `cap`. -/
def satAdd (cap a b : Nat) : Nat := min cap (a + b)

/-- SEQ advances by one, modulo 16 (R457). -/
def nextSeq (q : Nat) : Nat := (q + 1) % 16

/-- The `n` bytes of `x`, byte 0 first. -/
def bytesOfNat (x n : Nat) : List Byte := (List.range n).map fun i => BitVec.ofNat 8 (x >>> (8 * i))

/-- The bytes of a word, byte 0 first (R466). -/
def wordBytes (w : Word) : List Byte := bytesOfNat w.toNat 4

/-- A byte string as a number, byte 0 lowest. -/
def natOfBytes : List Byte → Nat
  | [] => 0
  | b :: bs => b.toNat + 256 * natOfBytes bs

/-- Bits of `mask` that are set in `x` become those of `y`. -/
def blend (mask x y : Word) : Word := (x &&& ~~~mask) ||| (y &&& mask)

/-! ### CRC-32C (R5) -/

/-- One bit of the reflected CRC-32C: the reflection of polynomial 0x1EDC_6F41 is 0x82F6_3B78. -/
def crcBit (c : Word) : Word := if c.getLsbD 0 then (c >>> 1) ^^^ 0x82F63B78 else c >>> 1

/-- One byte into a running CRC. -/
def crcByte (c : Word) (b : Byte) : Word :=
  crcBit (crcBit (crcBit (crcBit (crcBit (crcBit (crcBit (crcBit (c ^^^ b.setWidth 32))))))))

/-- A byte string into a running CRC, before the final XOR. -/
def crcRun (c : Word) (bs : List Byte) : Word := bs.foldl crcByte c

/-- CRC-32C of a byte string: initial value and final XOR all ones. -/
def crc32c (bs : List Byte) : Word := crcRun 0xFFFFFFFF bs ^^^ 0xFFFFFFFF

/-! ### Sparse word tables -/

/-- The word stored at `a`, if one is listed. -/
def Cells.findIn : List (Nat × Word) → Nat → Option Word
  | [], _ => none
  | (k, v) :: l, a => if k = a then some v else Cells.findIn l a

/-- The list with `a` set to `v`, kept rising; a value equal to `dflt` removes the cell. -/
def Cells.setIn (dflt : Word) : List (Nat × Word) → Nat → Word → List (Nat × Word)
  | [], a, v => if v = dflt then [] else [(a, v)]
  | (k, w) :: l, a, v =>
    if a < k then (if v = dflt then (k, w) :: l else (a, v) :: (k, w) :: l)
    else if a = k then (if v = dflt then l else (a, v) :: l)
    else (k, w) :: Cells.setIn dflt l a v

/-- Every address at or above `lo`, rising, and no listed word equal to its default. -/
def Cells.wfFrom (dflt : Nat → Word) : Nat → List (Nat × Word) → Bool
  | _, [] => true
  | lo, (k, v) :: l => decide (lo ≤ k) && decide (v ≠ dflt k) && Cells.wfFrom dflt (k + 1) l

/-- The canonical form of a table whose unlisted word at `a` is `dflt a`. -/
def Cells.wf (dflt : Nat → Word) (c : Cells) : Bool := Cells.wfFrom dflt 0 c.list

/-- The word at `a`. -/
def Cells.get (dflt : Nat → Word) (c : Cells) (a : Nat) : Word := (Cells.findIn c.list a).getD (dflt a)

/-- The table with `a` set to `v`. -/
def Cells.set (dflt : Nat → Word) (c : Cells) (a : Nat) (v : Word) : Cells := ⟨Cells.setIn (dflt a) c.list a v⟩

/-- The cells that satisfy `p` alone; the others go back to their defaults. -/
def Cells.keep (p : Nat → Bool) (c : Cells) : Cells := ⟨c.list.filter fun x => p x.1⟩

/-! ### Sets of ranges -/

/-- Whether `x` is in a set. -/
def ISet.mem (t : ISet) (x : Nat) : Bool := t.ranges.any fun r => decide (r.1 ≤ x) && decide (x < r.2)

/-- `l` without [a, b). -/
def ISet.cut (a b : Nat) : List (Nat × Nat) → List (Nat × Nat)
  | [] => []
  | (x, y) :: l =>
    let low := if x < min y a then [(x, min y a)] else []
    let high := if max x b < y then [(max x b, y)] else []
    low ++ high ++ ISet.cut a b l

/-- `l` with [a, b) put in, when it meets none of `l`. -/
def ISet.put (a b : Nat) : List (Nat × Nat) → List (Nat × Nat)
  | [] => [(a, b)]
  | (x, y) :: l => if b ≤ x then (a, b) :: (x, y) :: l else (x, y) :: ISet.put a b l

/-- Neighbouring ranges joined. -/
def ISet.join : List (Nat × Nat) → List (Nat × Nat)
  | [] => []
  | (x, y) :: l =>
    match ISet.join l with
    | [] => [(x, y)]
    | (u, v) :: l' => if y = u then (x, v) :: l' else (x, y) :: (u, v) :: l'

/-- The set with [a, b) added. -/
def ISet.add (t : ISet) (a b : Nat) : ISet :=
  if a < b then ⟨ISet.join (ISet.put a b (ISet.cut a b t.ranges))⟩ else t

/-- The set with [a, b) removed. -/
def ISet.del (t : ISet) (a b : Nat) : ISet := if a < b then ⟨ISet.cut a b t.ranges⟩ else t

/-- How many members it has. -/
def ISet.size (t : ISet) : Nat := (t.ranges.map fun r => r.2 - r.1).sum

/-- Its lowest member. -/
def ISet.min? (t : ISet) : Option Nat := t.ranges.head?.map (·.1)

/-- The lowest member at or above `x`. -/
def ISet.next (t : ISet) (x : Nat) : Option Nat :=
  (t.ranges.find? fun r => decide (x < r.2)).map fun r => max x r.1

end Sys2Proof.Machine
end

