-- ==== Sys2Proof/Machine/Crypto.lean ====
section
/-! DEFINITION. SHA-256, SHA-384, HMAC-SHA-256 and the verification of ECDSA P-384 signatures, the standards that R5 names for
firmware images (R402) and for clearing the event recorder (R446). -/

namespace Sys2Proof.Machine

/-! ### Words of 32 or 64 bits as numbers -/

/-- What tells SHA-256 from the hashes with 64-bit words: the word's width, its rounds, and the amounts by which the functions
Σ0, Σ1, σ0 and σ1 rotate (the last amount of a σ shifts). -/
structure ShaKind where
  width : Nat
  rounds : Nat
  big0 : Nat × Nat × Nat
  big1 : Nat × Nat × Nat
  small0 : Nat × Nat × Nat
  small1 : Nat × Nat × Nat
  deriving DecidableEq, Repr

def sha32 : ShaKind :=
  { width := 32, rounds := 64, big0 := (2, 13, 22), big1 := (6, 11, 25), small0 := (7, 18, 3), small1 := (17, 19, 10) }
def sha64 : ShaKind :=
  { width := 64, rounds := 80, big0 := (28, 34, 39), big1 := (14, 18, 41), small0 := (1, 8, 7), small1 := (19, 61, 6) }

/-- A sum that wraps at the word's width. -/
def ShaKind.wrap (k : ShaKind) (x : Nat) : Nat := x % 2 ^ k.width

/-- Rotation to the right. -/
def ShaKind.rot (k : ShaKind) (x n : Nat) : Nat := (x >>> n) ||| k.wrap (x <<< (k.width - n))

def ShaKind.bigSum (k : ShaKind) (r : Nat × Nat × Nat) (x : Nat) : Nat := k.rot x r.1 ^^^ k.rot x r.2.1 ^^^ k.rot x r.2.2
def ShaKind.smallSum (k : ShaKind) (r : Nat × Nat × Nat) (x : Nat) : Nat := k.rot x r.1 ^^^ k.rot x r.2.1 ^^^ (x >>> r.2.2)

/-! ### Constants -/

/-- The first 64 bits of the fractional parts of the cube roots of the first 80 primes, four to a number with the first one
lowest; SHA-256 takes the first 32 bits of each. -/
def cubeRoots : List Nat :=
  [0xe9b5dba58189dbbcb5c0fbcfec4d3b2f7137449123ef65cd428a2f98d728ae22,
   0xab1c5ed5da6d8118923f82a4af194f9b59f111f1b605d0193956c25bf348b538,
   0x550c7dc3d5ffb4e2243185be4ee4b28c12835b0145706fbed807aa98a3030242,
   0xc19bf174cf6926949bdc06a725c7123580deb1fe3b1696b172be5d74f27b896f,
   0x240ca1cc77ac9c650fc19dc68b8cd5b5efbe4786384f25e3e49b69c19ef14ad2,
   0x76f988da831153b55cb0a9dcbd41fbd44a7484aa6ea6e4832de92c6f592b0275,
   0xbf597fc7beef0ee4b00327c898fb213fa831c66d2db43210983e5152ee66dfab,
   0x142929670a0e6e7006ca6351e003826fd5a79147930aa725c6e00bf33da88fc2,
   0x53380d139d95b3df4d2c6dfc5ac42aed2e1b21385c26c92627b70a8546d22ffc,
   0x92722c851482353b81c2c92e47edaee6766a0abb3c77b2a8650a73548baf63de,
   0xc76c51a30654be30c24b8b70d0f89791a81a664bbc423001a2bfe8a14cf10364,
   0x106aa07032bbd1b8f40e35855771202ad69906245565a910d192e819d6ef5218,
   0x34b0bcb5e19b48a82748774cdf8eeb991e376c085141ab5319a4c116b8d2d0c8,
   0x682e6ff3d6b2b8a35b9cca4f7763e3734ed8aa4ae3418acb391c0cb3c5c95a63,
   0x8cc702081a6439ec84c87814a1f0ab7278a5636f43172f60748f82ee5defb2fc,
   0xc67178f2e372532bbef9a3f7b2c67915a4506cebde82bde990befffa23631e28,
   0xf57d4f7fee6ed178eada7dd6cde0eb1ed186b8c721c0c207ca273eceea26619c,
   0x1b710b35131c471b113f9804bef90dae0a637dc5a2c898a606f067aa72176fba,
   0x431d67c49c100d4c3c9ebe0a15c9bebc32caab7b40c7249328db77f523047d84,
   0x6c44198c4a4758175fcb6fab3ad6faec597f299cfc657e2a4cc5d4becb3e42b6]

/-- The same of the square roots of the first 16 primes. -/
def squareRoots : List Nat :=
  [0xa54ff53a5f1d36f13c6ef372fe94f82bbb67ae8584caa73b6a09e667f3bcc908,
   0x5be0cd19137e21791f83d9abfb41bd6b9b05688c2b3e6c1f510e527fade682d1,
   0x152fecd8f70e59399159015a3070dd17629a292a367cd507cbbb9d5dc1059ed8,
   0x47b5481dbefa4fa4db0c2e0d64f98fa78eb44a876858151167332667ffc00b31]

/-- Entry `i` of such a table. -/
def fourPacked (t : List Nat) (i : Nat) : Nat := (t.getD (i / 4) 0 >>> (64 * (i % 4))) % 2 ^ 64

/-- A constant's leading bits, as the word's width has them. -/
def ShaKind.top (k : ShaKind) (x : Nat) : Nat := x >>> (64 - k.width)

/-! ### Hashing -/

/-- The eight working words. -/
structure ShaState where
  a : Nat
  b : Nat
  c : Nat
  d : Nat
  e : Nat
  f : Nat
  g : Nat
  h : Nat
  deriving DecidableEq, Repr

/-- Initial value: entries `i` to `i + 7` of the square roots. -/
def ShaKind.start (k : ShaKind) (i : Nat) : ShaState :=
  let v := fun (j : Nat) => k.top (fourPacked squareRoots (i + j))
  ⟨v 0, v 1, v 2, v 3, v 4, v 5, v 6, v 7⟩

/-- One round with schedule word `w` and constant `c`. -/
def ShaKind.round (k : ShaKind) (s : ShaState) (w c : Nat) : ShaState :=
  let ch := (s.e &&& s.f) ^^^ ((2 ^ k.width - 1 - s.e) &&& s.g)
  let maj := (s.a &&& s.b) ^^^ (s.a &&& s.c) ^^^ (s.b &&& s.c)
  let t1 := s.h + k.bigSum k.big1 s.e + ch + c + w
  ⟨k.wrap (t1 + k.bigSum k.big0 s.a + maj), s.a, s.b, s.c, k.wrap (s.d + t1), s.e, s.f, s.g⟩

/-- The schedule's next word, from the sixteen before it (oldest first). -/
def ShaKind.nextWord (k : ShaKind) (ws : List Nat) : Nat :=
  k.wrap (k.smallSum k.small1 (ws.getD 14 0) + ws.getD 9 0 + k.smallSum k.small0 (ws.getD 1 0) + ws.getD 0 0)

/-- The rounds from number `i` on, with the sixteen schedule words from there. -/
def ShaKind.go (k : ShaKind) : Nat → Nat → List Nat → ShaState → ShaState
  | 0, _, _, s => s
  | n + 1, i, ws, s =>
    ShaKind.go k n (i + 1) (ws.tail ++ [k.nextWord ws]) (k.round s (ws.getD 0 0) (k.top (fourPacked cubeRoots i)))

/-- One block into the hash value. -/
def ShaKind.block (k : ShaKind) (s : ShaState) (ws : List Nat) : ShaState :=
  let r := ShaKind.go k k.rounds 0 ws s
  ⟨k.wrap (s.a + r.a), k.wrap (s.b + r.b), k.wrap (s.c + r.c), k.wrap (s.d + r.d), k.wrap (s.e + r.e), k.wrap (s.f + r.f),
   k.wrap (s.g + r.g), k.wrap (s.h + r.h)⟩

/-- A byte string as a number, most significant byte first. -/
def natBE (bs : List Byte) : Nat := bs.foldl (fun n b => 256 * n + b.toNat) 0

/-- The `n` bytes of a number, most significant first. -/
def bytesBE (x n : Nat) : List Byte := (bytesOfNat x n).reverse

/-- A message padded to whole blocks: a one bit, zeros, and its length in bits in the last two words. -/
def ShaKind.pad (k : ShaKind) (m : List Byte) : List Byte :=
  let b := 2 * k.width
  let tail := k.width / 4
  let zeros := (b - (m.length + 1 + tail) % b) % b
  m ++ [0x80] ++ List.replicate zeros 0 ++ bytesBE (8 * m.length) tail

/-- The words of `n` bytes' worth of message. -/
def ShaKind.words (k : ShaKind) (m : List Byte) : List Nat :=
  (List.range 16).map fun i => natBE ((m.drop (k.width / 8 * i)).take (k.width / 8))

/-- All blocks of a padded message. -/
def ShaKind.blocks (k : ShaKind) : Nat → List Byte → ShaState → ShaState
  | 0, _, s => s
  | n + 1, m, s => ShaKind.blocks k n (m.drop (2 * k.width)) (k.block s (k.words m))

/-- The hash value of a message as its words, first to last. -/
def ShaKind.hash (k : ShaKind) (start : Nat) (m : List Byte) : List Nat :=
  let p := k.pad m
  let s := ShaKind.blocks k (p.length / (2 * k.width)) p (k.start start)
  [s.a, s.b, s.c, s.d, s.e, s.f, s.g, s.h]

/-- SHA-256. -/
def sha256 (m : List Byte) : List Byte := ((sha32.hash 0 m).map fun w => bytesBE w 4).flatten

/-- SHA-384: the first six words under the second eight square roots. -/
def sha384 (m : List Byte) : List Byte := (((sha64.hash 8 m).take 6).map fun w => bytesBE w 8).flatten

/-- A SHA-384 value as a number whose lowest byte is the value's first. -/
def hash384 (m : List Byte) : BitVec 384 := BitVec.ofNat 384 (natOfBytes (sha384 m))

/-- HMAC-SHA-256 under a key of at most 64 bytes (R446). -/
def hmacSha256 (key m : List Byte) : List Byte :=
  let padded := fun (x : Byte) => (key ++ List.replicate (64 - key.length) 0).map (· ^^^ x)
  sha256 (padded 0x5C ++ sha256 (padded 0x36 ++ m))

/-! ### ECDSA P-384 -/

/-- The field's prime, the group's order, and the curve's coefficient b; its coefficient a is -3. -/
def p384 : Nat := 2 ^ 384 - 2 ^ 128 - 2 ^ 96 + 2 ^ 32 - 1
def order384 : Nat :=
  0xffffffffffffffffffffffffffffffffffffffffffffffffc7634d81f4372ddf581a0db248b0a77aecec196accc52973
def coeffB : Nat :=
  0xb3312fa7e23ee7e4988e056be3f82d19181d9c6efe8141120314088f5013875ac656398d8a2ed19d2a85c8edd3ec2aef

/-- A point in Jacobian coordinates, its affine coordinates being x / z² and y / z³; z = 0 is the point at infinity. -/
structure Jac where
  x : Nat
  y : Nat
  z : Nat
  deriving DecidableEq, Repr

/-- The base point. -/
def base384 : Jac :=
  { x := 0xaa87ca22be8b05378eb1c71ef320ad746e1d3b628ba79b9859f741e082542a385502f25dbf55296c3a545e3872760ab7
    y := 0x3617de4a96262c6f5d9e98bf9292dc29f8f41dbd289a147ce9da3113b5f0b8c00a60b1ce1d7e819d7a431d7c90ea0e5f
    z := 1 }

def mulP (a b : Nat) : Nat := a * b % p384
def subP (a b : Nat) : Nat := (a + p384 - b) % p384

/-- Twice a point (a = -3). -/
def Jac.double (q : Jac) : Jac :=
  let z2 := mulP q.z q.z
  let y2 := mulP q.y q.y
  let s := mulP 4 (mulP q.x y2)
  let m := mulP 3 (mulP (subP q.x z2) ((q.x + z2) % p384))
  let x := subP (mulP m m) (mulP 2 s)
  ⟨x, subP (mulP m (subP s x)) (mulP 8 (mulP y2 y2)), mulP 2 (mulP q.y q.z)⟩

/-- The sum of two points. -/
def Jac.add (q r : Jac) : Jac :=
  if q.z = 0 then r
  else if r.z = 0 then q
  else
    let qz2 := mulP q.z q.z
    let rz2 := mulP r.z r.z
    let u := mulP q.x rz2
    let h := subP (mulP r.x qz2) u
    let v := mulP q.y (mulP rz2 r.z)
    let t := subP (mulP r.y (mulP qz2 q.z)) v
    if h = 0 then (if t = 0 then q.double else ⟨1, 1, 0⟩)
    else
      let h2 := mulP h h
      let h3 := mulP h2 h
      let uh := mulP u h2
      let x := subP (subP (mulP t t) h3) (mulP 2 uh)
      ⟨x, subP (mulP t (subP uh x)) (mulP v h3), mulP h (mulP q.z r.z)⟩

/-- `a · G + b · q`, over the low `n` bits of the two factors, the highest first. -/
def twoTimes (q gq : Jac) (a b : Nat) : Nat → Jac → Jac
  | 0, acc => acc
  | n + 1, acc =>
    let d := acc.double
    let next := match a.testBit n, b.testBit n with
      | false, false => d
      | true, false => d.add base384
      | false, true => d.add q
      | true, true => d.add gq
    twoTimes q gq a b n next

/-- `x` to the power whose low `n` bits are those of `e`, modulo the group's order. -/
def powN (x e : Nat) : Nat → Nat → Nat
  | 0, acc => acc
  | n + 1, acc =>
    let sq := acc * acc % order384
    powN x e n (if e.testBit n then sq * x % order384 else sq)

/-- The inverse modulo the group's order, which is prime. -/
def invN (x : Nat) : Nat := powN x (order384 - 2) 384 1

/-- The coordinates are a point of the curve. -/
def onCurve (x y : Nat) : Bool :=
  decide (x < p384) && decide (y < p384) && (y * y + 3 * x) % p384 == (x * x * x + coeffB) % p384

/-- A signature (r, s, 48 bytes each) verifies under the public key (X, Y, 48 bytes each) for a digest; every number stands
most significant byte first (R401, R402). -/
def ecdsaVerify (key digest sig : List Byte) : Bool :=
  let num := fun (bs : List Byte) (i : Nat) => natBE ((bs.drop (48 * i)).take 48)
  let r := num sig 0
  let s := num sig 1
  let q : Jac := ⟨num key 0, num key 1, 1⟩
  let w := invN s
  let sum := twoTimes q (base384.add q) (natBE digest * w % order384) (r * w % order384) 384 ⟨1, 1, 0⟩
  let z2 := mulP sum.z sum.z
  onCurve q.x q.y && decide (1 ≤ r) && decide (r < order384) && decide (1 ≤ s) && decide (s < order384) && sum.z != 0
    && (mulP r z2 == sum.x || (decide (r + order384 < p384) && mulP (r + order384) z2 == sum.x))

end Sys2Proof.Machine
end

