-- ==== Sys2Proof/Machine/RegMap.lean ====
section
/-! DEFINITION. The register map: addresses (R452, R456), field types and reset values (each block's table), update
groups (R460), cinch bits (R458), stitch coverage (R465), and the fault-source table (R423 to R425).

A register's key is its address CP_ADDR[21:0] for a global register, and 0x10_0000 + 0x1000 n + offset for a
register of channel agent n. -/

namespace Sys2Proof.Machine

/-! ### Fault sources (R423 to R425) -/

/-- Source k of channel n (R423). -/
def chanSrc (n : ChanId) (k : Nat) : Nat := 24 * n.val + k

/-- Class of source k of a channel, 0 = A to 4 = E (R424). -/
def chanClass (k : Nat) : Nat :=
  match k with
  | 4 | 7 | 13 | 15 => 0
  | 5 | 19 | 21 | 22 | 23 => 2
  | _ => 1

/-- Class of a source, 0 = A to 4 = E, 7 for the reserved sources (R424, R425). -/
def srcClass (s : Nat) : Nat :=
  if s < 480 then chanClass (s % 24)
  else if s < 530 then 1
  else match s with
    | 530 | 538 | 539 | 544 => 2
    | 537 | 541 | 545 | 549 | 550 | 557 | 559 | 561 | 562 | 566 => 0
    | 548 | 553 => 4
    | 551 | 552 | 554 | 555 | 560 | 563 | 564 | 575 => 3
    | 568 | 569 | 570 | 571 | 572 | 573 | 574 => 7
    | _ => 1

/-- Reset value of the reaction field of a source (R429). -/
def reactReset (s : Nat) : Nat :=
  match srcClass s with
  | 0 => 0x40
  | 1 => 0x41
  | 7 => 0
  | _ => 0x46

/-! ### The map -/

/-- What a register's bits are: read-write, shadowed, cinch-guarded and write-only bits (R9), the reset word, the
update groups (R460), the cinch bit and the bits it guards (R458), and the bits the stitch check covers (R465). -/
structure RegInfo where
  rw : Word := 0
  rws : Word := 0
  rwc : Word := 0
  wo : Word := 0
  reset : Word := 0
  groups : List Nat := []
  cinch : Option Nat := none
  guard : Word := 0
  cover : Word := 0
  deriving DecidableEq, Repr

/-- An RWS register of update groups `gs`: every RWS field is covered by the stitch check (R465). -/
def rwsReg (mask reset : Word) (gs : List Nat) : RegInfo :=
  { rws := mask, reset := reset, groups := gs, cover := mask }

/-- Key of the register at `off` of channel agent `n`. -/
def agentKey (n off : Nat) : Nat := 0x100000 + 0x1000 * n + off

/-- Key of the register at `off` of the block of host port `p` (R452). -/
def portKey (p off : Nat) : Nat := 0x10000 + 0x1000 * p + off

/-- Registers of a host-port block (R452, R79, R82, R95). -/
def portInfo (g off : Nat) : RegInfo :=
  if off < 0x100 then
    let m : Word := if off % 8 = 0 then 0xFFFFF00F else 0x007FFFFF
    { rwsReg m 0 [g] with cinch := some 1, guard := m }
  else match off with
    | 0x100 => { rwsReg 1 0 [g] with cinch := some 1, guard := 1 }
    | 0x200 => rwsReg 7 2 [g]
    | _ => {}

/-- Registers of a channel agent (R456). -/
def agentInfo (n off : Nat) : RegInfo :=
  if 0x140 ≤ off ∧ off < 0x190 then { rw := 0xFFFFFFFF }
  else if 0x200 ≤ off ∧ off < 0x2D0 then { rwsReg 0xFFFF 0xFFFF [n] with cinch := some 0, guard := 0xFFFF }
  else match off with
    | 0x000 => rwsReg 0x00FFFFFF 0 [n]
    | 0x004 => rwsReg 0x3F 0 [n]
    | 0x010 => rwsReg 7 6 [n]
    | 0x018 => { rw := 0x1FFFF, reset := 0xAA40, cover := 0x1FFFF }
    | 0x020 => rwsReg 0xFFFFF 0x41006 [n]
    | 0x024 => rwsReg 0xFFFFFF 0x404060 [n]
    | 0x028 => rwsReg 0x0FFFFFFF 0x1000000 [n]
    | 0x02C => rwsReg 0xFFFFFFFF 0x01020408 [n]
    | 0x030 => rwsReg 7 0 [n]
    | 0x034 => rwsReg 3 0 [n]
    | 0x038 => rwsReg 0x1F 0x10 [n]
    | 0x03C => rwsReg 0xFFFFFFFF 1 [n]
    | 0x040 => rwsReg 0x7F 64 [n]
    | 0x074 => rwsReg 0xFF 16 [n]
    | 0x080 => rwsReg 0xFFFFFFFF 0xFFFFFFFF [n]
    | 0x088 => rwsReg 0xFFF 0x80 [n]
    | 0x090 => { wo := 1, rw := 0xFFFF0000, cover := 0xFFFF0000 }
    | 0x094 | 0x098 => rwsReg 0xFFFFFFFF 0x80808080 [n]
    | 0x120 => { rw := 7, wo := 8 }
    | 0x128 => { rw := 0xFFFFFFFF }
    | 0x12C => { rw := 3 }
    | 0x130 => { rw := 0xFFF, reset := 0x800 }
    | 0x134 => { wo := 1 }
    | _ => {}

/-- The word of FREACT_k at reset (R429). -/
def freactReset (k : Nat) : Word :=
  BitVec.ofNat 32 (reactReset (4 * k) + reactReset (4 * k + 1) * 2 ^ 8 + reactReset (4 * k + 2) * 2 ^ 16
    + reactReset (4 * k + 3) * 2 ^ 24)

/-- Registers of the cadence block (R183). -/
def cadInfo (off : Nat) : RegInfo :=
  if 0x100 ≤ off then {} else
  match off % 0x20 with
  | 0x00 => rwsReg 0x1F 0x18 [25]
  | 0x04 => rwsReg 0xFFFFF 0xFFFFF [25]
  | 0x08 | 0x0C | 0x10 => rwsReg 0xFFFFFFFF 0 [25]
  | _ => {}

/-- Registers of the map block (R140, R79, R87, R303). -/
def mapInfo (off : Nat) : RegInfo :=
  match off with
  | 0x000 => { rwsReg 0x7F0F 0x4000 [24] with cinch := some 2, guard := 0xF }
  | 0x004 => rwsReg 0x1FFFF 0 [24]
  | 0x010 => rwsReg 0x9F9F9F9F 0 [24]
  | 0x014 => rwsReg 0xFFFFFFFF 0 [24]
  | 0x018 => rwsReg 0xFF 0x8C [24]
  | 0x020 => { rwsReg 0xF 0 [20, 21, 22, 23] with cinch := some 1, guard := 0xF }
  | 0x030 | 0x038 | 0x040 | 0x048 =>
    { rwsReg 0xFFFFF001 0 [20, 21, 22, 23] with cinch := some 1, guard := 0xFFFFF001 }
  | 0x034 | 0x03C | 0x044 | 0x04C =>
    { rwsReg 0xFFFFF 0 [20, 21, 22, 23] with cinch := some 1, guard := 0xFFFFF }
  | 0x060 | 0x064 => { rw := 0x7FFFFF }
  | 0x068 => { rw := 1, wo := 2 }
  | _ => {}

/-- Registers of the register-control block (R452). -/
def ctlInfo (off : Nat) : RegInfo :=
  match off with
  | 0x010 => { rw := 0x031F0FFC }
  | 0x020 => { wo := 0xFFFFFFFF }
  | 0x030 | 0x034 | 0x038 => { rw := 0xFFFFFFFF }
  | 0x03C => { wo := 3 }
  | 0x050 => { rw := 0x3F }
  | 0x064 => { wo := 1 }
  | 0x070 => { rw := 0x3FF }
  | _ => {}

/-- Registers of the command window (R406). -/
def cmdInfo (off : Nat) : RegInfo :=
  if off < 0x400 then { rw := 0xFFFFFFFF }
  else if 0x1000 ≤ off then { rw := 0xFFFFFFFF }
  else if off = 0x800 then { rw := 0x1F }
  else {}

/-- Registers of the standby monitor (R238, R396). -/
def sbmInfo (off : Nat) : RegInfo :=
  if 0x100 ≤ off ∧ off < 0x150 then { rw := 0x1F }
  else if 0x200 ≤ off ∧ off < 0x280 then { rw := 0x7FFFF, cover := 0x7FFFF }
  else match off with
    | 0x000 => { rw := 0xFF3F3F1F, reset := 0x0A000000, cover := 0xFF3F3F1F }
    | 0x008 => { wo := 1 }
    | _ => {}

/-- Registers of the millrace block (R272). -/
def millInfo (off : Nat) : RegInfo :=
  match off with
  | 0x000 => rwsReg 0xF 0 [27]
  | 0x004 => { rwsReg 7 0 [27] with cover := 0 }
  | 0x008 => { rwsReg 0x1FFFF 0x2460 [27] with cinch := some 3, guard := 1 }
  | 0x00C => rwsReg 0x3FFFFF 0x503E8 [27]
  | 0x010 | 0x014 => rwsReg 0xFFFFFFFF 0 [27]
  | _ => {}

/-- Registers of the span block (R332, R292, R319). -/
def spanInfo (off : Nat) : RegInfo :=
  match off with
  | 0x024 => { wo := 1 }
  | 0x030 => { rw := 0xFFFFEF, wo := 0x10, reset := 0x40840, cover := 0xFFFFEF }
  | 0x040 => { rw := 0x1FFFF, reset := 0x800 }
  | 0x044 => { wo := 1 }
  | _ => {}

/-- What the register with key `key` is (R452, R456). -/
def regInfo (key : Nat) : RegInfo :=
  if 0x100000 ≤ key then
    let n := (key - 0x100000) / 0x1000
    if n < 20 then agentInfo n (key % 0x1000) else {}
  else if 0x10000 ≤ key then
    let p := (key - 0x10000) / 0x1000
    if p < 24 then portInfo (20 + p / 6) (key % 0x1000) else {}
  else match key / 0x1000 with
    | 0x0 => ctlInfo (key % 0x1000)
    | 0x2 => cmdInfo (key % 0x1000)
    | 0x3 => cmdInfo (0x1000 + key % 0x1000)
    | 0x4 =>
      let off := key % 0x1000
      if 0x200 ≤ off ∧ off < 0x440 then
        { rwc := 0x7F7F7F7F, reset := freactReset ((off - 0x200) / 4), cinch := some 4, guard := 0x7F7F7F7F,
          cover := 0x7F7F7F7F }
      else if off = 0x100 then { wo := 0x1FF }
      else {}
    | 0x5 =>
      let off := key % 0x1000
      if off = 0x008 then { rw := 0x1FF }
      else if 0x040 ≤ off ∧ off < 0x060 then { rwc := 0xFFFFFFFF, cinch := some 5, guard := 0xFFFFFFFF }
      else {}
    | 0x6 => sbmInfo (key % 0x1000)
    | 0x7 => if key = 0x7000 ∨ key = 0x7004 then rwsReg 0xFFFFFFFF 0 [26] else {}
    | 0x8 => cadInfo (key % 0x1000)
    | 0x9 => millInfo (key % 0x1000)
    | 0xA => mapInfo (key % 0x1000)
    | 0xB => spanInfo (key % 0x1000)
    | _ => {}

/-- The reset value of the register with key `key`. -/
def resetWord (key : Nat) : Word := (regInfo key).reset

/-- Whether a global address lies in a mapped block (R449, R452). -/
def mappedBlock (addr : Nat) : Bool :=
  match addr / 0x1000 with
  | 0x0 | 0x2 | 0x3 | 0x4 | 0x5 | 0x6 | 0x7 | 0x8 | 0x9 | 0xA | 0xB => true
  | b => decide (0x10 ≤ b) && decide (b < 0x28)

/-- Registers kept in the standby monitor's always-on domain through a core reset: the SBM block and the EVR key
(R392, R436, R447). -/
def sbmKept (key : Nat) : Bool :=
  decide (key / 0x1000 = 6) || (decide (0x5040 ≤ key) && decide (key < 0x5060))

/-- Whether the stitch check covers `key` with one of the window registers that only the end of update mode
installs (R97, R460). -/
def windowKey (key : Nat) : Bool :=
  (decide (0x10000 ≤ key) && decide (key < 0x28000) && decide (key % 0x1000 < 0x100))
    || (decide (0xA020 ≤ key) && decide (key < 0xA050))

/-- Registers that the stitch check covers, in its order (R465, R466). -/
def coveredKeys : List Nat :=
  let words (base n : Nat) : List Nat := (List.range n).map fun i => base + 4 * i
  let global : List Nat :=
    words 0x4200 144 ++ [0x6000] ++ words 0x6200 32 ++ [0x7000, 0x7004] ++
    ((List.range 8).map fun k => words (0x8000 + 0x20 * k) 5).flatten ++
    [0x9000, 0x9008, 0x900C, 0x9010, 0x9014, 0xA000, 0xA004, 0xA010, 0xA014, 0xA018, 0xA020] ++
    words 0xA030 8 ++ [0xB030] ++
    ((List.range 24).map fun p => words (portKey p 0) 64 ++ [portKey p 0x100, portKey p 0x200]).flatten
  let agent (n : Nat) : List Nat :=
    ([0x000, 0x004, 0x010, 0x018, 0x020, 0x024, 0x028, 0x02C, 0x030, 0x034, 0x038, 0x03C, 0x040, 0x074, 0x080,
      0x088, 0x090, 0x094, 0x098].map (agentKey n)) ++ words (agentKey n 0x200) 52
  global ++ ((List.range 20).map agent).flatten

end Sys2Proof.Machine
end

