-- ==== Sys2Proof/Machine/Ops.lean ====
section
/-! DEFINITION. Named operations over the state: its parts, the registers' values, fault lines, event records, the
channels' geometry and presence, the span sets. -/

namespace Sys2Proof.Machine

/-! ### Parts of the state -/

def State.port (s : State) (p : PortId) : Port := s.ports.at p
def State.chan (s : State) (c : ChanId) : Chan := s.chans.at c
def State.span (s : State) (m : SetId) : Span := s.spans.at m
def State.sel (s : State) (c : ChanId) (x : Sub) : Sel := (s.chan c).sel.at x

def State.modPort (s : State) (p : PortId) (f : Port → Port) : State :=
  { s with ports := s.ports.put p (f (s.ports.at p)) }

def State.modChan (s : State) (c : ChanId) (f : Chan → Chan) : State :=
  { s with chans := s.chans.put c (f (s.chans.at c)) }

def State.modSpan (s : State) (m : SetId) (f : Span → Span) : State :=
  { s with spans := s.spans.put m (f (s.spans.at m)) }

def Chan.modSel (k : Chan) (x : Sub) (f : Sel → Sel) : Chan := { k with sel := k.sel.put x (f (k.sel.at x)) }

def State.modSel (s : State) (c : ChanId) (x : Sub) (f : Sel → Sel) : State := s.modChan c fun k => k.modSel x f

/-- Every port, in order. -/
def allPorts : List PortId := List.finRange 24
def allChans : List ChanId := List.finRange 20
def allSets : List SetId := List.finRange 4
def allLanes : List Lane := List.finRange 4

/-- `f` for every channel of the list in turn. -/
def State.eachChan (s : State) (cs : List ChanId) (f : State → ChanId → State) : State := cs.foldl f s

/-- A fresh stamp, and the state after it (log entry 17). -/
def State.stamp (s : State) : State := { s with nextId := s.nextId + 1 }

/-! ### Ports opening, and the passing of time -/

/-- Request credits go back to the host (R53). -/
def Port.returnReq (q : Port) (n : Nat) : Port := { q with reqCrd := q.reqCrd + n, reqOut := q.reqOut + n }

/-- Write-data credits go back to the host, or are kept while the withhold level is up (R53, R78). -/
def Port.returnWd (q : Port) (n : Nat) (withhold : Bool) : Port :=
  if withhold then { q with wdOwed := q.wdOwed + n } else { q with wdCrd := q.wdCrd + n, wdOut := q.wdOut + n }

/-- The port opens afresh: its credits, empty buffers, no outstanding tags, LASTW empty (R54, R73, R78, R211). -/
def Port.openUp (q : Port) (withhold : Bool) : Port :=
  ({ q with
    mode := .isOpen, haltPin := false, discard := false, reopen := false, reqCrd := 0, wdCrd := 0, wdOwed := 0,
    rspCrd := 0, reqBuf := [], wdOpen := [], wdGroups := [], flights := [], lastW := 0, lastWId := 0,
    flood := false, rspOut := none }.returnReq 128).returnWd 256 withhold

/-- Tags outstanding, of buffered and of admitted requests (R55); a NOP occupies none (R45). -/
def Port.tags (q : Port) : List (BitVec 12) :=
  ((q.reqBuf.filter fun r => r.req.opc != .nop).map (·.req.tag)) ++ q.flights.map (·.req.tag)

/-- CLOSING ends in the CCLK after the last outstanding tag is answered (R73, R75). A set OPEN still counts: it opens the
port in the CCLK after that. -/
def Port.closeUp (q : Port) : Port :=
  if q.mode == .closing && q.tags.isEmpty then
    { q with mode := .closed, haltPin := false, discard := false, reqCrd := 0, wdCrd := 0, wdOwed := 0, rspCrd := 0,
             reqBuf := [], wdOpen := [], wdGroups := [], rspOut := none }
  else q

/-- The next CCLK at a port: a beat is on the wires for one CCLK (R38), an ended CLOSING takes effect, and a port that was
CLOSED with OPEN set again opens (R73). -/
def Port.nextCclk (q : Port) (withhold : Bool) : Port :=
  let q := { q with rspOut := none, reqOut := 0, wdOut := 0 }
  if q.mode == .closed && q.reopen then q.openUp withhold else q.closeUp

def State.nextCclk (s : State) : State := { s with ports := s.ports.each fun q => q.nextCclk s.mill.withhold }

/-! ### Register values -/

/-- The word in force of an RWS register, its bits as R9 and R460 leave them. -/
def State.live (s : State) (key : Nat) : Word := s.regs.live.get resetWord key

/-- The word of an RW or RWC register, or the shadow of an RWS register. -/
def State.prog (s : State) (key : Nat) : Word := s.regs.prog.get resetWord key

/-- The word in force at `off` of channel agent `n`. -/
def State.agent (s : State) (n : ChanId) (off : Nat) : Word := s.live (agentKey n.val off)

/-- The RW word at `off` of channel agent `n`. -/
def State.agentRw (s : State) (n : ChanId) (off : Nat) : Word := s.prog (agentKey n.val off)

def State.setProg (s : State) (key : Nat) (w : Word) : State :=
  { s with regs := { s.regs with prog := s.regs.prog.set resetWord key w } }

def State.setLive (s : State) (key : Nat) (w : Word) : State :=
  { s with regs := { s.regs with live := s.regs.live.set resetWord key w } }

/-- Effective SCH_CTL.EN (R149, R373). -/
def State.schEn (s : State) (c : ChanId) : Bool := flag (s.agent c 0x020) 0 && !(s.chan c).forceOff

/-- Effective PHY_CFG.EN (R356, R373). -/
def State.phyEn (s : State) (c : ChanId) : Bool := flag (s.agent c 0x004) 0 && !(s.chan c).forceOff

/-- REFCLK multiplier of the channel PLL by PHY_CFG.BIN and MRD (R30, R366): a DCLK is its 64th part of a CCLK.
BIN 7 acts as 0, and an MRDIMM's BIN below 5 acts as 5. -/
def binMult (bin : Nat) (mrd : Bool) : Nat :=
  match bin with
  | 5 => 44
  | 6 => 64
  | b =>
    if mrd then 44
    else match b with
      | 1 => 28
      | 2 => 32
      | 3 => 36
      | 4 => 40
      | _ => 24

/-- The multiplier that PHY_CFG asks for. -/
def State.phyMul (s : State) (c : ChanId) : Nat := binMult (field (s.agent c 0x004) 3 1) (flag (s.agent c 0x004) 4)

/-- Timing-table entry `k` of CHn, in tCK or as a count (R146). -/
def State.tim (s : State) (c : ChanId) (k : Nat) : Nat := field (s.agent c (0x200 + 4 * k)) 15 0

/-- A tCK value in DCLK, rounded up (R147). -/
def dclks (tck : Nat) : Nat := (tck + 3) / 4

/-- SSm is in span mode (MAP_CTL.SPAN, R140). -/
def State.spanMode (s : State) (m : SetId) : Bool := flag (s.live 0xA000) m.val

/-- MAP_TOP.TOP_GIB × 1 GiB (R102, R140). -/
def State.topByte (s : State) : Nat := min (field (s.live 0xA004) 16 0) 65536 * 2 ^ 30

/-- RELEASE of CORE_ID. -/
def coreRelease : Nat := 0x0200

/-! ### Faults and records -/

/-- A source asserts its line into the FCOL (R426); FAULT_LATCH latches it. -/
def State.raise (s : State) (src : Nat) : State :=
  { s with fcol := { s.fcol with lines := s.fcol.lines ++ [src] } }

/-- Source k of channel n asserts its line. -/
def State.raiseChan (s : State) (n : ChanId) (k : Nat) : State := s.raise (chanSrc n k)

/-- Records the recorder buffer holds (R442). -/
def evrDepth : Nat := 64

/-- The EVR takes a record from its block (R440 to R442): stamped and buffered, or dropped and counted when the
buffer is full. -/
def State.record (s : State) (type source cls : Nat) (detail : Nat) : State :=
  let e := s.evr
  if e.buf.length < evrDepth then
    let r : EvRec := { rseq := e.made, hours := e.hours, pcyc := e.pcyc, tide := (s.tide >>> 16) % 2 ^ 32,
                       source := source, type := type, cls := cls, lostBefore := e.lostBefore,
                       detail := BitVec.ofNat 64 detail }
    let arm := s.garm.armed && s.garm.code = 16
    let bad : Option Bad := if arm then some ⟨s.garm.lane, s.garm.checkOnly⟩ else none
    let s := if arm then { s with garm := { s.garm with armed := false } } else s
    { s with evr := { e with buf := e.buf ++ [(r, bad)], made := (e.made + 1) % 2 ^ 32, lostBefore := false } }
  else ({ s with evr := { e with lost := satAdd 65535 e.lost 1, lostBefore := true } }).raise 562

/-- A record that no fault source makes: SOURCE 0xFFFF, class none (R440). -/
def State.note (s : State) (type detail : Nat) : State := s.record type 0xFFFF 7 detail

/-- A line L in 5 detail bytes from byte `at_` (R441). -/
def detailLine (line at_ : Nat) : Nat := (line % 2 ^ 34) <<< (8 * at_)

/-! ### Sets and channels (R23) -/

def setOf (c : ChanId) : SetId := ⟨c.val / 5, by omega⟩
def posOf (c : ChanId) : Nat := c.val % 5

/-- CH(5m + j). -/
def chanOf (m : SetId) (j : Nat) : ChanId := ⟨5 * m.val + j % 5, by have := Nat.mod_lt j (by decide : 5 > 0); omega⟩

/-- The channels of a set, by position. -/
def setChans (m : SetId) : List ChanId := (List.range 5).map (chanOf m)

/-! ### Geometry (R106, R107, R140) -/

/-- CH_GEOM apart, and whether every field is in its valid range (R106). -/
structure Geom where
  cap : Nat
  bg : Nat
  ba : Nat
  cs : Nat
  cid : Nat
  row : Nat
  ok : Bool
  deriving DecidableEq, Repr

def State.geom (s : State) (c : ChanId) : Geom :=
  let w := s.agent c 0x000
  let g : Geom := { cap := field w 10 0, bg := field w 12 11, ba := field w 14 13, cs := field w 16 15,
                    cid := field w 18 17, row := field w 23 19, ok := true }
  { g with ok := decide (g.cap ≤ 1024) && (g.bg == 2 || g.bg == 3) && (g.ba == 1 || g.ba == 2)
      && decide (g.cs ≤ 2) && decide (14 ≤ g.row) && decide (g.row ≤ 18) }

/-- First channel-local line of the reserved area (R105); nothing is mapped in an invalid geometry. -/
def Geom.reserved (g : Geom) : Nat := if g.ok then (g.cap - 1) * 2 ^ 24 else 0

/-- Lines of the channel. -/
def Geom.lines (g : Geom) : Nat := if g.ok then g.cap * 2 ^ 24 else 0

/-- The smallest CAP_GIB of a set's channels, in lines before the reserved area; 0 with an invalid geometry. -/
def State.setReserved (s : State) (m : SetId) : Nat :=
  ((setChans m).map fun c => (s.geom c).reserved).foldl min (2 ^ 40)

/-- A line's place in its channel (R107). -/
structure Place where
  sub : Sub
  bank : Bank
  row : Nat
  /-- Column line, 0 to 127. -/
  col : Nat
  deriving DecidableEq, Repr

/-- Decomposition of a channel-local line (R107). -/
def Geom.place (g : Geom) (line : Nat) : Place :=
  let m := line / 2
  let lo := m % 4
  let m := m / 4
  let bg := m % 2 ^ g.bg
  let m := m / 2 ^ g.bg
  let ba := m % 2 ^ g.ba
  let m := m / 2 ^ g.ba
  let hi := m % 32
  let m := m / 32
  let cs := m % 2 ^ g.cs
  let m := m / 2 ^ g.cs
  let cid := m % 2 ^ g.cid
  let m := m / 2 ^ g.cid
  { sub := ⟨line % 2, by omega⟩, bank := { cs := cs, cid := cid, bg := bg, ba := ba }, row := m % 2 ^ g.row,
    col := lo + 4 * hi }

/-- Same row (R108): same subchannel, bank and row. -/
def Geom.sameRow (g : Geom) (a b : Nat) : Bool :=
  let p := g.place a
  let q := g.place b
  decide (p.sub = q.sub) && decide (p.bank = q.bank) && decide (p.row = q.row)

/-- Same bank (R108). -/
def Geom.sameBank (g : Geom) (a b : Nat) : Bool :=
  let p := g.place a
  let q := g.place b
  decide (p.sub = q.sub) && decide (p.bank = q.bank)

/-- Chip selects of a subchannel, in order. -/
def Geom.ranks (g : Geom) : List Nat := List.range (2 ^ g.cs)

/-! ### Presence of channels and lines -/

/-- The channel is severed, prepared for removal, without sled power or failed (R58 condition 4, R372). -/
def Chan.away (k : Chan) : Bool :=
  k.failed || k.gated || !k.svc.pwrOn || k.svc.st == 0 || k.svc.st == 4 || k.svc.st == 5

/-- The channel takes no access at all: its PHY field is released (R372, R377). Between its gate and its power-off a
prepared channel still completes what came before (R375). -/
def Chan.dead (k : Chan) : Bool :=
  k.failed || !k.svc.pwrOn || k.svc.st == 0 || k.svc.st == 4 || k.svc.st == 5

/-- The set is offline (R333). -/
def State.offline (s : State) (m : SetId) : Bool := s.spanMode m && (s.span m).st == 3

/-- Position `j` of span set `m` counts as degraded for line `line` of its channels (R333, R335, R338). -/
def State.lineLost (s : State) (m : SetId) (j line : Nat) : Bool :=
  let sp := s.span m
  (sp.st == 1 || sp.st == 2) && sp.pos == j
    && (sp.ranks == 0 ||
        (let p := (s.geom (chanOf m j)).place line
         sp.ranks.getLsbD (4 * p.sub.val + p.bank.cs)))
    && (sp.st == 1 || decide (sp.reb.cur ≤ line))

/-- Position `j` of the set is lost, in part or in whole (R233, R336). -/
def Span.lacks (sp : Span) (j : Nat) : Bool := sp.deg && sp.pos == j

/-- The channel is running: its PHY and scheduler are on, it is not in self-refresh for IDLE, and it has not
stopped (R290, R313). -/
def State.running (s : State) (c : ChanId) : Bool :=
  s.schEn c && !(s.chan c).away && (s.chan c).pwrst == 0

/-- Every host port and MI is closed (R206, R302): each port is CLOSED, and the millrace state is OFF, or HANDSHAKE, in
which MI takes no line yet and host firmware loads EPOCH_BASE (R260). -/
def State.allClosed (s : State) : Bool :=
  (allPorts.all fun p => decide ((s.port p).mode = .closed)) && (s.mill.st == .off || s.mill.st == .handshake)

/-- The core's clocks run and its registers answer: row 6 of the bring-back table has ended (R448). -/
def State.awake (s : State) : Bool :=
  match s.phase with
  | .on | .commit => true
  | .bring row => decide (7 ≤ row)
  | _ => false

/-- The tide counts: core reset has been released and the supply stands (R178). -/
def State.ticking (s : State) : Bool :=
  match s.phase with
  | .on | .commit => true
  | .bring row => decide (6 ≤ row)
  | _ => false

/-- The level of SLED_PWR_EN: it falls 16 SCLK after the PHY field has been released (R350, R371). -/
def Svc.powerOut (v : Svc) : Bool := v.pwrOn || v.fall != 0

/-- 16 SCLK in CCLK (R371). -/
def fallTime : Nat := 256

/-! ### The I3C bus of a channel (R225, R351, R354) -/

/-- A write to a PMIC. -/
def XferFor.pmic : XferFor → Bool
  | .pmicSet | .pmicEnable _ | .pmicOff => true
  | _ => false

/-- The first transfer that may go is sent: a PMIC write waits while the warn decision stands. -/
def sendFirst (warn : Bool) : List Xfer → List Xfer
  | [] => []
  | x :: r => if warn && x.use.pmic then x :: sendFirst warn r else { x with sent := true } :: r

/-- A free bus takes the next transfer. -/
def Chan.nextXfer (k : Chan) (warn : Bool) : Chan := if k.i3c.any (·.sent) then k else { k with i3c := sendFirst warn k.i3c }

/-- Transfers are asked for, in order. -/
def State.askXfers (s : State) (c : ChanId) (xs : List Xfer) : State :=
  let warn := s.sbm.warn
  s.modChan c fun k => ({ k with i3c := k.i3c ++ xs }).nextXfer warn

end Sys2Proof.Machine
end

