-- ==== Sys2Proof/Machine/Operands.lean ====
section
/-! DEFINITION. Operand forms: the request word (R40 to R43, R71), parity, the address map (R101 to R104), the
response header (R48), and the millrace control word (R244). -/

namespace Sys2Proof.Machine

/-! ### The request word (R40, R41) -/

/-- The opcode an encoding stands for, none for a reserved one (R41). -/
def opcOf (n : Nat) : Option Opc :=
  match n with
  | 0 => some .nop
  | 1 => some .rd
  | 2 => some .rds
  | 4 => some .wr
  | 5 => some .wrp
  | 6 => some .wrs
  | 8 => some .efence
  | 9 => some .pfence
  | _ => none

/-- The encoding of an opcode (R41). -/
def opcCode : Opc → Nat
  | .nop => 0
  | .rd => 1
  | .rds => 2
  | .wr => 4
  | .wrp => 5
  | .wrs => 6
  | .efence => 8
  | .pfence => 9

/-- The class of a QOS value (R40). -/
def clsOf (n : Nat) : Cls :=
  match n with
  | 0 => .bulk
  | 1 => .norm
  | 2 => .high
  | _ => .rt

/-- The rank of a class, BULK lowest. -/
def clsRank : Cls → Nat
  | .bulk => 0
  | .norm => 1
  | .high => 2
  | .rt => 3

def Opc.isRead : Opc → Bool
  | .rd | .rds => true
  | _ => false

def Opc.isWrite : Opc → Bool
  | .wr | .wrp | .wrs => true
  | _ => false

/-- Fields of the request word that R40 gives, for opcode `o`. -/
def reqOf (o : Opc) (w : BitVec 144) : Req :=
  { opc := o, addr := field w 49 4, len := field w 51 50, qos := clsOf (field w 53 52),
    tag := BitVec.ofNat 12 (field w 65 54), key := BitVec.ofNat 8 (field w 73 66), priv := flag w 74, wb := flag w 75,
    strict := flag w 76, mask := BitVec.ofNat 64 (field w 143 80) }

/-- TAG as received, in any word (R74). -/
def tagOf (w : BitVec 144) : BitVec 12 := BitVec.ofNat 12 (field w 65 54)

/-- Even parity of the bytes of `x`, one bit per byte (R38): the parity bit makes the count of ones even. -/
def parityOk {n k : Nat} (x : BitVec n) (p : BitVec k) : Bool :=
  (List.range k).all fun i =>
    ((List.range 8).foldl (fun b j => Bool.xor b (x.getLsbD (8 * i + j))) (p.getLsbD i)) == false

/-- A WRP whose MASK is all zeros (R43). -/
def Req.empty (r : Req) : Bool := r.opc == .wrp && r.mask == 0

/-- Lines of a read or write request: LEN+1 (R40). -/
def Req.lines (r : Req) : Nat := r.len + 1

/-- Response beats of a request (R49). -/
def Req.beats (r : Req) : Nat := if r.opc.isRead then r.len + 1 else 1

/-- The lowest-numbered of REASON 1 to 5 that the request breaks (R71); `none` for a reserved opcode. -/
def shapeError (r : Req) : Option Nat :=
  let low := r.addr % 64
  let line := r.addr / 64 % 4
  match r.opc with
  | .nop | .efence => none
  | .pfence => if low ≠ 0 then some 2 else none
  | .rd | .wr => if low ≠ 0 then some 2 else if line + r.len > 3 then some 3 else none
  | .rds | .wrs => if low ≠ 0 then some 2 else if r.len ≠ 3 ∨ line ≠ 0 then some 4 else none
  | .wrp => if low ≠ 0 then some 2 else if r.len ≠ 0 then some 5 else none

/-- KIND of a response beat (R48). -/
def kindOf (o : Opc) : Nat := if o.isRead then 0 else if o.isWrite then 1 else 2

/-- CODE as a number (R48). -/
def codeNum : Code → Nat
  | .ok => 0
  | .poison => 1
  | .denied => 2
  | .absent => 3
  | .fenced => 4

/-! ### The address map (R101 to R104) -/

/-- Exclusive-OR of the first `n` two-bit pairs of `p`. -/
def foldPairs : Nat → Nat → Nat
  | 0, _ => 0
  | n + 1, p => (p % 4) ^^^ foldPairs n (p / 4)

/-- The set of a port address (R101). -/
def setOfAddr (addr : Nat) : SetId := ⟨foldPairs 17 (addr / 4096) % 4, Nat.mod_lt _ (by decide)⟩

/-- The set-local address of a port address (R101). -/
def localAddr (addr : Nat) : Nat := (addr / 4096) / 4 * 4096 + addr % 4096

/-- The port page of set-local page `q` of set `m` (R101). -/
def pageOf (m : SetId) (q : Nat) : Nat := q * 4 + (m.val ^^^ foldPairs 16 q) % 4

/-- Where the 64 B line of a port address lies: its set, set-local stripe, data line of the stripe, channel and
channel-local line (R103, R104). -/
structure Spot where
  set : SetId
  stripe : Nat
  idx : Nat
  ch : ChanId
  line : Nat
  deriving DecidableEq, Repr

/-- Parity position of a stripe of a span set (R104). -/
def parPos (stripe : Nat) : Nat := stripe % 5

/-- Position of data line `i` of a stripe (R104). -/
def dataPos (stripe i : Nat) : Nat := (stripe % 5 + 1 + i) % 5

/-- The placement of the line at `addr`, in a plain set (R103) or a span set (R104). -/
def spotOf (span : SetId → Bool) (addr : Nat) : Spot :=
  let m := setOfAddr addr
  let a := localAddr addr
  let s := a / 256
  let i := a / 64 % 4
  if span m then { set := m, stripe := s, idx := i, ch := chanOf m (dataPos s i), line := s }
  else { set := m, stripe := s, idx := i, ch := chanOf m (s % 5), line := s / 5 * 4 + i }

/-- The placement of the line at `addr` under the mode in force (R103, R104). -/
def State.spot (s : State) (addr : Nat) : Spot := spotOf s.spanMode addr

/-- The port page of line `line` of channel `c` (R319): by the inverse of R103 in a plain set and of R104 in a span
set, where a parity line counts as its stripe. -/
def State.pageOfLine (s : State) (c : ChanId) (line : Nat) : Nat :=
  let stripe := if s.spanMode (setOf c) then line else line / 4 * 5 + posOf c
  pageOf (setOf c) (stripe / 16)

/-- Set-local page of a stripe: 16 stripes to a page. -/
def stripePage (stripe : Nat) : Nat := stripe / 16

/-- A stripe's line overruns under R106. -/
def State.overruns (s : State) (t : Spot) : Bool :=
  if s.spanMode t.set then decide (s.setReserved t.set ≤ t.line)
  else decide ((s.geom t.ch).reserved ≤ t.line)

/-! ### The millrace control word (R244) -/

/-- 64 B lines as `k` words of 64 bits. -/
def lineWord (d : Line) (k : Nat) : Nat := field d (64 * k + 63) (64 * k)

end Sys2Proof.Machine
end

