-- ==== Sys2Proof/Machine/Epoch.lean ====
section
/-! DEFINITION. Epochs (R206 to R210), the credit withhold (R78, R256), flood (R67 to R70, R243), SRAM parity
injection (R287, R291). -/

namespace Sys2Proof.Machine

/-! ### Epoch completion -/

/-- Epochs of the writes admitted and not yet accepted or refused, at the host ports and at MI (R208). -/
def State.unsettled (s : State) : List Nat :=
  (s.ports.toList.map fun p => (p.flights.filter fun f => f.req.opc.isWrite && !f.settled).map (·.epoch)).flatten
    ++ s.mill.flights.map (·.epoch)

/-- The lowest epoch that is not locally complete (R208). -/
def State.openFloor (s : State) : Nat := s.unsettled.foldl min s.pers.cur

/-- EPOCH_LOC advances through every epoch that is locally complete, in order (R208). -/
def State.advanceLoc (s : State) : State :=
  let lim := s.openFloor
  if s.pers.locNext < lim then { s with pers := { s.pers with loc := lim - 1, locNext := lim } } else s

/-- EPOCH_DUR by the millrace state (R209, R257): never above EPOCH_LOC, never falling. -/
def State.advanceDur (s : State) : State :=
  let target :=
    match s.mill.st with
    | .off | .solo | .resyncSrc => s.pers.loc
    | .mirrored => min s.pers.loc s.mill.acked
    | .handshake | .frozen | .fenced | .resyncTgt => s.pers.dur
  { s with pers := { s.pers with dur := max s.pers.dur target } }

/-- Both epoch values brought up to date (R208 to R210). -/
def State.settle (s : State) : State := s.advanceLoc.advanceDur

/-! ### Credit withhold -/

/-- Sixteenths of a buffer, rounded down (R69). -/
def sixteenths (fill cap : Nat) : Nat := fill * 16 / cap

/-- An OFF level at or above ON acts as ON − 1 (R70, R256). -/
def offLevel (on off : Nat) : Nat := min off (on - 1)

/-- The level of R256 from the fill of the MO buffer, or from LAG in FROZEN, once raised there until the state
changes. With WH_ON 0 the release level is -1, and the level stays up. DESIGN CHOICE: the fill counts in sixteenths rounded
down, as MO_FILL shows it and as R69 and R243 round theirs (log entry 72). -/
def State.withholdNow (s : State) : Bool :=
  let cfg := s.live 0x9008
  let on := field cfg 6 3
  let fill := sixteenths s.mill.moBuf.length 16384
  match s.mill.st with
  | .mirrored | .resyncSrc =>
    if s.mill.withhold && on != 0 then decide (offLevel on (field cfg 10 7) < fill) else decide (on ≤ fill)
  | .frozen => s.mill.withhold
  | _ => false

/-- A port's held-back write-data credits return once the level is down (R78); a HALTED or CLOSING port returns none
(R72, R75, R487). -/
def Port.payOwed (q : Port) : Port :=
  if q.mode == .isOpen || q.mode == .safe then { q with wdOwed := 0 }.returnWd q.wdOwed false else q

/-- The level is brought up to date, and the ports pay out what they held back when it falls. -/
def State.updWithhold (s : State) : State :=
  let w := s.withholdNow
  let s' : State := { s with mill := { s.mill with withhold := w } }
  if w then s' else { s' with ports := s'.ports.map Port.payOwed }

/-! ### Flood (R68 to R70) -/

/-- The FLOOD_SEL slot that names port `p`, lowest first, with its thresholds (R68, R70). -/
def State.floodCfg (s : State) (p : PortId) : Option (Nat × Nat) :=
  let sel := s.live 0xA010
  let lvl := s.live 0xA014
  ((List.range 4).find? fun k => flag sel (8 * k + 7) && field sel (8 * k + 4) (8 * k) == p.val).bind fun k =>
    let on := field lvl (8 * k + 3) (8 * k)
    if on = 0 then none else some (on, offLevel on (field lvl (8 * k + 7) (8 * k + 4)))

/-- Beats in the write-data buffer (R52). -/
def Port.wdFill (q : Port) : Nat :=
  q.wdOpen.length + (q.wdGroups.map List.length).sum + (q.reqBuf.map fun r => r.data.length).sum

/-- The port's fill in sixteenths (R69). -/
def Port.fill (q : Port) : Nat := max (sixteenths q.reqBuf.length 128) (sixteenths q.wdFill 256)

/-- Flood rises at ON and falls at OFF or below (R69). -/
def floodNext (cfg : Option (Nat × Nat)) (was : Bool) (fill : Nat) : Bool :=
  match cfg with
  | none => false
  | some (on, off) => if was then decide (off < fill) else decide (on ≤ fill)

/-- The port's flood is brought up to date. -/
def State.updFlood (s : State) (p : PortId) : State :=
  s.modPort p fun q => { q with flood := floodNext (s.floodCfg p) q.flood q.fill }

/-- MI's fill: the largest lane occupancy (R243). -/
def State.miFill (s : State) : Nat := sixteenths ((s.mill.mi.toList.map fun l => l.buf.length).foldl max 0) 1024

/-- MI's flood by FLOOD_MI (R68 to R70, R79). -/
def State.updMiFlood (s : State) : State :=
  let w := s.live 0xA018
  let on := field w 3 0
  let cfg := if on = 0 then none else some (on, offLevel on (field w 7 4))
  { s with mill := { s.mill with flood := floodNext cfg s.mill.flood s.miFill } }

/-- A source whose flood is raised (R153). -/
def State.flooding (s : State) (src : Src) : Bool :=
  match src with
  | .hp p => (s.port p).flood
  | .mi => s.mill.flood

/-! ### SRAM parity injection (R287, R288, R291) -/

/-- The byte that the next write into SRAM `code` (of instance `inst`) stores with inverted parity, if armed. -/
def InjArm.next (a : InjArm) (code inst : Nat) (named : Bool) : Option Bad :=
  if a.armed && a.code == code && (!named || a.port == inst) then some ⟨a.lane, a.checkOnly⟩ else none

/-- Codes whose SRAM has several instances that INJ_GPCTL.PORT names (R292). -/
def namedSram (code : Nat) : Bool := code ≤ 2 || code == 9 || code == 10

/-- The write into global SRAM `code` takes the arm with it. -/
def State.armedG (s : State) (code inst : Nat) : Option Bad := s.garm.next code inst (namedSram code)

def State.spendG (s : State) (b : Option Bad) : State :=
  match b with
  | none => s
  | some _ => { s with garm := { s.garm with armed := false } }

/-- A read of a global SRAM finds the bad byte: HIT (R291). -/
def State.hitG (s : State) : State := { s with garm := { s.garm with hit := true } }

/-- Whether a bad byte is acted on: CHECK_ONLY is 0 (R291). -/
def acts (b : Option Bad) : Bool :=
  match b with
  | none => false
  | some b => !b.checkOnly

/-- A read of a word of global SRAM `code` with source `src`: HIT for a bad byte, and the source where it acts. -/
def State.readG (s : State) (src : Nat) (b : Option Bad) : State :=
  match b with
  | none => s
  | some b => let s := s.hitG; if b.checkOnly then s else s.raise src

/-- The same for the channel SRAMs, codes 3 to 8. -/
def Chan.armedC (k : Chan) (code : Nat) : Option Bad := k.arm.next code 0 false

def Chan.spendC (k : Chan) (b : Option Bad) : Chan :=
  match b with
  | none => k
  | some _ => { k with arm := { k.arm with armed := false } }

def Chan.hitC (k : Chan) (b : Option Bad) : Chan :=
  match b with
  | none => k
  | some _ => { k with arm := { k.arm with hit := true } }

end Sys2Proof.Machine
end

