-- ==== Sys2Proof/Machine/Saddle.lean ====
section
/-! DEFINITION. The saddle code (R273 to R283): RS(80,64) over GF(2^8), its encoder, decoder, store constant and
poison signature. Symbols are numbers below 256; a codeword is the list c0 to c79. -/

namespace Sys2Proof.Machine

/-! ### GF(2^8) with x^8 + x^4 + x^3 + x^2 + 1 (R274) -/

def gfDouble (a : Nat) : Nat := if 256 ≤ 2 * a then (2 * a) ^^^ 0x11D else 2 * a

def gfMulN : Nat → Nat → Nat → Nat
  | 0, _, _ => 0
  | n + 1, a, b => (if b % 2 = 1 then a else 0) ^^^ gfMulN n (gfDouble a) (b / 2)

def gfMul (a b : Nat) : Nat := gfMulN 8 a b

/-- α^n. -/
def gfPow : Nat → Nat
  | 0 => 1
  | n + 1 => gfDouble (gfPow n)

def gfExp (a : Nat) : Nat → Nat
  | 0 => 1
  | n + 1 => gfMul a (gfExp a n)

/-- The inverse of a non-zero element: a^254. -/
def gfInv (a : Nat) : Nat :=
  let a2 := gfMul a a
  let a4 := gfMul a2 a2
  let a8 := gfMul a4 a4
  let a16 := gfMul a8 a8
  let a32 := gfMul a16 a16
  let a64 := gfMul a32 a32
  let a128 := gfMul a64 a64
  gfMul a128 (gfMul a64 (gfMul a32 (gfMul a16 (gfMul a8 (gfMul a4 a2)))))

/-- Sum of products of two coefficient lists. -/
def gfDot : List Nat → List Nat → Nat
  | a :: as, b :: bs => gfMul a b ^^^ gfDot as bs
  | _, _ => 0

/-- (x − r) times a polynomial, lowest coefficient first. -/
def gfTimesRoot (r : Nat) (p : List Nat) : List Nat :=
  List.zipWith (· ^^^ ·) (0 :: p) (p.map (gfMul r) ++ [0])

/-- The polynomial with the given roots. -/
def gfRoots (rs : List Nat) : List Nat := rs.foldl (fun p r => gfTimesRoot r p) [1]

/-- A polynomial's value. -/
def gfEval (p : List Nat) (x : Nat) : Nat := p.foldr (fun c acc => gfMul acc x ^^^ c) 0

/-! ### Encoder (R274, R275) -/

/-- The generator polynomial, without its leading coefficient: roots α^0 to α^15. -/
def saddleGen : List Nat := (gfRoots ((List.range 16).map gfPow)).take 16

/-- One step of the division by g: the remainder takes in the next lower coefficient. -/
def saddleStep (r : List Nat) (m : Nat) : List Nat :=
  let top := r.getLastD 0 ^^^ m
  List.zipWith (· ^^^ ·) (0 :: r.take 15) (saddleGen.map (gfMul top))

/-- r0 to r15 of the check polynomial of data bytes m0 to m63. -/
def saddleCheck (data : List Nat) : List Nat := data.reverse.foldl saddleStep (List.replicate 16 0)

/-- The store constant K. -/
def storeK : List Nat :=
  [0x3C, 0x96, 0x5E, 0xA1, 0x27, 0xD8, 0x4B, 0xF0, 0x69, 0x12, 0xC7, 0x8D, 0x35, 0xEA, 0x74, 0x1B]

/-- The poison mask P. -/
def poisonP : List Nat :=
  [0xB5, 0x0F, 0x62, 0xD3, 0x99, 0x4E, 0xE1, 0x28, 0x57, 0xAC, 0x13, 0xF6, 0x8A, 0x3D, 0xC4, 0x70]

/-- The bytes of a number, lowest first. -/
def natBytes (x n : Nat) : List Nat := (List.range n).map fun i => (x >>> (8 * i)) % 256

/-- A list of bytes as a number, lowest first. -/
def bytesNat : List Nat → Nat
  | [] => 0
  | b :: bs => b + 256 * bytesNat bs

def xorList (a b : List Nat) : List Nat := List.zipWith (· ^^^ ·) a b

/-- A line stored with check symbols `check`. -/
def storedOf (d : Line) (check : List Nat) : Stored := BitVec.ofNat 640 (d.toNat + bytesNat check * 2 ^ 512)

/-- A line as stored (R274): check symbol i is ri ⊕ Ki. -/
def encodeLine (d : Line) : Stored := storedOf d (xorList (saddleCheck (natBytes d.toNat 64)) storeK)

/-- The poison data pattern: byte i is 0x5A ⊕ i (R281). -/
def poisonLine : Line := BitVec.ofNat 512 (bytesNat ((List.range 64).map fun i => 0x5A ^^^ i))

/-- A line stored with the poison signature (R281): r ⊕ K ⊕ P. -/
def poisonStored : Stored :=
  storedOf poisonLine (xorList (xorList (saddleCheck (natBytes poisonLine.toNat 64)) storeK) poisonP)

/-! ### Decoder (R276) -/

/-- What the decoder reports. -/
inductive Decoded where
  | clean
  | corrected (dev : Nat)
  | erased
  | poison
  | uncorrectable
  deriving DecidableEq, Repr

/-- A decoder result: the outcome, the data delivered (R277), and the symbols whose value changed (R292). -/
structure DecRes where
  out : Decoded
  data : Line
  nsym : Nat
  deriving DecidableEq, Repr

/-- Codeword positions of device `d` (R273). -/
def devSyms (d : Nat) : List Nat :=
  (List.range 8).map fun j => if d < 8 then 16 + 8 * d + j else 8 * (d - 8) + j

/-- Syndromes at α^0 to α^15 of a codeword. -/
def syndromes (c : List Nat) : List Nat := (List.range 16).map fun k => gfEval c (gfPow k)

/-- Syndromes of errors (position, value). -/
def errSyndromes (es : List (Nat × Nat)) : List Nat :=
  (List.range 16).map fun k => es.foldl (fun a e => a ^^^ gfMul e.2 (gfExp (gfPow e.1) k)) 0

/-- The error values at `ps` that the first syndromes ask for: with Λ the polynomial whose roots are the other
positions, value = (Σ Λk sk) ÷ Λ(X). -/
def errValues (ps : List Nat) (s : List Nat) : List (Nat × Nat) :=
  ps.map fun p =>
    let l := gfRoots ((ps.filter (· != p)).map gfPow)
    (p, gfMul (gfDot l s) (gfInv (gfEval l (gfPow p))))

/-- The errors at `ps` that explain all 16 syndromes, if some do. -/
def explain (ps : List Nat) (s : List Nat) : Option (List (Nat × Nat)) :=
  let es := errValues ps s
  if errSyndromes es = s then some es else none

/-- The first device whose symbols explain the syndromes. -/
def explainDevice (s : List Nat) : Option (Nat × List (Nat × Nat)) :=
  (List.range 10).findSome? fun d => (explain (devSyms d) s).map fun es => (d, es)

/-- State of the search for the shortest recurrence (Berlekamp and Massey) over the syndromes that remain once the
erased device is taken out: connection polynomial, its predecessor, length, gap and last discrepancy. -/
structure Recur where
  c : List Nat
  b : List Nat
  len : Nat
  gap : Nat
  last : Nat

def padXor (a b : List Nat) : List Nat :=
  (List.range (max a.length b.length)).map fun i => a.getD i 0 ^^^ b.getD i 0

def recurStep (s : List Nat) (r : Recur) (n : Nat) : Recur :=
  let d := (List.range (r.len + 1)).foldl (fun a i => a ^^^ gfMul (r.c.getD i 0) (s.getD (n - i) 0)) 0
  if d = 0 then { r with gap := r.gap + 1 }
  else
    let k := gfMul d (gfInv r.last)
    let c := padXor r.c (List.replicate r.gap 0 ++ r.b.map (gfMul k))
    if 2 * r.len ≤ n then { c := c, b := r.c, len := n + 1 - r.len, gap := 1, last := d }
    else { r with c := c, gap := r.gap + 1 }

/-- The positions outside device `dev` of at most `x` further errors that the syndromes point to. -/
def furtherErrors (dev x : Nat) (s : List Nat) : Option (List Nat) :=
  let g := gfRoots ((devSyms dev).map gfPow)
  let t := (List.range 8).map fun k => gfDot g (s.drop k)
  let r := (List.range 8).foldl (recurStep t) { c := [1], b := [1], len := 0, gap := 1, last := 1 }
  if x < r.len then none
  else
    let ps := (List.range 80).filter fun p =>
      !(devSyms dev).contains p && gfEval r.c (gfInv (gfPow p)) == 0
    if ps.length = r.len then some ps else none

/-- Errors in device `dev` and at most `x` further symbols that explain the syndromes. -/
def explainErased (dev x : Nat) (s : List Nat) : Option (List (Nat × Nat)) :=
  match furtherErrors dev x s with
  | none => none
  | some ps => explain (devSyms dev ++ ps) s

/-- The codeword of a stored line, the store constant removed from the check symbols. -/
def codeword (w : Stored) : List Nat :=
  xorList (natBytes (w.toNat >>> 512) 16) storeK ++ natBytes (w.toNat % 2 ^ 512) 64

/-- A codeword's data with errors taken out. -/
def repair (c : List Nat) (es : List (Nat × Nat)) : Line :=
  let c := es.foldl (fun c e => c.set e.1 (c.getD e.1 0 ^^^ e.2)) c
  BitVec.ofNat 512 (bytesNat (c.drop 16))

/-- Symbols whose value a correction changes. -/
def changed (es : List (Nat × Nat)) : Nat := (es.filter fun e => e.2 != 0).length

/-- The decoder (R276); `er` is the erased device of the line's rank with its EXTRA value. -/
def decodeStored (er : Option (Nat × Nat)) (w : Stored) : DecRes :=
  let c := codeword w
  let s := syndromes c
  let sp := syndromes (poisonP ++ List.replicate 64 0)
  let raw : Line := BitVec.ofNat 512 (w.toNat % 2 ^ 512)
  if s = List.replicate 16 0 then ⟨.clean, raw, 0⟩
  else if s = sp then ⟨.poison, poisonLine, 0⟩
  else match er with
    | some (dev, x) =>
      match explainErased dev x s with
      | some es => ⟨.erased, repair c es, changed es⟩
      | none =>
        match explainErased dev x (xorList s sp) with
        | some _ => ⟨.poison, poisonLine, 0⟩
        | none => ⟨.uncorrectable, raw, 0⟩
    | none =>
      match explainDevice s with
      | some (d, es) => ⟨.corrected d, repair c es, changed es⟩
      | none =>
        match explainDevice (xorList s sp) with
        | some _ => ⟨.poison, poisonLine, 0⟩
        | none => ⟨.uncorrectable, raw, 0⟩

end Sys2Proof.Machine
end

