-- ==== Sys2Proof/Machine/Port.lean ====
section
/-! DEFINITION. Host ports and their window check units (chapters 2 and 3): requests and write data entering,
protocol errors, the window decision, port states, the choice of response beats. -/

namespace Sys2Proof.Machine

/-! ### Protocol errors (R71 to R74, R487) -/

/-- PORT_PERR takes an error: the first is kept, COUNT and SEQ advance (R74, R457). -/
def Perr.take (e : Perr) (reason : Nat) (tag : BitVec 12) : Perr :=
  { reason := if e.reason = 0 then reason else e.reason
    tag := if e.reason = 0 then tag else e.tag
    count := satAdd 255 e.count 1
    seq := nextSeq e.seq }

/-- What the port does on a protocol error (R72, R487): an open port halts, a closing one stays CLOSING. DESIGN CHOICE: the
write-data beats that entered before the offending request stay in the buffer and count in its fill; R72 discards those that
entered after it (log entry 70). -/
def Port.err (q : Port) (reason : Nat) (tag : BitVec 12) : Port :=
  { q with
    mode := if q.mode = .isOpen then .halted else q.mode
    haltPin := true
    discard := true
    perr := q.perr.take reason tag }

/-- A protocol error at port `p`, with its source (R72). -/
def State.portErr (s : State) (p : PortId) (reason : Nat) (tag : BitVec 12) : State :=
  (s.modPort p fun q => q.err reason tag).raise (480 + p.val)

/-- The port checks what enters: OPEN or HELD, or CLOSING unless it discards (R487). DESIGN CHOICE: R487 has a port in
CLOSING act under R72 on an error and does not say whether it goes on checking what it then discards; the model checks
nothing more there and counts nothing more, as R487 says of HALTED (log entry 60). -/
def Port.checks (q : Port) : Bool := q.mode == .isOpen || (q.mode == .closing && !q.discard)

/-- The first protocol error of a request in the order of R74: no credit, parity, then the lowest number. -/
def reqError (q : Port) (w : BitVec 144) (par : BitVec 18) : Option Nat :=
  if q.reqCrd = 0 then some 8
  else if !parityOk w par then some 13
  else match opcOf (field w 3 0) with
    | none => some 1
    | some o =>
      let r := reqOf o w
      match shapeError r with
      | some e => some e
      | none =>
        if o = .nop then none
        else if q.tags.contains r.tag then some 6
        else if 1024 ≤ q.tags.length then some 7
        else if !o.isWrite then none
        else match q.wdGroups with
          | [] => some 11
          | g :: _ => if g.length = r.lines then none else some 12

/-! ### Responses decided for a whole request (R49, R58) -/

/-- The response beats of a request that a CODE answers as a whole; they carry no data (R49). -/
def codeBeats (r : Req) (code : Code) (sent : List Nat) : List Rsp :=
  if r.opc.isRead then
    ((List.range (r.len + 1)).filter fun i => !sent.contains i).map fun i => { lidx := i, code := code }
  else [{ lidx := 0, code := code }]

/-- Every beat still to leave carries `code` (R58, R63). -/
def Flight.answer (f : Flight) (code : Code) : Flight :=
  { f with code := some code, settled := true, ready := codeBeats f.req code f.sent }

/-- A request answered with `code` on entry, without admission checks (R486). -/
def flightOf (id : Nat) (r : Req) (code : Code) : Flight :=
  { id := id, req := r, epoch := 0, cls := .bulk, strictOrder := false, code := some code, settled := true,
    ready := codeBeats r code [], left := r.beats }

/-- The buffered requests that are answered, as flights (R63): all but NOPs. -/
def Port.bufferedAbsent (q : Port) : List Flight :=
  (q.reqBuf.filter fun r => r.req.opc != .nop).map fun r => flightOf r.id r.req .absent

/-- What the buffer holds is answered ABSENT and leaves it (R63). -/
def Port.answerBuffered (q : Port) : Port := { q with flights := q.flights ++ q.bufferedAbsent, reqBuf := [] }

/-! ### Entering (R39, R45 to R47, R486) -/

/-- What enters a SAFE port under a credit leaves the request buffer at once, and its credit returns (R486). -/
def Port.passCredit (q : Port) : Port := { q with reqCrd := q.reqCrd - 1 }.returnReq 1

/-- A request enters a SAFE port: answered ABSENT with its TAG; a NOP or a reserved opcode only passes its credit (R486). -/
def State.safeRequest (s : State) (p : PortId) (w : BitVec 144) : State :=
  if (s.port p).reqCrd = 0 then s
  else
    let t := s.modPort p Port.passCredit
    match opcOf (field w 3 0) with
    | none => t
    | some .nop => t
    | some o =>
      (t.modPort p fun q => { q with flights := q.flights ++ [flightOf s.nextId (reqOf o w) .absent] }).stamp

/-- A request without error enters the buffer with its write-data group (R46, R52). -/
def State.bufferRequest (s : State) (p : PortId) (r : Req) : State :=
  let bad := s.armedG 0 p.val
  ((s.modPort p fun q =>
    { q with
      reqCrd := q.reqCrd - 1
      wdGroups := if r.opc.isWrite then q.wdGroups.tail else q.wdGroups
      reqBuf := q.reqBuf ++ [{ id := s.nextId, req := r
                               data := if r.opc.isWrite then q.wdGroups.headD [] else []
                               bad := bad }] }).spendG bad).stamp

/-- HPn_REQ_V with word `w` and parity `par`. In the safe state a CLOSING port answers at once what still enters (R58
condition 1, R63, R75). -/
def State.takeRequest (s : State) (p : PortId) (w : BitVec 144) (par : BitVec 18) : State :=
  let q := s.port p
  if q.mode = .safe then s.safeRequest p w
  else if q.checks then
    match reqError q w par with
    | some reason => (s.portErr p reason (tagOf w)).updFlood p
    | none =>
      match opcOf (field w 3 0) with
      | none => s
      | some o =>
        let s := s.bufferRequest p (reqOf o w)
        (if s.fcol.safe then s.modPort p Port.answerBuffered else s).updFlood p
  else s

/-- HPn_WD_V with a beat (R46, R71). A SAFE port discards a beat that enters under a credit and returns the credit (R78,
R486). -/
def State.takeBeat (s : State) (p : PortId) (d : Line) (par : BitVec 64) (last : Bool) : State :=
  let q := s.port p
  if q.mode = .safe then
    if q.wdCrd = 0 then s
    else s.modPort p fun q => { q with wdCrd := q.wdCrd - 1 }.returnWd 1 s.mill.withhold
  else if q.checks then
    if q.wdCrd = 0 then s.portErr p 9 0
    else if !parityOk d par then s.portErr p 14 0
    else
      let bad := s.armedG 1 p.val
      let b : Beat := { data := d, bad := bad }
      ((s.modPort p fun q =>
        { q with
          wdCrd := q.wdCrd - 1
          wdOpen := if last then [] else q.wdOpen ++ [b]
          wdGroups := if last then q.wdGroups ++ [q.wdOpen ++ [b]] else q.wdGroups }).spendG bad).updFlood p
  else s

/-- HPn_RSP_CRD: one response credit returns (R54, R71 REASON 10, R487). -/
def State.takeRspCredit (s : State) (p : PortId) : State :=
  let q := s.port p
  if q.mode = .closed then s
  else if 4095 ≤ q.rspCrd then (if q.checks then s.portErr p 10 0 else s)
  else s.modPort p fun q => { q with rspCrd := q.rspCrd + 1 }

/-! ### The window check unit (R81 to R95) -/

/-- ADDR and BASE agree from bit SIZE up, with a SIZE of 12 to 46 (R83). -/
def regionMatch (base size addr : Nat) : Bool :=
  decide (12 ≤ size) && decide (size ≤ 46) && addr >>> size == base >>> size

/-- BASE of a region register pair: BASE_LO in [31:12] of A, BASE_HI in [13:0] of B. -/
def regionBase (a b : Word) : Nat := field a 31 12 * 2 ^ 12 + field b 13 0 * 2 ^ 32

/-- A window pair in force matches the address (R83). -/
def winMatch (a b : Word) (addr : Nat) : Bool := flag a 0 && regionMatch (regionBase a b) (field b 19 14) addr

/-- The lowest-numbered enabled window that matches, with its registers (R84). -/
def State.window (s : State) (p : PortId) (addr : Nat) : Option (Nat × Word × Word) :=
  (List.range 32).findSome? fun w =>
    let a := s.live (portKey p.val (8 * w))
    let b := s.live (portKey p.val (8 * w + 4))
    if winMatch a b addr then some (w, a, b) else none

/-- The bit of WIN_A that the opcode needs, and the REASON when it is clear (R82, R93). -/
def needBit (o : Opc) : Nat × Nat :=
  if o.isRead then (1, 2) else if o.isWrite then (2, 3) else (3, 4)

/-- The address lies in an enabled default region (R87, R88). -/
def Port.inDefault (q : Port) (addr : Nat) : Bool :=
  q.defrgn.any fun ab => winMatch ab.1 ab.2 addr

/-- A WCU decision (R88): pass or the REASON, the deciding window, and the attributes. -/
structure WcuRes where
  pass : Bool
  reason : Nat := 0
  win : Nat := 0
  cache : BitVec 2 := 0
  order : Bool := false
  deriving DecidableEq, Repr

/-- The decision of R88. A window that matches gives its ordering attribute to the request even when it denies
(R64). -/
def State.wcu (s : State) (p : PortId) (r : Req) : WcuRes :=
  let q := s.port p
  match s.window p r.addr with
  | some (w, a, b) =>
    let cache := BitVec.ofNat 2 (field b 21 20)
    let (bit, reason) := needBit r.opc
    if flag a bit then { pass := true, win := w, cache := cache, order := flag b 22 }
    else { pass := false, reason := reason, win := w, cache := cache, order := flag b 22 }
  | none =>
    if r.priv then
      if flag q.defmap 3 && q.inDefault r.addr then
        { pass := true, cache := BitVec.ofNat 2 (field q.defmap 1 0), order := flag q.defmap 2 }
      else { pass := false, reason := 5 }
    else { pass := false, reason := 1 }

/-- A refusal fills or counts in the violation record (R92, R93). -/
def Vstat.take (v : Vstat) (r : Req) (d : WcuRes) : Vstat :=
  if v.valid then { v with count := satAdd 255 v.count 1, seq := nextSeq v.seq }
  else { valid := true, reason := d.reason, win := if d.reason = 2 ∨ d.reason = 3 ∨ d.reason = 4 then d.win else 0,
         priv := r.priv, wb := r.wb, opc := opcCode r.opc, count := 1, seq := nextSeq v.seq, addr := r.addr, tag := r.tag }

/-- A refusal by the WCU, with the source for a first one (R92). -/
def State.violate (s : State) (p : PortId) (r : Req) (d : WcuRes) : State :=
  let s' := s.modPort p fun q => { q with vstat := q.vstat.take r d }
  if (s.port p).vstat.valid then s' else s'.raise (504 + p.val)

/-- A writeback-class write outside write-back attribute counts in WCU_WBX (R91). -/
def State.countWbx (s : State) (p : PortId) (r : Req) (d : WcuRes) : State :=
  if d.pass && r.wb && r.opc.isWrite && d.cache != 2 then
    s.modPort p fun q => { q with wbx := { count := satAdd 65535 q.wbx.count 1, seq := nextSeq q.wbx.seq } }
  else s

/-! ### Port states (R73, R75) -/

/-- A cleared OPEN takes effect (R73): CLOSING from OPEN, HELD or HALTED. -/
def Port.beginClose (q : Port) : Port :=
  match q.mode with
  | .isOpen => { q with mode := .closing, haltPin := false, reopen := false }
  | .halted => { q with mode := .closing, haltPin := false, discard := true, reopen := false }
  | .closing | .closed => { q with reopen := false }
  | _ => q

/-- A set OPEN takes effect (R54, R73). -/
def Port.beginOpen (q : Port) (withhold : Bool) : Port :=
  match q.mode with
  | .closed => q.openUp withhold
  | .closing => { q with reopen := true }
  | _ => q

/-- A flight on entry to the safe state (R63): what has been decided, and a write that has been accepted, stand; every other beat is
ABSENT. -/
def Flight.toSafe (f : Flight) : Flight :=
  if f.code.isSome || (f.req.opc.isWrite && f.settled) then f else f.answer .absent

/-- Entry to the safe state at one port (R63). A SAFE port gives back the credits of what it held; no port leaves its
state afterwards, so a set OPEN no longer counts. -/
def Port.toSafe (q : Port) (withhold : Bool) : Port :=
  let n := q.reqBuf.length
  let beats := q.wdFill
  let q := { q with flights := q.flights.map Flight.toSafe, reopen := false }
  match q.mode with
  | .closed | .safe => q
  | .isOpen =>
    ({ q.answerBuffered with mode := .safe, wdOpen := [], wdGroups := [] }.returnReq n).returnWd beats withhold
  | .halted | .closing => q.answerBuffered

/-! ### Holds and response space (R56, R65, R75) -/

/-- Lines of the response buffer that admitted reads hold: those of the reads that went to the crossbar (R56). A read
with a CODE decided for the whole request holds none, since its beats carry no data (R49). -/
def Port.reserved (q : Port) : Nat := ((q.flights.filter fun f => f.req.opc.isRead && f.code.isNone).map (·.left)).sum

/-- The request is carried out in strict order: its STRICT bit, or the attribute of its window or default region
(R64). EFENCE, PFENCE and NOP are not strict requests (R65). -/
def State.isStrict (s : State) (p : PortId) (r : Req) : Bool :=
  (r.opc.isRead || r.opc.isWrite) && (r.strict || (s.wcu p r).order)

/-- HOLD of a port: 1 update mode, 2 sluice, 3 strict wait, 4 response space, 0 none (R75, R79, R99). -/
def State.holdCause (s : State) (p : PortId) : Nat :=
  let q := s.port p
  if q.updm then 1
  else if s.pers.strobe then 2
  else match q.reqBuf with
    | [] => 0
    | b :: _ =>
      if s.isStrict p b.req && q.flights.any (·.strictOrder) then 3
      else if b.req.opc.isRead && decide (512 < q.reserved + b.req.lines) then 4
      else 0

/-! ### Response beats (R48, R51, R59 to R61, R137, R212, R213) -/

/-- The millrace state answers host writes FENCED (R58 condition 3, R257). -/
def State.fenced (s : State) : Bool := s.mill.st == .fenced || s.mill.st == .resyncTgt

/-- The CODE with which a fence may complete now, if any (R211 to R213, R217). -/
def State.fenceReady (s : State) (f : Flight) : Option Code :=
  match f.code with
  | some c => some c
  | none =>
    if f.req.opc = .pfence then
      if s.fenced then some .fenced
      else if f.cover ≤ s.pers.dur then some .ok else none
    else if f.cover ≤ s.pers.loc then some .ok else none

/-- The beat that a flight can send now. -/
def State.beatOf (s : State) (f : Flight) : Option Rsp :=
  if f.req.opc = .efence ∨ f.req.opc = .pfence then (s.fenceReady f).map fun c => { lidx := 0, code := c }
  else if f.req.opc = .rds then f.ready.find? fun b => b.lidx == f.sent.length
  else f.ready.head?

/-- An RDS whose lines are all present and which has not begun (R137). -/
def Flight.wholeRds (f : Flight) : Bool := f.req.opc == .rds && f.sent.isEmpty && f.ready.length == f.left

/-- The flight whose beat leaves next (R137): an RDS under way; otherwise the earliest-admitted with a ready beat, an
RDS only once whole and with four credits, and waiting for those credits ahead of every other. -/
def State.chooseBeat (s : State) (p : PortId) : Option (Flight × Rsp) :=
  let q := s.port p
  let started := q.flights.find? fun f => f.req.opc == .rds && !f.sent.isEmpty
  match started with
  | some f => (s.beatOf f).map fun b => (f, b)
  | none =>
    (q.flights.find? fun f => if f.req.opc == .rds then f.wholeRds else (s.beatOf f).isSome).bind fun f =>
      if f.req.opc == .rds && decide (q.rspCrd < f.left) then none else (s.beatOf f).map fun b => (f, b)

/-- CACHE and ORDER of a beat (R48, R51). -/
def attrsOf (f : Flight) (code : Code) : BitVec 2 × Bool :=
  if f.req.opc = .efence then (0, false)
  else match code with
    | .ok => (f.cache, f.order)
    | .poison => (f.cache, f.order)
    | _ => (0, false)

/-- The beat on the wires (R48 to R51, R288 code 2). -/
def beatOut (f : Flight) (b : Rsp) : RspOut :=
  let code := if acts b.bad then Code.poison else b.code
  let (cache, order) := attrsOf f code
  { tag := f.req.tag, code := code, kind := kindOf f.req.opc, lidx := if f.req.opc.isRead then b.lidx else 0,
    last := f.left == 1, key := f.req.key, cache := cache, order := order, corr := b.corr && code == .ok,
    data := if acts b.bad then poisonLine else b.data }

/-- The flight once a beat has left. -/
def Flight.afterBeat (f : Flight) (b : Rsp) : Flight :=
  { f with ready := f.ready.filter (fun x => x.lidx != b.lidx), sent := f.sent ++ [b.lidx], left := f.left - 1 }

/-- Flights once `b` of `f` has left: a request with its LAST beat sent is no longer outstanding (R55). -/
def flightsAfter (l : List Flight) (f : Flight) (b : Rsp) : List Flight :=
  if f.left ≤ 1 then l.filter fun g => g.id != f.id else l.map fun g => if g.id = f.id then g.afterBeat b else g

/-- Read beats sent with CODE OK or POISON count in RDCNT (R471). -/
def countsRead (o : RspOut) : Bool := o.kind == 0 && (o.code == .ok || o.code == .poison)

/-- The port may send beats: not CLOSED, with a response credit, and not after SLUICE_DONE unless SAFE (R217). -/
def State.maySend (s : State) (p : PortId) : Bool :=
  let q := s.port p
  q.mode != .closed && decide (0 < q.rspCrd) && (!s.pers.done || q.mode == .safe)

end Sys2Proof.Machine
end

