-- ==== Sys2Proof/Machine/Grain.lean ====
section
/-! DEFINITION. The fresh map and the washing of granules (R114, R135, R293 to R302), the patch table's and the
staging's redirections (R320, R321, R329). -/

namespace Sys2Proof.Machine

/-! ### Fresh map (R293, R294) -/

/-- Lines of a granule. -/
def granLines : Nat := 65536

/-- C[39:22] of a channel-local line. -/
def granOf (line : Nat) : Nat := line / granLines

/-- Index of the fresh bit (R293). -/
def freshIx (c : ChanId) (gran : Nat) : Nat := c.val * 2 ^ 18 + gran

/-- The state of a line's granule (R294); a granule whose cursor has completed is written for reads and writes
(R300). -/
inductive GranState where
  | written
  | fresh
  | washing (g : WashG)
  deriving DecidableEq, Repr

/-- A granule that can be fresh: no part of it reaches into the reserved area or beyond CAP_GIB (R293). -/
def Geom.freshable (g : Geom) (gran : Nat) : Bool := decide (gran < g.reserved / granLines)

/-- The fresh map as it reads: bits that R293 excludes read 0. -/
def State.freshBits (s : State) : ISet :=
  allChans.foldl (fun (b : ISet) (c : ChanId) => b.del (freshIx c ((s.geom c).reserved / granLines)) (freshIx c (2 ^ 18)))
    s.fresh.bits

def State.granAt (s : State) (c : ChanId) (line : Nat) : GranState :=
  match (s.chan c).wash.find? fun g => g.gran == granOf line with
  | some g => if g.done < granLines then .washing g else .written
  | none =>
    if (s.geom c).freshable (granOf line) && s.fresh.bits.mem (freshIx c (granOf line)) then .fresh else .written

/-- The line lies behind the wash cursor: its wash write has issued (R296). -/
def WashG.behind (g : WashG) (line : Nat) : Bool :=
  decide ((line % granLines + granLines - g.start % granLines) % granLines < g.done)

/-- The line at the cursor. -/
def WashG.cursor (g : WashG) : Nat := g.gran * granLines + (g.start + g.done) % granLines

/-- A fresh-map lookup of a granule finds the injected byte bad: its 8 granules become not fresh and not washing
(R288 code 11). -/
def State.lookFresh (s : State) (c : ChanId) (line : Nat) : State :=
  match s.fresh.bad with
  | none => s
  | some (byte, b) =>
    if freshIx c (granOf line) / 8 = byte then
      let s := s.readG 532 (some b)
      if b.checkOnly then { s with fresh := { s.fresh with bad := none } }
      else
        let ch : ChanId := c
        ({ s with fresh := { s.fresh with bits := s.fresh.bits.del (8 * byte) (8 * byte + 8), bad := none } }).modChan ch
          fun k =>
            let gone := (k.wash.filter fun (g : WashG) => freshIx ch g.gran / 8 == byte).map fun (g : WashG) => g.gran
            { k with wash := k.wash.filter fun g => freshIx ch g.gran / 8 != byte
                     wq := k.wq.filter fun w => w.issued || !(match w.purp with | .wash g => gone.contains g | _ => false) }
    else s

/-- The fresh bits of lines are read (R287). -/
def State.lookLines (s : State) (ls : List (ChanId × Nat)) : State :=
  ls.foldl (fun (s : State) (x : ChanId × Nat) => s.lookFresh x.1 x.2) s

/-- The fresh bits of a stripe's five lines are read. -/
def State.lookStripe (s : State) (m : SetId) (st : Nat) : State := s.lookLines ((setChans m).map fun c => (c, st))

/-- A word of the fresh map is written: an armed injection of code 11 goes into its byte lane. DESIGN CHOICE: the map's words
are of 8 bytes, as the fill writes it, and a lane beyond them counts modulo 8 (log entry 73). -/
def State.writeFresh (s : State) (ix : Nat) : State :=
  match s.armedG 11 0 with
  | none => s
  | some b => ({ s with fresh := { s.fresh with bad := some (ix / 64 * 8 + b.lane % 8, b) } }).spendG (some b)

/-- Granules that wash: those whose cursor has completed no longer count (R298, R300). -/
def Chan.washing (k : Chan) : Nat := (k.wash.filter fun g => g.done != granLines).length

/-- A write to a fresh granule marks it washing, its cursor at the line (R114, R296), unless four wash already (R298);
a write to the granule under background wash turns that wash immediate (R299). -/
def State.touchFresh (s : State) (c : ChanId) (line : Nat) : State :=
  let s := s.lookFresh c line
  match s.granAt c line with
  | .fresh =>
    if (s.chan c).washing < 4 then
      s.modChan c fun k =>
        { k with wash := k.wash ++ [{ gran := granOf line, start := line % granLines, done := 0, bg := false }] }
    else s
  | .washing g =>
    if g.bg then
      s.modChan c fun k =>
        { k with wash := k.wash.map fun h => if h.gran = g.gran then { h with bg := false } else h }
    else s
  | .written => s

/-- A write of the line waits on a wash: its granule is fresh and has no cursor yet, or the cursor has not passed
(R135, R294, R298). In the sluice no wash goes on, and it waits only for a wash write of its line that is queued (R203,
R301). -/
def State.waitsWash (s : State) (c : ChanId) (line : Nat) : Bool :=
  if s.pers.strobe then (s.chan c).wq.any fun w => !w.issued && w.home == line && (match w.purp with | .wash _ => true | _ => false)
  else match s.granAt c line with
  | .fresh => true
  | .washing g => !g.behind line
  | .written => false

/-! ### Patch table and staging (R320, R321, R329) -/

/-- Region line `r` of the spare-line region (R320). -/
def Geom.spareLine (g : Geom) (r : Nat) : Nat := g.reserved + r

/-- Word `i` of the patch table. -/
def Patch.entry (p : Patch) (i : Nat) : PatchE := p.tab.toList.getD i {}

def Patch.putEntry (p : Patch) (i : Nat) (e : PatchE) : Patch := { p with tab := if h : i < 64 then p.tab.put ⟨i, h⟩ e else p.tab }

/-- The patch entry of a line, if it is not FREE. -/
def Chan.patchOf (k : Chan) (line : Nat) : Option PatchE :=
  k.patch.tab.toList.find? fun e => e.st != 0 && e.line == line

/-- Column line `j` of the row whose column line 0 is `row` (R107). -/
def Geom.rowLine (g : Geom) (row j : Nat) : Nat := row + 2 * (j % 4) + 8 * 2 ^ g.bg * 2 ^ g.ba * (j / 4)

/-- The lines that an access to `line` goes to, and whether it waits (R321): a staged line goes to its staging line,
and one whose copy is in hand waits (R329 step 3). -/
def Chan.target (k : Chan) (g : Geom) (line : Nat) (write : Bool) : List Nat × Bool :=
  match k.patchOf line with
  | some e =>
    let sp := g.spareLine e.spare
    match e.st with
    | 1 => ([line], true)
    | 2 => (if write then [line, sp] else [line], false)
    | 3 => ([sp], false)
    | _ => (if write then [sp, line] else [sp], false)
  | none =>
    let copying := k.ppr.line == some line
    match k.patch.redir.find? fun r => r.1 == line with
    | some r => ([r.2], copying)
    | none => ([line], copying)

/-- An access of stamp `id` to a line of the stripe at a rebuild cursor waits: it came after the stripe began (R339). -/
def State.atRebuildCursor (s : State) (c : ChanId) (line id : Nat) : Bool :=
  let sp := s.span (setOf c)
  s.spanMode (setOf c) && sp.st == 2 && sp.reb.on && sp.reb.walking && sp.reb.begun && sp.reb.cur == line
    && decide (sp.reb.stamp ≤ id)

end Sys2Proof.Machine
end

