-- ==== Sys2Proof/Machine/Path.lean ====
section
/-! DEFINITION. From port to channel queue (chapter 4): crossbar, acceptance, eddy buffer, stripe records, write
forms and their internal reads. -/

namespace Sys2Proof.Machine

def allOnes : BitVec 64 := BitVec.allOnes 64

/-- Bytes of `new` enabled by `mask` over `old` (R123, R126). -/
def mergeBytes (old new : Line) (mask : BitVec 64) : Line :=
  BitVec.ofNat 512 (natOfBytes ((List.range 64).map fun i =>
    BitVec.ofNat 8 ((if mask.getLsbD i then new else old).toNat >>> (8 * i))))

/-- Disabled bytes of a beat as zeros (R245). -/
def maskBytes (d : Line) (mask : BitVec 64) : Line := mergeBytes 0 d mask

/-! ### Earlier writes of a row or a line (R127, R130, R131, R135, R321) -/

/-- The lines that a write of channel-local line `line` will go to: its home, or its patch and staging targets (R321). -/
def State.writeLines (s : State) (c : ChanId) (line : Nat) : List Nat := ((s.chan c).target (s.geom c) line true).1

/-- Writes earlier than stamp `id` that have not issued, of the line `home` or of the row of `loc`, to which a read of it goes:
queued, in the eddy buffer, or awaiting internal reads (R131, R321). -/
def State.earlierRowWrite (s : State) (c : ChanId) (home loc id : Nat) : Bool :=
  let g := s.geom c
  let k := s.chan c
  let row := fun (line : Nat) => line == home || (s.writeLines c line).any fun l => g.sameRow l loc
  (k.wq.any fun w => !w.issued && decide (w.id < id) && (w.home == home || g.sameRow w.loc loc))
    || (k.eddy.any fun e => decide (e.id < id) && row e.line)
    || s.forms.any fun f =>
        (f.lines.any fun l => l.ch == c && decide (l.wid < id) && row l.line)
          || (match f.par with | some (pc, pl, w) => pc == c && decide (w < id) && row pl | none => false)

/-- Earlier writes of a line that have not issued, other than those of form `f` (R127, R130). -/
def State.earlierLineWrite (s : State) (c : ChanId) (line id : Nat) (f : Option Nat) : Bool :=
  let k := s.chan c
  (k.wq.any fun w => !w.issued && decide (w.id < id) && w.home == line)
    || (k.eddy.any fun e => decide (e.id < id) && e.line == line)
    || s.forms.any fun g => some g.id != f &&
        ((g.lines.any fun l => l.ch == c && decide (l.wid < id) && l.line == line)
          || (match g.par with | some (pc, pl, w) => pc == c && decide (w < id) && pl == line | none => false))

/-! ### Entering the channel queues (R119, R288 codes 3 and 4, R321) -/

/-- Word `i` of the patch table is read: a bad byte fails the channel (R288 code 8). -/
def State.readEntry (s : State) (c : ChanId) (i : Nat) : State :=
  match ((s.chan c).patch.entry i).bad with
  | none => s
  | some b =>
    let s := s.modChan c fun k =>
      { k.hitC (some b) with
        patch := k.patch.putEntry i { k.patch.entry i with bad := none }
        failDue := if b.checkOnly then k.failDue else 3 }
    if b.checkOnly then s else s.raiseChan c 22

/-- The word of the line's entry is read. -/
def State.readPatch (s : State) (c : ChanId) (line : Nat) : State :=
  match (s.chan c).patch.tab.toList.findIdx? fun e => e.st != 0 && e.line == line with
  | none => s
  | some i => s.readEntry c i

/-- The whole table is read. -/
def State.readTable (s : State) (c : ChanId) : State :=
  (List.range 64).foldl (fun (s : State) (i : Nat) => s.readEntry c i) s

/-- An installation reads its entry and goes on with it; a bad byte that acts leaves nothing to go on with (R287, R288 code 8). -/
def State.withEntry (s : State) (c : ChanId) (i : Nat) (f : State → PatchE → State) : State :=
  if acts ((s.chan c).patch.entry i).bad then s.readEntry c i else f (s.readEntry c i) ((s.readEntry c i).chan c |>.patch.entry i)

/-- Word `i` of the table is written; it takes an armed parity injection of code 8 with it (R291). -/
def Chan.setPatch (k : Chan) (i : Nat) (e : PatchE) : Chan :=
  let bad := k.armedC 8
  { k.spendC bad with patch := k.patch.putEntry i { e with bad := bad } }

/-- The word of the line's entry is written. -/
def Chan.setLine (k : Chan) (line : Nat) (f : PatchE → PatchE) : Chan :=
  match k.patch.tab.toList.findIdx? fun e => e.st != 0 && e.line == line with
  | none => k
  | some i => k.setPatch i (f (k.patch.entry i))

/-- The stamp at which an internal read of a form stands: that of the write it serves (R127). -/
def State.formStamp (s : State) (f key : Nat) : Nat :=
  match s.forms.find? fun g => g.id == f with
  | none => 0
  | some g =>
    if key = 4 then (match g.par with | some (_, _, w) => w | none => g.id)
    else match g.lines.find? fun l => l.idx == key with
      | some l => l.wid
      | none => g.id

/-- The stamp at which a read of queue entry `id` stands: that of its write for an internal read, the start of the copy for the
read of a copy in hand (R127, R131, R322, R329). -/
def State.standing (s : State) (c : ChanId) (purp : Purp) (id : Nat) : Nat :=
  let k := s.chan c
  match purp with
  | .form f key => s.formStamp f key
  | .patchRead => if k.patch.inst.isSome then k.patch.copyAt else id
  | .pprRead => if k.ppr.line.isSome then k.ppr.copyAt else id
  | _ => id

/-- An access of stamp `id` to a line waits for the copy in hand: it came after the copy began (R321, R322, R329). -/
def Chan.waitsCopy (k : Chan) (g : Geom) (line id : Nat) : Bool :=
  (k.target g line true).2
    && decide ((match k.patchOf line with | some _ => k.patch.copyAt | none => k.ppr.copyAt) ≤ id)

/-- The DCLK of the selector that line `loc` belongs to (R151). -/
def Chan.now (k : Chan) (g : Geom) (loc : Nat) : Nat := (k.sel.at (g.place loc).sub).dclk

/-- A read enters the channel's read queue, at its patch or staging target (R116, R321). -/
def State.pushRead (s : State) (c : ChanId) (purp : Purp) (line : Nat) (cls : Cls) (epoch : Nat := 0)
    (src : Option Src := none) (orig : Orig := {}) : State :=
  let s := s.readPatch c line
  let g := s.geom c
  let id := s.nextId
  let at_ := s.standing c purp id
  (s.modChan c fun k =>
    let loc := (k.target g line false).1.headD line
    let bad := k.armedC 3
    { k.spendC bad with
      rq := k.rq ++ [{ id := id, purp := purp, home := line, loc := loc, cls := cls, epoch := epoch, src := src, orig := orig,
                       since := k.now g loc, held := k.waitsCopy g line at_, bad := bad }] }).stamp

/-- A scrubbed line whose write-back still waited for an entry is done with when a write to it is accepted (R315). -/
def Chan.staleScrub (k : Chan) (line : Nat) : Scrub :=
  let cut := k.scrub.stage == .writing && k.backs.any fun w => w.home == line && w.purp == .scrubWb
  { k.scrub with stale := k.scrub.stale || k.scrub.cur == line, stage := if cut then .dropped else k.scrub.stage }

/-- A write to the line has been accepted: a write-back of it that is being prepared is to be dropped (R175, R315). -/
def State.markStale (s : State) (c : ChanId) (line : Nat) : State :=
  let s : State :=
    { s with recons := s.recons.map fun r => if r.ch = c ∧ r.line = line then { r with stale := true } else r }
  s.modChan c fun k =>
    { k with backs := k.backs.filter fun w => w.home != line || !(w.purp == .writeBack || w.purp == .scrubWb)
             scrub := k.staleScrub line
             ppr := { k.ppr with stale := k.ppr.stale || k.ppr.line == some line } }

/-- A write line enters the channel's write queue, once for each target line (R116, R321). Its `id` orders it (R130), a second entry
has the stamp after the next, `born` is the
DCLK in which it came to the channel, if it has waited there already (R151). -/
def State.pushWrite (s : State) (c : ChanId) (w : WrE) (born : Option Nat := none) : State :=
  let s := s.readPatch c w.home
  let g := s.geom c
  let next := s.nextId + 1
  (s.modChan c fun k =>
    let locs := (k.target g w.home true).1
    let held := k.waitsCopy g w.home w.id
    let bad := k.armedC 4
    let since := born.getD (k.now g (locs.headD w.home))
    let first : WrE := { w with loc := locs.headD w.home, held := held, since := since, bad := bad }
    let rest := (locs.drop 1).map fun l => { w with id := next, loc := l, held := held, since := since }
    { k.spendC bad with wq := k.wq ++ first :: rest }).stamp.stamp

/-- A write line of the core's own at an absolute line: no patch lookup (tally, spare and staging lines). -/
def State.pushRaw (s : State) (c : ChanId) (w : WrE) : State :=
  let g := s.geom c
  (s.modChan c fun k =>
    let bad := k.armedC 4
    { k.spendC bad with wq := k.wq ++ [{ w with since := k.now g w.loc, bad := bad }] }).stamp

/-- A read of the core's own at an absolute line. -/
def State.pushRawRead (s : State) (c : ChanId) (purp : Purp) (line : Nat) (cls : Cls) : State :=
  let id := s.nextId
  let g := s.geom c
  (s.modChan c fun k =>
    let bad := k.armedC 3
    { k.spendC bad with
      rq := k.rq ++ [{ id := id, purp := purp, home := line, loc := line, cls := cls, since := k.now g line,
                       bad := bad }] }).stamp

/-! ### Room (R116, R118, R204) -/

/-- Purposes of reads that use the 16 reserved entries (R116, R127). -/
def Purp.internal : Purp → Bool
  | .form _ _ | .parity => true
  | _ => false

def Chan.hostReads (k : Chan) : Nat := (k.rq.filter fun e => !e.purp.internal).length
def Chan.innerReads (k : Chan) : Nat := (k.rq.filter fun e => e.purp.internal).length

/-- Lines that a transferred write will hold, parity included, with their channels (R117, R204). -/
def newLines (e : XEntry) : List (ChanId × Nat) :=
  let ls := e.lines.map fun l => (l.ch, l.line)
  match e.dest with
  | .chan _ => ls
  | .span m => ls ++ [(chanOf m (parPos e.stripe), e.stripe)]

/-- A write of a whole stripe (R122). -/
def XEntry.wholeStripe (e : XEntry) : Bool := e.lines.length == 4 && e.lines.all fun x => x.mask == allOnes

/-- The lines that go straight to write queues, with their channels: full lines of a plain set, and a whole stripe
(R122). -/
def queueLines (e : XEntry) : List (ChanId × Nat) :=
  match e.dest with
  | .chan _ => (e.lines.filter fun x => x.mask == allOnes).map fun x => (x.ch, x.line)
  | .span _ => if e.wholeStripe then newLines e else []

/-- Unissued write lines of the bank of `line` at channel `c`: queued, in the eddy buffer, awaiting internal reads,
taken from the crossbar, and parity lines of open stripe records (R204). -/
def State.bankLoad (s : State) (c : ChanId) (line : Nat) : Nat :=
  let g := s.geom c
  let k := s.chan c
  let same := fun l => g.sameBank l line
  (k.wq.filter fun w => !w.issued && same w.loc).length
  + (k.eddy.filter fun e => same e.line).length
  + ((s.forms.map fun f => (f.lines.filter fun l => l.ch == c && same l.line).length
      + (match f.par with | some (pc, pl, _) => if pc = c ∧ same pl then 1 else 0 | none => 0)).sum)
  + ((s.xbar.taken.map fun e => ((newLines e).filter fun x => x.1 == c && same x.2).length).sum)
  + ((s.span (setOf c)).recs.filter fun r => parPos r.stripe == posOf c && same r.stripe).length

/-- Lines that stand beside the 256 entries of the write queue. DESIGN CHOICE: R230 puts a tally line's contents in its entry of
the mark list, and the zero of a clean mark comes before every queued command (R234); neither could wait for an entry that
the lines waiting for it fill (log entry 77). -/
def Purp.apart : Purp → Bool
  | .tally _ _ _ | .cleanZero => true
  | _ => false

/-- Write-queue entries in use (R116). -/
def Chan.wqFill (k : Chan) : Nat := (k.wq.filter fun w => !w.purp.apart).length

/-- Write-queue entries that a line needs: a patched line in DUAL or RELEASE is written to two places (R321). -/
def State.writeCost (s : State) (c : ChanId) (line : Nat) : Nat := ((s.chan c).target (s.geom c) line true).1.length

/-- Write-queue entries of channel `c` that lines need. -/
def State.writeCosts (s : State) (c : ChanId) (ls : List (ChanId × Nat)) : Nat :=
  ((ls.filter fun x => x.1 == c).map fun x => s.writeCost c x.2).sum

/-- A granule of the channel is fresh. -/
def State.anyFresh (s : State) (c : ChanId) : Bool :=
  match s.fresh.bits.next (freshIx c 0) with
  | some ix => decide (ix < freshIx c ((s.geom c).reserved / granLines))
  | none => false

/-- Entries that a wash write has in the write queue. -/
def Chan.washFill (k : Chan) : Nat := (k.wq.filter fun w => match w.purp with | .wash _ => true | _ => false).length

/-- Entries kept free for wash writes, two for each of four granules, while a granule of the channel washes or may begin to
(R298). DESIGN CHOICE: the spec says that washes hold entries, up to 32, and not how they come by them; a wash that waited for
the entries of the writes that wait on it would never end (log entry 77). -/
def State.washKept (s : State) (c : ChanId) : Nat :=
  if (s.chan c).wash.isEmpty && !s.anyFresh c then 0 else 8 - (s.chan c).washFill

/-- Free write-queue entries of a channel, less those that taken writes and washes will need (R116, R118, R298). After the
strobe no taken write is accepted (R216) and no wash write starts (R301). -/
def State.wqRoom (s : State) (c : ChanId) : Nat :=
  256 - ((s.chan c).wqFill + if s.pers.strobe then 0 else
    s.washKept c + (s.xbar.taken.map fun e => if e.write then s.writeCosts c (queueLines e) else 0).sum)

/-- The read queue has room for a read that is no internal one (R116). -/
def State.rqRoom (s : State) (c : ChanId) : Bool := decide ((s.chan c).hostReads < 176)

/-- The channel takes traffic from the crossbar: it is not entering, in or leaving IDLE past its gate (R384). -/
def State.entryOpen (s : State) (c : ChanId) : Bool :=
  let k := s.chan c
  k.pwrst == 0 || (k.pwrst == 1 && k.gate.isSome)

/-- The channels that a transferred request needs. -/
def State.chansOf (s : State) (e : XEntry) : List ChanId :=
  match e.dest with
  | .chan c => [c]
  | .span m => (setChans m).filter fun c => !(s.chan c).away

/-- The lines of a read that need a read-queue entry, at each channel that it goes to: those of fresh granules are answered at
the crossbar (R114). -/
def State.readNeed (s : State) (e : XEntry) : Nat := (e.lines.filter fun x => s.granAt x.ch x.line != .fresh).length

/-- The destination can hold the whole request now (R112, R118, R204, R384). -/
def State.canHold (s : State) (e : XEntry) : Bool :=
  (s.chansOf e).all s.entryOpen &&
  (if e.write then
    (newLines e).all fun (c, line) =>
      let same := (newLines e).filter fun x => x.1 == c && (s.geom c).sameBank x.2 line
      ((s.chan c).away || (decide (s.writeCosts c (queueLines e) ≤ s.wqRoom c)
        && decide (s.bankLoad c line + same.length ≤ 128)))
  else
    s.readNeed e == 0 ||
    match e.dest with
    | .chan c => decide ((s.chan c).hostReads + s.readNeed e ≤ 176)
    | .span m => (setChans m).all fun c => (s.chan c).away || decide ((s.chan c).hostReads + 1 ≤ 176))

/-- The requests touch a common line and one of them writes (R134). -/
def clash (a b : XEntry) : Bool :=
  (a.write || b.write) && a.lines.any fun x => b.lines.any fun y => x.ch == y.ch && x.line == y.line

/-- Two requests use the same room of destination `d`: read-queue entries, write-queue entries of one channel, or the
places that one bank has for writes (R112, R116, R118, R204). -/
def State.sharesRoom (s : State) (a b : XEntry) : Bool :=
  if a.write != b.write then false
  else if !a.write then s.readNeed a != 0 && s.readNeed b != 0
  else ((queueLines a).any fun x => (queueLines b).any fun y => x.1 == y.1)
    || (newLines a).any fun x => (newLines b).any fun y => x.1 == y.1 && (s.geom x.1).sameBank x.2 y.2

/-- An earlier request of the same source to a common line has not reached its queue (R113, R134). -/
def State.behind (s : State) (e : XEntry) : Bool :=
  (s.xbar.entries ++ s.xbar.taken).any fun o => o.src == e.src && decide (o.id < e.id) && clash o e

/-- A write of the line is held and has not issued: queued, in the eddy buffer, or awaiting internal reads. -/
def State.lineWrites (s : State) (c : ChanId) (line : Nat) : Bool :=
  let k := s.chan c
  (k.wq.any fun w => !w.issued && w.home == line) || (k.eddy.any fun e => e.line == line)
    || s.forms.any fun f => f.lines.any fun l => l.ch == c && l.line == line

/-! ### Write forms (R126, R128) -/

/-- What is known of an internal read of a form: nothing yet, it does not decode, or its data. -/
def Form.get (f : Form) (role : FRole) (idx : Nat) : Option (Option Line) :=
  (f.reads.find? fun r => r.role == role && r.idx == idx).bind (·.res)

/-- An internal read of a line: a fresh line that no earlier accepted write waits for is zeros without a read (R127, R295). -/
def State.formRead (s : State) (c : ChanId) (line idx : Nat) (role : FRole) : FRead :=
  { idx := idx, ch := c, line := line, role := role,
    res := if s.granAt c line = .fresh && !s.earlierLineWrite c line s.nextId none then some (some 0) else none }

/-- The form of a released line of a plain set (R126): its old value is read when it is partial. -/
def State.plainForm (s : State) (c : ChanId) (e : EddyE) : Form :=
  { id := s.nextId, stripe := none
    lines := [{ idx := 0, ch := c, line := e.line, data := e.data, mask := e.mask, wid := e.id, poison := e.poison
                orig := e.orig, born := e.born }]
    reads := if e.mask = allOnes then [] else [s.formRead c e.line 0 .old]
    epoch := e.epoch, cls := e.cls, src := e.src, orig := e.orig }

/-- The internal reads of a stripe's form (R126). `ws` are its written lines, `rcw` asks for a reconstruct-write. -/
def State.stripeReads (s : State) (m : SetId) (stripe : Nat) (ws : List FLine) (rcw : Bool) : List FRead :=
  let at_ := fun i => chanOf m (dataPos stripe i)
  let lost := fun i => s.lineLost m (dataPos stripe i) stripe
  let written := fun i => ws.any fun w => w.idx == i
  let partial_ := fun i => ws.any fun w => w.idx == i && w.mask != allOnes
  let rd := fun (role : FRole) (is : List Nat) => is.map fun i => s.formRead (at_ i) stripe i role
  let idxs := List.range 4
  let par := [s.formRead (chanOf m (parPos stripe)) stripe 4 .par]
  let others := rd .other (idxs.filter fun i => !written i && !lost i)
  let olds := rd .old (idxs.filter fun i => written i && !lost i)
  let partOlds := rd .old (idxs.filter fun i => partial_ i && !lost i)
  if ws.length = 4 ∧ ws.all (fun w => w.mask == allOnes) then []
  else if s.lineLost m (parPos stripe) stripe then partOlds
  else if idxs.any fun i => written i && lost i then
    if idxs.any fun i => partial_ i && lost i then others ++ olds ++ par else others ++ partOlds
  else if rcw then others ++ partOlds
  else olds ++ par

/-- The positions of a stripe that count as absent, by data index, 4 for parity (R126, R333). -/
def State.stripeGone (s : State) (m : SetId) (stripe : Nat) : List Nat :=
  ((List.range 4).filter fun i => s.lineLost m (dataPos stripe i) stripe)
    ++ if s.lineLost m (parPos stripe) stripe then [4] else []

/-- The form of a released or full stripe (R126). -/
def State.stripeForm (s : State) (m : SetId) (stripe : Nat) (ws : List FLine) (epoch : Nat) (cls : Cls) (src : Src)
    (orig : Orig) (rcw : Bool) : Form :=
  { id := s.nextId, stripe := some (m, stripe), lines := ws, reads := s.stripeReads m stripe ws rcw
    par := if s.lineLost m (parPos stripe) stripe then none
           else some (chanOf m (parPos stripe), stripe, s.nextId + 1)
    rcw := rcw, gone := s.stripeGone m stripe, epoch := epoch, cls := cls, src := src, orig := orig }

/-- A form joins the released lines; two stamps order it and its parity. -/
def State.addForm (s : State) (f : Form) : State := { s with forms := s.forms ++ [f], nextId := s.nextId + 2 }

/-- A merge onto poison, or parity written with the poison signature, is recorded (R128, R129). -/
def State.psnEvent (s : State) (c : ChanId) (line : Nat) (par : Bool) : State :=
  (s.modChan c fun k =>
    let r := k.psn
    { k with psn := { valid := true, flag := if r.valid then r.flag else par, line := if r.valid then r.line else line,
                      count := satAdd 255 r.count 1, seq := nextSeq r.seq } }).raiseChan c 2

/-- How one written line of a form comes out: its value, or poison (R126, R128). -/
structure Written where
  val : Line
  poison : Bool
  /-- Its old value was needed and could not be had (R128). -/
  lost : Bool
  deriving DecidableEq, Repr

/-- Exclusive-OR of lines. -/
def xorLines (ls : List Line) : Line := ls.foldl (· ^^^ ·) 0

/-- The value on DRAM of data line `i` as the form's reads know it. -/
def Form.old (f : Form) (i : Nat) : Option Line :=
  ((f.get .old i).join).or ((f.get .other i).join)

/-- The old value of line `i` from parity and the other three lines (R128); a result equal to the poison data
pattern counts as poisoned (R138). -/
def Form.rebuilt (f : Form) (i : Nat) : Option Line :=
  match (f.get .par 4).join, ((List.range 4).filter (· != i)).map f.old with
  | some p, ls =>
    if ls.all Option.isSome then
      let v := xorLines (p :: ls.map fun l => l.getD 0)
      if v = poisonLine then none else some v
    else none
  | none, _ => none

/-- The new value of a written line (R126, R128, R284). -/
def Form.newLine (f : Form) (w : FLine) : Written :=
  if w.poison then { val := poisonLine, poison := true, lost := false }
  else if w.mask = allOnes then { val := w.data, poison := false, lost := false }
  else match (f.get .old w.idx).join.or (if f.stripe.isSome then f.rebuilt w.idx else none) with
    | some old => { val := mergeBytes old w.data w.mask, poison := false, lost := false }
    | none => { val := poisonLine, poison := true, lost := true }

/-- Every internal read of the form has come back (R127). -/
def Form.done (f : Form) : Bool := f.reads.all fun r => r.res.isSome

/-- A read that the parity update needs does not decode, so the form goes over to reconstruct-write (R126). -/
def Form.failedRmw (f : Form) : Bool := f.reads.any fun r => r.role != .other && r.res == some none

/-- The new parity of a stripe's form, `none` for the poison signature (R126). -/
def Form.parity (f : Form) : Option Line :=
  let news := f.lines.map fun w => (w, f.newLine w)
  let whole := xorLines ((List.range 4).map fun i =>
    match news.find? fun x => x.1.idx == i with
    | some x => x.2.val
    | none => ((f.get .other i).join).getD 0)
  let othersOk := (f.reads.filter fun r => r.role == .other).all fun r => r.res != some none
  let lostWritten := news.filter fun x => f.gone.contains x.1.idx
  if f.reads.isEmpty then some whole
  else if !lostWritten.isEmpty then
    if othersOk && lostWritten.all (fun x => !x.2.lost) then some whole else none
  else if f.rcw then (if othersOk && f.gone.all (fun i => news.any fun x => x.1.idx == i) then some whole else none)
  else if f.failedRmw then none
  else
    some (xorLines (((f.get .par 4).join).getD 0 :: news.map (fun x => x.2.val)
      ++ news.map fun x => (f.old x.1.idx).getD 0))

/-- The written lines of a finished form go to the write queues (R126 to R128). -/
def State.writeForm (s : State) (f : Form) : State :=
  let page := f.stripe.map fun x => (x.1, stripePage x.2)
  let par := if f.stripe.isSome then f.par.map fun p => (p, f.parity) else none
  let put := fun (s : State) (w : FLine) =>
    let n := f.newLine w
    if f.gone.contains w.idx || (s.chan w.ch).dead then s
    else
      let s := if n.lost then s.psnEvent w.ch w.line false else s
      s.pushWrite w.ch { id := w.wid, purp := .form f.id w.idx, src := some f.src, home := w.line, loc := w.line,
                         data := n.val, enc := if n.poison then .poison else .code, cls := f.cls, epoch := f.epoch,
                         orig := w.orig, page := page } w.born
  let s := f.lines.foldl put s
  match par with
  | none => s
  | some ((c, line, wid), v) =>
    if (s.chan c).dead then s else
    let s := if v.isNone then s.psnEvent c line true else s
    s.pushWrite c { id := wid, purp := .parity, src := some f.src, home := line, loc := line, data := v.getD poisonLine,
                    enc := if v.isNone then .poison else .code, cls := f.cls, epoch := f.epoch, orig := f.orig, page := page }

/-- A stripe's form with every read back goes over to reconstruct-write where R126 asks for it, if it has not yet. -/
def Form.wantsRcw (f : Form) : Bool :=
  f.stripe.isSome && f.failedRmw && !f.rcw && !f.reads.isEmpty && f.gone.isEmpty

/-- The form with the unwritten data lines to read as well. -/
def State.toRcw (s : State) (f : Form) : Form :=
  match f.stripe with
  | none => f
  | some (m, st) =>
    let others := (List.range 4).filter fun i => !(f.lines.any fun w => w.idx == i)
    { f with rcw := true
             reads := f.reads ++ others.map fun i => s.formRead (chanOf m (dataPos st i)) st i .other }

/-- A reconstruct-write whose partial line does not decode tries to rebuild it from parity (R128): what that needs and has not
been read is read as well. -/
def Form.wantsPar (f : Form) : Bool :=
  f.stripe.isSome && f.rcw && f.gone.isEmpty && (f.get .par 4).isNone
    && f.lines.any fun w => w.mask != allOnes && !w.poison && f.get .old w.idx == some none

/-- The form with the old parity and the old values of its full lines to read as well. -/
def State.toPar (s : State) (f : Form) : Form :=
  match f.stripe with
  | none => f
  | some (m, st) =>
    let full := f.lines.filter fun w => (f.get .old w.idx).isNone
    { f with reads := f.reads ++ s.formRead (chanOf m (parPos st)) st 4 .par :: full.map fun w => s.formRead w.ch st w.idx .old }

/-- The lines that a form writes, parity included, with their channels. -/
def Form.targets (f : Form) : List (ChanId × Nat) :=
  (f.lines.map fun l => (l.ch, l.line)) ++ (f.par.map fun p => (p.1, p.2.1)).toList

/-- The write queues of the form's channels have room for its lines, beside what taken writes will need (R116, R118). -/
def State.formFits (s : State) (f : Form) : Bool :=
  f.targets.all fun x => (s.chan x.1).dead || decide (s.writeCosts x.1 f.targets ≤ s.wqRoom x.1)

/-- One form moves on: it reads more for a reconstruct-write or a rebuilding, or writes its lines and leaves. -/
def State.stepForm (s : State) (f : Form) : State :=
  if !f.done then s
  else if f.wantsRcw then
    let s := match f.stripe with | some (m, st) => s.lookStripe m st | none => s
    { s with forms := s.forms.map fun g => if g.id = f.id then s.toRcw g else g }
  else if f.wantsPar then
    let s := match f.stripe with | some (m, st) => s.lookStripe m st | none => s
    { s with forms := s.forms.map fun g => if g.id = f.id then s.toPar g else g }
  else if s.formFits f then
    let s := { s with forms := s.forms.filter fun g => g.id != f.id }
    s.writeForm f
  else s

/-- The internal read is out: in its queue, or on its way back. -/
def Chan.outForm (k : Chan) (f idx : Nat) : Bool :=
  (k.rq.any fun e => e.purp == .form f idx) || k.intRet.any fun r => r.f == f && r.k == idx

/-- Key of an internal read of a form: 8 for an unwritten line's, so that a line's old and other reads differ. -/
def FRead.key (r : FRead) : Nat := r.idx + (if r.role = .other then 8 else 0)

/-- A read of a form will not come back, and counts as one that does not decode (R126, R128). -/
def State.failRead (s : State) (f key : Nat) : State :=
  { s with forms := s.forms.map fun g =>
      if g.id = f then { g with reads := g.reads.map fun r => if r.key = key then { r with res := some none } else r }
      else g }

/-- The reads of a form that are due enter their read queues as reserved entries come free (R127). A line ahead of a
wash cursor that no queued write waits for is zeros (R135, R295). -/
def State.feedForm (s : State) (f : Form) : State :=
  f.reads.foldl (fun s r =>
    if r.res.isSome || (s.chan r.ch).outForm f.id r.key then s
    else if (s.chan r.ch).dead then s.failRead f.id r.key
    else if (s.chan r.ch).innerReads < 16 then
      s.pushRead r.ch (.form f.id r.key) r.line f.cls f.epoch (some f.src) f.orig
    else s) s

/-- Every form moves on as far as it can. -/
def State.feedForms (s : State) : State :=
  let s := s.forms.foldl State.stepForm s
  s.forms.foldl State.feedForm s

/-! ### Release (R124, R125) -/

/-- An eddy word is read on release: a bad data byte poisons the line, a bad address or tag byte fails the channel
(R288 code 5). -/
def State.readEddy (s : State) (c : ChanId) (e : EddyE) : State × EddyE :=
  match e.bad with
  | none => (s, e)
  | some b =>
    let s := s.modChan c fun k => k.hitC (some b)
    if b.checkOnly then (s, { e with bad := none })
    else match Config.sramLane 5 b.lane with
      | .data => (s.raiseChan c 20, { e with poison := true, bad := none })
      | _ => ((s.modChan c fun k => { k with failDue := 3 }).raiseChan c 19, { e with bad := none })

/-- Several eddy words are read in turn. -/
def State.readEddies (s : State) : List (ChanId × EddyE) → State × List (ChanId × EddyE)
  | [] => (s, [])
  | (c, e) :: ls =>
    let x := s.readEddy c e
    let y := x.1.readEddies ls
    (y.1, (c, x.2) :: y.2)

/-- A line entry of a plain set is released (R124). -/
def State.releaseLine (s : State) (c : ChanId) (e : EddyE) : State :=
  let s := s.modChan c fun k => { k with eddy := k.eddy.filter fun x => x.id != e.id }
  let x := (s.lookFresh c e.line).readEddy c e
  let s := x.1
  s.addForm (s.plainForm c x.2)

/-- The eddy entries of a stripe record, with their channels. -/
def State.recLines (s : State) (m : SetId) (r : StripeRec) : List (ChanId × EddyE) :=
  ((setChans m).map fun c => ((s.chan c).eddy.filter fun e =>
    match e.stripe with
    | some (m', st, _) => m' == m && st == r.stripe && e.epoch == r.epoch
    | none => false).map fun e => (c, e)).flatten

/-- A span set whose engine has stopped goes offline (R288 code 9, R334); R333 asks for an event record. -/
def State.setOffline (s : State) (m : SetId) : State :=
  let sp := s.span m
  let s := s.modSpan m fun sp => { sp with st := 3, reb := {} }
  let s := s.note 3 (m.val + sp.st * 2 ^ 8 + 3 * 2 ^ 16 + sp.pos * 2 ^ 24 + sp.ranks.toNat * 2 ^ 32)
  s.raise 544

/-- Eddy entries leave their buffers unwritten. -/
def State.dropEddy (s : State) (ls : List (ChanId × EddyE)) : State :=
  ls.foldl (fun s x => s.modChan x.1 fun k => { k with eddy := k.eddy.filter fun y => y.id != x.2.id }) s

/-- A bad byte of a record's word acts, in its parity or in the rest of it (R288 code 9). -/
def StripeRec.badPar (r : StripeRec) : Bool :=
  acts r.bad && (match r.bad with | some b => Config.sramLane 9 b.lane == .data | none => false)
def StripeRec.badRec (r : StripeRec) : Bool := acts r.bad && !r.badPar

/-- A stripe record is released with its line entries (R124, R125); its bad byte acts by R288 code 9. -/
def State.releaseRec (s : State) (m : SetId) (r : StripeRec) : State :=
  let ls := s.recLines m r
  let s := s.modSpan m fun sp => { sp with recs := sp.recs.filter fun x => x.id != r.id }
  let s := (s.dropEddy ls).lookStripe m r.stripe
  let x := s.readEddies ls
  let s := x.1
  let ls := x.2
  let s := match r.bad with | some _ => s.hitG | none => s
  if r.badRec then (s.raise 530).setOffline m
  else
    let s := if r.badPar then s.raise 567 else s
    let toLine := fun (c : ChanId) (e : EddyE) =>
      ({ idx := match e.stripe with | some (_, _, i) => i | none => 0
         ch := c, line := e.line, data := e.data, mask := e.mask, wid := e.id, poison := e.poison
         orig := e.orig, born := e.born } : FLine)
    let gone := r.gone.map fun e =>
      toLine (chanOf m (dataPos r.stripe (match e.stripe with | some (_, _, i) => i | none => 0))) e
    let ws := ls.map (fun x => toLine x.1 x.2) ++ gone
    s.addForm (s.stripeForm m r.stripe ws r.epoch r.cls r.src r.orig (r.badPar || r.rcw))

/-- The record that an eddy entry belongs to. -/
def State.recOf (s : State) (m : SetId) (stripe epoch : Nat) : Option StripeRec :=
  (s.span m).recs.find? fun r => r.stripe == stripe && r.epoch == epoch

/-- An eddy entry is released, together with its stripe record if it belongs to one (R124). -/
def State.releaseEntry (s : State) (c : ChanId) (e : EddyE) : State :=
  match e.stripe with
  | none => s.releaseLine c e
  | some (m, st, _) =>
    match s.recOf m st e.epoch with
    | some r => s.releaseRec m r
    | none => s.releaseLine c { e with stripe := none }

/-- The eddy buffer has room for a new entry: the oldest of 64 is released (R124). -/
def State.makeEddyRoom (s : State) (c : ChanId) : State :=
  if (s.chan c).eddy.length < 64 then s
  else match (s.chan c).eddy with
    | [] => s
    | e :: _ => s.releaseEntry c e

/-! ### Accepting a write (R117, R122, R123, R125) -/

/-- What an entry for a line of request `e` carries of it (R119). -/
def XEntry.orig (e : XEntry) (x : XLine) : Orig := ⟨e.id, e.tag, x.lidx⟩

/-- A full line of a plain set goes to the write queue (R122). -/
def State.queueFull (s : State) (c : ChanId) (e : XEntry) (x : XLine) : State :=
  (s.pushWrite c { id := s.nextId, purp := .host e.src e.id x.lidx, src := some e.src, home := x.line, loc := x.line,
                   data := if x.poison then poisonLine else x.data
                   enc := if x.poison then .poison else .code, cls := e.cls, epoch := e.epoch, orig := e.orig x }).stamp

/-- A new eddy entry (R119, R288 code 5). -/
def State.newEddy (s : State) (c : ChanId) (e : XEntry) (x : XLine) (stripe : Option (SetId × Nat × Nat)) : State :=
  let s := s.makeEddyRoom c
  let id := s.nextId
  (s.modChan c fun k =>
    let bad := k.armedC 5
    { k.spendC bad with
      eddy := k.eddy ++ [{ id := id, line := x.line, data := x.data, mask := x.mask, epoch := e.epoch, src := e.src,
                           orig := e.orig x, cls := e.cls, stripe := stripe, poison := x.poison, bad := bad
                           born := some (k.now (s.geom c) x.line) }] }).stamp

/-- A merge stores a byte lane of its eddy word: a data byte that it enables, or a tag byte. DESIGN CHOICE: lane n of the data is
byte n of the line, and a merge writes the word's other bytes anew (log entry 81). -/
def XLine.stores (x : XLine) (b : Bad) : Bool := Config.sramLane 5 b.lane != .data || x.mask.getLsbD b.lane

/-- Merging into a held entry of the same epoch (R123). A line that overwrites every byte leaves nothing of a poisoned
one (R282, R284). -/
def EddyE.merge (o : EddyE) (x : XLine) (arm : Option Bad := none) : EddyE :=
  { o with data := mergeBytes o.data x.data x.mask, mask := o.mask ||| x.mask
           poison := x.poison || (o.poison && x.mask != allOnes)
           bad := arm.or (o.bad.filter fun b => !x.stores b) }

/-- A merge into a held entry of channel `c`, and the entry as it then stands. The write takes an arm of code 5 with it that it
stores the lane of (R291). -/
def Chan.mergeEddy (k : Chan) (o : EddyE) (x : XLine) : Chan × EddyE :=
  let arm := (k.armedC 5).filter x.stores
  let o' := o.merge x arm
  ({ k.spendC arm with eddy := k.eddy.map fun y => if y.id = o.id then o' else y }, o')

/-- A write line of a plain set takes its place at its channel (R122 to R124). -/
def State.acceptPlainLine (s : State) (c : ChanId) (e : XEntry) (x : XLine) : State :=
  match (s.chan c).eddy.find? fun o => o.line == x.line with
  | some o =>
    if o.epoch = e.epoch then
      let o' := ((s.chan c).mergeEddy o x).2
      let s := s.modChan c fun k => (k.mergeEddy o x).1
      if o'.mask = allOnes then s.releaseLine c o' else s
    else
      let s := s.releaseLine c o
      if x.mask = allOnes then s.queueFull c e x else s.newEddy c e x none
  | none => if x.mask = allOnes then s.queueFull c e x else s.newEddy c e x none

/-- With a window of 0 the entry takes the read path at once (R124, R129). -/
def State.lwinZero (s : State) (c : ChanId) : Bool := field (s.agent c 0x040) 6 0 == 0
def State.swinZero (s : State) : Bool := field (s.live 0xA000) 14 8 == 0

def State.acceptPlain (s : State) (c : ChanId) (e : XEntry) : State :=
  let s := e.lines.foldl (fun s x => s.acceptPlainLine c e x) s
  if s.lwinZero c then
    ((s.chan c).eddy.filter fun o => o.stripe.isNone).foldl (fun s o => s.releaseLine c o) s
  else s

/-- An open record of a stripe that a full-stripe write meets: absorbed in the same epoch, released otherwise (R125). -/
def State.absorbRec (s : State) (m : SetId) (e : XEntry) : State :=
  match (s.span m).recs.find? fun r => r.stripe == e.stripe with
  | none => s
  | some r =>
    if r.epoch = e.epoch then
      (s.modSpan m fun sp => { sp with recs := sp.recs.filter fun x => x.id != r.id }).dropEddy (s.recLines m r)
    else s.releaseRec m r

/-- A full stripe: four data lines and their parity to the write queues of the present channels (R122, R126). -/
def State.acceptStripe (s : State) (m : SetId) (e : XEntry) : State :=
  let s := (s.absorbRec m e).lookStripe m e.stripe
  let ws := e.lines.zipIdx.map fun (x, i) =>
    ({ idx := x.idx, ch := x.ch, line := x.line, data := x.data, mask := allOnes, wid := s.nextId + 2 + i,
       poison := x.poison, orig := e.orig x } : FLine)
  let f := s.stripeForm m e.stripe ws e.epoch e.cls e.src ⟨e.id, e.tag, 0⟩ false
  ({ s with nextId := s.nextId + 8 }).writeForm f

/-- A stripe record is opened; the oldest of 32 makes room (R118, R125). Its word is written with the lines that open it. -/
def State.addRec (s : State) (m : SetId) (e : XEntry) : State :=
  let s := match (s.span m).recs with
    | r :: _ => if (s.span m).recs.length < 32 then s else s.releaseRec m r
    | [] => s
  (s.modSpan m fun sp =>
    { sp with recs := sp.recs ++ [{ id := s.nextId, stripe := e.stripe, epoch := e.epoch, acc := 0, full := [],
                                    cls := e.cls, src := e.src, orig := ⟨e.id, e.tag, 0⟩ }] }).stamp

/-- The record that a partial stripe gathers in, opened if it is not (R125). -/
def State.openRec (s : State) (m : SetId) (e : XEntry) : State :=
  match (s.span m).recs.find? fun r => r.stripe == e.stripe with
  | some r => if r.epoch = e.epoch then s else (s.releaseRec m r).addRec m e
  | none => s.addRec m e

/-- A data line of a partial stripe takes or joins its eddy entry; on an absent channel the record keeps it (R126). -/
def State.gatherLine (s : State) (m : SetId) (e : XEntry) (x : XLine) : State :=
  let tag := some (m, e.stripe, x.idx)
  if s.lineLost m (dataPos e.stripe x.idx) e.stripe then
    let join := fun (r : StripeRec) =>
      if r.gone.any fun o => o.stripe == tag then
        { r with gone := r.gone.map fun o => if o.stripe = tag then o.merge x else o }
      else
        { r with gone := r.gone ++ [{ id := s.nextId, line := x.line, data := x.data, mask := x.mask, epoch := e.epoch,
                                      src := e.src, orig := e.orig x, cls := e.cls, stripe := tag, poison := x.poison }] }
    (s.modSpan m fun sp =>
      { sp with recs := sp.recs.map fun r => if r.stripe = e.stripe ∧ r.epoch = e.epoch then join r else r }).stamp
  else
    match (s.chan x.ch).eddy.find? fun o => o.stripe == tag && o.epoch == e.epoch with
    | some o => s.modChan x.ch fun k => (k.mergeEddy o x).1
    | none => s.newEddy x.ch e x tag

/-- The record's parity so far and its full lines, from the lines it holds (R125). -/
def State.sumRec (s : State) (m : SetId) (r : StripeRec) : StripeRec :=
  let es := (s.recLines m r).map (·.2) ++ r.gone
  let full := es.filter fun e => e.mask == allOnes
  { r with acc := xorLines (full.map (·.data))
           full := full.filterMap fun e => e.stripe.map fun t => t.2.2 }

/-- The word of an open record is read as a write joins it (R287, R288 code 9): a bad parity byte leaves the stripe to a
reconstruct-write, a bad record byte stops the engine. -/
def State.readRec (s : State) (m : SetId) (r : StripeRec) : State :=
  if r.badRec then s.releaseRec m r
  else
    let s := match r.bad with | some _ => s.hitG | none => s
    let s := if r.badPar then s.raise 567 else s
    s.modSpan m fun sp =>
      { sp with recs := sp.recs.map fun o => if o.id = r.id then { o with bad := none, rcw := o.rcw || r.badPar } else o }

/-- The lines of a partial stripe write join its record, whose word is written anew (R125, R291 code 9). -/
def State.joinRec (s : State) (m : SetId) (e : XEntry) : State :=
  let s := e.lines.foldl (fun s x => s.gatherLine m e x) s
  let bad := s.armedG 9 m.val
  let s := (s.modSpan m fun sp => { sp with recs := sp.recs.map fun r =>
    if r.stripe = e.stripe ∧ r.epoch = e.epoch then { s.sumRec m r with bad := bad } else r }).spendG bad
  match s.recOf m e.stripe e.epoch with
  | none => s
  | some r => if r.full.length = 4 ∨ s.swinZero then s.releaseRec m r else s

/-- A partial stripe write is held by its record and eddy entries (R117, R125); a record with four full lines is
released, and one whose window is 0. A write that finds a bad record byte is lost with its record's lines: the set is offline. -/
def State.gatherStripe (s : State) (m : SetId) (e : XEntry) : State :=
  let s := s.openRec m e
  match s.recOf m e.stripe e.epoch with
  | none => s
  | some r => if r.badRec then s.readRec m r else (s.readRec m r).joinRec m e

/-- A write is accepted: what would have been written back of its lines, parity included, is stale (R175, R315). -/
def State.markWrite (s : State) (e : XEntry) : State :=
  (newLines e).foldl (fun (s : State) (x : ChanId × Nat) => s.markStale x.1 x.2) s

/-- A taken write is held by its destination (R117). -/
def State.placeWrite (s : State) (e : XEntry) : State :=
  let s := s.markWrite e
  match e.dest with
  | .chan c => s.acceptPlain c e
  | .span m => if e.wholeStripe then s.acceptStripe m e else s.gatherStripe m e

/-! ### Mirror-out (R248, R251, R261) -/

/-- Granule of the drift map of a port address (R267). -/
def driftGran (addr : Nat) : Nat := addr / 2 ^ 22

end Sys2Proof.Machine
end

