-- ==== Sys2Proof/Machine/Admit.lean ====
section
/-! DEFINITION. Admission (R57, R58, R111), the choice of crossbar entries (R112), reads arriving at their channels
(R114, R131, R135), reconstructions (R138, R174). -/

namespace Sys2Proof.Machine

/-! ### Admission -/

/-- The lines of a request, in order (R48). -/
def State.spots (s : State) (r : Req) : List Spot := (List.range r.lines).map fun i => s.spot (r.addr + 64 * i)

/-- The address lies below the installed top and its channel-local address overruns (R106). -/
def State.mapOverrun (s : State) (r : Req) : Bool := decide (r.addr < s.topByte) && (s.spots r).any s.overruns

/-- Condition 4 of R58. -/
def State.absentAt (s : State) (r : Req) : Bool :=
  decide (s.topByte ≤ r.addr)
    || (s.spots r).any (fun t =>
        if s.spanMode t.set then s.offline t.set else (s.chan t.ch).away)
    || s.mapOverrun r

/-- The CODE decided for the whole request by conditions 1 to 4 of R58, in that order; condition 3 of a PFENCE is
decided when its beat is chosen (R212). -/
def State.decideCode (s : State) (r : Req) (d : WcuRes) : Option Code :=
  if s.fcol.safe then some .absent
  else if r.opc != .efence && !d.pass then some .denied
  else if r.opc.isWrite && s.fenced then some .fenced
  else if (r.opc.isRead || r.opc.isWrite) && s.absentAt r then some .absent
  else none

/-- The lines of a request with their data; a beat found bad in the write-data buffer is poisoned (R288 code 1). -/
def State.requestLines (s : State) (r : Req) (data : List Beat) : List XLine :=
  (s.spots r).zipIdx.map fun (t, i) =>
    let b := data.getD i { data := 0 }
    { ch := t.ch, line := t.line, lidx := i, idx := t.idx, data := b.data,
      mask := if r.opc = .wrp then r.mask else allOnes, poison := acts b.bad }

/-- The crossbar entries of a request (R110). -/
def State.route (s : State) (src : Src) (r : Req) (cls : Cls) (epoch : Nat) (ls : List XLine) : List XEntry :=
  match s.spots r with
  | [] => []
  | t :: _ =>
    let mk := fun (dest : Dest) (ls : List XLine) =>
      ({ id := s.nextId, src := src, dest := dest, cls := cls, epoch := epoch, tag := r.tag, write := r.opc.isWrite, addr := r.addr,
         lines := ls, stripe := t.stripe } : XEntry)
    if s.spanMode t.set then
      if r.opc.isWrite then [mk (.span t.set) ls]
      else
        let lost := fun (x : XLine) => s.lineLost t.set (posOf x.ch) x.line
        ls.map fun x => mk (if lost x then .span t.set else .chan x.ch) [x]
    else [mk (.chan t.ch) ls]

/-- Every entry's destination has one of its source's eight entries free (R111). -/
def State.xbarRoom (s : State) (es : List XEntry) : Bool :=
  es.all fun e => decide ((s.xbar.entries.filter fun o => o.src == e.src && o.dest == e.dest).length < 8)

/-- The credits that a request leaving the buffer returns (R53, R72, R75, R78). -/
def Port.payCredits (q : Port) (beats : Nat) (withhold : Bool) : Port :=
  if q.mode = .isOpen then (q.returnReq 1).returnWd beats withhold else q

/-- The class of a request at its port (R67). -/
def State.clsAt (s : State) (p : PortId) (r : Req) : Cls :=
  let cap := field (s.live (portKey p.val 0x200)) 2 1
  clsOf (min (clsRank r.qos) cap)

/-- The flight of an admitted request (R51, R55, R58, R211). -/
def State.newFlight (s : State) (p : PortId) (r : Req) (d : WcuRes) (code : Option Code) : Flight :=
  let q := s.port p
  let strict := s.isStrict p r
  let f : Flight :=
    { id := s.nextId, req := r, epoch := s.pers.cur, cls := s.clsAt p r, strictOrder := strict
      cache := if d.pass then d.cache else 0
      order := if r.opc = .pfence then d.pass && d.order else strict
      cover := if r.opc = .efence ∨ r.opc = .pfence then q.lastW else 0
      prevW := q.lastW, prevWId := q.lastWId, left := r.beats }
  match code with
  | some c => f.answer c
  | none => if r.empty then { f with settled := true, ready := [{ lidx := 0, code := .ok }] } else f

/-- LASTW after admission (R211): a write decided with a CODE of conditions 1 to 4 leaves it as it was. -/
def Port.noteWrite (q : Port) (f : Flight) : Port :=
  if f.req.opc.isWrite && f.code.isNone then { q with lastW := f.epoch, lastWId := f.id } else q

/-- The request touches lines: a read or a write. -/
def Req.touches (r : Req) : Bool := r.opc.isRead || r.opc.isWrite

/-- The decision under which a request is admitted: an EFENCE meets no WCU (R88, R213). -/
def State.decision (s : State) (p : PortId) (r : Req) : WcuRes := if r.opc = .efence then { pass := true } else s.wcu p r

/-- The head of the buffer becomes flight `f`, and its credits return (R53, R57, R78, R211). -/
def State.leaveBuffer (s : State) (p : PortId) (f : Flight) (beats : Nat) : State :=
  s.modPort p fun q =>
    ({ q with reqBuf := q.reqBuf.tail, flights := q.flights ++ [f] }.noteWrite f).payCredits beats s.mill.withhold

/-- What the WCU records of a decision (R91, R92). -/
def State.countWcu (s : State) (p : PortId) (r : Req) (d : WcuRes) (code : Option Code) : State :=
  if !d.pass && code == some .denied then s.violate p r d else s.countWbx p r d

/-- A line below the installed top that overruns its channel raises source 1 of the channel of the request's first line
(R106). -/
def State.tellOverrun (s : State) (r : Req) (code : Option Code) : State :=
  if r.touches && code == some .absent && !s.fcol.safe && s.mapOverrun r then
    match s.spots r with
    | t :: _ => s.raiseChan t.ch 1
    | [] => s
  else s

/-- Entries enter the crossbar (R110). -/
def State.toXbar (s : State) (es : List XEntry) : State := { s with xbar := { s.xbar with entries := s.xbar.entries ++ es } }

/-- The crossbar entries of a request that flight `f` carries; a CODE decided for the whole request, and a WRP without a
byte, make none (R43, R58, R110). -/
def State.crossing (s : State) (p : PortId) (r : Req) (f : Flight) (code : Option Code) (data : List Beat) : List XEntry :=
  if r.touches && code.isNone && !r.empty then s.route (.hp p) r f.cls f.epoch (s.requestLines r data) else []

/-- The head of the buffer is admitted with its decision made (R57, R58, R88). -/
def State.admitHead (s : State) (p : PortId) (b : BufReq) : State :=
  let r := b.req
  let d := s.decision p r
  let code := s.decideCode r d
  let f := s.newFlight p r d code
  let t := b.data.foldl (fun (t : State) (x : Beat) => t.readG 528 x.bad) s
  ((((t.leaveBuffer p f b.data.length).countWcu p r d code).tellOverrun r code).toXbar (s.crossing p r f code b.data)).stamp

/-- A NOP leaves the buffer (R45). -/
def State.dropNop (s : State) (p : PortId) : State :=
  s.modPort p fun q => { q with reqBuf := q.reqBuf.tail }.payCredits 0 false

/-- The request waits for room in the crossbar (R111). -/
def State.waitsRoom (s : State) (p : PortId) (b : BufReq) : Bool :=
  let r := b.req
  (r.opc.isRead || r.opc.isWrite) && !r.empty && !s.absentAt r
    && !s.xbarRoom (s.route (.hp p) r .bulk 0 (s.requestLines r b.data))

/-- REQUEST_ADMIT: the head of the buffer leaves for the WCU unless a hold or a full crossbar keeps it (R56, R57, R65,
R76, R111). A request word found bad is a parity error (R288 code 0). -/
def State.admitFront (s : State) (p : PortId) : State :=
  let q := s.port p
  match q.reqBuf with
  | [] => s
  | b :: _ =>
    if q.mode = .closed ∨ q.mode = .safe then s
    else if acts b.bad then
      ((s.hitG).modPort p fun q => { q with reqBuf := [] }).portErr p 13 b.req.tag
    else if s.holdCause p ≠ 0 then s
    else if b.req.opc = .nop then s.dropNop p
    else if s.waitsRoom p b then s
    else ((if b.bad.isSome then s.hitG else s).admitHead p b)

/-! ### Choosing crossbar entries (R112) -/

def srcNum : Src → Nat
  | .hp p => p.val
  | .mi => 24

def destNum : Dest → Fin 24
  | .chan c => ⟨c.val, by omega⟩
  | .span m => ⟨20 + m.val, by omega⟩

/-- Head entries toward a destination: the earliest of each source (R113). -/
def State.heads (s : State) (d : Dest) : List XEntry :=
  let es := s.xbar.entries.filter fun e => e.dest == d
  es.filter fun e => es.all fun o => o.src != e.src || decide (e.id ≤ o.id)

/-- How far round the turn of its class a source stands (R112). -/
def State.turn (s : State) (d : Dest) (e : XEntry) : Nat :=
  let last := ((s.xbar.rr.at (destNum d)).at ⟨clsRank e.cls, by cases e.cls <;> decide⟩)
  (srcNum e.src + 24 - last) % 25

/-- Order of choice: a flooding source, then the higher class, then the nearer turn (R112). -/
def State.before (s : State) (d : Dest) (a b : XEntry) : Bool :=
  let fa := s.flooding a.src
  let fb := s.flooding b.src
  if fa != fb then fa
  else if clsRank a.cls ≠ clsRank b.cls then decide (clsRank b.cls < clsRank a.cls)
  else decide (s.turn d a < s.turn d b)

/-- The least element by a relation. -/
def pick {α : Type} (lt : α → α → Bool) : List α → Option α
  | [] => none
  | x :: xs =>
    match pick lt xs with
    | none => some x
    | some y => if lt y x then some y else some x

/-- The entry that the destination takes: among heads it can hold, and with a head waiting past its limit only those
that leave alone the room it needs (R112). DESIGN CHOICE: R112 does not say whether one of two heads past their limits
bars the other; the model lets them compete in the ordinary order (log entry 30). -/
def State.chooseEntry (s : State) (d : Dest) : Option XEntry :=
  let hs := (s.heads d).filter fun e => s.canHold e && !s.behind e
  let stuck := (s.heads d).filter (·.stuck)
  pick (s.before d) (hs.filter fun e => e.stuck || !stuck.any fun t => s.sharesRoom t e)

/-! ### Beats and lines for the response side -/

/-- A line of the resync engine comes back (R268). DESIGN CHOICE: the spec does not say what becomes of a line that is
answered ABSENT; it is not copied (log entry 66). -/
def State.rsBack (s : State) (rid : Nat) (b : Rsp) : State :=
  match s.mill.rs.reads.find? fun r => r.id == rid with
  | none => s
  | some r =>
    let line := r.first + b.lidx
    let rs := s.mill.rs
    let rs : Resync := { rs with reads := (rs.reads.map fun (q : RsRead) => if q.id = rid then { q with left := q.left - 1 } else q).filter
                                   fun q => q.left != 0 }
    let rs : Resync := if b.code = .ok ∨ b.code = .poison then { rs with back := rs.back ++ [(line, b.data)] }
      else { rs with out := rs.out.del line (line + 1), newer := rs.newer.del line (line + 1) }
    { s with mill := { s.mill with rs := rs } }

/-- A read line's beat for the flight it belongs to, if that still waits for it (R63, R137, R288 code 2); a line for MI goes
to the resync engine. -/
def State.giveBeat (s : State) (src : Src) (rid : Nat) (b : Rsp) : State :=
  match src with
  | .mi => s.rsBack rid b
  | .hp p =>
    let bad := s.armedG 2 p.val
    (s.modPort p fun q => { q with flights := q.flights.map fun f =>
      if f.id = rid ∧ f.code = none then { f with ready := f.ready ++ [{ b with bad := bad }] } else f }).spendG bad

/-- A write's completion for its flight (R59, R208): accepted, or answered with a CODE. -/
def State.giveDone (s : State) (src : Src) (rid : Nat) (code : Code) : State :=
  match src with
  | .mi => { s with mill := { s.mill with flights := s.mill.flights.filter fun f => f.id != rid } }
  | .hp p =>
    s.modPort p fun q => { q with flights := q.flights.map fun f =>
      if f.id = rid ∧ f.code = none ∧ !f.settled then
        { f with settled := true, ready := [{ lidx := 0, code := code }]
                 code := if code = .ok then none else some code }
      else f }

/-- LASTW goes back when the write that set it is refused and no later one was admitted (R211). -/
def State.undoWrite (s : State) (src : Src) (rid : Nat) : State :=
  match src with
  | .mi => s
  | .hp p =>
    s.modPort p fun q =>
      match q.flights.find? fun f => f.id == rid with
      | some f => if q.lastWId = rid then { q with lastW := f.prevW, lastWId := f.prevWId } else q
      | none => q

/-! ### Reconstruction (R138, R174) -/

/-- A line leaves a reconstruction: to its beat, to the scrubber or to a patch copy. -/
def State.reconLine (_s : State) (r : Recon) : Option Line :=
  if r.failed || r.acc == poisonLine then none else some r.acc

/-- The suspect list takes a line (R317). -/
def Chan.suspect (k : Chan) (line : Nat) : Chan :=
  if k.scrub.suspect.length < 16 ∧ !k.scrub.suspect.contains line then
    { k with scrub := { k.scrub with suspect := k.scrub.suspect ++ [line] } }
  else k

/-- A write of a line of the core's own (R175, R315, R322, R329, R338): it enters the write queue when that has room. -/
def State.writeBack (s : State) (c : ChanId) (purp : Purp) (line : Nat) (d : Line) (enc : Enc) (cls : Cls) : State :=
  if (s.chan c).away then s
  else s.modChan c fun k => { k with backs := k.backs ++ [{ id := 0, purp := purp, home := line, loc := line, data := d,
                                                            enc := enc, cls := cls }] }

/-- Writes to spare and staging lines, which no patch entry names. -/
def Purp.absolute : Purp → Bool
  | .patchWrite | .pprWrite => true
  | _ => false

/-- The first of these writes enters the write queue if that has room (R116). -/
def State.feedBack (s : State) (c : ChanId) : State :=
  match (s.chan c).backs with
  | [] => s
  | w :: rest =>
    let cost := if w.purp.absolute then 1 else s.writeCost c w.home
    if cost ≤ s.wqRoom c then
      let s := s.modChan c fun k => { k with backs := rest }
      let w : WrE := { w with id := s.nextId }
      if w.purp.absolute then s.pushRaw c w else (s.pushWrite c w).stamp
    else s

/-- They enter as entries come free. -/
def State.feedBacks (s : State) : State :=
  allChans.foldl (fun (s : State) (c : ChanId) => (s.chan c).backs.foldl (fun (s : State) (_ : WrE) => s.feedBack c) s) s

/-- A reconstruction succeeds: RECON of RDUE, if the event that it answers is the recorded one (R176). -/
def State.markRecon (s : State) (r : Recon) : State :=
  match r.event with
  | none => s
  | some id => s.modChan r.ch fun k =>
      { k with rdue := { k.rdue with flag := k.rdue.flag || (k.rdue.valid && k.rdue.id == id) } }

/-- A beat's reconstruction is complete (R138, R174, R175). -/
def State.finishBeat (s : State) (r : Recon) (src : Src) (rid lidx : Nat) (wb : Bool) : State :=
  match s.reconLine r with
  | some d =>
    let s := s.giveBeat src rid { lidx := lidx, code := .ok, corr := true, data := d }
    let s := s.markRecon r
    if wb && !r.stale then s.writeBack r.ch .writeBack r.line d .code .bulk else s
  | none => s.giveBeat src rid { lidx := lidx, code := .poison, data := poisonLine }

/-- A read of a line held in the eddy buffer releases its entry, and its stripe record (R132). -/
def State.releaseFor (s : State) (c : ChanId) (line : Nat) : State :=
  match (s.chan c).eddy.find? fun e => e.line == line with
  | some e => s.releaseEntry c e
  | none => s

/-- A read that is no internal one of R127 arrives at the read queue (R131, R132). -/
def State.arrive (s : State) (c : ChanId) (purp : Purp) (line : Nat) (cls : Cls) (epoch : Nat := 0)
    (src : Option Src := none) (orig : Orig := {}) : State :=
  (s.releaseFor c line).pushRead c purp line cls epoch src orig

/-- A maintenance engine asks for a line (R116, R132): the read waits for a read-queue entry. -/
def State.ownRead (s : State) (c : ChanId) (purp : Purp) (line : Nat) (raw : Bool) : State :=
  s.modChan c fun k => { k with fetches := k.fetches ++ [{ purp := purp, line := line, raw := raw }] }

/-- The first of these reads enters the read queue if that has room. -/
def State.feedFetch (s : State) (c : ChanId) : State :=
  match (s.chan c).fetches with
  | [] => s
  | f :: rest =>
    if s.rqRoom c then
      let s := s.modChan c fun k => { k with fetches := rest }
      if f.raw then s.pushRawRead c f.purp f.line .bulk else s.arrive c f.purp f.line .bulk
    else s

/-- They enter as entries come free. -/
def State.feedFetches (s : State) : State :=
  allChans.foldl (fun (s : State) (c : ChanId) => (s.chan c).fetches.foldl (fun (s : State) (_ : Fetch) => s.feedFetch c) s) s

/-- A read that reconstructs a line of a stripe from its parity releases the stripe's records (R125, R338). -/
def State.releaseStripe (s : State) (m : SetId) (stripe : Nat) : State :=
  ((s.span m).recs.filter fun r => r.stripe == stripe).foldl (fun s r => s.releaseRec m r) s

/-- A reconstruction of line `line` of position `posOf ch` begins: the stripe's record is released (R125) and the other
four lines of the stripe are read; a fresh one counts as zeros (R138, R295), and one of an absent channel makes it
fail. `issued` says that the read it serves has issued. -/
def State.startRecon (s : State) (ch : ChanId) (line : Nat) (use : RFor) (cls : Cls) (epoch : Nat := 0)
    (src : Option Src := none) (orig : Orig := {}) (issued : Bool := false) : State :=
  let m := setOf ch
  let s := s.releaseStripe m line
  let rid := s.nextId
  let s := s.stamp
  let others := (setChans m).filter (· != ch)
  let gone := others.any fun c => (s.chan c).away || s.lineLost m (posOf c) line
  let s := if gone then s else s.lookLines (others.map fun c => (c, line))
  let need := if gone then [] else others.filter fun c => s.granAt c line != .fresh
  let r : Recon := { id := rid, m := m, ch := ch, line := line, use := use, cls := cls, wait := need.length, todo := need, need := need.length,
                     failed := gone, stale := s.lineWrites ch line, src := src, orig := orig, epoch := epoch, issued := issued }
  { s with recons := s.recons ++ [r] }

/-- A contributor of reconstruction `r` does not come back. -/
def State.loseContrib (s : State) (r : Nat) : State :=
  { s with recons := s.recons.map fun q => if q.id = r then { q with failed := true, wait := q.wait - 1 } else q }

/-- A contributor's read enters its read queue if there is room (R116); one of a channel that has gone fails it. -/
def State.feedContrib (s : State) (r : Recon) (c : ChanId) : State :=
  let taken : State :=
    { s with recons := s.recons.map fun q => if q.id = r.id then { q with todo := q.todo.erase c } else q }
  if (s.chan c).away || s.lineLost r.m (posOf c) r.line then taken.loseContrib r.id
  else if s.rqRoom c then taken.arrive c (.contrib r.id) r.line r.cls r.epoch r.src r.orig
  else s

/-- Contributors' reads enter the read queues as entries come free. -/
def State.feedRecons (s : State) : State :=
  s.recons.foldl (fun (s : State) (r : Recon) => r.todo.foldl (fun (s : State) (c : ChanId) => s.feedContrib r c) s) s

/-! ### Reads arriving (R114, R131, R132, R135) -/

/-- One line of a host or MI read arrives at its channel. DESIGN CHOICE: of a granule that stays fresh because four
already wash (R298) while an accepted write of the line waits, R114 and R294 answer zeros and R134 the write; the model
answers zeros (log entry 30). -/
def State.arriveRead (s : State) (e : XEntry) (c : ChanId) (x : XLine) : State :=
  let s := s.lookFresh c x.line
  let zeros := fun (s : State) => s.giveBeat e.src e.id { lidx := x.lidx, code := .ok }
  let queue := fun (s : State) => s.pushRead c (.host e.src e.id x.lidx) x.line e.cls e.epoch (some e.src) (e.orig x)
  match s.granAt c x.line with
  | .fresh => zeros s
  | .washing g =>
    let s := s.releaseFor c x.line
    let loc := ((s.chan c).target (s.geom c) x.line false).1.headD x.line
    if !g.behind x.line && !s.earlierRowWrite c x.line loc s.nextId then zeros s else queue s
  | .written => queue (s.releaseFor c x.line)

/-- Reads of the resync engine arrive at their channel: from now on a host write to such a line supersedes its copy (R268). -/
def State.rsArrive (s : State) (e : XEntry) : State :=
  match e.src, s.mill.rs.reads.find? fun r => r.id == e.id with
  | .mi, some r =>
    let out := e.lines.foldl (fun (o : ISet) (x : XLine) => o.add (r.first + x.lidx) (r.first + x.lidx + 1)) s.mill.rs.out
    { s with mill := { s.mill with rs := { s.mill.rs with out := out } } }
  | _, _ => s

/-- The lines of a taken read go to their channel, or to a reconstruction by the span engine (R110, R138). -/
def State.takeRead (s : State) (e : XEntry) : State :=
  let s := s.rsArrive e
  match e.dest with
  | .chan c => e.lines.foldl (fun s x => s.arriveRead e c x) s
  | .span _ =>
    e.lines.foldl (fun s x =>
      let s := s.lookFresh x.ch x.line
      if s.granAt x.ch x.line = .fresh then s.giveBeat e.src e.id { lidx := x.lidx, code := .ok }
      else s.startRecon x.ch x.line (.beat e.src e.id x.lidx false) e.cls e.epoch (some e.src) (e.orig x)) s

/-- Contributors of reconstruction `q` whose read has not issued: those that wait for an entry, and queued ones. -/
def State.unread (s : State) (q : Recon) : Nat :=
  q.todo.length + (allChans.map fun c =>
    ((s.chan c).rq.filter fun e => e.purp == .contrib q.id && !e.issued && !e.reread).length).sum

/-- The reconstruction serves a read that has issued: that of the line itself, or one of its contributors (R217). -/
def State.reconIssued (s : State) (q : Recon) : Bool :=
  match q.use with
  | .beat _ _ _ _ => q.issued || decide (s.unread q < q.need)
  | _ => false

/-- Reconstructions with every contributor back, for host or MI beats, are completed. -/
def State.finishRecons (s : State) : State :=
  s.recons.foldl (fun s r =>
    if r.wait = 0 then
      match r.use with
      | .beat src rid lidx wb =>
        { s with recons := s.recons.filter fun q => q.id != r.id }.finishBeat r src rid lidx wb
      | _ => s
    else s) s

end Sys2Proof.Machine
end

