-- ==== Sys2Proof/Machine/Sched.lean ====
section
/-! DEFINITION. The command selector's choice (chapter 5): timing table (R147, R148), eligibility, priority (R150 to
R156), bank state (R144, R145). -/

namespace Sys2Proof.Machine

/-! ### Commands and spacings (R142, R147, R148) -/

def Kind.isRd : Kind → Bool
  | .rd | .rda => true
  | _ => false

def Kind.isWr : Kind → Bool
  | .wr | .wra => true
  | _ => false

def Kind.isCol (k : Kind) : Bool := k.isRd || k.isWr

def Kind.isPre : Kind → Bool
  | .pre | .presb | .preab => true
  | _ => false

def Kind.isRef : Kind → Bool
  | .refab | .refsb | .rfmab | .rfmsb => true
  | _ => false

/-- Whether a command acts on bank `b`: one bank, one bank index of a rank, or a whole rank. -/
def Cmd.covers (c : Cmd) (b : Bank) : Bool :=
  match c.kind with
  | .presb | .refsb | .rfmsb => c.bank.cs == b.cs && c.bank.ba == b.ba
  | .preab | .refab | .rfmab | .mrr | .mrw | .zqs | .zql | .sre | .srx | .pde | .pdx => c.bank.cs == b.cs
  | .des => false
  | _ => c.bank == b

/-- The two commands share a bank. -/
def Cmd.meets (a b : Cmd) : Bool :=
  match b.kind with
  | .presb | .refsb | .rfmsb =>
    (match a.kind with
      | .presb | .refsb | .rfmsb => a.bank.cs == b.bank.cs && a.bank.ba == b.bank.ba
      | .act | .rd | .rda | .wr | .wra | .pre => b.covers a.bank
      | _ => a.bank.cs == b.bank.cs)
  | .preab | .refab | .rfmab | .mrr | .mrw | .zqs | .zql | .sre | .srx | .pde | .pdx => a.bank.cs == b.bank.cs
  | .des => false
  | _ => a.covers b.bank

/-- Spacing, in tCK, that the timing table asks for between an earlier command `p` and a later `c` of one
subchannel: the largest entry that applies (R147, R148). Entries 6 to 11 and 15 to 17 and 24 hold within a package
rank, entries 20 to 23 between package ranks. -/
def spacing (t : Nat → Nat) (x2 : Bool) (p c : Cmd) : Nat :=
  let rank := p.bank.cs == c.bank.cs
  let log := rank && p.bank.cid == c.bank.cid
  let bg := p.bank.bg == c.bank.bg
  let meet := p.meets c
  let one := fun (b : Bool) (v : Nat) => if b then v else 0
  let pk := p.kind
  let ck := c.kind
  let toRead := t 1 + 8
  [ one (pk == .act && ck.isCol && meet) (t 2),
    one (pk.isPre && (ck == .act || ck.isRef) && meet) (t 3),
    one (pk == .rda && (ck == .act || ck.isRef) && meet) (t 18 + t 3),
    one (pk == .wra && (ck == .act || ck.isRef) && meet) (toRead + t 19 + t 3),
    one (pk == .act && ck.isPre && meet) (t 4),
    one (pk == .act && ck == .act && meet) (t 5),
    one (pk == .act && ck == .act && log && !bg) (t 6),
    one (pk == .act && ck == .act && log && bg) (t 7),
    one (pk == .act && ck == .act && rank && !log) (t 13),
    one (((pk.isRd && ck.isRd) || (pk.isWr && ck.isWr)) && log && !bg) (t 9),
    one (pk.isRd && ck.isRd && log && bg) (t 10),
    one (pk.isWr && ck.isWr && log && bg) (t 11),
    one (pk.isCol && ck.isCol && rank && !log) (t 12),
    one (pk.isWr && ck.isRd && rank && !bg) (toRead + t 15),
    one (pk.isWr && ck.isRd && rank && bg) (toRead + t 16),
    one (pk.isRd && ck.isWr && rank) (t 17),
    one (pk.isRd && ck.isPre && meet) (t 18),
    one (pk.isWr && ck.isPre && meet) (toRead + t 19),
    one (pk.isRd && ck.isRd && !rank) (t 20),
    one (pk.isWr && ck.isWr && !rank) (t 21),
    one (pk.isRd && ck.isWr && !rank) (t 22),
    one (pk.isWr && ck.isRd && !rank) (t 23),
    one (pk.isPre && ck.isPre && rank) (t 24),
    one (pk == .refab && rank) (if x2 then t 27 else t 26),
    one (pk == .refsb && meet) (t 28),
    one (pk == .refsb && ck == .act && rank && !meet) (t 29),
    one (pk == .rfmab && rank) (t 30),
    one (pk == .rfmsb && meet) (t 31),
    one (pk == .mrr && rank) (t 35),
    one (pk == .mrw && ck != .mrw && rank) (t 36),
    one (pk == .mrw && ck == .mrw && rank) (t 37),
    one (pk == .srx && rank) (t 38),
    one (pk == .sre && ck == .srx && rank) (t 39),
    one (pk == .pdx && rank) (t 40),
    one (pk == .pde && ck == .pdx && rank) (t 41),
    one ((ck == .pde || ck == .sre) && rank) (t 42),
    one (pk == .act && ck == .pde && rank) (t 43),
    one (pk.isRd && ck == .pde && rank) (t 44),
    one (pk.isWr && ck == .pde && rank) (t 45),
    one (pk == .zqs && ck == .zql && rank) (t 46),
    one (pk == .zql && rank) (t 47),
    one (pk == .srx && ck.isRd && rank) (t 51) ].foldl max 0

/-- At most four ACTs of a rank, and of a package rank, in the windows of entries 8 and 14. -/
def fourActs (t : Nat → Nat) (hist : List Issued) (now : Nat) (c : Cmd) : Bool :=
  let inWin := fun (w : Nat) (f : Cmd → Bool) =>
    (hist.filter fun h => h.cmd.kind == .act && decide (now < h.time + dclks w) && f h.cmd).length
  c.kind != .act ||
    (decide (inWin (t 8) (fun h => h.bank.cs == c.bank.cs && h.bank.cid == c.bank.cid) < 4)
      && decide (inWin (t 14) (fun h => h.bank.cs == c.bank.cs && h.bank.cid != c.bank.cid)
          + (if inWin (t 14) (fun h => h.bank.cs == c.bank.cs && h.bank.cid != c.bank.cid) = 0 then 0
             else inWin (t 14) (fun h => h.bank.cs == c.bank.cs && h.bank.cid == c.bank.cid)) < 4))

/-- The command satisfies R148 after the selector's history. -/
def spaced (t : Nat → Nat) (x2 : Bool) (hist : List Issued) (now : Nat) (c : Cmd) : Bool :=
  (hist.all fun h => decide (h.time + dclks (spacing t x2 h.cmd c) ≤ now)) && fourActs t hist now c

/-- Spacing satisfied on subchannel `x` of CHn in the current slot. -/
def State.spacedAt (s : State) (c : ChanId) (x : Sub) (cmd : Cmd) : Bool :=
  spaced (s.tim c) (flag (s.agent c 0x030) 2) (s.sel c x).hist (s.sel c x).dclk cmd

/-! ### Bank state (R144) -/

/-- The open row of a bank. -/
def Sel.openRow (l : Sel) (b : Bank) : Option Nat := (l.banks.find? fun e => e.1 == b).map (·.2)

/-- The banks after a command. -/
def banksAfter (banks : List (Bank × Nat)) (c : Cmd) : List (Bank × Nat) :=
  match c.kind with
  | .act => (banks.filter fun e => e.1 != c.bank) ++ [(c.bank, c.row)]
  | .pre | .presb | .preab | .rda | .wra => banks.filter fun e => !c.covers e.1
  | _ => banks

/-! ### Slots that are posted (R157, R187) -/

/-- KIND of a cadence entry in use, 0 otherwise (R183). -/
def State.cadKind (s : State) (k : Nat) : Nat :=
  let w := s.live (0x8000 + 0x20 * k)
  if flag w 0 then field w 2 1 else 0

/-- A slot of one of the kinds was posted to subchannel `x` of CHn (R187). -/
def PostedSlot.names (e : PostedSlot) (c : ChanId) (x : Sub) : Bool := e.chm.getLsbD c.val && e.sub.getLsbD x.val

/-- DCLK of CHn until tide value `T` (R180). -/
def State.dclkUntil (s : State) (c : ChanId) (tT : Nat) : Nat :=
  (tT - s.tide) * (s.chan c).phy.mul / 64

/-- The refresh windows and pauses posted to a subchannel and not yet reached; RTR_CTL.EN 0 and the strobe leave out the pauses
(R196, R365). -/
def State.nextSlots (s : State) (c : ChanId) (x : Sub) : List PostedSlot :=
  let pauses := flag (s.agent c 0x010) 0 && !s.pers.strobe
  s.cad.posted.filter fun e =>
    (e.kind == 1 || (e.kind == 2 && pauses)) && e.names c x && (s.chan c).tideValid && decide (s.tide < e.at_)

/-- What must still follow a command before its bank can be closed, in DCLK (R157): an ACT counts its column command
and the ensuing tRTP or tWR. -/
def closeTime (t : Nat → Nat) (x2 write : Bool) (c : Cmd) : Nat :=
  let tail := fun (w : Bool) => dclks (if w then t 1 + 8 + t 19 else t 18)
  match c.kind with
  | .act => max (dclks (t 4)) (dclks (t 2) + tail write)
  | .rd | .rda => tail false
  | .wr | .wra => tail true
  | .pre | .presb | .preab => dclks (t 24)
  | .refab => dclks (t (if x2 then 27 else 26))
  | .refsb => dclks (t 28)
  | .rfmab => dclks (t 30)
  | .rfmsb => dclks (t 31)
  | .mrr => dclks (t 35)
  | .mrw => dclks (t 36)
  | .zqs => dclks (t 46)
  | .zql => dclks (t 47)
  | _ => 0

/-- The command concerns every bank of its rank. -/
def Kind.rankWide : Kind → Bool
  | .preab | .refab | .rfmab | .mrr | .mrw | .zqs | .zql | .sre | .srx | .pde | .pdx => true
  | _ => false

/-- The slot closes banks that the command concerns: a pause and an all-bank window every bank, a per-bank window one
index (R157 to R160). -/
def State.slotCovers (s : State) (c : ChanId) (x : Sub) (e : PostedSlot) (m : Cmd) : Bool :=
  e.kind == 2 || !flag (s.agent c 0x030) 1 || m.kind.rankWide || m.bank.ba == (s.sel c x).refIx

/-- The refresh-window rule of R157 for a command. -/
def State.fitsWindow (s : State) (c : ChanId) (x : Sub) (write : Bool) (m : Cmd) : Bool :=
  (s.nextSlots c x).all fun e =>
    !s.slotCovers c x e m || decide (closeTime (s.tim c) (flag (s.agent c 0x030) 2) write m ≤ s.dclkUntil c e.at_)

/-! ### Candidates -/

/-- A queued request's next command. -/
structure Cand where
  id : Nat
  cmd : Cmd
  write : Bool
  cls : Cls
  epoch : Nat
  aged : Bool
  reread : Bool
  /-- The request belongs to the grant holder. -/
  holder : Bool
  /-- Its source raises flood. -/
  flood : Bool
  /-- An immediate wash write: it spends no credit (R298). -/
  wash : Bool
  /-- DCLK in which the request arrived at the channel (R150, R151). -/
  since : Nat
  deriving DecidableEq, Repr

/-- The weir requester whose work a queue entry is (R304). -/
def Purp.requester : Purp → Option Nat
  | .rawRead | .rawWrite => some 0
  | .pprRead | .pprWrite => some 3
  | .rebuildRead | .rebuildWrite => some 4
  | .patchRead | .patchWrite => some 5
  | .mrr | .mrrDropped => some 6
  | .scrub | .scrubWb | .verify => some 9
  | _ => none

/-- The entry's source raises flood (R153). -/
def State.floods (s : State) (src : Option Src) : Bool :=
  match src with
  | some x => s.flooding x
  | none => false

/-- The next command toward a line: a column command on its open row, the PRE of another row, or an ACT. -/
def nextCmd (l : Sel) (p : Place) (write auto : Bool) (ent : Nat) : Cmd :=
  match l.openRow p.bank with
  | some r =>
    if r = p.row then
      { kind := if write then (if auto then .wra else .wr) else (if auto then .rda else .rd), bank := p.bank, row := p.row,
        col := p.col, ent := ent }
    else { kind := .pre, bank := p.bank, row := r, ent := ent }
  | none => { kind := .act, bank := p.bank, row := p.row, ent := ent }

/-- The closed policy of the bank group (R145, SCH_PAGE). -/
def State.closedPolicy (s : State) (c : ChanId) (x : Sub) (b : Bank) : Bool := flag (s.agent c 0x028) (8 * x.val + b.bg)

/-- Another queued request hits the row of `loc` (R145). -/
def State.otherHit (s : State) (c : ChanId) (loc id : Nat) : Bool :=
  let g := s.geom c
  let k := s.chan c
  (k.rq.any fun e => e.id != id && !e.issued && g.sameRow e.loc loc)
    || k.wq.any fun w => w.id != id && !w.issued && g.sameRow w.loc loc

/-- The bank of `loc` is in strict in-order mode: an unissued read stands behind an earlier write of its row (R131). -/
def State.strictBank (s : State) (c : ChanId) (loc : Nat) : Bool :=
  let g := s.geom c
  (s.chan c).rq.any fun e =>
    !e.purp.internal && !e.issued && g.sameBank e.loc loc && s.earlierRowWrite c e.home e.loc (s.standing c e.purp e.id)

/-- Writes of the bank that arrived earlier and are still in the eddy buffer or awaiting internal reads (R131). -/
def State.earlierHeld (s : State) (c : ChanId) (loc id : Nat) : Bool :=
  let bank := fun (line : Nat) => (s.writeLines c line).any fun l => (s.geom c).sameBank l loc
  ((s.chan c).eddy.any fun e => decide (e.id < id) && bank e.line)
    || s.forms.any fun f =>
        (f.lines.any fun l => l.ch == c && decide (l.wid < id) && bank l.line)
          || (match f.par with | some (pc, pl, w) => pc == c && decide (w < id) && bank pl | none => false)

/-- The entry is the earliest arrival of its bank (R131). -/
def State.firstOfBank (s : State) (c : ChanId) (loc id : Nat) : Bool :=
  let g := s.geom c
  let k := s.chan c
  !(k.rq.any fun e => !e.purp.internal && !e.issued && decide (e.id < id) && g.sameBank e.loc loc)
    && !(k.wq.any fun w => !w.issued && decide (w.id < id) && g.sameBank w.loc loc)
    && !s.earlierHeld c loc id

/-- A read may issue by the ordering rules (R127, R131, R173, R322, R339). Those of hosts and MI, and the contributors of their
reconstructions, wait for the stripe at a rebuild cursor that began before them. -/
def State.readOrdered (s : State) (c : ChanId) (e : RdE) : Bool :=
  let at_ := s.standing c e.purp e.id
  e.reread ||
  (match e.purp with
    | .form f _ => !s.earlierLineWrite c e.home at_ (some f)
    | _ =>
      !s.earlierRowWrite c e.home e.loc at_ && (!s.strictBank c e.loc || s.firstOfBank c e.loc at_)
        && !(s.atRebuildCursor c e.home e.id && (match e.purp with | .host _ _ _ | .contrib _ => true | _ => false)))

/-- The tally entry of page `q` of set `m` carries its acknowledged bit (R230). -/
def State.pageMarked (s : State) (m : SetId) (q : Nat) : Bool :=
  (s.span m).marks.any fun e => e.t == q / 512 && e.acked.getLsbD (q % 512)

/-- Writes of the reserved area stand outside the strict order of a bank, or a line that waits for its mark could hold
that mark back; they are never fresh (R230, R295). The writes of a PPR go to a row that is locked and staged (R329). -/
def Purp.reserved : Purp → Bool
  | .tally _ _ _ | .cleanMark | .cleanZero | .patchWrite | .pprWrite => true
  | _ => false

/-- A write may issue by the ordering rules and its tally bit (R127, R130, R131, R133, R135, R150, R230). A wash write
issues before every write that waits on it (R297). -/
def State.writeOrdered (s : State) (c : ChanId) (w : WrE) : Bool :=
  let k := s.chan c
  match w.purp with
  | .wash _ => true
  | _ =>
    w.ready && !s.earlierLineWrite c w.home w.id none
      && !(k.rq.any fun e => e.home == w.home && decide (e.id < w.id))
      && (w.purp.reserved || !s.strictBank c w.loc || s.firstOfBank c w.loc w.id)
      && (match w.page with | some (m, q) => s.pageMarked m q | none => true)
      && (w.purp.reserved || !s.waitsWash c w.home)
      && (match w.purp with
          | .host _ _ _ | .form _ _ | .parity => !s.atRebuildCursor c w.home w.id
          | _ => true)

/-- The bank's count has reached RAAIMT: it takes no ACT before an RFM covers it (R164). -/
def State.rfmHeld (s : State) (c : ChanId) (x : Sub) (b : Bank) : Bool :=
  flag (s.agent c 0x034) 0 && (s.sel c x).rfm.any fun e => e.1 == b && decide (s.tim c 32 ≤ e.2)

/-- The bank's count stands at RAAMMT: an ACT would raise it above (R164). -/
def State.rfmFull (s : State) (c : ChanId) (x : Sub) (b : Bank) : Bool :=
  flag (s.agent c 0x034) 0 && (s.sel c x).rfm.any fun e => e.1 == b && decide (s.tim c 33 ≤ e.2)

/-- A bank held for refresh management or for a pending neighbour refresh (R150, R164, R166). -/
def State.bankHeld (s : State) (c : ChanId) (x : Sub) (b : Bank) : Bool :=
  ((s.sel c x).nbr.any fun n => n.bank == b) || s.rfmHeld c x b

/-- Commands that are due hold the banks they cover (R157, R160, R162). -/
def Sel.planHolds (l : Sel) (b : Bank) : Bool :=
  l.plan.any fun p => p.use == .initial || p.use == .pause || p.use == .pauseEnd || p.use == .selfRef || p.covers b

/-- A candidate may issue now: spacing, window, held banks (R148, R150, R157). The accesses of a clean mark come before
what else is due (R234). -/
def State.eligible (s : State) (c : ChanId) (x : Sub) (d : Cand) : Bool :=
  s.spacedAt c x d.cmd && s.fitsWindow c x d.write d.cmd
    && ((s.chan c).cmarkDue || !(s.sel c x).planHolds d.cmd.bank) && !s.bankHeld c x d.cmd.bank

/-- Reads of hosts and MI that are on their way back fill the return queue (R116). -/
def Chan.returning (k : Chan) : Nat :=
  k.ret.length + (k.rq.filter fun e => e.issued && !e.purp.internal).length

/-- While a channel's clean mark is to be read and zeroed, no other command issues (R234). -/
def Purp.clean : Purp → Bool
  | .cleanRead | .cleanZero => true
  | _ => false

/-- The grant of requester `r` entitles to slots now (R150, R219, R308). -/
def State.holding (s : State) (c : ChanId) (r : Nat) : Bool :=
  let k := s.chan c
  k.weir.holder == some r && !k.weir.susp && !s.pers.strobe

/-- A wash write of the granule under background wash is weir traffic (R298, R299). -/
def Chan.bgWash (k : Chan) (p : Purp) : Bool :=
  match p with
  | .wash g => k.wash.any fun w => w.gran == g && w.bg
  | _ => false

/-- The ageing limit in DCLK: AGE_MAX in units of 16, 0 as 1 (R151, R177). -/
def State.ageLimit (s : State) (c : ChanId) : Nat := 16 * max 1 (field (s.agent c 0x020) 15 4)

/-- An entry that arrived at DCLK `since` has waited for the limit (R151). -/
def State.waited (s : State) (c : ChanId) (x : Sub) (since : Nat) : Bool :=
  decide (since + s.ageLimit c ≤ (s.sel c x).dclk)

/-- A read may have a slot: room for its return (R136), and after the strobe a host or MI read only for its re-read
(R217). -/
def State.mayRead (s : State) (c : ChanId) (e : RdE) : Bool :=
  match e.purp with
  | .host _ _ _ => (!s.pers.strobe || e.reread) && decide ((s.chan c).returning < 32)
  | .contrib r => !s.pers.strobe || e.reread || s.recons.any fun q => q.id == r && s.reconIssued q
  | _ => true

/-- Candidates of the read queue on subchannel `x`. -/
def State.readCands (s : State) (c : ChanId) (x : Sub) : List Cand :=
  let k := s.chan c
  let g := s.geom c
  let l := s.sel c x
  (k.rq.filter fun e => !e.issued && !e.held && (g.place e.loc).sub == x && s.readOrdered c e
      && (!k.cmarkDue || e.purp.clean) && s.mayRead c e && e.purp != .mrr
      && (match e.purp.requester with | some r => s.holding c r | none => true)).map
    fun e =>
      let p := g.place e.loc
      { id := e.id, cmd := nextCmd l p false (s.closedPolicy c x p.bank && !s.otherHit c e.loc e.id) e.id, write := false,
        cls := e.cls, epoch := e.epoch, aged := e.aged || s.waited c x e.since, reread := e.reread
        holder := e.purp.requester.isSome, flood := s.floods e.src, wash := false, since := e.since }

/-- Candidates of the write queue on subchannel `x`. -/
def State.writeCands (s : State) (c : ChanId) (x : Sub) : List Cand :=
  let k := s.chan c
  let g := s.geom c
  let l := s.sel c x
  (k.wq.filter fun w => !w.issued && !w.held && (g.place w.loc).sub == x && s.writeOrdered c w
      && (!k.cmarkDue || w.purp.clean)
      && (!k.bgWash w.purp || s.holding c 8 || s.pers.strobe)).map fun w =>
    let p := g.place w.loc
    { id := w.id, cmd := nextCmd l p true (s.closedPolicy c x p.bank && !s.otherHit c w.loc w.id) w.id, write := true,
      cls := w.cls, epoch := w.epoch, aged := w.aged || s.waited c x w.since, reread := false
      holder := (match w.purp.requester with | some r => s.holding c r | none => false) || (k.bgWash w.purp && s.holding c 8)
      flood := s.floods w.src
      wash := match w.purp with | .wash _ => !k.bgWash w.purp | _ => false
      since := w.since }

/-- The oldest write of a bank in strict in-order mode (R131, R156). -/
def State.strictWrite (s : State) (c : ChanId) (d : Cand) : Bool :=
  match (s.chan c).wq.find? fun w => w.id == d.id with
  | some w => s.strictBank c w.loc && s.firstOfBank c w.loc w.id
  | none => false

/-- An internal read of R127, for write mode (R156). -/
def State.innerRead (s : State) (c : ChanId) (d : Cand) : Bool :=
  (s.chan c).rq.any fun e => e.id == d.id && e.purp.internal

/-- CHn drains: the sluice, or a prepare or IDLE entry past its gate (R216, R375, R383). -/
def Chan.draining (k : Chan) : Bool := k.drain != .none

/-- The batching rule of R156 allows the candidate. Aged candidates, re-reads and wash writes pass in either mode (R150,
R151, R298); the grant holder's writes pass in read mode, its reads do not in write mode. -/
def State.inMode (s : State) (c : ChanId) (x : Sub) (d : Cand) : Bool :=
  if d.aged || d.reread || d.wash then true
  else if (s.sel c x).wmode then d.write || s.innerRead c d || s.pers.strobe
  else !d.write || s.strictWrite c d || d.holder || s.pers.strobe

/-! ### Choice (R150, R152 to R154, R218) -/

/-- A row hit: a column command to an open row (R150). -/
def Cand.hit (d : Cand) : Bool := d.cmd.kind.isCol

/-- Row hit first, then oldest (R150). -/
def hitFirst (a b : Cand) : Bool :=
  if a.hit != b.hit then a.hit else decide (a.id < b.id)

/-- In step 2 of the sluice only the candidates of the lowest epoch compete (R218); lines of the core's own carry
epoch 0. -/
def State.epochFirst (s : State) (ds : List Cand) : List Cand :=
  if s.pers.strobe then ds.filter fun d => ds.all fun o => decide (d.epoch ≤ o.epoch) else ds

/-- Flood is seen: the channel's queues hold an entry of a flooding source (R153). -/
def State.floodSeen (s : State) (c : ChanId) : Bool :=
  let k := s.chan c
  (k.rq.any fun e => s.floods e.src) || (k.wq.any fun w => s.floods w.src) || k.eddy.any fun e => s.flooding e.src

/-- MSHARE in force (R154, R177). -/
def State.mshare (s : State) (c : ChanId) : Nat := min (field (s.agent c 0x020) 19 16) 8

/-- The weight of a class (SCH_QOS, R152). -/
def State.weight (s : State) (c : ChanId) (k : Fin 4) : Nat :=
  field (s.agent c 0x02C) (8 * (3 - k.val) + 7) (8 * (3 - k.val))

/-- The candidate of the highest class among those whose class passes `ok`; wash writes always pass as RT (R298). -/
def byClass (ds : List Cand) (ok : Nat → Bool) : Option Cand :=
  ([3, 2, 1, 0].findSome? fun r =>
    pick hitFirst (ds.filter fun d => clsRank d.cls == r && (d.wash || ok r)))

/-- The class step of R150 and R152: a class with credit; with none left, every class is refilled; a class of weight 0
only when no class with credit has a candidate. The flag says that the credits were refilled. -/
def State.classStep (s : State) (c : ChanId) (x : Sub) (ds : List Cand) : Option (Cand × Bool) :=
  let cr := (s.sel c x).credits
  let has := fun (r : Nat) => decide (0 < cr.toList.getD r 0)
  let full := fun (r : Nat) => decide (0 < ((List.finRange 4).map (s.weight c)).getD r 0)
  match byClass ds has with
  | some d => some (d, false)
  | none =>
    match byClass ds full with
    | some d => some (d, true)
    | none => (byClass ds fun _ => true).map fun d => (d, true)

/-- What a slot issues, and whether the class credits were refilled. -/
structure Choice where
  cmd : Cmd
  cand : Option Cand := none
  refill : Bool := false
  deriving DecidableEq, Repr

def Choice.of (d : Cand) : Choice := { cmd := d.cmd, cand := some d }

/-- The holder's own command, once spacing, windows and held banks allow it (R150, R310). -/
def State.holdCmd (s : State) (c : ChanId) (x : Sub) : Option Choice :=
  let k := s.chan c
  if k.weir.holder.isSome && !k.weir.susp && !s.pers.strobe && !k.cmarkDue then
    match (s.sel c x).hold with
    | m :: _ =>
      if s.spacedAt c x m && s.fitsWindow c x false m && !(s.sel c x).planHolds m.bank && !s.bankHeld c x m.bank then
        some { cmd := m }
      else none
    | [] => none
  else none

/-- A bank with its idle limit reached and nothing else to do is precharged (R145, R150). -/
def State.idlePre (s : State) (c : ChanId) (x : Sub) : Option Choice :=
  if (s.chan c).cmarkDue then none
  else
    ((s.sel c x).banks.find? fun e => (s.sel c x).idleDue.contains e.1 && !(s.sel c x).planHolds e.1 && !s.bankHeld c x e.1
        && s.spacedAt c x { kind := .pre, bank := e.1, row := e.2, use := .idle }
        && s.fitsWindow c x false { kind := .pre, bank := e.1, row := e.2, use := .idle }).map
      fun e => { cmd := { kind := .pre, bank := e.1, row := e.2, use := .idle } }

/-- The oldest aged candidate, the holder's own command among them; the grant holder's get no slot under flood (R150, R151,
R153, R312). -/
def State.agedChoice (s : State) (c : ChanId) (x : Sub) (ds : List Cand) (flood : Bool) : Option Choice :=
  let l := s.sel c x
  let own := if !flood && (l.holdAged || s.waited c x l.holdSince) then s.holdCmd c x else none
  let older := fun (a b : Cand) => decide (a.since < b.since) || (a.since == b.since && decide (a.id < b.id))
  match pick older (ds.filter fun d => d.aged && !(flood && d.holder)) with
  | some d => if l.holdSince < d.since then own.or (some (.of d)) else some (.of d)
  | none => own

/-- The steps of R150 from the re-read on. -/
def State.choosePlain (s : State) (c : ChanId) (x : Sub) : Choice :=
  let ds := s.epochFirst (((s.readCands c x ++ s.writeCands c x).filter (s.eligible c x)).filter (s.inMode c x))
  let flood := s.floodSeen c
  let others := ds.filter fun d => !d.holder
  let holder := if flood then none else (s.holdCmd c x).or ((pick hitFirst (ds.filter (·.holder))).map .of)
  let first : List (Option Choice) :=
    [ (pick (fun (a b : Cand) => decide (a.id < b.id)) (ds.filter (·.reread))).map .of,
      s.agedChoice c x ds flood,
      if (s.sel c x).share < s.mshare c then holder else none,
      (pick hitFirst (others.filter (·.flood))).map .of,
      (s.classStep c x others).map (fun d => { Choice.of d.1 with refill := d.2 }),
      holder,
      s.idlePre c x ]
  ((first.findSome? id).getD { cmd := { kind := .des, bank := ⟨0, 0, 0, 0⟩ } })

/-! ### Commands that are due (second step of R150) -/

/-- An owed refresh of a rank (R161). -/
def State.owedCmd (s : State) (c : ChanId) (x : Sub) : Option Cmd :=
  let l := s.sel c x
  let ab := (List.finRange 4).find? fun r => decide (0 < l.owed.at r)
  match ab with
  | some r =>
    let b : Bank := ⟨r.val, 0, 0, 0⟩
    if l.banks.any fun e => e.1.cs == r.val then some { kind := .preab, bank := b, use := .refresh }
    else some { kind := .refab, bank := b, use := .refresh, val := 1 }
  | none =>
    match l.owedSb with
    | [] => none
    | (cs, ba) :: _ =>
      let b : Bank := ⟨cs, 0, 0, ba⟩
      if l.banks.any fun e => e.1.cs == cs && e.1.ba == ba then some { kind := .presb, bank := b, use := .refresh }
      else some { kind := .refsb, bank := b, use := .refresh, val := 1 }

/-- Refresh management that is due: the covered banks are closed, then the RFM issues (R164). -/
def State.rfmCmd (s : State) (c : ChanId) (x : Sub) : Option Cmd :=
  let l := s.sel c x
  if flag (s.agent c 0x034) 0 then
    (l.rfm.find? fun e => decide (0 < e.2) && decide (s.tim c 32 ≤ e.2)).map fun e =>
      if flag (s.agent c 0x034) 1 then
        let b : Bank := ⟨e.1.cs, 0, 0, 0⟩
        if l.banks.any fun o => o.1.cs == b.cs then { kind := .preab, bank := b, use := .rfm }
        else { kind := .rfmab, bank := b, use := .rfm }
      else
        let b : Bank := ⟨e.1.cs, 0, 0, e.1.ba⟩
        if l.banks.any fun o => o.1.cs == b.cs && o.1.ba == b.ba then { kind := .presb, bank := b, use := .rfm }
        else { kind := .rfmsb, bank := b, use := .rfm }
  else none

/-- A pending neighbour refresh: the bank is closed, then each row has its ACT and its PRE (R166). The ACT waits for
refresh management like any other (R164). -/
def State.nbrCmd (s : State) (c : ChanId) (x : Sub) : Option Cmd :=
  let l := s.sel c x
  l.nbr.findSome? fun n =>
    match l.openRow n.bank, n.rows with
    | some r, _ => some { kind := .pre, bank := n.bank, row := r, use := .nbr }
    | none, r :: _ => if s.rfmHeld c x n.bank then none else some { kind := .act, bank := n.bank, row := r, use := .nbr }
    | none, [] => none

/-- The planned command that comes next. An ACT of a held bank waits for what holds it, which then comes first (R164,
R166). -/
def State.planned (s : State) (c : ChanId) (x : Sub) : List Cmd :=
  match (s.sel c x).plan with
  | [] => []
  | p :: _ => if p.kind = .act ∧ s.bankHeld c x p.bank then (s.rfmCmd c x).toList ++ (s.nbrCmd c x).toList else [p]

/-- A planned command is bound by no window when it is the window's, the pause's or the self-refresh entry's own. -/
def Cmd.ownsWindow (m : Cmd) : Bool :=
  m.use == .refresh || m.use == .pause || m.use == .pauseEnd || m.use == .selfRef

/-- The subchannel issues its planned commands alone: the first refreshes of R162, a pause, a self-refresh entry or exit, and
nothing at all while it is in self-refresh (R160, R383, R385). -/
def Sel.alone (l : Sel) : Bool :=
  l.pauseOpen || l.selfRef
    || l.plan.any fun p => p.use == .initial || p.use == .pause || p.use == .pauseEnd || p.use == .selfRef

/-- The first command that is due and ready: the planned ones in their order, owed refreshes, and refresh management and neighbour
refresh of banks that no planned command covers (R150, R157, R161). None is before a clean mark has been read and zeroed
(R234). -/
def State.dueCmd (s : State) (c : ChanId) (x : Sub) : Option Choice :=
  let l := s.sel c x
  let ready := fun (m : Cmd) => s.spacedAt c x m && decide (m.notBefore ≤ l.dclk)
  let fits := fun (m : Cmd) => ready m && s.fitsWindow c x false m
  let free := ((s.rfmCmd c x).toList ++ (s.nbrCmd c x).toList).filter fun m => !l.plan.any fun p => p.meets m || m.meets p
  if (s.chan c).cmarkDue && !(l.plan.any fun p => p.use == .initial) then none
  else
    let own := (s.planned c x).find? fun m => if m.ownsWindow then ready m else fits m
    let other := if l.alone then none else ((s.owedCmd c x).toList ++ free).find? fits
    (own.or other).map fun m => { cmd := m }

/-! ### Recovery and replay (R170, R171) -/

/-- The marked entry needs no re-issue: a RD whose data were captured, a PRE of a closed bank, an ACT of the row that is
open already (R171). -/
def Sel.skips (l : Sel) (o : Ox) : Bool :=
  (o.cmd.kind.isRd && o.captured) || (o.cmd.kind == .pre && (l.openRow o.cmd.bank).isNone)
    || (o.cmd.kind == .act && l.openRow o.cmd.bank == some o.cmd.row)

/-- The entries without the first marked ones that need no re-issue. -/
def Sel.skipMarked (l : Sel) : List Ox → List Ox
  | [] => []
  | o :: r => if o.marked then (if l.skips o then l.skipMarked r else o :: r) else o :: l.skipMarked r

/-- An ACT in a replay, or the refresh management it has to wait for (R164). -/
def State.redoAct (s : State) (c : ChanId) (x : Sub) (m : Cmd) (again : Bool) : Cmd × Bool :=
  match s.rfmFull c x m.bank, s.rfmCmd c x with
  | true, some r => (r, false)
  | _, _ => (m, again)

/-- The next command of a recovery or replay: the precharges of R170, then each marked entry with what its bank still
needs before it (R171). The flag says that it is the entry's own re-issue. -/
def State.redoNext (s : State) (c : ChanId) (x : Sub) : Option (Cmd × Bool) :=
  let l := s.sel c x
  match l.redo with
  | m :: _ => some (m, false)
  | [] =>
    (l.ox.find? (·.marked)).map fun o =>
      let m := o.cmd
      let pre := fun (r : Nat) => (({ kind := .pre, bank := m.bank, row := r, use := .replay } : Cmd), false)
      if m.kind.isCol then
        match l.openRow m.bank with
        | some r => if r = m.row then (m, true) else pre r
        | none => s.redoAct c x { kind := .act, bank := m.bank, row := m.row, use := .replay } false
      else if m.kind = .act then
        match l.openRow m.bank with
        | some r => pre r
        | none => s.redoAct c x m true
      else if m.kind.isRef && l.banks.any (fun e => m.covers e.1) then
        ({ kind := if m.kind = .refab ∨ m.kind = .rfmab then .preab else .presb, bank := m.bank, use := .replay }, false)
      else (m, true)

def desChoice : Choice := { cmd := { kind := .des, bank := ⟨0, 0, 0, 0⟩ } }

/-- Commands of the oxbow buffer that are not acknowledged, and those of them that may still be: a marked one waits for its
replay (R168, R170). -/
def Sel.unacked (l : Sel) : Nat := (l.ox.filter fun o => !o.acked).length
def Sel.awaiting (l : Sel) : Nat := (l.ox.filter fun o => !o.acked && !o.marked).length

/-- The oxbow buffer has room for a command that a recovery or replay puts before its marked entries. DESIGN CHOICE: with all 32
entries marked no acknowledgement could make room (R168), and that command stands beside them (log entry 76). -/
def Sel.oxRoom (l : Sel) : Bool := decide (l.unacked < 32) || l.awaiting == 0

/-- tRP of the recovery's precharge of the command's rank has ended (R170 step 5). -/
def State.afterRecover (s : State) (c : ChanId) (x : Sub) (m : Cmd) : Bool :=
  let l := s.sel c x
  l.hist.all fun h => h.cmd.use != .recover || h.cmd.bank.cs != m.bank.cs || decide (h.time + dclks (s.tim c 3) ≤ l.dclk)

/-- The next recovery or replay command: the precharges once tPAR_RCVR has passed, the marked commands tRP after them, under R148
and R157 (R170). -/
def State.redoCmd (s : State) (c : ChanId) (x : Sub) : Choice :=
  let l := s.sel c x
  if !l.rcvrDone then desChoice
  else match s.redoNext c x with
    | some (m, own) =>
      if s.spacedAt c x m && (m.use == .recover || (s.afterRecover c x m && s.fitsWindow c x true m))
          && (own || l.oxRoom) then { cmd := m } else desChoice
    | none => desChoice

/-- The choice of a slot (R150, R154, R168): DES while 32 commands are unacknowledged. -/
def State.choose (s : State) (c : ChanId) (x : Sub) : Choice :=
  let l := s.sel c x
  if l.ostate = .stopped then desChoice
  else if l.ostate != .running then s.redoCmd c x
  else if 32 ≤ l.unacked then desChoice
  else match s.dueCmd c x with
    | some m => m
    | none => if l.selfRef || l.pauseOpen then desChoice else s.choosePlain c x

end Sys2Proof.Machine
end

