-- ==== Sys2Proof/Machine/Jobs.lean ====
section
/-! DEFINITION. Replies of the command processor (R407 to R412) and job slots (R416 to R418), for every unit that
answers a command or ends a job. -/

namespace Sys2Proof.Machine

/-- STATUS of a reply (R411). -/
def stOk : Nat := 0
def stAccepted : Nat := 1
def stDeferred : Nat := 2
def stRefused : Nat := 3
def stBadPacket : Nat := 4
def stUnknown : Nat := 5
def stAborted : Nat := 6
def stFailed : Nat := 7

/-- Reply slots hold zero at core reset (R397). -/
def zeroWord : Nat → Word := fun _ => 0

/-- Words 0 to 14 of a reply (R409). -/
def replyWords (opc seq status err : Nat) (res : List Word) : List Word :=
  [BitVec.ofNat 32 (place opc 8 0 + place status 8 8 + place seq 16 16), BitVec.ofNat 32 (place err 16 0)]
    ++ (List.range 13).map fun i => res.getD i 0

/-- The CRC word over a packet's or a reply's first 60 bytes (R408, R409). -/
def packetCrc (ws : List Word) : Word := crc32c ((ws.map wordBytes).flatten)

/-- Words written from address `a` up. -/
def Cells.setAll (dflt : Nat → Word) : Cells → Nat → List Word → Cells
  | c, _, [] => c
  | c, a, w :: ws => Cells.setAll dflt (c.set dflt a w) (a + 1) ws

/-- The reply to the packet taken from slot CI is written and CI advances (R407, R409). -/
def State.reply (s : State) (opc seq status err : Nat) (res : List Word) : State :=
  let ws := replyWords opc seq status err res
  let m := s.cmp
  { s with cmp :=
      { m with rpl := m.rpl.setAll zeroWord (16 * (m.ci % 16)) (ws ++ [packetCrc ws])
               ci := (m.ci + 1) % 32
               cur := none } }

/-- The command being carried out ends (kind S† of R413). -/
def State.replyCur (s : State) (status err : Nat) (res : List Word) : State :=
  match s.cmp.cur with
  | none => s
  | some c => s.reply c.opc c.seq status err res

/-! ### Jobs -/

/-- TARGET of a job over a mask (R416). -/
def maskTarget : Nat := 31

def State.job (s : State) (j : Fin 8) : Job := s.cmp.jobs.at j

def State.modJob (s : State) (j : Fin 8) (f : Job → Job) : State :=
  { s with cmp := { s.cmp with jobs := s.cmp.jobs.put j (f (s.cmp.jobs.at j)) } }

def State.modJobs (s : State) (f : Job → Job) : State :=
  { s with cmp := { s.cmp with jobs := s.cmp.jobs.each f } }

/-- The lowest free job slot. -/
def State.freeJob (s : State) : Option (Fin 8) := (List.finRange 8).find? fun j => (s.job j).st == 0

/-- A running job of opcode `opc`. -/
def Job.runs (b : Job) (opc : Nat) : Bool := b.st == 1 && b.opc == opc

/-- A job of opcode `opc` runs over channel `c`. -/
def Job.runsOn (b : Job) (opc : Nat) (c : ChanId) : Bool :=
  b.runs opc && (b.target == c.val || (b.target == maskTarget && b.mask.getLsbD c.val))

def State.anyJob (s : State) (p : Job → Bool) : Bool := s.cmp.jobs.toList.any p

/-- A mask as a result word. -/
def maskWord (m : BitVec 20) : Word := m.setWidth 32

/-- The result words of a job as far as it has come (R414). -/
def Job.words (b : Job) : List Word :=
  match b.opc with
  | 0x10 => [maskWord b.ok, maskWord b.aux, maskWord b.bad]
  | 0x13 | 0x15 | 0x18 => [maskWord b.ok, maskWord b.bad]
  | 0x27 => b.res
  | _ => []

/-- A job is ABANDONED with a cause (R418); its words show what it had done. -/
def Job.abandon (err : Nat) (b : Job) : Job := { b with st := 5, err := err, todo := [], res := b.words }

/-- Every running job that `p` names is abandoned (R418). -/
def State.abandonJobs (s : State) (err : Nat) (p : Job → Bool) : State :=
  s.modJobs fun b => if b.st = 1 ∧ p b then b.abandon err else b

/-- Opcodes with flag D (R414). -/
def flagD (opc : Nat) : Bool :=
  [0x10, 0x13, 0x14, 0x15, 0x16, 0x17, 0x18, 0x20, 0x21, 0x22, 0x23, 0x24, 0x25, 0x26, 0x27, 0x28, 0x30, 0x31, 0x32,
   0x33, 0x38].contains opc

/-- Opcodes with flag W (R414). -/
def flagW (opc : Nat) : Bool :=
  [0x13, 0x14, 0x22, 0x23, 0x30, 0x33, 0x41, 0x42, 0x43, 0x49].contains opc

/-- The engine of a job has finished: JOB_END ends it with this ERR (R416). -/
def Job.finish (err : Nat) (b : Job) : Job := if b.fin.isNone then { b with fin := some err } else b

/-- The running job of opcode `opc` on target `t` finishes with `err`. -/
def State.finishJob (s : State) (opc t err : Nat) : State :=
  s.modJobs fun b => if b.runs opc ∧ b.target = t then b.finish err else b

/-- The running jobs of opcode `opc` on target `t` that name line `line` finish with `err`. -/
def State.finishLine (s : State) (opc t line err : Nat) : State :=
  s.modJobs fun b => if b.runs opc ∧ b.target = t ∧ b.line = line then b.finish err else b

/-- The bit of a channel in a mask. -/
def chanBit (c : ChanId) : BitVec 20 := BitVec.ofNat 20 (2 ^ c.val)

/-- A job over a mask reports channel `c` as failed and goes on with the rest (R418); `reading` says that SPD_READ was still at it. A
module being enabled keeps its place in the spacing (R419). -/
def Job.lose (c : ChanId) (reading : Bool) (b : Job) : Job :=
  { b with bad := if b.ok.getLsbD c.val && !(b.opc == 0x10 && reading) then b.bad else b.bad ||| chanBit c
           todo := b.todo.take 1 ++ (b.todo.drop 1).filter fun t => t.1 != c }

/-- Long commands whose only target is a channel (R414). -/
def chanJob (opc : Nat) : Bool := [0x20, 0x21, 0x22, 0x23, 0x24, 0x30].contains opc

/-- Jobs at a sever of `c` (R418). The spec gives no ERR for a job that a sever abandons: a free value (log entry 8). -/
def State.severJobs (s : State) (c : ChanId) (reading : Bool) : State :=
  let err := (Config.openErr s.freeIx).toNat
  let s := s.modJobs fun b =>
    if b.st ≠ 1 then b
    else if b.target = c.val ∧ chanJob b.opc then b.abandon err
    else if b.target = maskTarget ∧ b.mask.getLsbD c.val then b.lose c reading
    else b
  { s with freeIx := s.freeIx + 1 }

end Sys2Proof.Machine
end

