-- ==== Sys2Proof/Machine/Loss.lean ====
section
/-! DEFINITION. Losing a channel or a rank: states of the span sets (R333 to R336), severs (R377 to R381) and what
becomes of the requests in flight (R376, R378, R379). -/

namespace Sys2Proof.Machine

/-! ### Tally lines (R228 to R232, R336) -/

/-- The channel and line of tally line `t` of set `m`, on its own position or on the fallback area. -/
def State.tallySpot (s : State) (m : SetId) (t : Nat) (fallback : Bool) : ChanId × Nat :=
  let c := chanOf m (if fallback then t + 1 else t)
  (c, (s.geom c).reserved + (if fallback then 2 ^ 19 else 2 ^ 14) + t / 5)

/-- A mark-list word is read: with a bad byte the entry's tally line is written as all ones (R288 code 10). -/
def State.readMark (s : State) (m : SetId) (e : Mark) : State × Mark :=
  match e.bad with
  | none => (s, e)
  | some b =>
    let e' : Mark := { e with bad := none, bits := if b.checkOnly then e.bits else BitVec.allOnes 512 }
    let s := s.readG 531 (some b)
    (s.modSpan m fun sp => { sp with marks := sp.marks.map fun x => if x.t = e.t then e' else x }, e')

/-- A tally line's write, as a mark or as its clear (R230, R231). A mark that has not issued takes the bits in. -/
def State.pushTally (s : State) (m : SetId) (e : Mark) (mark : Bool) (cls : Cls) : State :=
  let (c, line) := s.tallySpot m e.t e.fallback
  let data : Line := if mark then e.bits else 0
  let mine := fun (w : WrE) => !w.issued && w.purp == .tally m e.t mark && w.home == line
  if (s.chan c).dead then s
  else if (s.chan c).wq.any mine then
    s.modChan c fun k => { k with wq := k.wq.map fun w => if mine w then { w with data := data } else w }
  else
    let s := s.pushRaw c { id := s.nextId, purp := .tally m e.t mark, home := line, loc := line, data := data,
                           cls := cls, epoch := e.emax }
    if mark then s.modSpan m fun sp => { sp with markWrites := satAdd (2 ^ 21 - 1) sp.markWrites 1 } else s

/-- Position `j` becomes absent (R336): its entries with lines to come are marked again on the fallback area, and the
others are freed. What its channel has queued of them is not written there (R335). -/
def State.rehome (s : State) (m : SetId) (j : Nat) : State :=
  let hit := fun (e : Mark) => e.t % 5 == j && !e.fallback
  let move := (s.span m).marks.filter fun e => hit e && decide (0 < e.count)
  let mine := fun (w : WrE) => !w.issued && (match w.purp with | .tally m' t _ => m' == m && t % 5 == j | _ => false)
  let s := s.modChan (chanOf m j) fun k => { k with wq := k.wq.filter fun w => !mine w }
  let s := s.modSpan m fun sp =>
    { sp with marks := (sp.marks.filter fun e => !hit e || decide (0 < e.count)).map fun e =>
        if hit e then { e with fallback := true, acked := 0, clearing := false } else e }
  move.foldl (fun s e => s.pushTally m { e with fallback := true, acked := 0, clearing := false } true .norm) s

/-! ### States of a span set (R333 to R335) -/

/-- The event record of a change of state (R333, R441). -/
def State.noteSpan (s : State) (m : SetId) (old : Nat) : State :=
  let sp := s.span m
  s.note 3 (m.val + old * 2 ^ 8 + sp.st * 2 ^ 16 + sp.pos * 2 ^ 24 + sp.ranks.toNat * 2 ^ 32)

/-- The rebuild of a set stops; its job ends without completing (R334, R418). -/
def State.stopRebuild (s : State) (m : SetId) : State :=
  let err := (Config.openErr s.freeIx).toNat
  let on := (s.span m).reb.on
  let s := s.modSpan m fun sp => { sp with reb := {} }
  if on then
    { s.modJobs (fun b => if b.runs 0x28 ∧ b.target = m.val then b.abandon err else b) with freeIx := s.freeIx + 1 }
  else s

/-- Position `j` of set `m` is lost for the lines of `ranks`, all of them when it is zero (R333 to R335). -/
def State.losePos (s : State) (m : SetId) (j : Nat) (ranks : BitVec 8) : State :=
  let sp := s.span m
  if sp.st = 3 then s
  else if sp.st = 0 then
    let s := s.modSpan m fun sp => { sp with st := 1, pos := j, ranks := ranks, deg := true }
    ((s.noteSpan m 0).raise 543).rehome m j
  else if sp.pos = j then
    let both : BitVec 8 := if ranks = 0 ∨ sp.ranks = 0 then 0 else sp.ranks ||| ranks
    let back := sp.st == 2
    let s := s.modSpan m fun sp => { sp with ranks := both, st := if back then 1 else sp.st }
    let s := if ranks = 0 || back then s.stopRebuild m else s
    if back then (s.noteSpan m 2).raise 543 else s
  else (s.stopRebuild m).setOffline m

/-- A channel of a span set is lost as a whole (R333, R334). -/
def State.loseChan (s : State) (c : ChanId) : State :=
  if s.spanMode (setOf c) then s.losePos (setOf c) (posOf c) 0 else s

/-! ### Requests in flight (R376, R378, R379) -/

/-- A line from MI that is not written (R379): an event record and the channel's source. -/
def State.mirrorLost (s : State) (c : ChanId) (line : Nat) : State :=
  (s.note 5 (c.val + 2 * 2 ^ 8 + detailLine line 2)).raiseChan c 17

/-- A request in the crossbar is answered ABSENT (R376, R378). -/
def State.absentEntry (s : State) (e : XEntry) : State :=
  if e.write then
    let s := match e.src with
      | .mi => e.lines.foldl (fun (s : State) (x : XLine) => if (s.chan x.ch).away then s.mirrorLost x.ch x.line else s) s
      | .hp _ => s
    (s.undoWrite e.src e.id).giveDone e.src e.id .absent
  else e.lines.foldl (fun s x => s.giveBeat e.src e.id { lidx := x.lidx, code := .absent }) s

/-- The set of a crossbar entry. -/
def XEntry.set (e : XEntry) : SetId :=
  match e.dest with
  | .chan c => setOf c
  | .span m => m

/-- The entry needs the lost channel: it goes to it in a plain set, or to a set that is offline. -/
def State.entryLost (s : State) (c : ChanId) (e : XEntry) : Bool :=
  if s.spanMode (setOf c) then s.offline (setOf c) && e.set == setOf c else e.dest == .chan c

/-- Requests that wait in the crossbar when `c` is lost: ABSENT in a plain or offline set; in a span set a read goes to the span
engine (R376, R378). A sever loses what was taken and not accepted as well; a gate lets it complete (R375). -/
def State.loseWaiting (s : State) (c : ChanId) (cut : Bool) : State :=
  let gone := (s.xbar.entries ++ if cut then s.xbar.taken else []).filter (s.entryLost c)
  let keep := fun (e : XEntry) => !s.entryLost c e
  let turn := fun (e : XEntry) =>
    if s.spanMode (setOf c) && !e.write && e.dest == .chan c then { e with dest := .span (setOf c) } else e
  let s := { s with xbar := { s.xbar with entries := (s.xbar.entries.filter keep).map turn
                                          taken := if cut then s.xbar.taken.filter keep else s.xbar.taken } }
  gone.foldl (fun s e => s.absentEntry e) s

/-- A read of a resweep comes back: a line, or nothing that decodes. DESIGN CHOICE: the spec does not say what a tally line
that does not decode marks; the model takes every page of it as marked (log entry 65). -/
def Sweep.got (w : Sweep) (res : Option Line) : Sweep :=
  match w.stage with
  | .tally => { w with stage := .pages, page := 0, bits := res.getD (BitVec.allOnes 512) }
  | .stripe => { w with wait := w.wait - 1, acc := w.acc ^^^ res.getD 0, failed := w.failed || res.isNone }
  | _ => w

def State.modSweep (s : State) (m : SetId) (f : Sweep → Sweep) : State := s.modSpan m fun sp => { sp with sweep := f sp.sweep }

/-- A queued read of a lost channel (R378): reconstructed in a span set, ABSENT otherwise. -/
def State.loseRead (s : State) (c : ChanId) (e : RdE) : State :=
  match e.purp with
  | .host src rid lidx =>
    if s.spanMode (setOf c) && !s.offline (setOf c) then
      s.startRecon c e.home (.beat src rid lidx false) e.cls e.epoch e.src e.orig (e.issued || e.reread)
    else s.giveBeat src rid { lidx := lidx, code := .absent }
  | .form f k => s.failRead f k
  | .contrib r => s.loseContrib r
  | .sweepRead => s.modSweep (setOf c) fun w => w.got none
  | _ => s

/-- Beats of reads that a lost channel of a plain or offline set leaves unsent, read back already or not, carry ABSENT
(R62, R378). -/
def State.cutBeats (s : State) (c : ChanId) : State :=
  let lost := fun (f : Flight) (b : Rsp) => s.entryLost c
    { id := f.id, src := .mi, dest := .chan (s.spot (f.req.addr + 64 * b.lidx)).ch, cls := f.cls, epoch := f.epoch,
      write := false, addr := f.req.addr, lines := [], stripe := 0 }
  let cut := fun (f : Flight) =>
    if f.req.opc.isRead then
      { f with ready := f.ready.map fun b => if lost f b then { lidx := b.lidx, code := .absent } else b }
    else f
  { s with ports := s.ports.each fun q => { q with flights := q.flights.map cut } }

/-- What stands in the return queue of such a channel is answered ABSENT. -/
def State.cutReturns (s : State) (rets : List RetE) : State :=
  rets.foldl (fun (s : State) (e : RetE) => s.giveBeat e.src e.rid { lidx := e.lidx, code := .absent }) s

/-- A host or MI read of a queue. -/
def RdE.isHost (e : RdE) : Bool := match e.purp with | .host _ _ _ => true | _ => false

/-- A set that a sever takes OFFLINE leaves no line of a read to come: what its channels have queued, read or under reconstruction
is answered ABSENT (R62, R333). Issued reads bring data that nothing takes. -/
def State.cutSet (s : State) (m : SetId) : State :=
  let beat := fun (r : Recon) => r.m == m && (match r.use with | .beat _ _ _ _ => true | _ => false)
  let recons := s.recons.filter beat
  let reads := ((setChans m).map fun d => (s.chan d).rq.filter RdE.isHost).flatten
  let rets := ((setChans m).map fun d => (s.chan d).ret).flatten
  let s : State := { s with recons := s.recons.filter fun r => !beat r }
  let s := (setChans m).foldl (fun (s : State) (d : ChanId) => s.modChan d fun k =>
    { k with ret := [], rq := (k.rq.filter fun e => !e.isHost || e.issued).map fun e =>
        if e.isHost then { e with purp := .dropped } else e }) s
  let s := recons.foldl (fun (s : State) (r : Recon) =>
    match r.use with
    | .beat src rid lidx _ => s.giveBeat src rid { lidx := lidx, code := .absent }
    | _ => s) s
  let s := reads.foldl (fun (s : State) (e : RdE) =>
    match e.purp with
    | .host src rid lidx => s.giveBeat src rid { lidx := lidx, code := .absent }
    | _ => s) s
  s.cutReturns rets

/-- A stripe's form is planned again under the degraded rows, what has been read kept (R126, R378). -/
def State.replan (s : State) (c : ChanId) (f : Form) : Form :=
  match f.stripe with
  | none => f
  | some (m, st) =>
    let g := s.stripeForm m st f.lines f.epoch f.cls f.src f.orig f.rcw
    { f with
      reads := g.reads.map fun r =>
        match f.reads.find? fun o => o.role == r.role && o.idx == r.idx && (o.ch != c || !s.lineLost m (posOf c) st) with
        | some o => { r with res := o.res }
        | none => r
      par := if g.par.isNone then none else f.par
      gone := g.gone }

/-- Lines of accepted writes that a channel holds unissued: queued, in the eddy buffer of a plain set, or in a plain
form (R220, R378). -/
def State.unissued (s : State) (c : ChanId) : Nat :=
  let k := s.chan c
  (k.wq.filter fun w => !w.issued && (match w.purp with | .host _ _ _ | .form _ _ | .parity => true | _ => false)).length
    + (k.eddy.filter fun e => e.stripe.isNone).length
    + (s.forms.map fun f => if f.stripe.isNone then (f.lines.filter fun l => l.ch == c).length else 0).sum

/-- Write lines that the channel holds and has not issued, of whatever kind: in its queue, waiting for an entry, in the eddy
buffer, in forms and as parity of open records (R220). -/
def State.heldLines (s : State) (c : ChanId) : Nat :=
  let k := s.chan c
  (k.wq.filter fun w => !w.issued).length + k.backs.length + k.eddy.length
    + (s.forms.map fun f => (f.lines.filter fun l => l.ch == c && !f.gone.contains l.idx).length
        + (match f.par with | some (pc, _, _) => if pc = c then 1 else 0 | none => 0)).sum
    + ((s.span (setOf c)).recs.filter fun r => parPos r.stripe == posOf c).length

/-- The stripe records with a line on the lost channel are released (R378). -/
def State.releaseOn (s : State) (c : ChanId) : State :=
  let m := setOf c
  ((s.span m).recs.filter fun r => (s.recLines m r).any fun x => x.1 == c).foldl (fun s r => s.releaseRec m r) s

/-! ### The channel itself -/

/-- The selectors of a lost channel: nothing issues; what CHn keeps across it is the retraining step, the
refresh-management counts and a subchannel that has stopped (R172, R182, R377). -/
def Sel.stop (l : Sel) : Sel :=
  { dclk := l.dclk, count := l.count, rtr := l.rtr, failed := l.failed, lfsr := l.lfsr, retries := l.retries,
    ostate := if l.ostate = .stopped then .stopped else .running, out := l.out }

/-- A patch installation is abandoned: its entry returns to FREE (R340). -/
def Chan.dropInst (k : Chan) : Chan :=
  let k' := match k.patch.inst with
    | none => k
    | some (i, _) => k.setPatch i {}
  { k' with patch := { k'.patch with inst := none, wait := [], recheck := [], check := none } }

/-- The sequence ends abandoned, its row staged as it stands (R330). -/
def Ppr.abandon (p : Ppr) : Ppr :=
  if p.step = 0 then p else { p with step := 0, err := 3, lock := false, prog := false, line := none, stale := false }

/-- The maintenance work of a channel stops (R340): a scrub pass ends with STATE 3, an installation is abandoned, a PPR
ends abandoned (R330), a raw access ends with ERR 3 (R290), and the wash keeps its cursors (R301). -/
def Chan.stopWork (k : Chan) : Chan :=
  let k := k.dropInst
  { k with
    weir := { revokes := k.weir.revokes }
    scrub := { k.scrub with st := if k.scrub.st = 1 then 3 else k.scrub.st, stage := .idle }
    ppr := k.ppr.abandon
    inj := if k.inj.busy then { k.inj with busy := false, err := 3 } else k.inj
    ladder := { k.ladder with carried := [] }
    wash := k.wash.map fun g => { g with inQ := false } }

/-- A PMIC change is sent or settles (R380, R381). -/
def Chan.pmicBusy (k : Chan) : Bool := k.settling || k.i3c.any fun x => x.use == .pmicSet

/-- The channel's own state after a sever (R182, R348, R373, R377, R381). -/
def Chan.cut (k : Chan) (why : Nat) (lost : Bool) : Chan :=
  let abandon := k.pmicBusy
  let k := k.stopWork
  { k with
    rq := [], wq := [], eddy := [], intRet := [], backs := [], fetches := []
    sel := k.sel.each Sel.stop
    tideValid := false, tideReload := false
    forceOff := true, schOn := false, failed := decide (why = 2) || decide (why = 3), failDue := 0
    cmarkDue := false
    phy := { k.phy with started := false, lock := false, cal := false, trained := false, level := 3, drst := false }
    i3c := [], settling := false
    pwrst := 0, prepStep := 0, gate := none, drain := .none, gated := false, wakeDue := false
    svc := { k.svc with st := 5, pwrOn := false, fall := fallTime, why := why, lost := lost, abandon := k.svc.abandon || (abandon && why == 1) } }

/-- SVC_CTL of a channel (R396). -/
def svcCtlKey (c : ChanId) : Nat := 0x6100 + 4 * c.val

/-- SVC_CTL's ATTN and OK take the modes the core sets, and PWR clears where sled power fell (R370, R371). -/
def State.leds (s : State) (c : ChanId) (attn ok : Nat) (clearPwr : Bool) : State :=
  let w := s.prog (svcCtlKey c)
  s.setProg (svcCtlKey c)
    (BitVec.ofNat 32 ((if clearPwr then 0 else field w 0 0) + place attn 2 1 + place ok 2 3))

/-- IDLE_ENTER replies once every named channel has entered, aborted or been refused; ABORTED when every one aborted
(R411, R414). IDLE_EXIT replies once every named channel has left or was not in IDLE. -/
def State.finishIdle (s : State) : State :=
  match s.cmp.cur with
  | none => s
  | some u =>
    if u.mask &&& ~~~(u.ok ||| u.bad ||| u.refused) = 0 then
      let w := fun (b : BitVec 20) => b.setWidth 32
      if u.opc = 0x31 then
        s.replyCur (if u.bad = u.mask ∧ u.mask ≠ 0 then stAborted else stOk) 0 [w u.ok, w u.bad, w u.refused]
      else if u.opc = 0x32 then s.replyCur stOk 0 [w u.ok, w u.bad]
      else s
    else s

/-- The command being carried out on a lost channel: an I3C command fails with ERR 14; a mode-register access has not
begun any more, and waits out its 25 ms (R377, R381, R413). -/
def State.loseCur (s : State) (c : ChanId) : State :=
  match s.cmp.cur with
  | none => s
  | some u =>
    if u.opc = 0x31 ∨ u.opc = 0x32 then
      if u.mask.getLsbD c.val && !u.ok.getLsbD c.val && !u.refused.getLsbD c.val then
        ({ s with cmp := { s.cmp with cur := some { u with bad := u.bad ||| chanBit c } } }).finishIdle
      else s
    else if u.ch ≠ c then s
    else if u.opc = 0x12 ∨ u.opc = 0x14 then s.replyCur stFailed 14 []
    else if u.opc = 0x16 ∨ u.opc = 0x17 then
      { s with cmp := { s.cmp with cur := some { u with begun := false } } }
    else s

/-- A TRAIN job works on the channel. -/
def State.inTraining (s : State) (c : ChanId) : Bool :=
  s.anyJob fun b => b.runsOn 0x15 c && !b.ok.getLsbD c.val && !b.bad.getLsbD c.val

/-- The step of R357 in progress, 1 to 10: the firmware's, a free value (log entry 8). -/
def State.trainStep (s : State) (c : ChanId) : Nat := 1 + (Config.trainStat s.tide c.val).toNat % 10

/-- Training of a severed channel ends with TRN_STAT.ERR 4, in the step in progress (R380). -/
def State.loseTraining (s : State) (c : ChanId) : State :=
  if s.inTraining c then
    let step := s.trainStep c
    s.modChan c fun k => { k with phy := { k.phy with trn := { step := step, err := 4, sub := 0, cs := 0, lane := 0 } } }
  else s

/-- Keepsake programs of a lost channel's patch and PPR work are not made, and none of them waits any more (R327, R340, R380). -/
def State.dropKeeps (s : State) (c : ChanId) : State :=
  ({ s with flash := { s.flash with ksQ := s.flash.ksQ.filter fun o => o.ch != c } }).modChan c fun k =>
    { k with patch := { k.patch with ksPend := false } }

/-- Reconstructions that are complete are handed over, the released lines move on, and epochs are brought up to date. -/
def State.settleAll (s : State) : State := s.finishRecons.feedRecons.feedForms.feedBacks.feedFetches.settle.updWithhold

/-- Write forms are planned again without what channel `c` has lost (R126). -/
def State.replanForms (s : State) (c : ChanId) : State :=
  let s := s.forms.foldl (fun (s : State) (f : Form) => match f.stripe with | some (m, st) => s.lookStripe m st | none => s) s
  { s with forms := s.forms.map (s.replan c) }

/-- Write forms on a lost channel: one of a plain set is lost with it, one of a stripe is planned again without it (R126, R379). -/
def State.dropForms (s : State) (c : ChanId) : State :=
  ({ s with forms := s.forms.filter fun f => f.stripe.isSome || !f.lines.any fun l => l.ch == c }).replanForms c

/-- Lines that a channel of a set that goes with it has returned, and not delivered, are not delivered (R378). -/
def State.dropReturns (s : State) (c : ChanId) (ret : List RetE) : State :=
  let s := ((s.modChan c fun k => { k with ret := [] }).cutBeats c).cutReturns ret
  if s.spanMode (setOf c) then s.cutSet (setOf c) else s

/-- The sluice records a channel lost to it (R220), and source 548 tells of lost lines. -/
def State.tellLost (s : State) (c : ChanId) (held : Nat) (lost : Bool) : State :=
  let s : State := if s.pers.strobe && !s.pers.done then
      { s with pers := { s.pers with lost := if 0 < held then s.pers.lost ||| chanBit c else s.pers.lost } } else s
  if lost then s.raise 548 else s

/-- The sever of a channel with sled power (R377 to R381, R220). On a channel that is severed, prepared or EMPTY it does
nothing further (R431). -/
def State.sever (s : State) (c : ChanId) (why : Nat) : State :=
  let k := s.chan c
  if k.svc.st = 0 ∨ k.svc.st = 4 ∨ k.svc.st = 5 then s
  else
    let lines := s.unissued c
    let held := s.heldLines c
    let reads := k.rq.filter fun e => !(e.purp.requester.isSome)
    let asked := k.fetches.filter fun f => f.purp == .sweepRead
    let reading := k.i3c.any fun x => match x.use with | .spd _ => true | _ => false
    let s := (s.loseTraining c).loseCur c
    let s := s.loseChan c
    let alive := s.spanMode (setOf c) && !s.offline (setOf c)
    let lost := (decide (0 < lines) && !alive) || (decide (0 < held) && s.pers.strobe && !s.pers.done)
    let s := if alive then s.releaseOn c else s
    let s := s.modChan c fun k => k.cut why (decide (0 < lines) && !alive)
    let s := (s.dropForms c).loseWaiting c true
    let s := reads.foldl (fun s e => s.loseRead c e) s
    let s := if alive then s else s.dropReturns c k.ret
    let s := asked.foldl (fun s _ => s.modSweep (setOf c) fun w => w.got none) s
    let s := (s.leds c (if why = 1 then 0 else 1) 0 true).severJobs c reading
    ((s.dropKeeps c).tellLost c held lost).settleAll

/-- What a channel holds unissued for its degraded ranks (R126, R333, R335): data and parity writes are not made, reads are
reconstructed, and forms are planned again. -/
def State.shedRanks (s : State) (c : ChanId) : State :=
  let m := setOf c
  let gone := fun (line : Nat) => s.lineLost m (posOf c) line
  let reads := (s.chan c).rq.filter fun e => !e.issued && gone e.home && (match e.purp with
    | .host _ _ _ | .form _ _ | .contrib _ => true
    | _ => false)
  let s := s.modChan c fun k =>
    { k with
      rq := k.rq.filter fun e => !reads.any fun o => o.id == e.id
      wq := k.wq.filter fun w => w.issued || !gone w.home || !(match w.purp with
        | .host _ _ _ | .form _ _ | .parity => true
        | _ => false) }
  reads.foldl (fun s e => s.loseRead c e) (s.replanForms c)

/-- Severs that became due inside a step are carried out at its end (R172, R288). -/
def State.sweepFails (s : State) : State :=
  allChans.foldl (fun s c =>
    let w := (s.chan c).failDue
    if w = 0 then s
    else (s.modChan c fun k => { k with failDue := 0 }).sever c w) s

end Sys2Proof.Machine
end

