-- ==== Sys2Proof/Machine/MillOps.lean ====
section
/-! DEFINITION. Changes of the millrace state (R257 to R270), the SEVER (R257, R262), the drift map's marking (R261). -/

namespace Sys2Proof.Machine

/-- STATE (R257). -/
def millNum : MillState → Nat
  | .off => 0
  | .handshake => 1
  | .mirrored => 2
  | .frozen => 3
  | .solo => 4
  | .fenced => 5
  | .resyncSrc => 6
  | .resyncTgt => 7

/-- WMODE in force; 3 acts as 0 (R272). -/
def State.wmode (s : State) : Nat :=
  let w := field (s.live 0x9008) 2 1
  if w = 3 then 0 else w

/-- JOIN in force; 3 acts as 0 (R272). -/
def State.join (s : State) : Nat :=
  let j := field (s.live 0x9000) 2 1
  if j = 3 then 0 else j

def State.primacy (s : State) : Bool := flag (s.live 0x9008) 0

/-- Granules below the installed top (R267). -/
def State.topGran (s : State) : Nat := s.topByte / 2 ^ 22

/-- The event record of a millrace event (R441), with the state as it was. -/
def State.noteMill (s : State) (old : MillState) (action : Nat) : State :=
  let m := s.mill
  s.note 4 (millNum old + millNum m.st * 2 ^ 8 + m.why * 2 ^ 16 + action * 2 ^ 24 + m.div % 2 ^ 32 * 2 ^ 32)

/-- The millrace is in state `st`; a level of R256 that the new state does not raise is let go (R256, R264), and OFF stops WICLK,
so that the mirror-in PLL locks afresh (R29). -/
def State.setMill (s : State) (st : MillState) : State :=
  let keep := s.mill.withhold && (st == .mirrored || st == .resyncSrc)
  let s : State := { s with mill := { s.mill with st := st, wreq := false, withhold := keep, wiclk := s.mill.wiclk && st != .off } }
  s.settle.updWithhold

/-- A bit of the drift map is read or written where the injected byte lies: its 8 granules are set (R288 code 14). -/
def State.lookDrift (s : State) (g : Nat) : State :=
  match s.mill.driftBad with
  | none => s
  | some (byte, b) =>
    if g / 8 = byte then
      let s := s.readG 535 (some b)
      { s with mill := { s.mill with
          driftBad := none
          drift := if b.checkOnly then s.mill.drift else s.mill.drift.add (8 * byte) (8 * byte + 8) } }
    else s

/-- The drift bit of a granule is written; an armed injection of code 14 goes into its word (R261, R268, R291). -/
def State.writeDrift (s : State) (g : Nat) (set : Bool) : State :=
  let s := s.lookDrift g
  let bad := s.armedG 14 0
  let s : State := { s with mill := { s.mill with
    drift := if set then s.mill.drift.add g (g + 1) else s.mill.drift.del g (g + 1)
    driftBad := match bad with | some b => some (g / 64 * 8 + b.lane % 8, b) | none => s.mill.driftBad } }
  s.spendG bad

/-- The drift bit of a granule is set (R261). -/
def State.markDrift (s : State) (g : Nat) : State := s.writeDrift g true

/-- The granule log is emptied into the drift map; a bad word found there sets every bit below the top (R261,
R288 code 15). -/
def State.spillLog (s : State) : State :=
  let gs := s.mill.log.map (·.1)
  let s := gs.foldl State.markDrift s
  let s : State := { s with mill := { s.mill with log := [] } }
  match s.mill.logBad with
  | none => s
  | some (_, b) =>
    let s := s.readG 536 (some b)
    { s with mill := { s.mill with logBad := none
                                   drift := if b.checkOnly then s.mill.drift else s.mill.drift.add 0 s.topGran } }

/-- Lines that the MO buffer holds, and resync copies, are marked and dropped (R261, R270). -/
def State.spillMo (s : State) : State :=
  let r := s.mill.rs
  let gs := (s.mill.moBuf ++ r.copies).map fun l => driftGran l.addr
  let gs := gs ++ r.gran.toList ++ ((r.reads.map (·.first)) ++ (r.back.map (·.1))).map fun line => line / 65536
  let s := gs.foldl State.markDrift s
  { s with mill := { s.mill with moBuf := [], rs := {} } }

/-- MO and MI of a side that no longer streams: what the lanes hold is dropped (R261, R263). -/
def Mill.quiet (m : Mill) : Mill :=
  { m with
    linked := false
    mi := m.mi.each fun l => { l with buf := [], isOpen := none, lastTr := none, hello := none }
    mo := m.mo.each fun l => { l with isOpen := 0, shut := true, rsEnd := false, greeted := false }
    acks := [], trDone := [], driftNext := none, rsEndAt := none }

/-- The marking of R261: the divergence mark, then the granule log and the MO buffer into the drift map. -/
def State.markSplit (s : State) : State :=
  let s : State := { s with mill := { s.mill with div := s.mill.acked + 1 } }
  s.spillLog.spillMo

/-- A linked side in MIRRORED enters FROZEN (R261). -/
def State.toFrozen (s : State) (why : Nat) : State :=
  let s := s.markSplit
  let s : State := { s with mill := { s.mill.quiet with why := why } }
  let s := (s.setMill .frozen).raise 540
  let ask := s.wmode == 1 && !s.pers.strobe
  let s : State := { s with mill := { s.mill with wreq := ask, grantLow := !s.mill.grantPin } }
  s.noteMill .mirrored 0

/-- The side goes SOLO (R262 to R265, R270); what it had still to send is marked. -/
def State.toSolo (s : State) : State :=
  let s := s.spillLog.spillMo
  let s : State := { s with mill := { s.mill.quiet with driftOk := false, driftGot := 0 } }
  s.setMill .solo

/-- The side goes FENCED (R263, R265, R270). -/
def State.toFenced (s : State) : State :=
  let s := s.spillLog.spillMo
  let s : State := { s with mill := s.mill.quiet }
  s.setMill .fenced

/-- A SEVER is due on every MO lane while the link is up (R257); a lane that has sent one stays inert (R241). -/
def State.sendSever (s : State) (cause : Nat) : State :=
  if s.mill.moUp then
    { s with mill := { s.mill with mo := s.mill.mo.each fun l => if l.inert then l else { l with sever := some cause } } }
  else s

/-- MILL_CTL.EN is cleared, or a UNIT reaction acts as that (R257, R431). -/
def State.millOff (s : State) : State :=
  if s.mill.st = .off then s
  else
    let s := s.sendSever 3
    let s : State := { s with mill := { s.mill.quiet with
      moBuf := [], log := [], logBad := none, rs := {}, barred := false, driftOk := false, driftGot := 0 } }
    s.setMill .off

/-- A linked side leaves its link: MIRRORED freezes, the source of a resync goes SOLO and its target FENCED, any other
state only loses its link (R261, R270). -/
def State.loseLink (s : State) (why : Nat) : State :=
  match s.mill.st with
  | .mirrored => s.toFrozen why
  | .resyncSrc => ({ s with mill := { s.mill with why := why } }).toSolo
  | .resyncTgt => ({ s with mill := { s.mill with why := why } }).toFenced
  | _ => { s with mill := { s.mill with
      linked := false, driftNext := none, acks := []
      mi := s.mill.mi.each fun l => { l with hello := none, buf := [] }
      mo := s.mill.mo.each fun l => { l with greeted := false } } }

/-- A stream break on a lane (R252, R272): recorded, raised, and every later beat of MI is discarded. -/
def State.streamBreak (s : State) (l : Lane) (reason : Nat) : State :=
  let b := s.mill.brk
  let b' : Brk := { valid := true, lane := if b.valid then b.lane else l.val, reason := if b.valid then b.reason else reason,
                    count := satAdd 255 b.count 1, seq := nextSeq b.seq }
  let s : State := { s with mill := { s.mill with brk := b', mi := s.mill.mi.each fun x => { x with broken := true } } }
  (s.raise 542).loseLink 3

/-! ### Accepted host writes (R239, R248, R261, R264) -/

/-- A resync copy of a line is dropped when a host write to it is accepted between its read's arrival and its return
(R268). -/
def State.supersede (s : State) (e : XEntry) : State :=
  let newer := e.lines.foldl (fun (o : ISet) x =>
    let i := e.addr / 64 + x.lidx
    if s.mill.rs.out.mem i then o.add i (i + 1) else o) s.mill.rs.newer
  { s with mill := { s.mill with rs := { s.mill.rs with newer := newer } } }

/-- The lines of an accepted write enter the MO buffer (R239, R248), or mark the drift map (R261, R264). -/
def State.mirrorWrite (s : State) (e : XEntry) : State :=
  match e.src with
  | .mi => s
  | .hp _ =>
    match s.mill.st with
    | .mirrored | .resyncSrc =>
      e.lines.foldl (fun (s : State) x =>
        let bad := s.armedG 12 0
        let l : MoLine := { addr := e.addr + 64 * x.lidx, data := maskBytes x.data x.mask, mask := x.mask,
                            epoch := e.epoch, bad := bad }
        ({ s with mill := { s.mill with moBuf := s.mill.moBuf ++ [l] } }).spendG bad) (s.supersede e)
    | .frozen | .solo | .fenced | .resyncTgt => s.markDrift (driftGran e.addr)
    | .off | .handshake => s

/-- The MO buffer has room for a write's lines (R248): 16,384 entries, of which those of epochs above the lowest that is not
yet fully sent use 15,360. -/
def State.moRoom (s : State) (e : XEntry) : Bool :=
  match e.src, s.mill.st with
  | .hp _, .mirrored | .hp _, .resyncSrc =>
    let low := s.mill.closed + 1
    let others := (s.mill.moBuf.filter fun l => low < l.epoch).length
    decide (s.mill.moBuf.length + e.lines.length ≤ 16384)
      && (decide (e.epoch ≤ low) || decide (others + e.lines.length ≤ 15360))
  | _, _ => true

/-! ### Reads of the resync engine (R268) -/

/-- Lines of a drift granule. -/
def driftLines : Nat := 65536

/-- Requests that the engine asks for in one go. -/
def resyncBurst : Nat := 64

/-- Class of the resync reads: RS_QOS, not RT (R268, R272). -/
def State.rsCls (s : State) : Cls := clsOf (field (s.live 0x9008) 16 15)

/-- The read of four lines of granule `g` from line `i` on. -/
def rsReq (g i : Nat) : Req :=
  { opc := .rd, addr := g * 2 ^ 22 + 64 * i, len := 3, qos := .bulk, tag := 0, key := 0, priv := true, wb := false,
    strict := false, mask := 0 }

/-- The engine's next reads enter the crossbar as MI's source, as far as that has room; a granule's bit is cleared once all
its reads have. DESIGN CHOICE: lines that no channel can give are passed over (log entry 66). -/
def feedResyncReads : Nat → State → State
  | 0, s => s
  | n + 1, s =>
    let rs := s.mill.rs
    match rs.gran with
    | none => s
    | some g =>
      if driftLines ≤ rs.next then
        let s := s.writeDrift g false
        { s with mill := { s.mill with rs := { s.mill.rs with gran := none, next := 0 } } }
      else
        let r := rsReq g rs.next
        let on : Resync := { rs with next := rs.next + 4 }
        if s.absentAt r then feedResyncReads n { s with mill := { s.mill with rs := on } }
        else
          let es := s.route .mi r s.rsCls s.pers.cur (s.requestLines r [])
          if s.xbarRoom es then
            let read : RsRead := { id := s.nextId, first := r.addr / 64, left := 4 }
            feedResyncReads n ({ s with
              xbar := { s.xbar with entries := s.xbar.entries ++ es }
              mill := { s.mill with rs := { on with reads := on.reads ++ [read] } } } : State).stamp
          else s

/-- Up to `n` steps of the engine's asking. -/
def State.feedResync (s : State) (n : Nat) : State := feedResyncReads n s

end Sys2Proof.Machine
end

