-- ==== Sys2Proof/Machine/Drain.lean ====
section
/-! DEFINITION. Draining a channel and putting it in self-refresh: the sluice (R214 to R220, R232, R233), IDLE and
prepare (R375, R383 to R386); entry to the safe state (R63, R433). -/

namespace Sys2Proof.Machine

/-! ### Releasing what a channel holds -/

/-- The stripe records that have a line or their parity on a channel. -/
def State.recsOn (s : State) (c : ChanId) : List StripeRec :=
  (s.span (setOf c)).recs.filter fun r =>
    parPos r.stripe == posOf c || (s.recLines (setOf c) r).any fun x => x.1 == c

/-- Every eddy entry and stripe record of the channel is released (R216 step 2, R375 step 3). -/
def State.releaseAll (s : State) (c : ChanId) : State :=
  let s := (s.recsOn c).foldl (fun s r => s.releaseRec (setOf c) r) s
  ((s.chan c).eddy.filter fun e => e.stripe.isNone).foldl (fun s e => s.releaseLine c e) s

/-- A form has a line, its parity or an internal read on the channel. -/
def Form.on (f : Form) (c : ChanId) : Bool :=
  (f.lines.any fun l => l.ch == c) || (match f.par with | some (pc, _, _) => pc == c | none => false)
    || f.reads.any fun r => r.ch == c && r.res.isNone

/-- No write line is held for the channel (R216 step 2), and no clean mark of the last sluice is still to be read and zeroed there
(R234); reads that still have to come back matter outside the sluice only (R217, R375). A prepare waits for a PMIC change to settle (R375 step 1). -/
def State.linesOut (s : State) (c : ChanId) : Bool :=
  let k := s.chan c
  k.wq.isEmpty && !k.cmarkDue && k.eddy.isEmpty && (s.recsOn c).isEmpty && !(s.forms.any fun f => f.on c)
    && (k.drain != .prepare || !k.pmicBusy)
    && (k.drain == .sluice || (k.rq.isEmpty && !s.xbar.taken.any fun e => (newLines e).any fun x => x.1 == c))

/-! ### The clean mark (R233) -/

/-- Position `j` of a set counts as absent for the clean mark. -/
def State.absPos (s : State) (m : SetId) (j : Nat) : Bool :=
  let sp := s.span m
  let k := s.chan (chanOf m j)
  k.dead || k.gated || !k.schOn || sp.lacks j

/-- ABS of the clean mark. -/
def State.absMask (s : State) (m : SetId) : Nat :=
  ((List.range 5).map fun j => if s.absPos m j then 2 ^ j else 0).sum

/-- Bytes 0 to 59 of a clean mark. -/
def cleanBytes (epoch set pos abs : Nat) : List Byte :=
  bytesOfNat 0x7E1DC0A5 4 ++ bytesOfNat epoch 8 ++ bytesOfNat 0x0200 2 ++ bytesOfNat set 1 ++ bytesOfNat pos 1
    ++ bytesOfNat abs 1 ++ bytesOfNat 0 43

/-- The clean mark's line. -/
def cleanLine (epoch set pos abs : Nat) : Line :=
  let b := cleanBytes epoch set pos abs
  BitVec.ofNat 512 (natOfBytes (b ++ wordBytes (crc32c b)))

/-- The last line of the reserved area. -/
def Geom.markLine (g : Geom) : Nat := g.cap * 2 ^ 24 - 1

/-- Every present channel of the set has issued all its write lines. -/
def State.setIssued (s : State) (m : SetId) : Bool :=
  (s.span m).recs.isEmpty && (setChans m).all fun c =>
    (s.chan c).dead || ((s.chan c).wq.all (·.issued) && (s.chan c).eddy.isEmpty && !s.forms.any fun f => f.on c)

/-- A channel of the set has lost lines in the sluice. -/
def State.setLost (s : State) (m : SetId) : Bool := (setChans m).any fun c => s.pers.lost.getLsbD c.val

/-! ### Self-refresh entry -/

/-- PREab and then SRE to every rank of a subchannel (R216 step 4, R375 step 4, R383). -/
def Geom.selfRefPlan (g : Geom) : List Cmd :=
  (g.ranks.map fun r => { kind := .preab, bank := ⟨r, 0, 0, 0⟩, use := .selfRef })
    ++ g.ranks.map fun r => { kind := .sre, bank := ⟨r, 0, 0, 0⟩, use := .selfRef }

/-- The subchannel starts its self-refresh entry, once. -/
def Sel.enterSelf (l : Sel) (g : Geom) : Sel :=
  if l.selfRef || (l.plan.any fun p => p.kind == .sre) then l else { l with plan := l.plan ++ g.selfRefPlan }

/-- Both subchannels of a drained channel start it. -/
def State.startSelf (s : State) (c : ChanId) : State :=
  let g := s.geom c
  let s : State := if (s.chan c).drain = .sluice then { s with pers := { s.pers with drained := s.pers.drained ||| chanBit c } }
    else s
  s.modChan c fun k =>
    { k with sel := k.sel.each fun l => l.enterSelf g, prepStep := if k.drain = .prepare then 4 else k.prepStep }

/-- A draining channel moves on: its clean mark once the set has issued everything, then self-refresh entry. -/
def State.drainTick (s : State) (c : ChanId) : State :=
  let m := setOf c
  let k := s.chan c
  if k.drain = .none then s
  else if !s.linesOut c then s
  else if k.drain = .sluice && s.spanMode m && !s.absPos m (posOf c) && !s.pers.marked.getLsbD c.val
      && !s.setLost m then
    if s.setIssued m then
      let line := (s.geom c).markLine
      let s := s.pushRaw c { id := s.nextId, purp := .cleanMark, home := line, loc := line,
                             data := cleanLine s.pers.cur m.val (posOf c) (s.absMask m), cls := .rt, epoch := s.pers.cur }
      { s with pers := { s.pers with marked := s.pers.marked ||| chanBit c } }
    else s
  else s.startSelf c

/-! ### IDLE (R383 to R386) -/

/-- A named channel of IDLE_ENTER or IDLE_EXIT (opcode `opc`) is done, well or not. -/
def State.idleDone (s : State) (opc : Nat) (c : ChanId) (ok : Bool) : State :=
  match s.cmp.cur with
  | none => s
  | some u =>
    if u.opc = opc && u.mask.getLsbD c.val then
      let u' : Cur := if ok then { u with ok := u.ok ||| chanBit c } else { u with bad := u.bad ||| chanBit c }
      ({ s with cmp := { s.cmp with cur := some u' } }).finishIdle
    else s

/-- The exit from IDLE begins: channel PLL n restarts (R385 step 1). -/
def State.beginExit (s : State) (c : ChanId) : State :=
  let mul := s.phyMul c
  s.modChan c fun k => { k with pwrst := 3, wakeDue := false, phy := { k.phy with started := true, mul := mul, lock := false } }

/-- From lock to the first SRX, in DCLK (R385 step 3). -/
def srxDelay : Nat := 64

/-- After lock, at DCLK `now`: SRX to every rank, then the REFab of R162 to every rank (R385 steps 2 to 4). -/
def Geom.exitPlan (g : Geom) (now : Nat) : List Cmd :=
  (g.ranks.map fun r => { kind := .srx, bank := ⟨r, 0, 0, 0⟩, use := .selfRef, notBefore := now + srxDelay })
    ++ g.ranks.map fun r => { kind := .refab, bank := ⟨r, 0, 0, 0⟩, use := .initial }

/-- The last SRE of both subchannels is acknowledged: retention levels are driven and the drain ends (R216 step 5, R350,
R375 step 5, R383); the LEDs keep what they show (R348). -/
def State.retain (s : State) (c : ChanId) : State :=
  let d := (s.chan c).drain
  let shown := field (s.prog (svcCtlKey c)) 4 1
  let s := s.modChan c fun k =>
    { k with drain := .none, pwrst := if d = .sluice then 0 else k.pwrst, phy := { k.phy with level := 2 }
             svc := { k.svc with leds := shown } }
  match d with
  | .none => s
  | .sluice =>
    { s with pers := { s.pers with inSelf := s.pers.inSelf ||| chanBit c, held := s.pers.held ||| chanBit c } }
  | .prepare =>
    s.modChan c fun k =>
      { k with prepStep := 5, i3c := [], tideValid := false
               phy := { k.phy with level := 3, started := false, lock := false, trained := false, drst := false } }
  | .idle =>
    let wake := (s.chan c).wakeDue
    let s := s.modChan c fun k =>
      { k with pwrst := 2, gate := none, tideValid := false, phy := { k.phy with started := false, lock := false } }
    let s := s.idleDone 0x31 c true
    if wake then s.beginExit c else s

/-! ### The sluice strobe (R214 to R220, R386) -/

/-- Maintenance work at the strobe (R219, R340): a scrub pass ends with STATE 3, a PPR ends abandoned, an installation
still in COPY is abandoned. -/
def Chan.sluiceWork (k : Chan) : Chan :=
  let copying := match k.patch.inst with
    | some (i, _) => (k.patch.entry i).st == 1
    | none => false
  { (if copying then k.dropInst else k) with
    scrub := { k.scrub with st := if k.scrub.st = 1 then 3 else k.scrub.st, stage := .idle }
    ppr := k.ppr.abandon }

/-- Reads of maintenance engines and of a resweep. -/
def Purp.engine (p : Purp) : Bool := p.requester.isSome || p == .sweepRead

/-- Reads that the strobe keeps from issuing leave the queue: host and MI reads not issued before, contributors of the
reconstructions `keep` does not name, maintenance reads; accesses that a COPY held go on (R217, R219). -/
def Chan.sluiceQueues (k : Chan) (keep : List Nat) : Chan :=
  let goes := fun (e : RdE) => !e.issued && (match e.purp with
    | .host _ _ _ => !e.reread
    | .contrib r => !e.reread && !keep.contains r
    | p => p.engine)
  { k with rq := (k.rq.filter fun e => !goes e).map fun e => { e with held := false }
           wq := k.wq.map fun w => { w with held := false }
           fetches := []
           backs := k.backs.filter fun w => w.purp == .writeBack }

/-- No SRX of an exit has issued on the subchannel. -/
def Sel.asleep (l : Sel) (g : Geom) : Bool :=
  let n := (l.plan.filter fun p => p.kind == .srx).length
  l.selfRef && (n == 0 || n == g.ranks.length)

/-- The strobe at one channel. One that leaves IDLE stays in self-refresh if no SRX has issued; otherwise the ranks that are out go
back, and those whose SRX had still to come do so after it (R386). -/
def State.strobeChan (s : State) (c : ChanId) : State :=
  let k := s.chan c
  if k.dead || !k.schOn then s
  else
    let keep := (s.recons.filter s.reconIssued).map (·.id)
    let s := s.modChan c fun k => { k.sluiceWork.sluiceQueues keep with sel := k.sel.each fun l => { l with pauseDue := none } }
    let hold := fun (s : State) =>
      { s with pers := { s.pers with drained := s.pers.drained ||| chanBit c, inSelf := s.pers.inSelf ||| chanBit c,
                                     held := s.pers.held ||| chanBit c } }
    let g := s.geom c
    if k.pwrst = 2 then hold s
    else if k.pwrst = 3 && k.sel.toList.all (·.asleep g) then
      (hold s).modChan c fun k => { k with
        sel := k.sel.each fun l => { l with plan := [] }, pwrst := 2, tideValid := false
        phy := { k.phy with started := false, lock := false } }
    else
      let s := s.modChan c fun k => { k with
        drain := .sluice, gate := none
        sel := k.sel.each fun l => if l.asleep g then { l with plan := [] } else l }
      s.releaseAll c

/-- An IDLE_ENTER, IDLE_EXIT or SLUMBER that the strobe meets replies: what has not been done is reported as not done
(R386, R411). -/
def State.endPowerCmd (s : State) : State :=
  match s.cmp.cur with
  | none => s
  | some u =>
    if u.opc = 0x31 ∨ u.opc = 0x32 then
      ({ s with cmp := { s.cmp with cur := some { u with bad := u.mask &&& ~~~(u.ok ||| u.refused) } } }).finishIdle
    else if u.opc = 0x33 then ({ s with sbm := { s.sbm with eval := false } }).replyCur stAborted 0 []
    else s

/-- Clears of tally lines that have not issued are not made any more (R232). -/
def State.stopClears (s : State) (m : SetId) : State :=
  let clear := fun (w : WrE) => !w.issued && (match w.purp with | .tally m' _ mark => m' == m && !mark | _ => false)
  let s := (setChans m).foldl (fun (s : State) (c : ChanId) =>
    s.modChan c fun k => { k with wq := k.wq.filter fun w => !clear w }) s
  s.modSpan m fun sp => { sp with marks := sp.marks.map fun e => { e with clearing := false } }

/-- The sluice strobe takes effect with its cause; a later trigger has no further effect (R214). -/
def State.strobe (s : State) (cause : Nat) : State :=
  if s.pers.strobe then s
  else
    let s : State := { s with pers := { s.pers with strobe := true, cause := cause }
                              mill := { s.mill with wreq := false } }
    let s := (s.abandonJobs 11 fun b => flagD b.opc).endPowerCmd
    let s := allSets.foldl (fun s m => ((s.stopRebuild m).stopClears m).modSpan m fun sp => { sp with sweep := {} }) s
    let s : State := { s with recons := s.recons.filter s.reconIssued }
    let s := allChans.foldl State.strobeChan s
    (s.raise 547).settleAll

/-! ### The safe state (R63, R433 to R435) -/

/-- Entry to the safe state with the source that enters it. -/
def State.enterSafe (s : State) (src : Nat) : State :=
  if s.fcol.safe then s
  else
    let s : State := { s with fcol := { s.fcol with safe := true, cause := src } }
    let withhold := s.mill.withhold
    let s : State := { s with ports := s.ports.each fun q => q.toSafe withhold }
    let s := allPorts.foldl State.updFlood s
    let s := if s.mill.st = .off then s else s.sendSever 1
    let s : State := { s with mill := { s.mill with wreq := false } }
    let s := s.abandonJobs 12 fun _ => true
    let s := s.strobe 5
    let s := s.note 8 (src + placeB s.fcol.ehold 16)
    s.settleAll

end Sys2Proof.Machine
end

