-- ==== Sys2Proof/Machine/Crossbar.lean ====
section
/-! DEFINITION. The crossbar's and the gathering commands (chapter 4): transfers, acceptance, expiries, internal reads
coming back, returned lines. -/

namespace Sys2Proof.Machine

/-- The turn of the entry's class passes to its source (R112). -/
def Xbar.turnTo (b : Xbar) (d : Dest) (e : XEntry) : Xbar :=
  let turns := (b.rr.at (destNum d)).put ⟨clsRank e.cls, by cases e.cls <;> decide⟩ (srcNum e.src)
  { b with rr := b.rr.put (destNum d) turns }

/-- A destination takes the entry: a write waits there for its acceptance (R117) and starts the wash of a fresh granule
(R114); a read's lines go on at once. -/
def State.takeEntry (s : State) (d : Dest) (e : XEntry) : State :=
  let rest := s.xbar.entries.filter fun o => !(o.id == e.id && o.dest == e.dest)
  let s : State := { s with xbar := { s.xbar with entries := rest }.turnTo d e }
  if e.write then
    let s := e.lines.foldl (fun (s : State) (x : XLine) => s.touchFresh x.ch x.line) s
    { s with xbar := { s.xbar with taken := s.xbar.taken ++ [e] } }
  else s.takeRead e

/-- A destination takes the request it chooses (R112). DESIGN CHOICE: after the sluice strobe nothing is taken: a read would
not issue and a write not be accepted any more (R217); the spec does not say where they wait (log entry 33). -/
def execCrossbarTransfer (d : Dest) (s : State) : Host.Outcome State Fault Refusal :=
  .next (if s.pers.strobe then s
    else match s.chooseEntry d with
      | some e => ((s.takeEntry d e).feedResync 2).updMiFlood.settleAll.sweepFails
      | none => s)

/-- Lines that count in WRCNT (R471). -/
def State.countWrites (s : State) (e : XEntry) : State :=
  match e.src with
  | .hp p => s.modPort p fun q => { q with wrCnt := q.wrCnt + e.lines.length }
  | .mi => s

/-- A taken write is held with all its lines and is accepted (R117, R59, R208): it takes its place, enters the mirror
stream (R239) and completes. -/
def State.acceptWrite (s : State) (e : XEntry) : State :=
  let s : State := { s with xbar := { s.xbar with taken := s.xbar.taken.filter fun o => o.id != e.id } }
  ((((s.placeWrite e).mirrorWrite e).countWrites e).giveDone e.src e.id .ok).settleAll.sweepFails

/-- The destination accepts the earliest write it has taken. After the sluice strobe no write is accepted (R216), and a
write whose lines the MO buffer cannot hold waits (R248). -/
def execWriteAccept (d : Dest) (s : State) : Host.Outcome State Fault Refusal :=
  .next (match s.xbar.taken.find? fun e => e.dest == d with
    | some e => if s.pers.strobe || !s.moRoom e then s else s.acceptWrite e
    | none => s)

/-- LWIN expires for the eddy entry of a line of a plain set (R124). -/
def execEddyLwinExpiry (c : ChanId) (line : Nat) (s : State) : Host.Outcome State Fault Refusal :=
  .next (match (s.chan c).eddy.find? fun e => e.stripe.isNone && e.line == line with
    | some e => (s.releaseLine c e).settleAll.sweepFails
    | none => s)

/-- SWIN expires for a stripe record (R125). -/
def execStripeSwinExpiry (m : SetId) (stripe : Nat) (s : State) : Host.Outcome State Fault Refusal :=
  .next (match (s.span m).recs.find? fun r => r.stripe == stripe with
    | some r => (s.releaseRec m r).settleAll.sweepFails
    | none => s)

/-- The result of an internal read is known to its write form (R127). -/
def State.giveForm (s : State) (f key : Nat) (res : Option Line) : State :=
  { s with forms := s.forms.map fun g =>
      if g.id = f then { g with reads := g.reads.map fun r => if r.key = key then { r with res := some res } else r }
      else g }

/-- An internal read of CHn returns to its write form (R127). -/
def execInternalReadReturn (c : ChanId) (s : State) : Host.Outcome State Fault Refusal :=
  .next (match (s.chan c).intRet with
    | r :: rest =>
      (((s.modChan c fun k => { k with intRet := rest }).giveForm r.f r.k r.res).settleAll).sweepFails
    | [] => s)

/-- A line leaves the return queue for its port's response buffer (R136); a bad byte makes its beat POISON (R288
code 6). A line for MI has no port. -/
def State.sendLine (s : State) (c : ChanId) (e : RetE) : State :=
  let s := s.modChan c fun k => k.hitC e.bad
  let s := if acts e.bad then s.raiseChan c 20 else s
  s.giveBeat e.src e.rid
    (if acts e.bad then { lidx := e.lidx, code := .poison, data := poisonLine }
     else { lidx := e.lidx, code := e.code, corr := e.corr, data := e.data })

/-- CHn sends a read line toward its port (R136). DESIGN CHOICE: R136 lets the return queue send in any order among ports;
the model sends its oldest line (log entry 30). -/
def execReturnLine (c : ChanId) (s : State) : Host.Outcome State Fault Refusal :=
  .next (match (s.chan c).ret with
    | e :: rest => ((s.modChan c fun k => { k with ret := rest }).sendLine c e).settleAll
    | [] => s)

/-- A head that the destination cannot hold has waited 64 CCLK: it is kept room from now on (R112). -/
def execCrossbarHeadWaitLimit (d : Dest) (s : State) : Host.Outcome State Fault Refusal :=
  .next
    (let hs := (s.heads d).filter fun e => !e.stuck && !s.canHold e
     match hs with
     | [] => s
     | e :: _ =>
       { s with xbar := { s.xbar with entries := s.xbar.entries.map fun o =>
           if o.id = e.id ∧ o.dest = e.dest then { o with stuck := true } else o } })

end Sys2Proof.Machine
end

