-- ==== Sys2Proof/Machine/RegOps.lean ====
section
/-! DEFINITION. Shadows, held writes and posted updates (R9, R87, R458, R460 to R462). -/

namespace Sys2Proof.Machine

/-- The groups of the updates that are posted and not yet reached (UPD_STAT.POSTED). -/
def State.posted (s : State) : Word := s.regs.posted.foldl (fun g p => g ||| p.groups) 0

/-- The postings of some of `gs` that shadow writes wait for: those to come, and those of this CCLK (R87, R97, R462). -/
def State.holders (s : State) (gs : List Nat) : List Posting :=
  (s.regs.posted ++ s.regs.lately).filter fun p => gs.any fun g => flag p.groups g

/-- Shadow writes to some of `gs` are held (R462). -/
def State.holds (s : State) (gs : List Nat) : Bool := !(s.holders gs).isEmpty

/-- The last tide value of the updates of some of `gs`: a write held for them lands after it (R87, R462). -/
def State.holdTime (s : State) (gs : List Nat) : Nat := ((s.holders gs).map (·.at_)).foldl max 0

/-- Bits that the cinch leaves writable (R458). -/
def State.open_ (s : State) (i : RegInfo) : Word :=
  match i.cinch with
  | some b => if flag s.regs.cinch b then ~~~i.guard else BitVec.allOnes 32
  | none => BitVec.allOnes 32

/-- The value that a read returns for a register's stored bits: a held write counts (R462). -/
def State.shadow (s : State) (key : Nat) : Word :=
  match s.regs.held.reverse.find? fun h => h.key == key with
  | some h => h.val
  | none => s.prog key

/-- A write of the stored bits of a register: RW and RWC fields take the value, a shadow takes it or holds it (R9,
R458, R462). DESIGN CHOICE: the word that a view computes of a held write starts from the shadow as it reads at the access,
not at its landing (log entry 71). -/
def State.store (s : State) (key : Nat) (val : Word) : State :=
  let i := regInfo key
  let m := (i.rw ||| i.rws ||| i.rwc) &&& s.open_ i
  let new := blend m (s.shadow key) val
  if i.rws ≠ 0 && s.holds i.groups then
    { s with regs := { s.regs with held := s.regs.held ++ [{ key := key, val := new, until_ := s.holdTime i.groups }] } }
  else s.setProg key new

/-- An update of `groups` is posted for tide value `T` (R461, R199). -/
def State.post (s : State) (groups : Word) (at_ : Nat) (armed : Bool) : State :=
  { s with regs := { s.regs with posted := s.regs.posted ++ [{ groups := groups, at_ := at_, armed := armed }] } }

/-- The bit of a group. -/
def groupBit (g : Nat) : Word := BitVec.ofNat 32 (2 ^ g)

/-- A posting by a unit of the core, for t + 64 (R461). -/
def State.postNow (s : State) (groups : Word) : State := s.post groups (s.tide + 64) false

/-- The core commits on its own after a covered change it makes itself, while the stitch check is armed (R468). -/
def State.autoCommit (s : State) : State :=
  let r := s.regs
  if r.stArmed then { s with regs := { r with stPend := true, stAuto := satAdd 255 r.stAuto 1 } } else s

/-- A register write or any other control-port access acts only while the core's registers answer (R448). -/
def State.ctl (s : State) (f : State → State) : State := if s.awake then f s else s

/-- A channel agent's registers answer: not in the safe state (R26). -/
def State.reachable (s : State) : Bool := !s.fcol.safe

/-- A write of a register of a channel agent. -/
def State.agentCtl (s : State) (f : State → State) : State := s.ctl fun s => if s.reachable then f s else s

end Sys2Proof.Machine
end

