-- ==== Sys2Proof/Machine/Maint.lean ====
section
/-! DEFINITION. Maintenance of a channel (chapter 10): the page-retire list, the patch table and its keepsake copy, the
exhaustion ladder, the weir arbiter. -/

namespace Sys2Proof.Machine

/-! ### Page-retire list (R319) -/

/-- A page is appended, skipped when it is listed, dropped when the list is full. -/
def State.retirePage (s : State) (page : Nat) (c : ChanId) (cause : Nat) : State :=
  if s.retire.list.any fun e => e.page == page then s
  else if s.retire.list.length < 512 then
    { s with retire := { s.retire with list := s.retire.list ++ [⟨page, c, cause⟩] } }
  else ({ s with retire := { s.retire with dropped := satAdd 65535 s.retire.dropped 1 } }).raise 546

/-- The page of a line is appended. -/
def State.retireLine (s : State) (c : ChanId) (line cause : Nat) : State := s.retirePage (s.pageOfLine c line) c cause

/-! ### Service request (R370, R374) -/

/-- A unit of the core requests service of a sled: ATTN blinks unless software holds it on or fast, REQ is set. -/
def State.askService (s : State) (c : ChanId) : State :=
  let w := s.prog (svcCtlKey c)
  let attn := field w 2 1
  let s := s.leds c (if attn = 2 ∨ attn = 3 then attn else 1) (field w 4 3) false
  s.modChan c fun k => { k with svc := { k.svc with req := true } }

/-! ### Erased devices (R280, R286) -/

/-- Field group `cs` of a DEV_ERASE word: the erased device and its EXTRA, if erasure mode acts. -/
def erasedIn (w : Word) (cs : Nat) : Option (Nat × Nat) :=
  let d := field w (8 * cs + 3) (8 * cs)
  if flag w (8 * cs + 4) && decide (d ≤ 9) then some (d, min (field w (8 * cs + 7) (8 * cs + 5)) 4) else none

/-- Offset of DEV_ERASE for a subchannel. -/
def eraseOff (x : Sub) : Nat := 0x094 + 4 * x.val

/-- The erasure in force for a line's rank (R276). -/
def State.erasedAt (s : State) (c : ChanId) (line : Nat) : Option (Nat × Nat) :=
  let p := (s.geom c).place line
  erasedIn (s.agent c (eraseOff p.sub)) p.bank.cs

/-! ### Keepsake copy of the patch table (R324, R326) -/

/-- `a` is the newer of two records: its GEN is above, modulo 256, by less than 128. -/
def KsRec.newer (a b : KsRec) : Bool := decide ((a.gen + 256 - b.gen % 256) % 256 < 128)

/-- An 8-byte ENTRY: L, spare and state. -/
def PatchE.word (e : PatchE) : Nat := if e.st = 0 then 0 else place e.line 34 0 + place e.spare 10 34 + place e.st 2 44

/-- Bytes 0 to 719 of the record of CHn (R324). -/
def KsRec.bytes (r : KsRec) (c : ChanId) : List Byte :=
  bytesOfNat 0x5AD1E7A3 4 ++ bytesOfNat c.val 1 ++ bytesOfNat r.gen 1 ++ bytesOfNat coreRelease 2
    ++ ((List.range 64).map fun i => bytesOfNat ((r.entries.map PatchE.word).getD i 0) 8).flatten
    ++ bytesOfNat ((r.badSp.map fun b => 2 ^ b).foldl (· ||| ·) 0) 128
    ++ ((List.range 8).map fun i => bytesOfNat (match r.soft[i]? with | some l => place l 34 0 + 2 ^ 34 | none => 0) 8).flatten
    ++ bytesOfNat (match r.pprBegin with | some (l, h) => place l 34 0 + 2 ^ 34 + placeB h 35 | none => 0) 8

/-- The record's CRC holds. -/
def KsRec.valid (r : KsRec) (c : ChanId) : Bool := r.crc == crc32c (r.bytes c)

/-- The newer record of CHn whose CRC holds, and whether it is copy 1. -/
def newestKs (c : ChanId) (x : Option KsRec × Option KsRec) : Option (KsRec × Bool) :=
  match (x.1.filter fun r => r.valid c, x.2.filter fun r => r.valid c) with
  | (none, none) => none
  | (some a, none) => some (a, false)
  | (none, some b) => some (b, true)
  | (some a, some b) => if a.newer b then some (a, false) else some (b, true)

/-- An entry as the record holds it: COPY counts as free, RELEASE as ACTIVE. -/
def PatchE.kept (e : PatchE) : PatchE :=
  match e.st with
  | 2 => { e with bad := none }
  | 3 | 4 => { e with st := 3, bad := none }
  | _ => {}

/-- The record that a program of a channel's keepsake copy writes. -/
def Chan.ksRecord (k : Chan) (c : ChanId) (gen : Nat) : KsRec :=
  let r : KsRec := { gen := gen % 256, entries := k.patch.tab.toList.map PatchE.kept, badSp := k.patch.badSp,
                     soft := k.patch.soft, pprBegin := k.patch.pprBegin, crc := 0 }
  { r with crc := crc32c (r.bytes c) }

/-- The sector of the older copy takes `new`: a whole record, or what a program leaves that fails its read-back (R326); no record
is made of a word whose bad byte acts (R287). -/
def State.writeKs (s : State) (c : ChanId) (ok : Bool) : State :=
  let ok := ok && !(s.chan c).patch.tab.toList.any fun e => acts e.bad
  let s := s.readTable c
  let old := s.flash.ks.at c
  let rec_ := fun (gen : Nat) => if ok then some ((s.chan c).ksRecord c gen) else none
  let new : Option KsRec × Option KsRec :=
    match newestKs c old with
    | none => (rec_ 0, old.2)
    | some (r, false) => (old.1, rec_ (r.gen + 1))
    | some (r, true) => (rec_ (r.gen + 1), old.2)
  { s with flash := { s.flash with ks := s.flash.ks.put c new } }

/-- A keepsake program of CHn is asked for. -/
def State.askKs (s : State) (c : ChanId) (use : KsFor) : State :=
  let s : State := { s with flash := { s.flash with ksQ := s.flash.ksQ ++ [{ ch := c, use := use }] } }
  s.modChan c fun k => { k with patch := { k.patch with ksPend := true } }

/-! ### Patch installation (R320 to R323) -/

/-- A free ERR for a job that ends for a cause without a number (log entry 8). -/
def State.openErr (s : State) : Nat := (Config.openErr s.freeIx).toNat

def State.useFree (s : State) : State := { s with freeIx := s.freeIx + 1 }

/-- The lowest usable spare of a subchannel. -/
def Patch.freeSpare (p : Patch) (x : Sub) : Option Nat :=
  (List.range 1024).find? fun r =>
    r % 2 == x.val && !p.badSp.contains r && !p.tab.toList.any fun e => e.st != 0 && e.spare == r

/-- The lowest free entry. -/
def Patch.freeEntry (p : Patch) : Option (Fin 64) := (List.finRange 64).find? fun i => (p.tab.at i).st == 0

/-- The line lies in the row that a PPR works on, up to the end of step 7 (R340), or in its rank (R329). -/
def State.pprRow (s : State) (c : ChanId) (line : Nat) : Bool :=
  let k := s.chan c
  k.ppr.step != 0 && k.ppr.step != 8 && (s.geom c).sameRow k.ppr.row line

def State.pprLocked (s : State) (c : ChanId) (line : Nat) : Bool :=
  let k := s.chan c
  let g := s.geom c
  k.ppr.lock && (g.place line).sub == (g.place k.ppr.row).sub && (g.place line).bank.cs == (g.place k.ppr.row).bank.cs

/-- The line has an entry that is not FREE, or one is asked for. -/
def Chan.hasPatch (k : Chan) (line : Nat) : Bool := (k.patchOf line).isSome || k.patch.wait.contains line

/-- PATCH_INSTALL, or LADDER_TAKE of rung 1, of a line ends. -/
def State.finishInstall (s : State) (c : ChanId) (line err : Nat) : State :=
  (s.finishLine 0x21 c.val line err).finishLine 0x24 c.val line err

/-- An installation begins: spare and entry are taken, and the line is held (R322 steps 1 and 2). -/
def State.beginPatch (s : State) (c : ChanId) (line : Nat) : State :=
  let k := s.chan c
  match k.patch.freeEntry, k.patch.freeSpare ((s.geom c).place line).sub with
  | some i, some r =>
    let now := s.nextId
    s.modChan c fun k =>
      let k := k.setPatch i.val { line := line, st := 1, spare := r }
      { k with patch := { k.patch with inst := some (i.val, 3), copyAt := now } }
  | _, _ => (s.raiseChan c 9).finishInstall c line 21

/-- An installation is asked for: it begins in a granted slot (R17), one at a time, and not in a row under PPR, which it
waits out (R340). -/
def State.askPatch (s : State) (c : ChanId) (line : Nat) : State :=
  if (s.chan c).hasPatch line then s
  else
    let later := s.pprRow c line
    s.modChan c fun k =>
      { k with patch := { k.patch with wait := k.patch.wait ++ [line]
                                       recheck := if later then k.patch.recheck ++ [line] else k.patch.recheck } }

/-- The first line whose installation may begin. -/
def State.nextPatch (s : State) (c : ChanId) : Option Nat := (s.chan c).patch.wait.find? fun line => !s.pprRow c line

/-- The line waits for its installation no longer. -/
def State.leaveWait (s : State) (c : ChanId) (line : Nat) : State :=
  s.modChan c fun k =>
    { k with patch := { k.patch with wait := k.patch.wait.filter (· != line), recheck := k.patch.recheck.filter (· != line)
                                     check := none } }

/-- Accesses to a line held by COPY go on, to the lines their entry now names (R322 step 5). -/
def State.releaseHeld (s : State) (c : ChanId) (line : Nat) : State :=
  let g := s.geom c
  let k := s.chan c
  let held := k.wq.filter fun w => w.held && w.home == line
  let s := s.modChan c fun k =>
    { k with
      rq := k.rq.map fun e => if e.held && e.home == line then
        { e with held := false, loc := (k.target g line false).1.headD line } else e
      wq := k.wq.filter fun w => !(w.held && w.home == line) }
  held.foldl (fun (s : State) (w : WrE) =>
    let next := s.nextId
    (s.modChan c fun k =>
      let locs := (k.target g line true).1
      let first : WrE := { w with held := false, loc := locs.headD line }
      { k with wq := k.wq ++ first :: (locs.drop 1).map fun l => { w with held := false, id := next, loc := l } }).stamp) s

/-! ### The exhaustion ladder (R331, R332) -/

def State.ladderCtl (s : State) : Word := s.prog 0xB030

/-- A rung taken or wanted: the event record, the source, the count (R332). -/
def State.rung (s : State) (c : ChanId) (r line : Nat) (taken : Bool) (dev : Nat) : State :=
  let s := s.modChan c fun k =>
    { k with ladder :=
      { k.ladder with
        rungs := if taken then satAdd 255 k.ladder.rungs 1 else k.ladder.rungs
        want := if taken then (if k.ladder.want = r then 0 else k.ladder.want) else r
        wantLine := if taken then k.ladder.wantLine else line
        wantDev := if taken then k.ladder.wantDev else dev } }
  (s.note 2 (c.val + r * 2 ^ 8 + placeB taken 16 + detailLine line 3)).raiseChan c 11

/-- DEV_THR and ROW_THR; 0 acts as 1. -/
def State.devThr (s : State) : Nat := max 1 (field s.ladderCtl 15 8)
def State.rowThr (s : State) : Nat := max 1 (field s.ladderCtl 23 16)

/-- Rung 3: DEV_ERASE is set in the shadow and the agent's group is posted; an armed stitch check commits anew (R331,
R468). -/
def State.takeErase (s : State) (c : ChanId) (line dev : Nat) : State :=
  let p := (s.geom c).place line
  let key := agentKey c.val (eraseOff p.sub)
  let byte := dev + 16 + 32 * min (field s.ladderCtl 7 5) 4
  let lo := 8 * p.bank.cs
  let w := s.shadow key
  let s := s.store key (blend (maskBits (lo + 7) lo) w (BitVec.ofNat 32 (byte <<< lo)))
  let s := s.postNow (groupBit c.val)
  s.autoCommit.rung c 3 line true dev

/-- The rank of a line, as a bit of SPAN_STAT.RANKS. -/
def State.rankBit (s : State) (c : ChanId) (line : Nat) : BitVec 8 :=
  let p := (s.geom c).place line
  BitVec.ofNat 8 (2 ^ (4 * p.sub.val + p.bank.cs))

/-- What a grant carries into the span set: a rank is degraded (R17, R335), with an event record in every case of
DEGRADE_RANK (R414); rung 4 requests service. -/
def State.degrade (s : State) (c : ChanId) (d : Carried) : State :=
  let m := setOf c
  let sp := s.span m
  if d.second then
    if sp.st != 0 && sp.st != 3 && sp.pos != posOf c then (s.stopRebuild m).setOffline m else s
  else
    let s := s.losePos m (posOf c) d.ranks
    let s := if s.offline m then s else s.shedRanks c
    match d.line with
    | some line => ((s.askService c).rung c 4 line true 0).finishLine 0x24 c.val line 0
    | none => if sp.st = 0 then s else s.noteSpan m sp.st

/-- The grant completes with what it carries for the ranks of its channel (R17). -/
def State.carry (s : State) (c : ChanId) : State :=
  let ds := (s.chan c).ladder.carried
  ds.foldl (fun (s : State) (d : Carried) => s.degrade c d)
    (s.modChan c fun k => { k with ladder := { k.ladder with carried := [] } })

/-- A change of the span set is asked for: the next grant of the channel that completes carries it (R13, R17). -/
def State.askDegrade (s : State) (c : ChanId) (d : Carried) : State :=
  s.modChan c fun k => { k with ladder := { k.ladder with carried := k.ladder.carried ++ [d] } }

/-- Rung 4: the rank is degraded (R335) and service is requested. -/
def State.takeDegrade (s : State) (c : ChanId) (line : Nat) : State :=
  s.askDegrade c { ranks := s.rankBit c line, line := some line }

/-- Devices of a line's rank whose hard lines have reached DEV_THR. -/
def State.failing (s : State) (c : ChanId) (line : Nat) : List Nat :=
  let p := (s.geom c).place line
  (s.chan c).ladder.hard.filterMap fun e =>
    if e.1.1 = p.sub.val ∧ e.1.2.1 = p.bank.cs ∧ s.devThr ≤ e.2 then some e.1.2.2 else none

/-- Rung 5: the line is poisoned and its page retired; service is requested when the rank holds a second failing
device. -/
def State.takePoison (s : State) (c : ChanId) (line : Nat) (uncorr : Bool) : State :=
  let s := if uncorr then s.retireLine c line 4 else s
  let er := (erasedIn (s.shadow (agentKey c.val (eraseOff ((s.geom c).place line).sub))) ((s.geom c).place line).bank.cs).map (·.1)
  let bad := (s.failing c line ++ er.toList).eraseDups
  let s := if 2 ≤ bad.length then s.askService c else s
  s.rung c 5 line true 0

/-- Rung 4 where its conditions stand: in a span set whose other positions are whole. A further position that comes to it
takes the set offline (R334). -/
def State.rung4 (s : State) (c : ChanId) (line : Nat) (uncorr : Bool) : State :=
  let m := setOf c
  let sp := s.span m
  if !s.spanMode m || sp.st == 3 then s.takePoison c line uncorr
  else if sp.st != 0 && sp.pos != posOf c then
    (s.askDegrade c { ranks := s.rankBit c line, line := none, second := true }).takePoison c line uncorr
  else if flag s.ladderCtl 2 then s.takeDegrade c line
  else s.rung c 4 line false 0

/-- Rung 1 and rung 2: a patch for the line, or the row's repair (R331). An entry that has been asked for counts in its row. -/
def State.rung12 (s : State) (c : ChanId) (line dev : Nat) : State :=
  let k := s.chan c
  let g := s.geom c
  let room := k.patch.freeEntry.isSome && (k.patch.freeSpare (g.place line).sub).isSome
  let s :=
    if k.hasPatch line then s
    else if !room then (s.raiseChan c 9).rung c 2 line false dev
    else if flag s.ladderCtl 0 then (s.askPatch c line).rung c 1 line true dev
    else s.rung c 1 line false dev
  let p := (s.chan c).patch
  let inRow := (p.tab.toList.filter fun e => e.st != 0 && g.sameRow e.line line).length
    + (p.wait.filter fun l => g.sameRow l line).length
  if s.rowThr ≤ inRow then s.rung c 2 line false dev else s

/-- The ladder takes a hard line, with its device where the decoder names one, or a line that stays uncorrectable
(R331). One that has `proved` hard takes rung 1 even where it is poisoned as well. -/
def State.ladder (s : State) (c : ChanId) (line : Nat) (dev : Option Nat) (uncorr recon proved : Bool) : State :=
  if uncorr && !recon then (if proved then s.rung12 c line (dev.getD 0) else s).takePoison c line true
  else
    let p := (s.geom c).place line
    let s := match dev with
      | none => s
      | some d =>
        let key := (p.sub.val, p.bank.cs, d)
        s.modChan c fun k =>
          let n := ((k.ladder.hard.find? fun (e : (Nat × Nat × Nat) × Nat) => e.1 == key).map Prod.snd).getD 0
          let rest := k.ladder.hard.filter fun (e : (Nat × Nat × Nat) × Nat) => e.1 != key
          { k with ladder := { k.ladder with hard := rest ++ [(key, n + 1)] } }
    let s := s.rung12 c line (dev.getD 0)
    let er := erasedIn (s.shadow (agentKey c.val (eraseOff p.sub))) p.bank.cs
    match er with
    | none =>
      (match dev with
        | some d => if (s.failing c line).contains d then
            (if flag s.ladderCtl 1 then s.takeErase c line d else s.rung c 3 line false d) else s
        | none => s)
    | some (e, _) =>
      if uncorr then s.rung4 c line true
      else match dev with
        | some d => if d ≠ e ∧ (s.failing c line).contains d then s.rung4 c line false else s
        | none => s

/-- A failed PPR hands the row's worst device to the next rung (R330). -/
def State.nextRung (s : State) (c : ChanId) (line : Nat) : State :=
  let p := (s.geom c).place line
  let er := erasedIn (s.shadow (agentKey c.val (eraseOff p.sub))) p.bank.cs
  let mine := (s.chan c).ladder.hard.filter fun e => e.1.1 == p.sub.val && e.1.2.1 == p.bank.cs
  match pick (fun a b => decide (b.2 < a.2)) mine, er with
  | some e, none => if flag s.ladderCtl 1 then s.takeErase c line e.1.2.2 else s.rung c 3 line false e.1.2.2
  | none, none => s
  | _, some _ => s.rung4 c line false

/-! ### Ends of the PPR sequence (R330) -/

/-- PPR, PPR_UNSTAGE, or LADDER_TAKE of rung 2, ends. -/
def State.finishPpr (s : State) (c : ChanId) (row err : Nat) : State :=
  ((s.finishJob 0x22 c.val err).finishJob 0x23 c.val err).finishLine 0x24 c.val row err

/-- A PPR fails with PPR_STAT.ERR `err`: the row stays staged. -/
def State.failPpr (s : State) (c : ChanId) (err job : Nat) : State :=
  let row := (s.chan c).ppr.row
  let s := s.modChan c fun k =>
    { k with ppr := { step := 0, err := err, row := row }
             sel := k.sel.each fun l => { l with hold := [] } }
  (((s.raiseChan c 10).finishJob 0x22 c.val job).finishLine 0x24 c.val row job).nextRung c row

/-- The sequence has carried out its last step. -/
def State.endPpr (s : State) (c : ChanId) : State :=
  let row := (s.chan c).ppr.row
  let s := s.modChan c fun k => { k with ppr := { step := 0, row := row }, patch := { k.patch with staged := none } }
  s.finishPpr c row 0

/-! ### The weir arbiter (R304 to R312) -/

/-- DCLK as the arbiter sees it: the slots of subchannel A and B together. -/
def Chan.dclk (k : Chan) : Nat := (k.sel.at 0).dclk + (k.sel.at 1).dclk

/-- The set's rebuild works on the stripe at its cursor again from its start (R308, R310). -/
def State.redoStripe (s : State) (m : SetId) : State :=
  let s := s.modSpan m fun sp => { sp with reb := { sp.reb with begun := false, wait := 0, failed := false, acc := 0 } }
  (setChans m).foldl (fun s c => s.modChan c fun k =>
    { k with
      fetches := k.fetches.filter fun f => f.purp != .rebuildRead
      backs := k.backs.filter fun w => w.purp != .rebuildWrite
      rq := (k.rq.filter fun e => e.issued || e.purp != .rebuildRead).map fun e =>
        if e.purp = .rebuildRead then { e with purp := .dropped } else e
      wq := (k.wq.filter fun w => w.issued || w.purp != .rebuildWrite).map fun w =>
        if w.purp = .rebuildWrite then { w with purp := .writeBack } else w }) s

/-- The holder loses the work of its unfinished unit (R308 to R310). Reads already issued come back to nothing, writes already
issued stand, and so do the commands of an MR_WRITE, which goes on with the next. What waited for a copy goes on. A PMIC write not
sent yet is not made (R354). -/
def State.dropUnit (s : State) (c : ChanId) (r : Nat) : State :=
  let mine := fun (p : Purp) => p.requester == some r || (r == 3 && p == .mrr)
  let copied := if r = 3 then (s.chan c).ppr.line else none
  let issued : BitVec 2 := (((List.finRange 2).filter fun x => !((s.sel c x).hold.any fun m => m.kind == .mrw)).map fun x =>
    BitVec.ofNat 2 (2 ^ x.val)).foldl (· ||| ·) 0
  let s := s.modChan c fun k =>
    { k with
      rq := (k.rq.filter fun e => e.issued || !mine e.purp).map fun e =>
        if mine e.purp then { e with purp := if e.purp = .mrr ∨ e.purp = .mrrDropped then .mrrDropped else .dropped } else e
      wq := (k.wq.filter fun w => w.issued || !mine w.purp).map fun w => if mine w.purp then { w with purp := .writeBack } else w
      backs := k.backs.filter fun w => !mine w.purp
      fetches := k.fetches.filter fun f => !mine f.purp
      i3c := if r = 7 then k.i3c.filter fun x => x.sent || x.use != .pmicSet else k.i3c
      sel := if r = 3 ∨ r = 6 then k.sel.each fun l => { l with hold := [] } else k.sel
      scrub := if r = 9 then { k.scrub with stage := .idle } else k.scrub
      inj := if r = 0 then { k.inj with sent := false } else k.inj
      ppr := if r = 3 then { k.ppr with sent := false, line := none, pos := if k.ppr.step = 5 then k.ppr.pos else 0 } else k.ppr
      patch := if r = 5 then
          { k.patch with check := none
                         inst := k.patch.inst.map fun i => (i.1, if i.2 = 4 then 3 else i.2) } else k.patch }
  let s : State := { s with recons := s.recons.filter fun q =>
    !(q.ch == c && (match q.use with | .scrub => r == 9 | .patch => r == 5 | _ => false)) }
  let s := match copied with
    | some l => s.releaseHeld c l
    | none => s
  let s := if r = 4 then s.redoStripe (setOf c) else s
  match s.cmp.cur with
  | some u =>
    if r = 7 ∧ u.opc = 0x14 ∧ u.ch = c ∧ !(s.chan c).pmicBusy then { s with cmp := { s.cmp with cur := some { u with begun := false } } }
    else if r = 6 ∧ u.ch = c ∧ u.begun then
      { s with cmp := { s.cmp with cur := some { u with begun := false, mrDone := if u.opc = 0x17 then issued else 0 } } }
    else s
  | none => s

/-- A step of R311 runs: it is neither suspended nor revoked. -/
def Chan.unstoppable (k : Chan) : Bool := k.ppr.prog || k.settling

def State.modWeir (s : State) (c : ChanId) (f : Weir → Weir) : State := s.modChan c fun k => { k with weir := f k.weir }

/-- A grant (R305, R306). -/
def State.grant (s : State) (c : ChanId) (r : Fin 10) : State :=
  let now := (s.chan c).dclk
  s.modWeir c fun w =>
    { w with holder := some r.val, want := w.want.put r false, rank := w.exps.at r, exps := w.exps.put r 0, at_ := now,
             quantumOver := false, susp := false }

/-- A loss raises the exponent and begins a back-off (R306). -/
def State.lose (s : State) (c : ChanId) (r : Fin 10) : State :=
  let now := (s.chan c).dclk
  s.modWeir c fun w =>
    { w with want := w.want.put r true, exps := w.exps.put r (min 8 (w.exps.at r + 1))
             lost := (if w.lostAt = now then w.lost else []) ++ [(r, w.exps.at r)], lostAt := now }

/-- A revocation ends the grant of holder `h` at once (R309). -/
def State.revoke (s : State) (c : ChanId) (h : Nat) : State :=
  let s := s.dropUnit c h
  s.modWeir c fun w =>
    { w with
      holder := none, susp := false, quantumOver := false, revokes := satAdd 65535 w.revokes 1
      exps := if hh : h < 10 then w.exps.put ⟨h, hh⟩ 8 else w.exps
      want := if hh : h < 10 then w.want.put ⟨h, hh⟩ true else w.want }

/-- A revocation that step R311 held back takes effect. -/
def State.lateRevoke (s : State) (c : ChanId) : State :=
  let k := s.chan c
  match k.weir.revokeDue, k.weir.holder with
  | some r, some h =>
    let s := (s.revoke c h).modWeir c fun w => { w with revokeDue := none }
    if r = 0 then s.grant c 0 else s
  | _, _ => s.modWeir c fun w => { w with revokeDue := none }

/-- Of two requests of one DCLK, the first ranks before the second: the debug port, the higher exponent, the lower code
(R305). -/
def ranksBefore (a b : Nat × Nat) : Bool :=
  if a.1 = 0 ∨ b.1 = 0 then a.1 == 0 && b.1 != 0
  else decide (b.2 < a.2) || (a.2 == b.2 && decide (a.1 < b.1))

/-- A request in a DCLK (R305, R306, R309). A grant made in this very DCLK goes to the better of the two requests, and the
other loses. A channel that does not run grants nothing: the request waits until it does (R384). -/
def State.request (s : State) (c : ChanId) (r : Fin 10) : State :=
  let k := s.chan c
  let w := k.weir
  if !s.running c then s.modWeir c fun w => { w with want := w.want.put r true }
  else match w.holder with
  | none => s.grant c r
  | some h =>
    if w.at_ = k.dclk ∧ h ≠ 2 ∧ h ≠ r.val ∧ ranksBefore (r.val, w.exps.at r) (h, w.rank) then
      let rank := w.rank
      let s := (s.dropUnit c h).modWeir c fun w =>
        { w with holder := none
                 exps := if hh : h < 10 then w.exps.put ⟨h, hh⟩ rank else w.exps }
      let s := if hh : h < 10 then s.lose c ⟨h, hh⟩ else s
      s.grant c r
    else if r.val = 0 then
      if h = 0 then s.modWeir c fun w => { w with want := w.want.put 0 true }
      else if k.unstoppable then s.modWeir c fun w => { w with revokeDue := some 0 }
      else (s.revoke c h).grant c 0
    else s.lose c r

/-- The fresh bit of a completed granule is cleared by the wash requester's grant as it completes (R17, R300). -/
def State.clearWashed (s : State) (c : ChanId) : State :=
  let done := (s.chan c).wash.filter fun g => g.done == granLines
  let s := done.foldl (fun (s : State) (g : WashG) =>
    let ix := freshIx c g.gran
    ({ s with fresh := { s.fresh with bits := s.fresh.bits.del ix (ix + 1) } }).writeFresh ix) s
  s.modChan c fun k => { k with wash := k.wash.filter fun g => g.done != granLines }

/-- The last stripe is written: the set is PROTECTED (R339). -/
def State.endRebuild (s : State) (m : SetId) : State :=
  let j := (s.span m).pos
  let s := s.modSpan m fun sp => { sp with st := 0, pos := 0, deg := false, ranks := 0, holes := [], reb := {} }
  ((((s.noteSpan m 2).note 6 (m.val + j * 2 ^ 8)).raise 545).finishJob 0x28 m.val 0)

/-- The walk begins, the set REBUILDING (R338 step 2). -/
def State.beginWalk (s : State) (m : SetId) : State :=
  let s := s.modSpan m fun sp => { sp with st := 2, reb := { sp.reb with walking := true, cur := 0, begun := false } }
  ((s.noteSpan m 1).raise 543)

/-- The rebuild grant of the position rebuilt completes with the set's change of state (R17). -/
def State.carryTurn (s : State) (c : ChanId) : State :=
  let m := setOf c
  let sp := s.span m
  if !s.spanMode m || !sp.reb.on || chanOf m sp.pos != c then s
  else
    let t := sp.reb.turn
    let s := s.modSpan m fun sp => { sp with reb := { sp.reb with turn := 0 } }
    if t = 1 then s.beginWalk m else if t = 2 then s.endRebuild m else s

/-- The grant is released and completes with what it carries (R17, R307); the best of the requests raised in this DCLK is
granted (R305). -/
def State.release (s : State) (c : ChanId) : State :=
  let h := (s.chan c).weir.holder
  let s := s.modWeir c fun w => { w with holder := none, susp := false, quantumOver := false }
  let s := if h = some 8 then s.clearWashed c else s
  let s := if h = some 4 then s.carryTurn c else s
  let s := if h.isSome then s.carry c else s
  let w := (s.chan c).weir
  let now := (if w.lostAt = (s.chan c).dclk then w.lost else []) ++ (if w.want.at 0 then [(0, 8)] else [])
  match pick (fun (a b : Fin 10 × Nat) => ranksBefore (a.1.val, a.2) (b.1.val, b.2)) (now.filter fun a => some a.1.val != h) with
  | some a =>
    if s.running c then
      (s.modWeir c fun w => { w with exps := w.exps.put a.1 a.2, lost := w.lost.filter fun b => b.1 != a.1 }).grant c a.1
    else s
  | none => s

end Sys2Proof.Machine
end

