-- ==== Sys2Proof/Machine/Mill.lean ====
section
/-! DEFINITION. The millrace's commands (chapter 8): MO beats, MI beats, admission and acknowledgement, links, the split
decision, resync. -/

namespace Sys2Proof.Machine

def State.modMo (s : State) (l : Lane) (f : MoLane → MoLane) : State :=
  { s with mill := { s.mill with mo := s.mill.mo.put l (f (s.mill.mo.at l)) } }
def State.modMi (s : State) (l : Lane) (f : MiLane → MiLane) : State :=
  { s with mill := { s.mill with mi := s.mill.mi.put l (f (s.mill.mi.at l)) } }
def State.modMill (s : State) (f : Mill → Mill) : State := { s with mill := f s.mill }

/-! ### Packets (R244 to R247) -/

/-- Control-word bytes 0 to 19. -/
def Pkt.ctl (p : Pkt) : BitVec 160 :=
  BitVec.ofNat 160 (place p.ptype 4 0 + place p.crd 4 4 + place p.pseq 16 8 + placeB p.rs 24 + place p.laddr 40 32
    + place p.mask.toNat 64 72 + place p.elo 16 136)

/-- The CRC of a beat: its payload, then control-word bytes 0 to 19. -/
def beatCrc (d : Line) (ctl : BitVec 160) : Word := crc32c (bytesOfNat d.toNat 64 ++ bytesOfNat ctl.toNat 20)

/-- A received control word apart. -/
def pktOf (d : Line) (w : BitVec 192) : Pkt :=
  { ptype := field w 3 0, crd := field w 7 4, pseq := field w 23 8, rs := flag w 24, laddr := field w 71 32,
    mask := BitVec.ofNat 64 (field w 135 72), elo := field w 151 136, data := d }

/-- Bytes of a payload as a number. -/
def payload (d : Line) (hi lo : Nat) : Nat := field d (8 * hi + 7) (8 * lo)

/-- The running digest takes a packet's CRC field. -/
def digestStep (run crc : Word) : Word := crcRun run (wordBytes crc)

/-- DIGEST of an epoch's lane: zero with no DATA (R247). -/
def digestOf (lines : Nat) (run : Word) : Word := if lines = 0 then 0 else run ^^^ 0xFFFFFFFF

/-- READY of this side's HELLO: MILL_CTL.READY in HANDSHAKE, 1 in SOLO and FENCED (R259). -/
def State.millReady (s : State) : Bool := s.mill.st != .handshake || flag (s.live 0x9000) 3

/-- Payload of a HELLO (R258). -/
def State.helloLine (s : State) : Line :=
  BitVec.ofNat 512 (place coreRelease 16 0 + place (field (s.live 0xA004) 16 0) 17 16
    + (placeB s.primacy 40 + place s.wmode 2 41 + place s.join 2 43 + placeB s.millReady 45)
    + place (millNum s.mill.st) 8 48 + place s.mill.ackSent 64 64
    + place (s.live 0x9010).toNat 32 128 + place (s.live 0x9014).toNat 32 160)

/-- A received HELLO. -/
def helloOf (d : Line) : Hello :=
  { release := payload d 1 0, top := payload d 4 2 % 2 ^ 17, primacy := flag d 40, wmode := field d 42 41, join := field d 44 43,
    ready := flag d 45, st := payload d 6 6, peerLast := payload d 15 8, info := payload d 23 16 }

/-! ### Linking (R242, R259, R260, R267) -/

/-- The lanes as linking leaves them: full credits, nothing open. -/
def Mill.link (m : Mill) : Mill :=
  { m with
    linked := true
    mo := m.mo.each fun l => { l with
      crd := 1024, ret := 0, isOpen := 0, shut := true, lines := 0, digest := 0xFFFFFFFF, sever := none, inert := false,
      rsEnd := false, greeted := false, recent := [] }
    mi := m.mi.each fun l => { l with
      crd := 1024, broken := false, isOpen := none, lastTr := none, lines := 0, digest := 0xFFFFFFFF, buf := [] }
    trSent := 0, twin := 0, trDone := [], acks := [], ackedTo := 0, rsEndAt := none, lastAck := 0, rs := {}
    driftOk := false, driftGot := 0, driftNext := none }

/-- A streaming state is entered: the first epoch to send is the lowest that is not locally complete (R246, R248). -/
def State.startStream (s : State) (st : MillState) : State :=
  (s.modMill fun m =>
    { m with closed := s.pers.locNext - 1
             mo := m.mo.each fun l => { l with isOpen := 0, shut := true, lines := 0, digest := 0xFFFFFFFF } }).setMill st

/-- RESYNC_SRC begins; a full resync sets the bit of every granule below the top (R267, R268). -/
def State.startResync (s : State) (full : Bool) : State :=
  (s.modMill fun m =>
    { m with rs := { active := true, full := full }, drift := if full then m.drift.add 0 s.topGran else m.drift }).startStream
      .resyncSrc

/-- The pair's refusal, by the first cause that applies (R259). -/
def refusal (st : MillState) (release top : Bool) (wmode0 samePrim : Bool) (peer : Nat) (paired : Bool) : Nat :=
  if !release then 1
  else if !top then 2
  else if wmode0 && samePrim then 3
  else if st == .solo && peer == 4 then 5
  else if st == .fenced && peer == 5 then 6
  else if !paired then 4
  else 0

/-- The pairs of R260: local state and JOIN, peer's STATE and JOIN. -/
inductive Pairing where
  | mirrored | sourceFull | targetFull | soloLink | fencedLink
  deriving DecidableEq, Repr

def pairing (st : MillState) (join peer peerJoin : Nat) : Option Pairing :=
  match st with
  | .handshake =>
    if join = 0 ∧ peer = 1 ∧ peerJoin = 0 then some .mirrored
    else if join = 1 ∧ peer = 1 ∧ peerJoin = 2 then some .sourceFull
    else if join = 2 ∧ ((peer = 1 ∧ peerJoin = 1) ∨ peer = 4) then some .targetFull
    else none
  | .solo => if peer = 1 ∧ peerJoin = 2 then some .sourceFull else if peer = 5 then some .soloLink else none
  | .fenced => if peer = 4 then some .fencedLink else none
  | _ => none

/-- States that take HELLO: HANDSHAKE, and SOLO and FENCED until linked (R257). -/
def Mill.greets (m : Mill) : Bool :=
  match m.st with
  | .handshake => true
  | .solo | .fenced => !m.linked
  | _ => false

/-- A JOIN of 3 acts as 0, and a WMODE of 3 as 0 (R272). -/
def threeAsZero (n : Nat) : Nat := if n = 3 then 0 else n

/-- The two sides pair once both have received valid HELLOs with READY on all four lanes: they have come here, and this side
has sent its own (R259, R260). -/
def State.tryPair (s : State) : State :=
  let m := s.mill
  let hs := m.mi.toList.filterMap (·.hello)
  match hs with
  | h :: _ =>
    if !m.greets || m.barred || !(m.mo.toList.all (·.greeted)) || hs.length ≠ 4 || !(hs.all (·.ready)) then s
    else
      let p := pairing m.st s.join h.st (threeAsZero h.join)
      let cause := refusal m.st (h.release == coreRelease) (h.top == field (s.live 0xA004) 16 0)
        (s.wmode == 0 || threeAsZero h.wmode == 0) (s.primacy == h.primacy) h.st p.isSome
      if cause ≠ 0 then s.modMill fun m => { m with refuse := cause, barred := true }
      else
        let s := s.modMill Mill.link
        match p with
        | some .mirrored => (s.startStream .mirrored).noteMill m.st 0
        | some .sourceFull => (s.startResync true).noteMill m.st 0
        | some .targetFull => ((s.modMill fun m => { m with rs := { full := true } }).startStream .resyncTgt).noteMill m.st 0
        | some .fencedLink => s.modMill fun m => { m with driftNext := some 0 }
        | _ => s
  | [] => s

/-- MILL_CTL.EN with both link-up inputs high takes OFF to HANDSHAKE (R257), never in the safe state (R433). MI has followed no
sequence number in OFF, and checks the next beats from the first it gets (R252). -/
def State.tryEnable (s : State) : State :=
  let m := s.mill
  if flag (s.live 0x9000) 0 && !m.forceOff && !s.fcol.safe && m.st == .off && m.moUp && m.miUp then
    ((s.modMill fun m =>
      { m with barred := false, linked := false
               mo := m.mo.each fun l => { l with sever := none, inert := false, greeted := false }
               mi := m.mi.each fun l => { l with hello := none, broken := false, pseq := none } }).setMill .handshake).noteMill .off 0
  else s

/-! ### MO (R241, R246 to R251, R257) -/

/-- States whose MO streams epochs. -/
def Mill.streams (m : Mill) : Bool :=
  match m.st with
  | .mirrored | .resyncSrc | .resyncTgt => true
  | _ => false

/-- The lane of a line's address (R246). -/
def laneOf (addr : Nat) : Nat := addr / 64 % 4

/-- A lane's next packet, before its credits and sequence number. -/
inductive MoNext where
  | sever (cause : Nat)
  | hello
  | ack (e : Nat)
  | header (e : Nat)
  | trailer (e : Nat)
  | rsEnd (e : Nat)
  | drift (chunk : Nat)
  | live (x : MoLine)
  | copy (x : MoLine)
  | idle
  deriving DecidableEq, Repr

/-- The next epoch's HEADER is due: after a TRAILER, unless the last epoch of a sluice is closed (R249). -/
def State.nextHeader (s : State) (l : MoLane) : Option Nat :=
  let e := if l.isOpen = 0 then s.mill.closed + 1 else l.isOpen + 1
  if l.shut && decide (e ≤ s.pers.cur) then some e else none

/-- The open epoch may be closed: it is locally complete, or the sluice closes it, and every line of it has been sent
(R249). -/
def State.trailerDue (s : State) (k : Lane) (l : MoLane) : Bool :=
  let mine := fun (x : MoLine) => laneOf x.addr == k.val && x.epoch == l.isOpen
  !l.shut && (decide (l.isOpen ≤ s.pers.loc) || s.pers.strobe)
    && !(s.mill.moBuf.any mine) && !(s.mill.rs.copies.any mine) && !(l.rsEnd && s.mill.rs.ended == some l.isOpen)

/-- The granule log holds the append that a live line needs (R251). -/
def State.logRoom (s : State) (l : MoLane) (x : MoLine) : Bool :=
  l.recent.contains (driftGran x.addr, x.epoch) || decide (s.mill.log.length < 32768)

/-- Live line and resync copy that a lane can send now. -/
def State.liveLine (s : State) (k : Lane) (l : MoLane) : Option MoLine :=
  (s.mill.moBuf.find? fun x => laneOf x.addr == k.val && x.epoch == l.isOpen).filter (s.logRoom l)
def State.copyLine (s : State) (k : Lane) (l : MoLane) : Option MoLine :=
  s.mill.rs.copies.find? fun x => laneOf x.addr == k.val && x.epoch == l.isOpen

/-- What lane `k` sends in this beat (R250); beats that need a credit wait for one (R242). -/
def State.moNext (s : State) (k : Lane) : MoNext :=
  let m := s.mill
  let l := m.mo.at k
  let hasCrd := decide (0 < l.crd)
  match l.sever with
  | some c => .sever c
  | none =>
    if m.streams && s.pers.strobe && !s.fcol.safe && l.shut && l.isOpen == s.pers.cur then .sever 2
    else if m.greets then .hello
    else match (if k = 0 then m.acks.head? else none) with
      | some e => .ack e
      | none =>
        if m.streams && !s.fcol.safe then
          if !hasCrd then .idle
          else match s.nextHeader l with
            | some e => .header e
            | none =>
              if l.rsEnd && m.rs.ended == some l.isOpen && !l.shut then .rsEnd l.isOpen
              else if s.trailerDue k l then .trailer l.isOpen
              else if l.shut then .idle
              else
                let live := (s.liveLine k l).map MoNext.live
                let copy := (s.copyLine k l).map MoNext.copy
                let share := field (s.live 0x9008) 14 11
                ((if l.slot < share then copy.or live else live.or copy)).getD .idle
        else match m.driftNext with
          | some ch => if hasCrd then .drift ch else .idle
          | none => .idle

/-- MO drives lane `k`: the mirror is enabled or a SEVER is due, the link is up, no SEVER has been sent, and the state is
not FROZEN, and the core not in the safe state, but for a SEVER (R241, R257, R433). DESIGN CHOICE: in OFF with EN 1 and only
MO_LINK_UP high R241 asks for IDLE beats and R257 says inert; the model drives nothing (log entry 72). -/
def State.moDrives (s : State) (k : Lane) : Bool :=
  let l := s.mill.mo.at k
  s.ticking && s.mill.moUp && !l.inert
    && (l.sever.isSome || (s.mill.st != .off && s.mill.st != .frozen && !s.fcol.safe))

/-- The packet of a choice, its CRD and PSEQ apart. -/
def State.pktFor (s : State) (l : MoLane) (n : MoNext) : Pkt :=
  let ep := fun (e : Nat) => BitVec.ofNat 512 (e % 2 ^ 64)
  match n with
  | .sever c => { ptype := 6, data := BitVec.ofNat 512 c }
  | .hello => { ptype := 5, data := s.helloLine }
  | .ack e => { ptype := 4, data := ep e }
  | .header e => { ptype := 2, elo := e % 2 ^ 16, data := ep e }
  | .trailer e =>
    { ptype := 3, elo := e % 2 ^ 16
      data := BitVec.ofNat 512 (e % 2 ^ 64 + place l.lines 32 64 + place (digestOf l.lines l.digest).toNat 32 96) }
  | .rsEnd e => { ptype := 8, elo := e % 2 ^ 16, data := ep e }
  | .drift ch =>
    { ptype := 7, laddr := ch
      data := BitVec.ofNat 512 (((List.range 512).map fun i => placeB (s.mill.drift.mem (512 * ch + i)) i).sum) }
  | .live x => { ptype := 1, laddr := x.addr / 64, mask := x.mask, elo := x.epoch % 2 ^ 16, data := x.data }
  | .copy x => { ptype := 1, rs := true, laddr := x.addr / 64, mask := x.mask, elo := x.epoch % 2 ^ 16, data := x.data }
  | .idle => { ptype := 0 }

/-- Beats that take a credit of their lane (R242). -/
def MoNext.costs (n : MoNext) : Bool :=
  match n with
  | .header _ | .trailer _ | .rsEnd _ | .drift _ | .live _ | .copy _ => true
  | _ => false

/-- The granule log takes a live line (R251). -/
def State.logLine (s : State) (k : Lane) (x : MoLine) : State :=
  let e := (driftGran x.addr, x.epoch)
  if (s.mill.mo.at k).recent.contains e then s
  else
    let bad := s.armedG 15 0
    let s := (s.modMill fun m => { m with log := m.log ++ [e], logBad := m.logBad.or (bad.map fun b => (e, b)) }).spendG bad
    s.modMo k fun l => { l with recent := (l.recent ++ [e]).drop (l.recent.length - 7) }

/-- The engine has nothing left to copy: RS_END is due on every lane, in the epoch in force (R269). -/
def State.endCopies (s : State) : State :=
  let r := s.mill.rs
  if s.mill.st == .resyncSrc && r.active && r.gran.isNone && r.reads.isEmpty && r.back.isEmpty && r.copies.isEmpty
      && s.mill.drift.ranges.isEmpty && s.mill.driftBad.isNone && r.ended.isNone then
    s.modMill fun m => { m with rs := { r with ended := some s.pers.cur }, mo := m.mo.each fun l => { l with rsEnd := true } }
  else s

/-- Epochs whose TRAILER every lane has sent. -/
def State.closeSent (s : State) : State :=
  let at_ := fun (l : MoLane) => if l.isOpen = 0 then s.mill.closed else if l.shut then l.isOpen else l.isOpen - 1
  let n := (s.mill.mo.toList.map at_).foldl min s.pers.cur
  s.modMill fun m => if m.closed < n then { m with closed := n, trSent := n } else m

/-- What sending a packet does. DESIGN CHOICE: a target's own drift bits stand as they are while the source copies their granules
and when it enters MIRRORED; R270 speaks of a resync that ends early (log entry 72). -/
def State.moSent (s : State) (k : Lane) (n : MoNext) (crc : Word) : State :=
  match n with
  | .hello => (s.modMo k fun l => { l with greeted := s.millReady }).tryPair
  | .sever c =>
    let s := s.modMo k fun l => { l with sever := none, inert := true }
    if c = 2 ∧ s.mill.mo.toList.all (·.inert) then { s with pers := { s.pers with mclosed := true } } else s
  | .ack e =>
    let s := s.modMill fun m => { m with acks := m.acks.tail, ackSent := e }
    (match s.mill.st, s.mill.rsEndAt with
      | .resyncTgt, some r =>
        if r ≤ e then ((s.modMill fun m => { m with rs := {} }).setMill .mirrored).noteMill .resyncTgt 0 else s
      | _, _ => s)
  | .header e => s.modMo k fun l => { l with isOpen := e, shut := false, lines := 0, digest := 0xFFFFFFFF }
  | .trailer _ => (s.modMo k fun l => { l with shut := true }).closeSent
  | .rsEnd _ => s.modMo k fun l => { l with rsEnd := false }
  | .drift ch =>
    if ch + 1 < 10240 then s.modMill fun m => { m with driftNext := some (ch + 1) }
    else ((s.modMill fun m => { m with driftNext := none }).startStream .resyncTgt).noteMill .fenced 0
  | .live x =>
    let s := s.modMill fun m => { m with moBuf := m.moBuf.erase x }
    (s.modMo k fun l => { l with lines := l.lines + 1, digest := digestStep l.digest crc }).logLine k x
  | .copy x =>
    let s := s.modMill fun m => { m with rs := { m.rs with copies := m.rs.copies.erase x } }
    (s.modMo k fun l => { l with lines := l.lines + 1, digest := digestStep l.digest crc }).endCopies
  | _ => s

/-- The words of the drift map that a DRIFT packet carries are read (R267, R287). -/
def State.lookChunk (s : State) (ch : Nat) : State :=
  match s.mill.driftBad with
  | some (byte, _) => if byte / 64 = ch then s.lookDrift (8 * byte) else s
  | none => s

/-- What a packet is built from is read from the SRAM that holds it: the drift map, or the MO buffer (R287, R288 codes 12
and 14). -/
def State.readFor (s : State) (n : MoNext) : State :=
  match n with
  | .drift ch => s.lookChunk ch
  | .live x => s.readG 533 x.bad
  | _ => s

/-- A bad line of the MO buffer, which is never driven. -/
def MoNext.bad (n : MoNext) : Bool :=
  match n with
  | .live x => acts x.bad
  | _ => false

/-- A lane drives packet `n`. -/
def State.moBeat (s : State) (l : Lane) (n : MoNext) : State :=
  let q := s.mill.mo.at l
  let crd := min 15 q.ret
  let p := { s.pktFor q n with crd := crd, pseq := q.pseq }
  let s := s.modMo l fun q =>
    { q with pseq := (q.pseq + 1) % 2 ^ 16, ret := q.ret - crd, crd := if n.costs then q.crd - 1 else q.crd,
             slot := (q.slot + 1) % 16, out := some p }
  let s := s.modMi l fun q => { q with crd := q.crd + crd }
  s.moSent l n (beatCrc p.data p.ctl)

/-- One beat of lane `k` (R250). -/
def execMoBeatSend (l : Lane) (s : State) : Host.Outcome State Fault Refusal :=
  .next (if !s.moDrives l then s.modMo l fun q => { q with out := none }
    else
      let s := s.endCopies
      let n := s.moNext l
      let s := s.readFor n
      let s := if n.bad then (s.modMo l fun q => { q with out := none }).loseLink 3 else s.moBeat l n
      s.settle.updWithhold.settleAll)

/-! ### MI beats (R242, R252 to R255, R262, R267) -/

/-- An entry of lane `l` is freed: its credit goes back to the twin (R242). -/
def State.freeMi (s : State) (l : Lane) : State :=
  (s.modMi l fun q => { q with buf := q.buf.tail }).modMo l fun q => { q with ret := q.ret + 1 }

/-- An entry other than DATA leaves the elastic buffer and does what it says, unless its parity is bad (R288 code 13). -/
def State.takeCtl (s : State) (l : Lane) (b : MiBeat) (f : Mill → Mill) : State :=
  let s := (s.readG 534 b.bad).freeMi l
  if acts b.bad then s.streamBreak l 1 else s.modMill f

/-- A DRIFT chunk leaves the elastic buffer: it is ORed into the map (R267), with DRIFT_OK after the last, unless its parity is bad
(R288 code 13). -/
def State.takeDrift (s : State) (l : Lane) (b : MiBeat) : State :=
  let s := (s.readG 534 b.bad).freeMi l
  if acts b.bad then s.streamBreak l 1
  else
    let ch := b.pkt.laddr % 2 ^ 14
    let bits := (List.range 512).filter fun i => b.pkt.data.getLsbD i
    let s := bits.foldl (fun (s : State) (i : Nat) => s.markDrift (512 * ch + i)) s
    s.modMill fun m => { m with driftGot := m.driftGot + 1, driftOk := decide (10240 ≤ m.driftGot + 1) }

/-- The head of a lane's buffer, other than DATA, is taken when its turn comes (R253, R267, R269). -/
def State.takeHead (s : State) (l : Lane) : Option State :=
  match (s.mill.mi.at l).buf with
  | [] => none
  | b :: _ =>
    let all := allLanes.all fun k => s.mill.trDone.contains k.val
    match b.pkt.ptype with
    | 2 =>
      if s.mill.twin = 0 then some (s.takeCtl l b fun m => { m with twin := b.epoch, trDone := [], ackedTo := b.epoch - 1 })
      else if b.epoch = s.mill.twin then some (s.takeCtl l b id)
      else if all then some (s.takeCtl l b fun m => { m with twin := b.epoch, trDone := [] })
      else none
    | 3 => some (s.takeCtl l b fun m => { m with trDone := m.trDone ++ [l.val] })
    | 7 => some (s.takeDrift l b)
    | 8 => some (s.takeCtl l b fun m => { m with rsEndAt := some b.epoch })
    | _ => none

/-- Every lane's control entries whose turn has come are taken; `n` bounds the passes. -/
def State.drainMi : Nat → State → State
  | 0, s => s
  | n + 1, s =>
    match allLanes.findSome? s.takeHead with
    | some s' => State.drainMi n s'
    | none => s

/-- Entries that one event can let go: a HEADER, a TRAILER and an RS_END of each lane, twice over. -/
def miPasses : Nat := 24

/-- The checks of a beat against the stream: the epoch open on its lane, its credit, the ACKs before it and the epochs whose
TRAILERs MO has sent (R252 reasons 4 to 9). -/
def miCheck (l : Lane) (q : MiLane) (lastAck sent : Nat) (p : Pkt) : Option Nat :=
  let ep := payload p.data 7 0
  let crd := if q.crd = 0 then some 7 else none
  let elo := fun (e : Nat) => p.elo == e % 2 ^ 16
  match p.ptype with
  | 1 =>
    (match q.isOpen with
      | none => some 4
      | some e => if !elo e then some 4 else crd.or (if p.laddr % 4 = l.val then none else some 8))
  | 2 =>
    if q.isOpen.isSome || !elo ep then some 4
    else (match q.lastTr with | some t => if ep = t + 1 then crd else some 4 | none => crd)
  | 3 =>
    (match q.isOpen with
      | none => some 4
      | some e =>
        if ep ≠ e ∨ !elo e then some 4
        else if payload p.data 11 8 ≠ q.lines then some 5
        else if payload p.data 15 12 ≠ (digestOf q.lines q.digest).toNat then some 6
        else crd)
  | 8 =>
    (match q.isOpen with
      | none => some 4
      | some e => if elo e then crd else some 4)
  | 4 => if ep < lastAck ∨ sent < ep then some 9 else none
  | 7 => crd
  | _ => none

/-- A credited beat enters the elastic buffer (R242), with an armed injection of code 13. -/
def State.bufferMi (s : State) (l : Lane) (p : Pkt) (e : Nat) : State :=
  let bad := s.armedG 13 0
  (s.modMi l fun q => { q with crd := q.crd - 1, buf := q.buf ++ [{ pkt := p, epoch := e, bad := bad }] }).spendG bad

/-- An ACK: MILL_ACKED, the granule log's entries and EPOCH_DUR follow it, and it ends a resync at the source (R255, R269). -/
def State.takeAck (s : State) (e : Nat) : State :=
  let m := s.mill
  let (freed, kept) := match m.logBad with
    | some (g, b) => if g.2 ≤ e then (some b, none) else (none, m.logBad)
    | none => (none, none)
  let s := s.readG 536 freed
  let s := s.modMill fun m => { m with acked := e, lastAck := e, log := m.log.filter (fun g => e < g.2), logBad := kept }
  let s := s.settle
  match s.mill.st, s.mill.rs.ended with
  | .resyncSrc, some r =>
    if r ≤ e ∧ s.mill.mo.toList.all (fun q => !q.rsEnd) then
      ((s.modMill fun m => { m with rs := {}, div := 0 }).setMill .mirrored).noteMill .resyncSrc 0
    else s
  | _, _ => s

/-- A SEVER (R262). -/
def State.takeSever (s : State) : State :=
  let why := fun (s : State) => s.modMill fun m => { m with why := 4 }
  match s.mill.st with
  | .mirrored => (((why s.markSplit).raise 540).toSolo).noteMill .mirrored 0
  | .frozen => if s.pers.strobe then s else ((why s).toSolo).noteMill .frozen 0
  | .resyncTgt => ((why s).toSolo).noteMill .resyncTgt 0
  | _ => s

/-- The lane's view of the stream follows a beat that belongs to it (R246, R252). -/
def MiLane.follow (q : MiLane) (p : Pkt) (crc : Word) : MiLane :=
  let ep := payload p.data 7 0
  match p.ptype with
  | 1 => { q with lines := q.lines + 1, digest := digestStep q.digest crc }
  | 2 => { q with isOpen := some ep, lines := 0, digest := 0xFFFFFFFF }
  | 3 => { q with isOpen := none, lastTr := some ep }
  | _ => q

/-- PTYPE of the beats that take a credit of their lane (R242). -/
def credited (ptype : Nat) : Bool := ptype == 1 || ptype == 2 || ptype == 3 || ptype == 7 || ptype == 8

/-- A good beat whose type the state does not take: on a linked side the lane follows it, and its entry is freed at once
(R242, R252, R257). -/
def State.passBeat (s : State) (l : Lane) (p : Pkt) (crc : Word) : State :=
  if s.mill.linked && credited p.ptype then
    (s.modMi l fun q => { q.follow p crc with crd := q.crd - 1 }).modMo l fun q => { q with ret := q.ret + 1 }
  else s

/-- The packet types that a state's MI takes (R257); a SEVER is taken in every state that is not OFF. A linked SOLO takes the
target's HEADERs and TRAILERs, which it acknowledges (R257, R269). -/
def Mill.takes (m : Mill) (ptype : Nat) : Bool :=
  match m.st with
  | .off => false
  | .handshake => ptype == 5 || ptype == 6
  | .mirrored | .resyncSrc => ptype == 1 || ptype == 2 || ptype == 3 || ptype == 4 || ptype == 6
  | .resyncTgt => ptype == 1 || ptype == 2 || ptype == 3 || ptype == 4 || ptype == 6 || ptype == 8
  | .frozen => ptype == 6
  | .solo => if m.linked then ptype == 2 || ptype == 3 || ptype == 6 || ptype == 7 else ptype == 5 || ptype == 6
  | .fenced => (ptype == 5 && !m.linked) || ptype == 6

/-- A beat without a break is taken. -/
def State.takePkt (s : State) (l : Lane) (p : Pkt) (crc : Word) : State :=
  let ep := payload p.data 7 0
  match p.ptype with
  | 1 => (s.bufferMi l p ((s.mill.mi.at l).isOpen.getD 0)).modMi l fun q => q.follow p crc
  | 2 | 3 => (s.modMi l fun q => q.follow p crc).bufferMi l p ep
  | 4 => s.takeAck ep
  | 5 =>
    let h := helloOf p.data
    let s := s.modMi l fun q => { q with hello := some h }
    (s.modMill fun m => { m with peerLast := h.peerLast, peerInfo := h.info }).tryPair
  | 6 => s.takeSever
  | 7 | 8 => s.bufferMi l p ep
  | _ => s

/-- A beat that fails no check of R252: its CRD is added, and a type that the state takes is taken. -/
def State.goodBeat (s : State) (l : Lane) (p : Pkt) (crc : Word) (taken : Bool) : State :=
  let s := s.modMo l fun o => { o with crd := min 1024 (o.crd + p.crd) }
  if taken then (s.takePkt l p crc).drainMi miPasses else s.passBeat l p crc

/-- The first check of R252 that a beat fails; the stream's own checks hold on a linked side. -/
def miReason (l : Lane) (q : MiLane) (m : Mill) (p : Pkt) (okCrc : Bool) : Option Nat :=
  let okSeq := match q.pseq with | some n => p.pseq == (n + 1) % 2 ^ 16 | none => true
  if !okCrc then some 1 else if !okSeq then some 2 else if 9 ≤ p.ptype then some 3
  else if m.linked then miCheck l q m.lastAck m.trSent p else none

/-- The beat's CRC is right (R246). -/
def crcHolds (d : Line) (w : BitVec 192) : Bool :=
  beatCrc d (BitVec.ofNat 160 (w.toNat % 2 ^ 160)) == BitVec.ofNat 32 (field w 191 160)

/-- A beat that arrives on MI (R252); `okCrc` says whether its CRC is right. -/
def State.checkBeat (s : State) (l : Lane) (p : Pkt) (crc : Word) (okCrc : Bool) : State :=
  let q := s.mill.mi.at l
  let taken := s.mill.takes p.ptype
  let anyway := taken && (p.ptype == 6 || p.ptype == 5)
  let reason := miReason l q s.mill p okCrc
  let s := if okCrc then s.modMi l fun q => { q with pseq := some p.pseq } else s
  if q.broken && !(okCrc && anyway) then s
  else match reason with
    | some r => if q.broken then s.takePkt l p crc else s.streamBreak l r
    | none => s.goodBeat l p crc taken

/-- A beat arrives on lane `l` (R252): its CRC, its sequence number and its type are checked in every state but OFF, and the
stream's own rules while the side is linked. After a break only a SEVER is taken, or the HELLO of a new linking. -/
def State.miBeat (s : State) (l : Lane) (d : Line) (w : BitVec 192) : State :=
  if s.mill.st == .off || !s.mill.wiclk || !s.ticking then s
  else s.checkBeat l (pktOf d w) (BitVec.ofNat 32 (field w 191 160)) (crcHolds d w)

/-- What follows a beat. -/
def State.miAfter (s : State) : State := s.updMiFlood.settleAll.sweepFails

def execMiData (l : Lane) (d : Line) (ctl : BitVec 192) (s : State) : Host.Outcome State Fault Refusal :=
  .next (s.miBeat l d ctl).miAfter
def execMiHeader (l : Lane) (d : Line) (ctl : BitVec 192) (s : State) : Host.Outcome State Fault Refusal :=
  .next (s.miBeat l d ctl).miAfter
def execMiTrailer (l : Lane) (d : Line) (ctl : BitVec 192) (s : State) : Host.Outcome State Fault Refusal :=
  .next (s.miBeat l d ctl).miAfter
def execMiAck (l : Lane) (d : Line) (ctl : BitVec 192) (s : State) : Host.Outcome State Fault Refusal :=
  .next (s.miBeat l d ctl).miAfter
def execMiHello (l : Lane) (d : Line) (ctl : BitVec 192) (s : State) : Host.Outcome State Fault Refusal :=
  .next (s.miBeat l d ctl).miAfter
def execMiSever (l : Lane) (d : Line) (ctl : BitVec 192) (s : State) : Host.Outcome State Fault Refusal :=
  .next (s.miBeat l d ctl).miAfter
def execMiDrift (l : Lane) (d : Line) (ctl : BitVec 192) (s : State) : Host.Outcome State Fault Refusal :=
  .next (s.miBeat l d ctl).miAfter
def execMiRsEnd (l : Lane) (d : Line) (ctl : BitVec 192) (s : State) : Host.Outcome State Fault Refusal :=
  .next (s.miBeat l d ctl).miAfter
def execMiIdle (l : Lane) (d : Line) (ctl : BitVec 192) (s : State) : Host.Outcome State Fault Refusal :=
  .next (s.miBeat l d ctl).miAfter

/-! ### Admission and acknowledgement (R253, R254, R284, R379) -/

/-- The write that a DATA packet stands for (R253). -/
def miReq (p : Pkt) : Req :=
  { opc := if p.mask = allOnes then .wr else .wrp, addr := p.laddr * 64, len := 0, qos := .rt, tag := 0, key := 0, priv := true,
    wb := false, strict := false, mask := p.mask }

/-- A line from MI that no channel can take (R379, R106): it counts as accepted. -/
def State.dropMi (s : State) (r : Req) : State :=
  match s.spots r with
  | t :: _ =>
    let s := s.mirrorLost t.ch t.line
    if s.mapOverrun r then s.raiseChan t.ch 1 else s
  | [] => s

/-- MI admits the DATA line at the head of lane `l`'s buffer (R253), unless it is bad (R288 code 13). A line whose MASK is
all zeros writes nothing: it takes no crossbar entry and counts as accepted at once (R43, R111, R121). -/
def State.admitMi (s : State) (l : Lane) (b : MiBeat) : State :=
  let s := s.readG 534 b.bad
  if acts b.bad then s.streamBreak l 1
  else
    let r := miReq b.pkt
    if s.absentAt r then ((s.freeMi l).dropMi r).drainMi miPasses
    else if r.empty then (s.freeMi l).drainMi miPasses
    else
      let psn := b.pkt.rs && b.pkt.mask == allOnes && b.pkt.data == poisonLine
      let ls := (s.requestLines r [{ data := b.pkt.data }]).map fun x => { x with poison := psn }
      let es := s.route .mi r .rt s.pers.cur ls
      if !s.xbarRoom es then s
      else
        let s := s.freeMi l
        let s : State := { s with
          xbar := { s.xbar with entries := s.xbar.entries ++ es }
          mill := { s.mill with flights := s.mill.flights ++ [{ id := s.nextId, twin := b.epoch, epoch := s.pers.cur }] } }
        s.stamp.drainMi miPasses

def execMiLineAdmit (l : Lane) (s : State) : Host.Outcome State Fault Refusal :=
  .next (match (s.mill.mi.at l).buf with
    | b :: _ =>
      if b.pkt.ptype ≠ 1 || s.pers.strobe || s.fcol.safe || b.epoch ≠ s.mill.twin then s else (s.admitMi l b).miAfter
    | [] => s)

/-- The ACK of the next twin epoch becomes due (R254): its TRAILERs are checked and its lines accepted. -/
def execAckDue (s : State) : Host.Outcome State Fault Refusal :=
  .next (let m := s.mill
    let n := m.ackedTo + 1
    let trailers := decide (n < m.twin) || (n == m.twin && allLanes.all fun k => m.trDone.contains k.val)
    if (m.streams || (m.st == .solo && m.linked)) && m.twin != 0 && trailers && !(m.flights.any fun f => f.twin == n) then
      s.modMill fun m => { m with acks := m.acks ++ [n], ackedTo := n, applied := n }
    else s)

/-! ### Links and the split decision (R257, R261 to R266, R270) -/

/-- Link-up inputs fall, `mo` and `mi` naming which (R257, R261, R270). -/
def State.linkFall (s : State) (mo mi : Bool) : State :=
  if !mo && !mi then s
  else
    let s := s.modMill fun m =>
      { m with
        moUp := m.moUp && !mo, miUp := m.miUp && !mi
        mo := if mo then m.mo.each fun l => { l with sever := none, out := none } else m.mo }
    (s.loseLink 1).settleAll

/-- Link-up inputs rise, `mo` and `mi` naming which: a refusal is let go, and the lanes start afresh (R240, R244, R259). -/
def State.linkRise (s : State) (mo mi : Bool) : State :=
  if !mo && !mi then s
  else s.modMill fun m =>
    { m with
      moUp := m.moUp || mo, miUp := m.miUp || mi, barred := false
      mo := if mo then m.mo.each fun l => { l with pseq := 0, greeted := false } else m.mo
      mi := if mi then m.mi.each fun l => { l with pseq := none, hello := none } else m.mi }

/-- The two link-up inputs come to these levels; with both high an enabled mirror leaves OFF (R257). -/
def State.linkLevels (s : State) (mo mi : Bool) : State :=
  let m := s.mill
  let s := (s.linkFall (m.moUp && !mo) (m.miUp && !mi)).linkRise (mo && !m.moUp) (mi && !m.miUp)
  if mo && mi then s.tryEnable.settleAll else s

/-- Both link-up inputs are high. -/
def execLinkUp (s : State) : Host.Outcome State Fault Refusal := .next (s.linkLevels true true)

/-- A link-up input is low: `mo` and `mi` are the levels of the two. -/
def execLinkDown (mo mi : Bool) (s : State) : Host.Outcome State Fault Refusal := .next (s.linkLevels mo mi)

/-- No beat on a lane for LOSS_TO (R261); it ends a resync as a link loss does (R270). -/
def execLossTimeout (l : Lane) (s : State) : Host.Outcome State Fault Refusal :=
  .next (let _ := l
    if s.mill.streams then (s.loseLink 2).settleAll else s)

/-- The decision of FROZEN (R263), its witness request gone. After the strobe the side stays FROZEN (R266). -/
def State.settleSplit (s : State) (solo : Bool) (action : Nat) : State :=
  if s.mill.st = .frozen ∧ !s.pers.strobe then
    ((if solo then s.toSolo else s.toFenced).noteMill .frozen action).settleAll
  else s

def execSplitTimeout (s : State) : Host.Outcome State Fault Refusal :=
  .next (s.settleSplit (s.wmode == 0 && s.primacy) 0)

/-- WITNESS_GRANT changes (R263). -/
def execWitnessGrant (high : Bool) (s : State) : Host.Outcome State Fault Refusal :=
  .next (let s := s.modMill fun m => { m with grantPin := high, grantLow := m.grantLow || !high }
    if high && s.wmode == 1 && s.mill.grantLow then s.settleSplit true 0 else s)

/-! ### Actions (R265) -/

/-- An action that is taken raises its source and is recorded, and a refused side may pair afresh (R259, R265). -/
def State.forced (s : State) (old : MillState) (action : Nat) : State :=
  ((s.modMill fun m => { m with barred := false }).raise 541).noteMill old action |>.settleAll

/-- An action of MILL_CMD would be taken in this state. -/
def State.actOk (s : State) (n : Nat) : Bool :=
  let m := s.mill
  match n with
  | 1 => m.st == .solo && m.linked && m.driftOk
  | 2 => (m.st == .frozen && !s.pers.strobe) || m.st == .fenced || m.st == .resyncTgt
  | 3 => (m.st == .frozen && !s.pers.strobe) || m.st == .solo
  | 4 | 5 => m.st == .frozen && !s.pers.strobe && s.wmode == 2
  | _ => false

/-- An action of MILL_CMD (R263, R265). -/
def State.millAct (s : State) (n : Nat) : State :=
  if !s.actOk n then s
  else
    let old := s.mill.st
    let why := fun (s : State) => s.modMill fun m => { m with why := 5 }
    match n with
    | 1 => (s.startResync false).forced old 1
    | 2 => (why s).toSolo.forced old 2
    | 3 => (why s).toFenced.forced old 3
    | 4 => s.toSolo.forced old 4
    | _ => s.toFenced.forced old 5

def execMillStartResync (s : State) : Host.Outcome State Fault Refusal := .next (s.millAct 1)
def execMillForceSolo (s : State) : Host.Outcome State Fault Refusal := .next (s.millAct 2)
def execMillForceFence (s : State) : Host.Outcome State Fault Refusal := .next (s.millAct 3)
def execMillWitnessGrantCmd (s : State) : Host.Outcome State Fault Refusal := .next (s.millAct 4)
def execMillWitnessDeny (s : State) : Host.Outcome State Fault Refusal := .next (s.millAct 5)

/-! ### Resync (R267, R268) -/

/-- The walk from granule 0 upward reads the words of the map up to the next set bit (R268, R287). -/
def State.lookWalk (s : State) : State :=
  match s.mill.driftBad, s.mill.drift.min? with
  | some (byte, _), some g => if byte ≤ g / 8 then s.lookDrift (8 * byte) else s
  | some (byte, _), none => s.lookDrift (8 * byte)
  | none, _ => s

/-- The engine takes the next granule with its bit set, and reads of its lines enter the crossbar as it has room (R268; log
entry 13). -/
def execResyncGranule (s : State) : Host.Outcome State Fault Refusal :=
  .next (if s.mill.st != .resyncSrc || !s.mill.rs.active || s.mill.rs.ended.isSome || s.pers.strobe then s
    else if s.mill.rs.gran.isSome then s.feedResync resyncBurst
    else
      let s := s.lookWalk
      match s.mill.drift.min? with
      | none => s.endCopies
      | some g =>
        (s.modMill fun m => { m with rs := { m.rs with gran := some g, next := 0 } }).feedResync resyncBurst)

/-- Line `i` of the read of four lines `r` of granule `g` returns: it is copied, in the epoch current at its return, unless a
newer host write superseded it (R268). -/
def execResyncLineReturn (g : Nat) (r : Fin 16384) (i : Fin 4) (s : State) : Host.Outcome State Fault Refusal :=
  .next (
    let line := driftLines * g + 4 * r.val + i.val
    match s.mill.rs.back.find? fun b => b.1 == line with
    | none => s
    | some (_, d) =>
      let x : MoLine := { addr := 64 * line, data := d, mask := allOnes, epoch := s.pers.cur, rs := true }
      (s.modMill fun m =>
        { m with rs := { m.rs with
            back := m.rs.back.eraseP fun b => b.1 == line
            out := m.rs.out.del line (line + 1), newer := m.rs.newer.del line (line + 1)
            copies := if m.rs.newer.mem line then m.rs.copies else m.rs.copies ++ [x] } }).endCopies)

end Sys2Proof.Machine
end

