-- ==== Sys2Proof/Machine/Update.lean ====
section
/-! DEFINITION. An update taking effect (R20, R54, R73, R96, R97, R109, R162, R167, R186, R206, R257, R302, R356, R372,
R373, R460 to R464). -/

namespace Sys2Proof.Machine

/-! ### Shadows and values in force -/

/-- A key of the sparse tables. -/
def State.keys (s : State) : List Nat := (s.regs.prog.list ++ s.regs.live.list).map (·.1)

/-- Bits 28, 29 and 31 of a strobe or an arm are ignored (R197, R461). -/
def strobeMask (w : Word) : Word := w &&& 0x4FFFFFFF

/-- An update of `gs` applies a register's shadow at once: window registers wait for the end of update mode (R97), EPOCH_BASE
has its own condition (R206), and PHY_CFG is not changed while SCH_CTL.EN is 1 (R366). -/
def State.applies (s : State) (gs : Word) (key : Nat) : Bool :=
  let i := regInfo key
  let phy := decide (0x100000 ≤ key) && key % 0x1000 == 0x004
  i.rws != 0 && i.groups.any (fun g => flag gs g) && !windowKey key && key / 0x1000 != 7
    && !(phy && flag (s.live (key / 0x1000 * 0x1000 + 0x020)) 0
          && !((allChans.find? fun c => agentKey c.val 0 == key / 0x1000 * 0x1000).map fun c => (s.chan c).forceOff).getD false)

/-- The value in force takes the shadow. -/
def State.install (s : State) (key : Nat) : State :=
  s.setLive key (blend (regInfo key).rws (s.live key) (s.prog key))

def State.applyGroups (s : State) (gs : Word) : State :=
  (s.keys.filter (s.applies gs)).foldl (fun (s : State) (k : Nat) => s.install k) s

/-- Held writes land in the CCLK after the T that they wait for (R200, R462), and the postings of an earlier CCLK hold none. -/
def State.landHeld (s : State) : State :=
  let due := fun (h : HeldWrite) => decide (h.until_ < s.tide)
  let ls := s.regs.held.filter due
  let late := s.regs.lately.filter fun p => decide (s.tide ≤ p.at_)
  let s : State := { s with regs := { s.regs with held := s.regs.held.filter fun h => !due h, lately := late } }
  ls.foldl (fun (s : State) (h : HeldWrite) => s.setProg h.key h.val) s

/-! ### Ports and windows (R54, R73, R87, R96, R97) -/

/-- A port's update mode, and the windows and default map that its end installs. In the safe state no update of
PORT_CTL.OPEN takes effect (R63), and one due in the cycle of a UNIT reaction on the port is lost to it (R19). -/
def State.portUpdate (s : State) (p : PortId) : State :=
  let updm := flag (s.live (portKey p.val 0x100)) 0
  let was := (s.port p).updm
  let s :=
    if was && !updm then
      let own := (List.range 64).map fun i => portKey p.val (4 * i)
      let dflt := [0xA020] ++ (List.range 8).map fun i => 0xA030 + 4 * i
      let s := (own ++ dflt).foldl (fun (s : State) (k : Nat) => s.install k) s
      let pair := fun (k : Nat) => (s.live (0xA030 + 8 * k), s.live (0xA034 + 8 * k))
      s.modPort p fun q => { q with defmap := s.live 0xA020, defrgn := (List.range 4).map pair }
    else s
  let isOpen := flag (s.live (portKey p.val 0x200)) 0
  let s := s.modPort p fun q => { q with updm := updm }
  let q := s.port p
  if s.fcol.safe || (q.forcedShut && decide (s.tide ≤ q.shutAt)) then s
  else
    let withhold := s.mill.withhold
    (s.modPort p fun q =>
      let q := { q with forcedShut := false }
      if isOpen then q.beginOpen withhold else q.beginClose).updFlood p

/-! ### Channels (R162, R167, R356, R372, R373) -/

/-- A seed as a selector loads it: subchannel B rotates it left by 16, and zero becomes 1 (R167). -/
def seedFor (x : Sub) (v : Word) : Word :=
  let r := if x = 0 then v else v.rotateLeft 16
  if r = 0 then 1 else r

/-- The selector as SCH_CTL.EN rises: open banks are precharged and every rank gets its first REFab (R162); the LFSR is
loaded (R167) and the retraining cycle restarts (R362). -/
def Sel.start (l : Sel) (x : Sub) (g : Geom) (seed : Word) : Sel :=
  let pre := (g.ranks.filter fun cs => l.banks.any fun e => e.1.cs == cs).map fun cs =>
    ({ kind := .preab, bank := ⟨cs, 0, 0, 0⟩, use := .initial } : Cmd)
  { l with
    plan := pre ++ g.ranks.map fun cs => { kind := .refab, bank := ⟨cs, 0, 0, 0⟩, use := .initial }
    lfsr := seedFor x seed, rtr := 0, failed := [], owed := Tab.all 4 0, owedSb := [], owedIn := Tab.all 4 0, selfRef := false, pauseOpen := false, pauseDue := none,
    rtrStep := none, shutUntil := 0, ostate := .running, redo := [], rcvrDone := false, retries := 0 }

/-- SCH_CTL.EN takes effect with 1 (R162, R234, R372). -/
def State.startSch (s : State) (c : ChanId) : State :=
  let g := s.geom c
  let seed := s.agent c 0x03C
  let span := s.spanMode (setOf c)
  s.modChan c fun k =>
    { k with
      schOn := true, cmarkDue := span, phy := { k.phy with quiet := false }
      sel := Vector.ofFn fun x => (k.sel.at x).start x g seed
      svc := { k.svc with st := if k.svc.st = 1 then 2 else k.svc.st } }

/-- PHY_CFG.EN takes effect with 1: the PLL starts, and the outputs of a channel with sled power leave the inert or retention levels,
from retention with chip selects low up to an SRX (R348, R350, R356, R393). -/
def Phy.startUp (p : Phy) (mul : Nat) (pwr : Bool) : Phy :=
  { p with started := true, mul := mul, lock := false, cal := false, trained := false, level := if pwr then 1 else 3
           quiet := p.level == 2, drst := if p.level = 2 then p.drst else false }

/-- PHY_CFG.EN takes effect with 0: inert levels, without sled power unpowered ones (R348, R366). -/
def Phy.shutDown (p : Phy) (pwr : Bool) : Phy :=
  { p with started := false, lock := false, cal := false, trained := false, level := if pwr then 0 else 3, drst := false, quiet := false }

/-- Edges of the effective PHY_CFG.EN and SCH_CTL.EN; a channel without sled power stays forced off (R373). -/
def State.chanUpdate (s : State) (c : ChanId) (phyWas schWas : Bool) : State :=
  let s := s.modChan c fun k => if k.svc.pwrOn then { k with forceOff := false } else k
  let phy := s.phyEn c
  let sch := s.schEn c
  let s := if phy && !phyWas then s.modChan c fun k => { k with phy := k.phy.startUp (s.phyMul c) k.svc.pwrOn, tideValid := false }
    else if !phy && phyWas then s.modChan c fun k => { k with phy := k.phy.shutDown k.svc.pwrOn, tideValid := false }
    else s
  if sch && !schWas then s.startSch c
  else if !sch && schWas then s.modChan c fun k => { k with schOn := false }
  else s

/-! ### Map, cadence, persistence, millrace -/

/-- A set's engine as it starts afresh; OFFLINE is left only through core reset (R334). -/
def Span.fresh (sp : Span) : Span := if sp.st = 3 then { st := 3, pos := sp.pos, ranks := sp.ranks, deg := sp.deg } else {}

/-- A set enters span mode: positions that are absent count as lost (R333). -/
def State.enterSpan (s : State) (m : SetId) : State :=
  (setChans m).foldl (fun (s : State) (c : ChanId) => if (s.chan c).away then s.loseChan c else s) (s.modSpan m Span.fresh)

def State.mapUpdate (s : State) (was : SetId → Bool) : State :=
  let s := allSets.foldl (fun (s : State) (m : SetId) =>
    if s.spanMode m && !was m then s.enterSpan m else if !s.spanMode m && was m then s.modSpan m Span.fresh else s) s
  (allPorts.foldl (fun (s : State) (p : PortId) => s.updFlood p) s).updMiFlood

/-- The period of an entry as R184 limits it. -/
def cadPeriod (kind per : Nat) : Nat :=
  if kind = 3 then min 102400 (max 3200 per) else max 1024 per

/-- An entry acts: in use with a kind, and of several epoch-cut entries the lowest (R184, R185). -/
def State.cadActs (s : State) (k : Nat) : Bool :=
  let kind := s.cadKind k
  kind != 0 && (kind != 3 || (List.range k).all fun j => s.cadKind j != 3)

/-- The least FIRST + j × PER that is at least `u` (R186). -/
def slotFrom (first per u : Nat) : Nat := if u ≤ first then first else first + (u - first + per - 1) / per * per

/-- The next slots as an update of the cadence group at tide `u` leaves them (R186). -/
def State.cadUpdate (s : State) (u : Nat) : State :=
  let next := fun (k : Fin 8) =>
    let base := 0x8000 + 0x20 * k.val
    if s.cadActs k.val then
      some (slotFrom ((s.live (base + 0xC)).toNat + (s.live (base + 0x10)).toNat * 2 ^ 32)
        (cadPeriod (s.cadKind k.val) (s.live (base + 8)).toNat) (u + 1024))
    else none
  { s with cad := { s.cad with next := Vector.ofFn next } }

/-- An update of the persistence group renumbers the open epoch, while every port and MI is closed (R206). -/
def State.epochUpdate (s : State) : State :=
  if s.allClosed then
    let s := (s.install 0x7000).install 0x7004
    let n := max 1 ((s.live 0x7000).toNat + (s.live 0x7004).toNat * 2 ^ 32)
    { s with pers := { s.pers with cur := n, loc := 0, dur := 0, locNext := n } }
  else s

/-- MILL_ACTION replies once its action is taken (R414). -/
def State.replyMill (s : State) : State :=
  match s.cmp.cur with
  | some u => if u.opc = 0x38 then s.replyCur stOk 0 [] else s
  | none => s

/-- An update of the millrace group: EN's edges, a READY that lets the sides pair, and the action, whose shadow returns to 0
(R257, R259, R272). DESIGN CHOICE: the shadow returns to 0 for an action that R265 ignores and for 6 and 7 too; R272 says so
of an action taken (log entry 71). -/
def State.millUpdate (s : State) : State :=
  let act := field (s.live 0x9004) 2 0
  let s : State := { s with mill := { s.mill with forceOff := s.mill.forceOff && s.mill.offAt == s.tide } }
  let s := if flag (s.live 0x9000) 0 && !s.mill.forceOff then s.tryEnable.tryPair else s.millOff
  if act = 0 then s
  else (((s.setProg 0x9004 0).setLive 0x9004 0).millAct act).replyMill

/-! ### Fresh fill and injections (R291, R293, R302) -/

/-- The range of a channel's indices that can be fresh. -/
def State.freshSpan (s : State) (c : ChanId) : Nat × Nat := (freshIx c 0, freshIx c ((s.geom c).reserved / granLines))

/-- The fill of R302 starts: its bits are written, all of them at T (log entry 22). DESIGN CHOICE: it leaves the wash records
alone, so a granule that washes goes on washing, and a completed one still clears its bit (log entry 73). -/
def State.startFill (s : State) : State :=
  if !s.allClosed then { s with fresh := { s.fresh with refused := true } }
  else
    let lo := field (s.prog 0xA060) 22 0
    let hi := min 5242880 (lo + field (s.prog 0xA064) 22 0)
    let set := flag (s.prog 0xA068) 0
    let bits := allChans.foldl (fun (b : ISet) (c : ChanId) =>
      let r := s.freshSpan c
      if set then b.add (max lo r.1) (min hi r.2) else b.del (max lo r.1) (min hi r.2)) s.fresh.bits
    let s : State := { s with fresh := { s.fresh with bits := bits, busy := true, refused := false } }
    if lo < hi then s.writeFresh lo else s

/-- Posted injections are armed (R291), or lost where the unit launches nothing (R22, R182). -/
def InjArm.strike (a : InjArm) (t : Nat) (runs : Bool) : InjArm :=
  if a.pend && decide (a.at_ ≤ t) then { a with pend := false, armed := runs } else a

def State.strikeArms (s : State) : State :=
  { s with garm := s.garm.strike s.tide true, chans := s.chans.each fun k => { k with arm := k.arm.strike s.tide k.tideValid } }

/-! ### The update -/

/-- The groups that an update reaches: the safe state overrides what the channels and the millrace hold (R19, R348, R433).
DEDUCED: R433 keeps sluiced channels at retention levels and the millrace inert, and names no update that could change it
(log entry 75). -/
def State.reachedGroups (s : State) (gs : Word) : Word := if s.fcol.safe then gs &&& ~~~0x080FFFFF else gs

/-- The groups of an update take effect. -/
def State.takeGroups (s : State) (gs : Word) : State :=
  let gs := s.reachedGroups gs
  let phyWas := fun (c : ChanId) => s.phyEn c
  let schWas := fun (c : ChanId) => s.schEn c
  let spanWas := fun (m : SetId) => s.spanMode m
  let u := s.tide
  let s := s.applyGroups gs
  let s := if flag gs 24 then s.mapUpdate spanWas else s
  let s := allChans.foldl (fun (s : State) (c : ChanId) =>
    if flag gs c.val then s.chanUpdate c (phyWas c) (schWas c) else s) s
  let s := if flag gs 26 then s.epochUpdate else s
  let s := if flag gs 25 then s.cadUpdate u else s
  let s := if flag gs 27 then s.millUpdate else s
  let s := allPorts.foldl (fun (s : State) (p : PortId) => if flag gs (20 + p.val / 6) then s.portUpdate p else s) s
  let s := if flag gs 28 then s.startFill else s
  if flag gs 29 then s.strikeArms else s

/-- A posted update takes effect (R460 to R463, R199). -/
def State.takeUpdate (s : State) (p : Posting) : State :=
  let s := s.takeGroups p.groups
  if p.armed then { s with regs := { s.regs with atPosted := false, atDone := true, atSeq := nextSeq s.regs.atSeq } } else s

/-- The posted updates that are due take effect, in the order of their postings. -/
def State.takeUpdates (s : State) : State :=
  let due := s.regs.posted.filter fun p => decide (p.at_ ≤ s.tide)
  let late := due.map fun p => { p with at_ := s.tide }
  let s : State := { s with regs := { s.regs with
    posted := s.regs.posted.filter fun p => !decide (p.at_ ≤ s.tide), lately := s.regs.lately ++ late } }
  due.foldl State.takeUpdate s

end Sys2Proof.Machine
end

