-- ==== Sys2Proof/Machine/ResetOps.lean ====
section
/-! DEFINITION. Core reset and bring-back (R178, R392 to R397, R432, R435, R436, R482), the standby monitor's samples and
decisions (R223 to R227), its rule table (R388 to R391), sled power (R371, R372), the steps of SLUMBER (R387). -/

namespace Sys2Proof.Machine

/-! ### Core reset (R397) -/

/-- A channel through a core reset: its service state, and the retention levels of a channel that holds them (R392, R393,
R436). -/
def Chan.afterReset (k : Chan) : Chan :=
  let held := k.phy.level == 2 && k.svc.pwrOn
  { phy := { level := if held then 2 else if k.phy.level = 3 then 3 else 0, drst := held }, svc := k.svc }

/-- The core through a core reset: the standby monitor, the EVR key, OTP and flash contents, EHOLD with CAUSE and the input
pins stay (R392, R435, R436, R447); the rest is as after power-up. -/
def State.coreReset (s : State) : State :=
  { State.reset with
    pending := s.pending
    phase := s.phase
    nextId := s.nextId
    freeIx := s.freeIx
    regs := { prog := s.regs.prog.keep sbmKept }
    chans := s.chans.each Chan.afterReset
    mill := { moUp := s.mill.moUp, miUp := s.mill.miUp, grantPin := s.mill.grantPin }
    fcol := { ehold := s.fcol.ehold, cause := if s.fcol.ehold then s.fcol.cause else 1023 }
    flash := { s.flash with ksQ := [], store := none }
    sbm := s.sbm
    otp := s.otp
    cmp := { imem := s.cmp.imem, dmem := s.cmp.dmem } }

/-- Core reset is entered from ON, by CORE_RST_N or a CORE reaction; rows 4 to 7 follow once the pin is high (R432, R482). -/
def State.enterReset (s : State) : State :=
  let b := s.sbm
  let s := s.coreReset
  let w : WakeCause := { b.wakeCause with wake := false, por := false, seq := nextSeq b.wakeCause.seq }
  { s with phase := if b.rstLow then .held else .bring 4
           sbm := { b with rstPend := false, eval := false, wakeCause := w } }

/-- A pending core reset is entered once the sluice is done (R432, R482). -/
def State.resetDue (s : State) : State :=
  if (s.fcol.corePend || s.sbm.rstPend) && s.pers.done then s.enterReset else s

/-- The source's line, where the FCOL is out of core reset (R426). -/
def State.raiseOn (s : State) (src : Nat) : State := if s.ticking then s.raise src else s

/-! ### Programs of the keepsake flash while the warn decision stands (R225) -/

/-- A program of the keepsake flash may complete: the warn decision is not raised, or the program was under way. -/
def State.mayProgram (s : State) : Bool := !s.sbm.warn || s.flash.under

/-- An operation has failed as the flash said (log entry 67). -/
def State.flashTold (s : State) : State := { s with flash := { s.flash with failed := false } }

/-- A page program has ended: none under way as the warn decision rose is left (R225). -/
def State.programmed (s : State) : State := { s with flash := { s.flash with under := false } }

/-! ### Counter entries (R443) -/

/-- The 12 bytes that an entry's CRC covers. -/
def CtrEntry.bytes (e : CtrEntry) : List Byte := bytesOfNat (place e.hours 32 0 + place e.pcyc 32 32 + place e.next 32 64) 12

def CtrEntry.good (e : CtrEntry) : Bool := e.crc == crc32c e.bytes

/-- Entries of a 4 KiB sector. -/
def ctrSlots : Nat := 256

/-- An entry goes behind those of the sector written last; once that is full the other is erased and takes its turn (R439). -/
def CtrArea.put (a : CtrArea) (e : CtrEntry) : CtrArea :=
  if a.inOdd then
    if a.odd.length < ctrSlots then { a with odd := a.odd ++ [e] } else { a with even := [e], inOdd := false }
  else if a.even.length < ctrSlots then { a with even := a.even ++ [e] } else { a with odd := [e], inOdd := true }

/-- The newest entry whose CRC holds (R443). -/
def CtrArea.newest (a : CtrArea) : Option CtrEntry :=
  ((if a.inOdd then a.even ++ a.odd else a.odd ++ a.even).reverse).find? CtrEntry.good

/-- A counter entry is programmed, or waits for the warn decision to fall (R225). -/
def State.writeCounter (s : State) : State :=
  if s.sbm.warn then { s with evr := { s.evr with ctrDue := true } }
  else
    let e : CtrEntry := { hours := s.evr.hours, pcyc := s.evr.pcyc, next := s.evr.made, crc := 0 }
    { s with evr := { s.evr with ctrDue := false }
             flash := { s.flash with counter := s.flash.counter.put { e with crc := crc32c e.bytes } } }

/-! ### Sag decisions (R223 to R227) -/

/-- SAG_CFG. -/
def State.sagCfg (s : State) : Word := s.prog 0x6000

/-- The last warn sample is present (R224). -/
def State.warnPresent (s : State) : Bool :=
  (!s.sbm.warnPin && flag s.sagCfg 0) || (flag s.sagCfg 1 && decide (field s.sagCfg 13 8 ≤ s.sbm.droop.toNat))

/-- The last critical sample, with the CAUSE that it gives (R214, R224). -/
def State.critPresent (s : State) : Option Nat :=
  if !s.sbm.critPin && flag s.sagCfg 2 then some 1
  else if flag s.sagCfg 3 && decide (field s.sagCfg 21 16 ≤ s.sbm.droop.toNat) then some 2
  else none

/-- PWR_FAIL_N is low while PF_EN is 1 (R214). -/
def State.pfPresent (s : State) : Bool := !s.sbm.pfPin && flag s.sagCfg 4

/-- Core reset is released (row 5 of R394): a critical decision whose samples are gone falls; one that stands, or a
PWR_FAIL_N that is low, raises the new core's strobe (R227). -/
def State.releaseReset (s : State) : State :=
  match s.critPresent with
  | some cause => if s.sbm.crit then s.strobe cause else if s.pfPresent then s.strobe 3 else s
  | none =>
    let s : State := { s with sbm := { s.sbm with crit := false } }
    if s.pfPresent then s.strobe 3 else s

/-! ### The rule table (R390, R391) -/

/-- Entry `w` matches an event of class `cls` on channel or pin `ch` with value `v`. -/
def ruleMatches (w : Word) (cls ch v : Nat) : Bool :=
  let rc := field w 8 4
  let val := field w 16 9
  flag w 0 && field w 3 1 == cls
    && (match cls with
      | 1 => rc % 2 == ch
      | 3 | 4 | 6 => rc == 31 || rc == ch
      | 5 => (rc == 31 || rc == ch) && decide (val ≤ v)
      | 7 => val == v
      | _ => true)

/-- The lowest-numbered enabled rule that matches, with its ACT. -/
def State.ruleHit (s : State) (cls ch v : Nat) : Option (Nat × Nat) :=
  (List.range 32).findSome? fun k =>
    let w := s.prog (0x6200 + 4 * k)
    if ruleMatches w cls ch v then some (k, field w 18 17) else none

/-- THERM_ALARM rises (R391, source 566). -/
def State.alarmOn (s : State) : State :=
  if s.sbm.alarm then s else ({ s with sbm := { s.sbm with alarm := true } }).raiseOn 566

/-- SLUMBER is aborted before its commit window (R387). -/
def State.abortSlumber (s : State) : State :=
  match s.cmp.cur with
  | some u => if u.opc = 0x33 then ({ s with sbm := { s.sbm with eval := false } }).replyCur stAborted 0 [] else s
  | none => s

/-- A wake begins at row 2 (R392, R394, R395). -/
def State.wake (s : State) (rule cls ch : Nat) : State :=
  let c : WakeCause := { s.sbm.wakeCause with wake := true, por := false, rule := rule, cls := cls,
                                              ch := if 3 ≤ cls ∧ cls ≤ 6 then ch else 0,
                                              seq := nextSeq s.sbm.wakeCause.seq }
  { s with phase := .bring 2, sbm := { s.sbm with eval := false, wakeCause := c } }

/-- An event meets the rule table while it is evaluated: the alarm, and the wake by the phase it falls in (R387, R388,
R390). -/
def State.ruleEvent (s : State) (cls ch v : Nat) : State :=
  if !s.sbm.eval then s
  else match s.ruleHit cls ch v with
    | none => s
    | some (k, act) =>
      let s := if 2 ≤ act then s.alarmOn else s
      if act % 2 = 0 then s
      else match s.phase with
        | .on => s.abortSlumber
        | .slumber => s.wake k cls ch
        | _ => s

/-- The level sources are evaluated as the rule table comes into use and in the first SCLK of SLUMBER (R388, R390). Whether a WAKE_N
pin that was low in the commit window still is comes from outside: a free value (log entry 80). -/
def State.levelEvents (s : State) : State :=
  let low := s.sbm.wakeLow &&& Config.pinStill s.freeIx
  let s : State := { s with freeIx := s.freeIx + 1 }
  let s := if low.getLsbD 0 then s.ruleEvent 1 0 0 else s
  let s := if low.getLsbD 1 then s.ruleEvent 1 1 0 else s
  let s := if s.sbm.warn then s.ruleEvent 7 0 0 else s
  if s.sbm.crit then s.ruleEvent 7 0 1 else s

/-! ### Sled power (R371, R372, R380) -/

/-- SVC_CTL.PWR. -/
def State.pwrBit (s : State) (c : ChanId) : Bool := flag (s.prog (svcCtlKey c)) 0

/-- `n` CCLK pass for the sleds whose power is to fall (R350, R371). -/
def State.sledFalls (s : State) (n : Nat) : State :=
  { s with chans := s.chans.each fun k => { k with svc := { k.svc with fall := k.svc.fall - n } } }

/-- Sled power rises on a channel (R371, R372, R381): it is POWERED, and what the last sever left in SVC_STAT clears. -/
def State.powerOn (s : State) (c : ChanId) : State :=
  s.modChan c fun k =>
    { k with
      failed := false, gated := false
      phy := { k.phy with level := if k.phy.started then 1 else 0, drst := false }
      svc := { k.svc with st := 1, pwrOn := true, fall := 0, lost := false, why := 0, abandon := false } }

/-- Sled power falls on a POWERED channel in step 3 of SLUMBER (R371, R372). -/
def State.powerOffPowered (s : State) (c : ChanId) : State :=
  let s := s.modChan c fun k =>
    { k with
      phy := { k.phy with started := false, lock := false, cal := false, trained := false, level := 3, drst := false }
      i3c := [], forceOff := true, schOn := false, tideValid := false
      svc := { k.svc with st := 0, pwrOn := false, fall := fallTime } }
  let w := s.prog (svcCtlKey c)
  s.leds c (field w 2 1) (field w 4 3) true

/-- The SBM drops a sled's power while the core is in reset or without supply (R369, R380). -/
def State.sbmSever (s : State) (c : ChanId) : State :=
  let s := s.modChan c fun k =>
    { k with phy := { k.phy with level := 3, drst := false }, svc := { k.svc with st := 5, pwrOn := false, fall := fallTime, why := 1 } }
  s.leds c 0 0 true

/-! ### Entering IDLE and SLUMBER (R383, R387) -/

/-- The channel's gate tide is fixed and its entry to IDLE begins (R375, R383). -/
def State.beginIdle (s : State) (c : ChanId) : State :=
  let g := s.tide + 1024
  s.modChan c fun k => { k with pwrst := 1, gate := some g }

/-- Step 3 of SLUMBER: every IN_SERVICE channel enters IDLE, every POWERED channel loses sled power. -/
def State.slumberChans (s : State) : State :=
  allChans.foldl (fun (s : State) (c : ChanId) =>
    let k := s.chan c
    if k.svc.st = 1 then s.powerOffPowered c
    else if k.svc.st = 2 ∧ k.pwrst = 0 then s.beginIdle c
    else s) s

/-- Every channel in service is in IDLE, and every I3C bus is idle for the SBM to take, so that step 5 of SLUMBER follows (R353,
R387). -/
def State.allIdle (s : State) : Bool :=
  allChans.all fun c => ((s.chan c).svc.st != 2 || (s.chan c).pwrst == 2) && (s.chan c).i3c.isEmpty

/-- SLUMBER goes on as far as it can (R387): step 3 after the recorder buffer is programmed, for each channel as soon as it runs, the
commit window after every channel is in IDLE and every bus idle. DESIGN CHOICE: from there nothing aborts it, and it replies OK (R411,
R414; log entry 80). -/
def State.slumberStep (s : State) : State :=
  match s.cmp.cur with
  | none => s
  | some u =>
    if u.opc ≠ 0x33 ∨ s.phase ≠ .on then s
    else
      let s :=
        if !u.begun && s.evr.buf.isEmpty && !s.sbm.warn then
          let s := s.writeCounter
          { s with cmp := { s.cmp with cur := some { u with begun := true } } }
        else s
      match s.cmp.cur with
      | some v =>
        if v.begun then
          let s := s.slumberChans
          if s.allIdle then ({ s with phase := .commit }).replyCur stOk 0 [] else s
        else s
      | none => s

end Sys2Proof.Machine
end

