-- ==== Sys2Proof/Machine/MaintWork.lean ====
section
/-! DEFINITION. The work of the weir's requesters (R310): scrub (R313 to R317), patch copies (R322, R323), PPR (R329),
rebuild (R338), mode-register and PMIC accesses, raw accesses (R290). -/

namespace Sys2Proof.Machine

/-- What a maintenance read brings back: a decoded line with the decoder's outcome, the poison signature, or nothing. -/
inductive Got where
  | data (d : Line) (out : Decoded)
  | poison
  | bad
  deriving DecidableEq, Repr

def State.modScrub (s : State) (c : ChanId) (f : Scrub → Scrub) : State := s.modChan c fun k => { k with scrub := f k.scrub }
def State.modPpr (s : State) (c : ChanId) (f : Ppr → Ppr) : State := s.modChan c fun k => { k with ppr := f k.ppr }
def State.modPatch (s : State) (c : ChanId) (f : Patch → Patch) : State := s.modChan c fun k => { k with patch := f k.patch }
def State.modReb (s : State) (m : SetId) (f : Rebuild → Rebuild) : State := s.modSpan m fun sp => { sp with reb := f sp.reb }

/-- PROG in units of 1/1,024 (R416). -/
def progress (done total : Nat) : Nat := if total = 0 then 1024 else min 1024 (done * 1024 / total)

/-- The running job of an opcode on a target reports its progress. -/
def State.jobProg (s : State) (opc t prog : Nat) : State :=
  s.modJobs fun b => if b.runs opc ∧ b.target = t then { b with prog := prog } else b

/-- VERIFY of LADDER_CTL. -/
def State.verifyOn (s : State) : Bool := flag s.ladderCtl 3

/-! ### Scrub (R313 to R317) -/

/-- The pass is complete (R318). -/
def State.endScrub (s : State) (c : ChanId) : State :=
  (s.modScrub c fun x => { x with st := 2, stage := .idle }).finishJob 0x20 c.val 0

/-- The line in hand is done: the next one follows, or the suspect list's. -/
def State.endLine (s : State) (c : ChanId) : State :=
  let s := s.modScrub c fun x =>
    if x.fromList then { x with stage := .idle, suspect := x.suspect.filter (· != x.cur) }
    else { x with stage := .idle, next := x.cur + 1 }
  let x := (s.chan c).scrub
  let s := s.jobProg 0x20 c.val (progress (x.next - x.first) (x.stop - x.first))
  if x.st = 1 ∧ x.stop ≤ x.next then s.endScrub c else s

/-- A scrub read begins, ordered like a host read (R314). -/
def State.beginLine (s : State) (c : ChanId) (line : Nat) (fromList : Bool) : State :=
  let s := s.modScrub c fun x =>
    { x with stage := .reading, cur := line, fromList := fromList, dev := 0, stale := false, rebuilt := false,
             proved := false }
  s.ownRead c .scrub line false

/-- A line of a rank under PPR waits at the checkpoint: the grant is released and asked for again (R340). -/
def State.waitLock (s : State) (c : ChanId) (r : Fin 10) : State := (s.release c).lose c r

/-- The next line of the pass, or the granule or line that it skips (R313, R314). -/
def State.nextLine (s : State) (c : ChanId) : State :=
  let x := (s.chan c).scrub
  let s := s.lookFresh c x.next
  if x.stop ≤ x.next then s.endScrub c
  else if s.granAt c x.next ≠ .written then
    s.modScrub c fun x =>
      { x with fresh := satAdd 65535 x.fresh 1, next := min x.stop ((granOf x.next + 1) * granLines) }
  else if s.spanMode (setOf c) && s.lineLost (setOf c) (posOf c) x.next then
    s.modScrub c fun x => { x with next := x.next + 1 }
  else if s.pprLocked c x.next then s.waitLock c 9
  else
    let w := ((s.chan c).sel.at 0).dclk / 1024
    let used := if x.win = w then x.used else 0
    if used < max 1 x.rate then
      (s.modScrub c fun x => { x with win := w, used := used + 1 }).beginLine c x.next false
    else s

/-- The scrub requester starts a unit: the suspect list first. A line whose write-back a newer write has made needless is done with
(R315). -/
def State.startScrub (s : State) (c : ChanId) : State :=
  if (s.chan c).scrub.stage = .dropped then s.endLine c
  else match (s.chan c).scrub.suspect with
  | line :: rest =>
    let s := s.lookFresh c line
    if s.granAt c line ≠ .written || (s.spanMode (setOf c) && s.lineLost (setOf c) (posOf c) line) then
      s.modScrub c fun x => { x with suspect := rest }
    else if s.pprLocked c line then s.waitLock c 9
    else s.beginLine c line true
  | [] => if (s.chan c).scrub.st = 1 then s.nextLine c else s

/-- A counter of SCRUB_CE (R318). -/
def devIx (x : Sub) (d : Nat) : Fin 20 := ⟨(10 * x.val + d) % 20, Nat.mod_lt _ (by decide)⟩

/-- A corrected line is written back unless a newer write was accepted (R315). -/
def State.scrubBack (s : State) (c : ChanId) (d : Line) : State :=
  if (s.chan c).scrub.stale then s.endLine c
  else
    let line := (s.chan c).scrub.cur
    (s.writeBack c .scrubWb line d .code .bulk).modScrub c fun x => { x with stage := .writing }

/-- The line cannot be had (R316): it takes the poison signature, and its page is retired. -/
def State.scrubPoison (s : State) (c : ChanId) : State :=
  let x := (s.chan c).scrub
  let s := if x.stale then s else s.writeBack c .writeBack x.cur poisonLine .poison .bulk
  let s := (s.note 5 (c.val + 2 ^ 8 + detailLine x.cur 2)).raiseChan c 8
  ((s.retireLine c x.cur 1).ladder c x.cur none true false x.proved).endLine c

/-- The line stays uncorrectable (R316): a span set reconstructs it first. -/
def State.scrubBad (s : State) (c : ChanId) : State :=
  let line := (s.chan c).scrub.cur
  if s.spanMode (setOf c) && !s.offline (setOf c) then
    (s.modScrub c fun x => { x with stage := .recon }).startRecon c line .scrub .bulk
  else s.scrubPoison c

/-- A scrub read comes back (R314). -/
def State.scrubGot (s : State) (c : ChanId) (line : Nat) (g : Got) : State :=
  let x := (s.chan c).scrub
  if x.stage ≠ .reading ∨ x.cur ≠ line then s
  else
    let sub := ((s.geom c).place line).sub
    let s := s.modScrub c fun x => { x with lines := x.lines + 1 }
    match g with
    | .data _ .clean => s.endLine c
    | .data d (.corrected dev) =>
      (s.modScrub c fun x =>
        { x with ce := x.ce.put (devIx sub dev) (satAdd 65535 (x.ce.at (devIx sub dev)) 1), dev := dev }).scrubBack c d
    | .data d _ => (s.modScrub c fun x => { x with ers := satAdd 65535 x.ers 1 }).scrubBack c d
    | .poison => (s.modScrub c fun x => { x with psn := satAdd 255 x.psn 1 }).endLine c
    | .bad => (s.modScrub c fun x => { x with ue := satAdd 255 x.ue 1 }).scrubBad c

/-- A verify read comes back (R315): what is not clean is hard. DESIGN CHOICE: a line that has been reconstructed already is
not reconstructed again (log entry 63). -/
def State.verifyGot (s : State) (c : ChanId) (line : Nat) (g : Got) : State :=
  let x := (s.chan c).scrub
  if x.stage ≠ .verifying ∨ x.cur ≠ line then s
  else
    let hard := fun (s : State) => s.modScrub c fun x => { x with hard := satAdd 255 x.hard 1, proved := true }
    match g with
    | .data _ .clean => s.endLine c
    | .poison => s.endLine c
    | .data _ (.corrected dev) => ((hard s).ladder c line (some dev) false false true).endLine c
    | .data _ _ => ((hard s).ladder c line none false false true).endLine c
    | .bad => if x.rebuilt then ((hard s).ladder c line none true true true).endLine c else (hard s).scrubBad c

/-- A scrub write-back is acknowledged: the verify read follows when VERIFY is set (R315). -/
def State.scrubAcked (s : State) (c : ChanId) : State :=
  let x := (s.chan c).scrub
  if x.stage ≠ .writing then s
  else if s.verifyOn then
    (s.modScrub c fun x => { x with stage := .verifying }).ownRead c .verify x.cur false
  else s.endLine c

/-- The scrubber's reconstruction is complete (R316). -/
def State.scrubRecon (s : State) (r : Recon) : State :=
  let x := (s.chan r.ch).scrub
  if x.stage ≠ .recon ∨ x.cur ≠ r.line then s
  else match s.reconLine r with
    | some d =>
      let s := s.modScrub r.ch fun x =>
        { x with recon := satAdd 255 x.recon 1, stale := x.stale || r.stale, rebuilt := true }
      ((s.markRecon r).ladder r.ch r.line none true true true).scrubBack r.ch d
    | none => s.scrubPoison r.ch

/-! ### Patch migration (R322, R323) -/

/-- The copy's write to the spare, or its poison signature. -/
def State.patchCopy (s : State) (c : ChanId) (d : Option Line) : State :=
  match (s.chan c).patch.inst with
  | some (i, 3) =>
    s.withEntry c i fun s e =>
      let spare := (s.geom c).spareLine e.spare
      (s.writeBack c .patchWrite spare (d.getD poisonLine) (if d.isSome then .code else .poison) .bulk).modPatch c fun p =>
        { p with inst := some (i, 4) }
  | _ => s

/-- The spare is found bad (R323): it is marked, and the next one is tried. -/
def State.badSpare (s : State) (c : ChanId) (i : Nat) : State :=
  s.withEntry c i fun s e =>
    let s := (s.modPatch c fun p => { p with badSp := p.badSp ++ [e.spare], inst := none }).modChan c fun k => k.setPatch i {}
    let s := s.beginPatch c e.line
    if (s.chan c).patch.inst.isNone then s.askKs c .free else s

/-- The line of a repaired row has been read again: it is installed if it is still hard (R340). -/
def State.checked (s : State) (c : ChanId) (line : Nat) (g : Got) : State :=
  let s := s.leaveWait c line
  match g with
  | .data _ .clean => s.finishInstall c line 0
  | _ => s.beginPatch c line

/-- A patch read comes back: a check of R340, the home line's copy, or the spare's verify read. DEDUCED: a spare that verifies as
poison is good, for a line that does not decode is copied as poison (R322 step 3, R323; log entry 79). -/
def State.patchGot (s : State) (c : ChanId) (g : Got) : State :=
  match (s.chan c).patch.inst with
  | none => (match (s.chan c).patch.check with | some line => s.checked c line g | none => s)
  | some (i, 3) =>
    s.withEntry c i fun s e =>
      match g with
      | .data d _ => s.patchCopy c (some d)
      | .poison => s.patchCopy c none
      | .bad =>
        if s.spanMode (setOf c) && !s.offline (setOf c) then s.startRecon c e.line .patch .bulk else s.patchCopy c none
  | some (i, 5) =>
    (match g with
      | .data _ .clean | .poison => (s.modPatch c fun p => { p with inst := some (i, 6) }).askKs c .patch
      | _ => s.badSpare c i)
  | _ => s

/-- The spare's write is acknowledged: DUAL, and the held accesses go on (R322 step 5). -/
def State.patchAcked (s : State) (c : ChanId) : State :=
  match (s.chan c).patch.inst with
  | some (i, 4) =>
    s.withEntry c i fun s e =>
      let s := (s.modChan c fun k => k.setPatch i { e with st := 2 }).releaseHeld c e.line
      if s.verifyOn then s.modPatch c fun p => { p with inst := some (i, 5) }
      else (s.modPatch c fun p => { p with inst := some (i, 6) }).askKs c .patch
  | _ => s

/-- The installation goes on in a granted slot: it begins, reads the home line or the spare, or ends with ACTIVE (R17,
R322). -/
def State.startPatch (s : State) (c : ChanId) : State :=
  match (s.chan c).patch.inst with
  | some (i, 3) =>
    s.withEntry c i fun s e => (s.releaseFor c e.line).ownRead c .patchRead e.line true
  | some (i, 5) => s.withEntry c i fun s e => s.ownRead c .patchRead ((s.geom c).spareLine e.spare) true
  | some (i, 7) =>
    s.withEntry c i fun s e =>
      let s := s.modChan c fun k => k.setPatch i { e with st := 3 }
      (s.modPatch c fun p => { p with inst := none }).finishInstall c e.line 0
  | some _ => s
  | none =>
    match s.nextPatch c with
    | some line =>
      if (s.chan c).patch.recheck.contains line then
        (s.modPatch c fun p => { p with check := some line }).ownRead c .patchRead line false
      else (s.leaveWait c line).beginPatch c line
    | none => s

/-! ### PPR (R329) -/

/-- The JEDEC guard-key sequence (PRESUMED, log entry 18): repair mode in MR23, then the four keys in MR24. -/
def guardKeys (hard : Bool) : List (Nat × Nat) :=
  [(23, if hard then 1 else 2), (24, 0xCF), (24, 0x73), (24, 0xBB), (24, 0x3B)]

/-- Commands of the holder's own on a rank. -/
def mrwCmds (cs : Nat) (l : List (Nat × Nat)) : List Cmd :=
  l.map fun m => { kind := .mrw, bank := ⟨cs, 0, 0, 0⟩, use := .holder, mr := m.1, val := m.2 }

def State.setHold (s : State) (c : ChanId) (x : Sub) (l : List Cmd) : State :=
  s.modSel c x fun q => { q with hold := l, holdSince := q.dclk, holdAged := false }

/-- A mode-register read: its command, and the queue entry that its capture comes back to. -/
def State.placeMrr (s : State) (c : ChanId) (x : Sub) (b : Bank) (mr line : Nat) : State :=
  let id := s.nextId
  let s := s.setHold c x [{ kind := .mrr, bank := b, use := .holder, mr := mr, ent := id }]
  (s.modChan c fun k =>
    { k with rq := k.rq ++ [{ id := id, purp := .mrr, home := line, loc := line, cls := .bulk, held := true }] }).stamp

/-- Staging line of column line `j` (R320). -/
def Geom.stagingLine (g : Geom) (x : Sub) (j : Nat) : Nat := g.spareLine (1024 + 2 * j + x.val)

/-- The next step of the sequence begins after a copying step's last line (R329 steps 4 and 8). -/
def State.afterCopies (s : State) (c : ChanId) : State :=
  let p := (s.chan c).ppr
  if p.step = 3 then s.modPpr c fun q => { q with step := 4, sent := false, pos := 0 }
  else
    let s := s.modChan c fun k =>
      { k with
        ppr := { k.ppr with step := 8, lock := false, pos := 0 }
        patch := { k.patch with
          staged := none, pprBegin := none
          soft := if p.hard || p.unstage || k.patch.soft.contains p.row || decide (8 ≤ k.patch.soft.length) then k.patch.soft
                  else k.patch.soft ++ [p.row] } }
    if p.restore then s.endPpr c else s.askKs c .pprEnd

/-- A line of a copying step is done with. -/
def State.copyOver (s : State) (c : ChanId) : State :=
  let s := s.modPpr c fun q => { q with line := none, pos := q.pos + 1 }
  if 128 ≤ (s.chan c).ppr.pos then s.afterCopies c else s

/-- A copy of the sequence is complete (R329 steps 3 and 7): the redirection begins or ends, an entry is freed. -/
def State.copyDone (s : State) (c : ChanId) : State :=
  let k := s.chan c
  match k.ppr.line with
  | none => s
  | some line =>
    let g := s.geom c
    let stage := g.stagingLine (g.place k.ppr.row).sub k.ppr.pos
    let others := k.patch.redir.filter fun r => r.1 != line
    let s := s.modChan c fun k =>
      { k with
        patch := { k.patch with redir := if k.ppr.step = 3 then others ++ [(line, stage)] else others } }
    let s := if k.ppr.step = 3 then s
      else (s.readPatch c line).modChan c fun k => k.setLine line fun e => if e.st = 4 then {} else e
    let s := s.releaseHeld c line
    (s.jobProg 0x22 c.val (progress (s.chan c).ppr.step 8)).copyOver c

/-- The next column line of a copying step (R329 steps 3 and 7); one that the step has copied already is passed over, when
the step starts again (R310). -/
def State.startCopy (s : State) (c : ChanId) : State :=
  let k := s.chan c
  let g := s.geom c
  let line := g.rowLine k.ppr.row k.ppr.pos
  let back := k.ppr.step == 7
  if (k.patch.redir.any fun r => r.1 == line) != back then s.copyOver c
  else
    let stage := g.stagingLine (g.place k.ppr.row).sub k.ppr.pos
    let s := s.readPatch c line
    let from_ := match k.patchOf line with
      | some e => if e.st = 3 ∨ e.st = 4 then g.spareLine e.spare else if back then stage else line
      | none => if back then stage else line
    let s := s.releaseFor c line
    let now := s.nextId
    let s := s.modChan c fun k =>
      let k := { k with ppr := { k.ppr with line := some line, copyAt := now, stale := false } }
      if back then k.setLine line fun e => { e with st := 4 } else k
    s.ownRead c .pprRead from_ true

/-- A step of the sequence that needs the channel begins, or its next unit does. -/
def State.startPpr (s : State) (c : ChanId) : State :=
  let k := s.chan c
  let p := k.ppr
  let g := s.geom c
  let pl := g.place p.row
  let rank : Bank := ⟨pl.bank.cs, 0, 0, 0⟩
  let sent := fun (s : State) => s.modPpr c fun q => { q with sent := true }
  match p.step with
  | 1 => if p.sent then s else sent (s.placeMrr c pl.sub { pl.bank with bg := 0, ba := 0 } 54 p.row)
  | 3 | 7 => s.startCopy c
  | 4 =>
    if p.sent then s.modPpr c fun q => { q with step := 5, sent := false, pos := 0 }
    else sent (s.setHold c pl.sub ({ kind := .preab, bank := rank, use := .holder } :: mrwCmds pl.bank.cs (guardKeys p.hard)))
  | 5 =>
    if p.pos = 0 then
      if p.sent then s.modPpr c fun q => { q with prog := true }
      else sent (s.setHold c pl.sub [{ kind := .act, bank := pl.bank, row := pl.row, use := .holder }])
    else s.modPpr c fun q => { q with step := 6, sent := false, pos := 0 }
  | 6 =>
    let line := g.rowLine p.row (p.pos % 128)
    if p.pos < 128 then
      s.writeBack c .pprWrite line (Config.pprPattern p.pos) .code .bulk
    else s.ownRead c .pprRead line true
  | _ => s

/-- A read of the sequence comes back (R329 steps 3, 6 and 7). -/
def State.pprGot (s : State) (c : ChanId) (g : Got) : State :=
  let k := s.chan c
  let gm := s.geom c
  if k.ppr.step = 6 then
    let ok := match g with | .data d _ => decide (d = Config.pprPattern (k.ppr.pos - 128)) | _ => false
    if !ok then (s.failPpr c 2 s.openErr).useFree
    else
      let s := s.modPpr c fun q => { q with pos := q.pos + 1 }
      if 256 ≤ (s.chan c).ppr.pos then s.modPpr c fun q => { q with step := 7, pos := 0 } else s
  else match k.ppr.line with
    | none => s
    | some line =>
      let patched := (k.patchOf line).isSome
      if k.ppr.step = 7 && patched && k.ppr.stale then s.copyDone c
      else
        let dst := if k.ppr.step = 3 then gm.stagingLine (gm.place k.ppr.row).sub k.ppr.pos else line
        let d := match g with | .data d _ => some d | _ => none
        s.writeBack c .pprWrite dst (d.getD poisonLine) (if d.isSome then .code else .poison) .bulk

/-- A write of the sequence is acknowledged. -/
def State.pprAcked (s : State) (c : ChanId) : State :=
  if (s.chan c).ppr.step = 6 then s.modPpr c fun q => { q with pos := q.pos + 1 } else s.copyDone c

/-- The repair-resource read of step 1 comes back: without a resource the command fails. A staged row goes on at step 4,
and a restore skips the keepsake program (R329, R414). -/
def State.pprResource (s : State) (c : ChanId) (raw : Stored) : State :=
  let k := s.chan c
  if !Config.pprResource raw then s.failPpr c 1 21
  else if k.patch.staged = some k.ppr.row then s.modPpr c fun q => { q with step := 4, sent := false, lock := true, pos := 0 }
  else
    let s := s.modChan c fun k =>
      { k with
        ppr := { k.ppr with step := if k.ppr.restore then 3 else 2, sent := false, lock := true, pos := 0 }
        patch := { k.patch with staged := some k.ppr.row
                                pprBegin := if k.ppr.restore then k.patch.pprBegin else some (k.ppr.row, k.ppr.hard) } }
    if k.ppr.restore then s else s.askKs c .pprBegin

/-! ### Rebuild (R338, R339) -/

/-- Mapped stripes of a set. -/
def State.mappedStripes (s : State) (m : SetId) : Nat := s.setReserved m

/-- Tally lines of a set that lie on position `j` (R228). -/
def State.tallyLines (s : State) (m : SetId) (j : Nat) : Nat :=
  let pages := (s.mappedStripes m + 15) / 16
  let t := (pages + 511) / 512
  (t + 4 - j) / 5

/-- Hole-list lines that lie on position `j` (R337). -/
def Span.holeLines (sp : Span) (j : Nat) : Nat := ((sp.holes.length + 15) / 16 + 4 - j) / 5

/-- Line `i` of those that step 1 of R338 writes as zero: the primary tally share, the hole-list lines, the clean mark. -/
def State.zeroedLine (s : State) (m : SetId) (i : Nat) : Nat :=
  let sp := s.span m
  let g := s.geom (chanOf m sp.pos)
  let t := s.tallyLines m sp.pos
  let h := sp.holeLines sp.pos
  if i < t then g.reserved + 2 ^ 14 + i
  else if i < t + h then g.reserved + 2 ^ 20 + (i - t)
  else g.markLine

def State.zeroedCount (s : State) (m : SetId) : Nat :=
  s.tallyLines m (s.span m).pos + (s.span m).holeLines (s.span m).pos + 1

/-- The set's next state waits for the grant at the position rebuilt to complete (R17). -/
def State.turnSet (s : State) (m : SetId) (turn : Nat) : State := s.modReb m fun r => { r with turn := turn }

/-- A rebuild write is acknowledged. -/
def State.rebuildAcked (s : State) (m : SetId) : State :=
  let r := (s.span m).reb
  if !r.on then s
  else
    let s := s.modReb m fun r => { r with cur := r.cur + 1, begun := false, wait := 0, failed := false, acc := 0 }
    if r.walking then
      let s := s.jobProg 0x28 m.val (progress (r.cur + 1) (s.mappedStripes m))
      if s.mappedStripes m ≤ r.cur + 1 then s.turnSet m 2 else s
    else if s.zeroedCount m ≤ r.cur + 1 then s.turnSet m 1 else s

/-- The stripe at the cursor is a hole whose line on position j holds data. -/
def State.holeStripe (s : State) (m : SetId) : Bool :=
  let sp := s.span m
  sp.holes.contains (stripePage sp.reb.cur) && parPos sp.reb.cur != sp.pos

/-- Position j's line of the stripe at the cursor is written (R338). -/
def State.writeStripe (s : State) (m : SetId) : State :=
  let sp := s.span m
  let c := chanOf m sp.pos
  let bad := sp.reb.failed || s.holeStripe m || (sp.reb.acc == poisonLine)
  let s := s.writeBack c .rebuildWrite sp.reb.cur (if bad then poisonLine else sp.reb.acc) (if bad then .poison else .code) .bulk
  if bad then
    (s.note 5 (c.val + 3 * 2 ^ 8 + detailLine sp.reb.cur 2)).retirePage (pageOf m (stripePage sp.reb.cur)) c 3
  else s

/-- A stripe of the walk begins: its contributors are read, each under its own channel's grant. -/
def State.beginStripe (s : State) (m : SetId) : State :=
  let sp := s.span m
  let st := sp.reb.cur
  let c := chanOf m sp.pos
  let s := s.lookFresh c st
  if s.mappedStripes m ≤ st then s.turnSet m 2
  else if s.granAt c st = .fresh then
    let next := min (s.mappedStripes m) ((granOf st + 1) * granLines)
    let s := s.modReb m fun r => { r with cur := next }
    if s.mappedStripes m ≤ next then s.turnSet m 2 else s
  else if (setChans m).any fun d => s.pprLocked d st then s
  else
    let s := s.releaseStripe m st
    let s := s.lookStripe m st
    let need := if s.holeStripe m then [] else
      ((setChans m).filter (· != c)).filter fun d => s.granAt d st != .fresh
    let now := s.nextId
    let s := s.modReb m fun r => { r with begun := true, wait := need.length, acc := 0, failed := false, stamp := now }
    need.foldl (fun (s : State) (d : ChanId) => s.ownRead d .rebuildRead st false) s

/-- A contributor of the stripe at the cursor comes back. -/
def State.rebuildGot (s : State) (m : SetId) (g : Got) : State :=
  s.modReb m fun r =>
    if !r.begun ∨ r.wait = 0 then r
    else match g with
      | .data d _ => { r with wait := r.wait - 1, acc := r.acc ^^^ d }
      | _ => { r with wait := r.wait - 1, failed := true }

/-- The rebuild requester of a channel goes on. -/
def State.startRebuild (s : State) (c : ChanId) : State :=
  let m := setOf c
  let sp := s.span m
  let tgt := chanOf m sp.pos
  if !sp.reb.on || sp.reb.turn != 0 then s
  else if !sp.reb.walking then
    if c = tgt && !sp.reb.begun then
      let line := s.zeroedLine m sp.reb.cur
      (s.writeBack c .rebuildWrite line 0 .code .bulk).modReb m fun r => { r with begun := true }
    else s
  else if !sp.reb.begun then
    if (setChans m).any fun d => s.pprLocked d sp.reb.cur then s.waitLock c 4 else s.beginStripe m
  else if sp.reb.wait = 0 && c = tgt && !(((s.chan c).wq ++ (s.chan c).backs).any fun w => w.purp == .rebuildWrite) then s.writeStripe m
  else s

/-! ### Mode-register, PMIC and raw accesses -/

/-- A mode-register access goes to the rank that a PPR locks (R340). -/
def State.mrLocked (s : State) (c : ChanId) (u : Cur) : Bool :=
  let k := s.chan c
  let pl := (s.geom c).place k.ppr.row
  let p0 := u.params.getD 0 0
  k.ppr.lock
    && (if u.opc = 0x16 then (flag p0 8 == (pl.sub == 1)) && field p0 10 9 == pl.bank.cs
        else flag p0 (8 + pl.sub.val) && field p0 11 10 == pl.bank.cs)

/-- A mode-register access of the command being carried out begins (R142, R414). -/
def State.startMr (s : State) (c : ChanId) : State :=
  match s.cmp.cur with
  | none => s
  | some u =>
    if u.ch ≠ c ∨ u.begun then s
    else if s.mrLocked c u then s.waitLock c 6
    else
      let p0 := u.params.getD 0 0
      let mr := field (u.params.getD 1 0) 7 0
      let s : State := { s with cmp := { s.cmp with cur := some { u with begun := true } } }
      if u.opc = 0x16 then
        let b : Bank := ⟨field p0 10 9, field p0 13 11, 0, 0⟩
        let x : Sub := if flag p0 8 then 1 else 0
        s.placeMrr c x b mr x.val
      else if u.opc = 0x17 then
        let m : Cmd := { kind := .mrw, bank := ⟨field p0 11 10, field p0 14 12, 0, 0⟩, use := .holder, mr := mr,
                         val := field (u.params.getD 2 0) 7 0 }
        let s := if flag p0 8 && !u.mrDone.getLsbD 0 then s.setHold c 0 [m] else s
        if flag p0 9 && !u.mrDone.getLsbD 1 then s.setHold c 1 [m] else s
      else s

/-- The bytes of a PMIC voltage write (log entry 19): the rail, then the voltage in mV, low byte first. -/
def pmicBytes (p1 : Word) : List Byte := bytesOfNat (field p1 1 0) 1 ++ bytesOfNat (field p1 15 2) 2

/-- The PMIC write of PMIC_SET is sent on the channel's I3C bus; it waits while the warn decision stands (R225). -/
def State.startPmic (s : State) (c : ChanId) : State :=
  match s.cmp.cur with
  | none => s
  | some u =>
    if u.opc ≠ 0x14 ∨ u.ch ≠ c ∨ u.begun ∨ s.sbm.warn then s
    else if (s.chan c).ppr.lock then s.waitLock c 7
    else
      let p0 := u.params.getD 0 0
      let x : Xfer := { slot := field p0 8 8, target := 3, data := pmicBytes (u.params.getD 1 0), use := .pmicSet }
      let s : State := { s with cmp := { s.cmp with cur := some { u with begun := true } } }
      s.askXfers c [x]

/-- The 80 buffer bytes apart: data and stored check symbols (R289). -/
def rawData (w : Stored) : Line := BitVec.ofNat 512 (w.toNat % 2 ^ 512)
def rawCheck (w : Stored) : BitVec 128 := BitVec.ofNat 128 (w.toNat / 2 ^ 512)

/-- A raw access enters its queue (R290). -/
def State.startRaw (s : State) (c : ChanId) : State :=
  let k := s.chan c
  if !k.inj.busy || k.inj.sent then s
  else
    let s := s.modChan c fun k => { k with inj := { k.inj with sent := true } }
    if k.inj.op = 2 then
      s.writeBack c .rawWrite k.inj.line (rawData k.inj.buf) (.raw (rawCheck k.inj.buf)) .bulk
    else s.ownRead c .rawRead k.inj.line false

/-! ### The holder's work -/

/-- The first granule of CHn that is fresh and does not wash. -/
def State.nextFresh (s : State) (c : ChanId) : Option Nat :=
  let lo := c.val * 2 ^ 18
  let held := (s.chan c).wash.map (·.gran)
  let rec go (n : Nat) (x : Nat) : Option Nat :=
    match n with
    | 0 => none
    | n + 1 =>
      match s.fresh.bits.next x with
      | none => none
      | some g => if lo + 2 ^ 18 ≤ g || !(s.geom c).freshable (g - lo) then none else if held.contains (g - lo) then go n (g + 1) else some (g - lo)
  go 5 lo

/-- WASH_CTL.EN. -/
def State.washOn (s : State) (c : ChanId) : Bool := flag (s.agent c 0x088) 0

/-- A requester has work (R304). -/
def State.hasWork (s : State) (c : ChanId) (r : Nat) : Bool :=
  let k := s.chan c
  match r with
  | 0 => k.inj.busy
  | 3 => [1, 3, 4, 5, 6, 7].contains k.ppr.step
  | 4 =>
    let sp := s.span (setOf c)
    (s.spanMode (setOf c) && sp.reb.on && (sp.reb.turn == 0 || chanOf (setOf c) sp.pos == c)) || !k.ladder.carried.isEmpty
  | 5 => match k.patch.inst with
    | some (_, i) => i != 6
    | none => k.patch.check.isSome || (s.nextPatch c).isSome
  | 6 => match s.cmp.cur with
    | some u => (u.opc == 0x16 || u.opc == 0x17) && u.ch == c
    | none => false
  | 7 => match s.cmp.cur with
    | some u => u.opc == 0x14 && u.ch == c
    | none => false
  | 8 => (k.wash.any fun g => g.done == granLines || (g.bg && s.washOn c))
      || (s.washOn c && decide (k.washing < 4) && (s.nextFresh c).isSome)
  | 9 => !k.scrub.suspect.isEmpty || k.scrub.st == 1 || k.scrub.stage == .dropped
  | _ => false

/-- Work that a grant does not carry out as it completes (R17): what keeps the holder from releasing (R307). -/
def State.moreWork (s : State) (c : ChanId) (r : Nat) : Bool :=
  let k := s.chan c
  match r with
  | 4 => s.spanMode (setOf c) && (s.span (setOf c)).reb.on && (s.span (setOf c)).reb.turn == 0
  | 8 => s.washOn c && ((k.wash.any fun g => g.bg && g.done != granLines) || (decide (k.washing < 4) && (s.nextFresh c).isSome))
  | _ => s.hasWork c r

/-- A requester asks for the grant, unless it has no work, holds it, or waits out a back-off (R305, R306). -/
def State.ask (s : State) (c : ChanId) (r : Fin 10) : State :=
  let w := (s.chan c).weir
  if s.hasWork c r.val && w.holder != some r.val && !w.want.at r then s.request c r else s

/-- Part of the holder's unit is under way: an access, a command, a settling time (R310). -/
def State.partBusy (s : State) (c : ChanId) (r : Nat) : Bool :=
  let k := s.chan c
  let mine := fun (p : Purp) => p.requester == some r || (r == 3 && p == .mrr)
  (k.rq.any fun e => mine e.purp) || (k.wq.any fun w => mine w.purp) || (k.backs.any fun w => mine w.purp)
    || (k.fetches.any fun f => mine f.purp)
    || (match r with
      | 3 => k.ppr.prog || k.ppr.line.isSome || (k.sel.toList.any fun l => !l.hold.isEmpty || l.plan.any fun p => p.use == .pprEnd)
      | 4 => (s.span (setOf c)).reb.begun
      | 5 => s.recons.any fun q => q.ch == c && q.use == .patch
      | 6 => k.sel.toList.any fun l => !l.hold.isEmpty || l.ox.any fun o => o.cmd.use == .holder && !o.acked
      | 7 => k.settling || k.i3c.any fun x => x.use == .pmicSet
      | 8 => k.wash.any fun g => g.bg && g.inQ
      | 9 => k.scrub.stage != .idle && k.scrub.stage != .dropped
      | 2 => k.sel.toList.any fun l => l.pauseOpen
      | _ => false)

/-- The holder's unit is under way: no checkpoint (R310). A step of the PPR sequence is one unit. -/
def State.unitBusy (s : State) (c : ChanId) (r : Nat) : Bool :=
  let p := (s.chan c).ppr
  s.partBusy c r || (r == 3 && (p.sent || decide (0 < p.pos)) && p.step != 2 && p.step != 8)

/-- A mode-register write of the command being carried out is complete once every command of it is acknowledged. -/
def State.endMr (s : State) (c : ChanId) : State :=
  match s.cmp.cur with
  | none => s
  | some u =>
    if u.opc = 0x17 && u.ch = c && u.begun && !s.unitBusy c 6 then s.replyCur stOk 0 [] else s

/-- The holder starts its next unit, unless its quantum is over or it is suspended. -/
def State.feedHolder (s : State) (c : ChanId) : State :=
  let k := s.chan c
  match k.weir.holder with
  | none => s
  | some r =>
    if k.weir.susp || s.pers.strobe then s
    else if r = 4 then (if k.weir.quantumOver && !(s.span (setOf c)).reb.begun then s else s.startRebuild c)
    else if s.partBusy c r || (k.weir.quantumOver && !s.unitBusy c r) then s
    else match r with
      | 0 => s.startRaw c
      | 3 => s.startPpr c
      | 5 => s.startPatch c
      | 6 => (s.startMr c).endMr c
      | 7 => s.startPmic c
      | 9 => s.startScrub c
      | _ => s

/-- Reconstructions for the scrubber and for patch copies are handed over. -/
def State.finishMaint (s : State) : State :=
  s.recons.foldl (fun (s : State) (r : Recon) =>
    if r.wait ≠ 0 then s
    else match r.use with
      | .scrub => ({ s with recons := s.recons.filter fun q => q.id != r.id }).scrubRecon r
      | .patch =>
        let s : State := { s with recons := s.recons.filter fun q => q.id != r.id }
        let s := if (s.reconLine r).isSome then s.markRecon r else s
        s.patchCopy r.ch (s.reconLine r)
      | _ => s) s

/-! ### Keepsake programs (R326) -/

/-- What waited on a program goes on, or is left where it stands when it failed. -/
def State.afterKs (s : State) (o : KsOp) (ok : Bool) : State :=
  let c := o.ch
  match o.use with
  | .patch =>
    (match (s.chan c).patch.inst with
      | some (i, 6) =>
        let e := (s.chan c).patch.entry i
        if ok then (s.modPatch c fun p => { p with inst := some (i, 7) }).ask c 5
        else (s.modPatch c fun p => { p with inst := none }).finishInstall c e.line 13
      | _ => s)
  | .pprBegin =>
    if (s.chan c).ppr.step ≠ 2 then s
    else if ok then s.modPpr c fun q => { q with step := 3, pos := 0, sent := false }
    else (s.failPpr c 0 13)
  | .pprEnd => if (s.chan c).ppr.step ≠ 8 then s else if ok then s.endPpr c else
      (s.finishPpr c (s.chan c).ppr.row 13).modPpr c fun q => { q with step := 0 }
  | .prepare => (s.modChan c fun k => { k with prepStep := 0 }).finishJob 0x30 c.val (if ok then 0 else 13)
  | .free => s

/-- A keepsake program ends (R326): a failed one is made once more, and then given up with source 556. -/
def State.ksDone (s : State) (ok : Bool) : State :=
  match s.flash.ksQ with
  | [] => s
  | o :: rest =>
    let s := s.writeKs o.ch ok
    if ok then
      let s : State := { s with flash := { s.flash with ksQ := rest } }
      (s.modPatch o.ch fun p => { p with ksPend := rest.any fun q => q.ch == o.ch, ksBad := false }).afterKs o true
    else if !o.retried then { s with flash := { s.flash with ksQ := { o with retried := true } :: rest } }
    else
      let s : State := { s with flash := { s.flash with ksQ := rest } }
      let s := s.modPatch o.ch fun p => { p with ksPend := rest.any fun q => q.ch == o.ch, ksBad := true }
      ((s.raise 556).afterKs o false)

end Sys2Proof.Machine
end

