-- ==== Sys2Proof/Machine/Sweep.lean ====
section
/-! DEFINITION. The parity resweep of a span set and the zeroing of its tally lines (R235, R236, R336, R337), as the core's own
reads and writes. -/

namespace Sys2Proof.Machine

/-- Tally lines of a set's mapped pages (R228). -/
def State.tallyCount (s : State) (m : SetId) : Nat := ((s.mappedStripes m + 15) / 16 + 511) / 512

/-- A sweep visits tally line `t` on its own position, or on the fallback area: there only what lies on a lost position
(R336). -/
def State.sweepsArea (s : State) (m : SetId) (t : Nat) (fallback : Bool) : Bool :=
  let sp := s.span m
  let (c, line) := s.tallySpot m t fallback
  !(s.chan c).away && (if sp.lacks (t % 5) then fallback || !s.lineLost m (t % 5) line else !fallback)

/-- A write of the sweep. -/
def State.sweepPut (s : State) (c : ChanId) (line : Nat) (d : Option Line) : State :=
  s.writeBack c .sweepWrite line (d.getD poisonLine) (if d.isSome then .code else .poison) .bulk

/-- A write of the sweep is still to be acknowledged. -/
def State.sweepWrites (s : State) (m : SetId) : Bool :=
  (setChans m).any fun c => ((s.chan c).wq.any fun w => w.purp == .sweepWrite) || (s.chan c).backs.any fun w => w.purp == .sweepWrite

/-- Hole-list line `h`: 16 page numbers of 4 bytes (R337). -/
def holeLine (holes : List Nat) (h : Nat) : Line :=
  BitVec.ofNat 512 (natOfBytes (((List.range 16).map fun i => bytesOfNat (holes.getD (16 * h + i) 0) 4).flatten))

/-- A marked page of a degraded set: it is retired and becomes a hole, whose hole-list line is written (R236, R337). -/
def State.holePage (s : State) (m : SetId) (q : Nat) : State :=
  let s := s.retirePage (pageOf m q) (chanOf m (s.span m).pos) 2
  if (s.span m).holes.contains q then s
  else
    let h := (s.span m).holes.length / 16
    let s := s.modSpan m fun sp => { sp with holes := sp.holes ++ [q] }
    let c := chanOf m h
    s.sweepPut c ((s.geom c).reserved + 2 ^ 20 + h / 5) (some (holeLine (s.span m).holes h))

/-- The four data lines of a stripe are read (R236). -/
def State.sweepStripe (s : State) (m : SetId) (st : Nat) : State :=
  let cs := (List.range 4).map fun i => chanOf m (dataPos st i)
  let gone := cs.filter fun c => (s.chan c).away || s.lineLost m (posOf c) st
  let s := s.modSweep m fun w => { w with stage := .stripe, wait := 4 - gone.length, acc := 0, failed := !gone.isEmpty }
  (cs.filter fun c => !gone.contains c).foldl (fun (s : State) (c : ChanId) => s.ownRead c .sweepRead st false) s

/-- The sweep of the set has ended, and with the last of its sets the job (R414). -/
def State.endSweep (s : State) (m : SetId) : State :=
  let s := s.modSweep m fun w => { w with on := false }
  let swept := fun (b : Job) => allSets.all fun n => !b.aux.getLsbD n.val || !(s.span n).sweep.on
  let words := fun (b : Job) => allSets.map fun n => BitVec.ofNat 32 (if b.aux.getLsbD n.val then (s.span n).sweep.found else 0)
  s.modJobs fun b =>
    if (b.runs 0x26 || b.runs 0x27) && b.aux.getLsbD m.val && swept b then
      { b.finish 0 with res := if b.opc = 0x27 then words b else [] }
    else b

/-- Tally lines that a sweep over the sets of `sets` has done with, in units of 1/1,024 (R416). -/
def State.sweepProg (s : State) (sets : BitVec 20) : Nat :=
  let ms := allSets.filter fun m => sets.getLsbD m.val
  let done := ms.map fun m => let w := (s.span m).sweep; if w.on then min (w.cur / 2) (s.tallyCount m) else s.tallyCount m
  progress done.sum (ms.map s.tallyCount).sum

/-- The next marked page of the tally line, from the page in hand on. -/
def Sweep.nextPage (w : Sweep) : Option Nat := (List.range 512).find? fun i => decide (w.page ≤ i) && w.bits.getLsbD i

/-- The sweep goes on by one step (R235, R236). -/
def State.sweepStep (s : State) (m : SetId) : State :=
  let w := (s.span m).sweep
  let t := w.cur / 2
  let spot := s.tallySpot m t (w.cur % 2 == 1)
  if !w.on then s
  else match w.stage with
    | .line =>
      if s.tallyCount m ≤ t then (if s.sweepWrites m then s else s.endSweep m)
      else if !s.sweepsArea m t (w.cur % 2 == 1) then s.modSweep m fun w => { w with cur := w.cur + 1 }
      else if w.zeroing then (s.sweepPut spot.1 spot.2 (some 0)).modSweep m fun w => { w with stage := .zero }
      else (s.ownRead spot.1 .sweepRead spot.2 true).modSweep m fun w => { w with stage := .tally }
    | .tally => s
    | .pages =>
      (match w.nextPage with
      | some i =>
        let q := 512 * t + i
        if s.mappedStripes m ≤ 16 * q then s.modSweep m fun w => { w with page := 512 }
        else
          let s := s.modSweep m fun w => { w with page := i, sub := 0, found := w.found + 1 }
          if (s.span m).deg then (s.holePage m q).modSweep m fun w => { w with page := i + 1 }
          else s.sweepStripe m (16 * q)
      | none =>
        if s.sweepWrites m then s
        else if w.bits = 0 then s.modSweep m fun w => { w with stage := .line, cur := w.cur + 1 }
        else (s.sweepPut spot.1 spot.2 (some 0)).modSweep m fun w => { w with stage := .zero })
    | .stripe =>
      if w.wait ≠ 0 then s
      else
        let st := 16 * (512 * t + w.page) + w.sub
        let s := s.sweepPut (chanOf m (parPos st)) st (if w.failed then none else some w.acc)
        if w.sub < 15 then (s.modSweep m fun w => { w with sub := w.sub + 1 }).sweepStripe m (st + 1)
        else s.modSweep m fun w => { w with stage := .pages, page := w.page + 1 }
    | .zero => if s.sweepWrites m then s else s.modSweep m fun w => { w with stage := .line, cur := w.cur + 1 }

end Sys2Proof.Machine
end

