-- ==== Sys2Proof/Machine/Delays.lean ====
section
/-! DEFINITION. The delays of the PHY (R347, R357, R363, R364). -/

namespace Sys2Proof.Machine

/-- The range of a delay in taps of 1/64 UI (R347). DEDUCED: a UI of the DCK rate is one DCK period, tCK, which lasts two UI of the data
rate (R30; log entry 62). -/
def Delay.range : Delay → Int × Int
  | .ca _ _ => (0, 256)
  | .cs _ _ => (0, 128)
  | .dqs _ _ _ => (0, 1024)
  | .gate _ _ _ => (0, 2048)
  | .dqWrite _ _ _ | .dqRead _ _ _ => (-64, 64)

/-- The delays of a channel with `ranks` chip selects on each subchannel: 7 DCA bumps and DPAR, 10 devices of 4 bits. -/
def delayKeys (ranks : List Nat) : List Delay :=
  ([0, 1] : List Sub).flatMap fun x =>
    ((List.range 8).map fun b => .ca x b) ++ (ranks.map fun r => .cs x r)
      ++ ranks.flatMap fun r =>
          ((List.range 10).map fun d => .dqs x d r) ++ ((List.range 10).map fun d => .gate x d r)
            ++ ((List.range 40).map fun b => .dqWrite x b r) ++ ((List.range 40).map fun b => .dqRead x b r)

/-- The value of a delay. -/
def Phy.delay (p : Phy) (d : Delay) : Int := ((p.delays.find? fun e => e.1 == d).map Prod.snd).getD 0

/-- A delay takes a value. -/
def Phy.setDelay (p : Phy) (d : Delay) (v : Int) : Phy :=
  { p with delays := (p.delays.filter fun e => e.1 != d) ++ [(d, v)] }

/-- The value at which training leaves a delay (R357): the spec states the range alone, so it is a free value of it (log
entry 62). `n` is the draw, `i` the delay's number. -/
def trainedTap (n i : Nat) (d : Delay) : Int :=
  d.range.1 + ((Config.trainTap n i % ((d.range.2 - d.range.1).toNat + 1) : Nat) : Int)

/-- The delays of a channel whose training succeeds. -/
def trainedDelays (n : Nat) (ranks : List Nat) : List (Delay × Int) :=
  ((delayKeys ranks).zipIdx).map fun e => (e.1, trainedTap n e.2 e.1)

/-- A retraining step moves a delay by one tap, and leaves it at its limit where that would take it beyond (R363, R364).
The flag says that it stands at the limit. -/
def Phy.nudge (p : Phy) (d : Delay) (up : Bool) : Phy × Bool :=
  let v := p.delay d + if up then 1 else -1
  if d.range.1 ≤ v ∧ v ≤ d.range.2 then (p.setDelay d v, false) else (p, true)

/-- What the trials of a device's bits do to its delays: the delays moved, and whether one stood at its limit (R363,
R364). A bit whose centre trial failed keeps its delay. -/
def Phy.retrain (p : Phy) (key : Nat → Delay) (dev : Nat) (t : Trial) : Phy × Nat × Bool :=
  (List.range 4).foldl (fun (a : Phy × Nat × Bool) (b : Nat) =>
    if t.fails.getLsbD b || t.up.getLsbD b == t.down.getLsbD b then a
    else
      let r := a.1.nudge (key (4 * dev + b)) (t.up.getLsbD b)
      (r.1, a.2.1 + (if r.2 then 0 else 1), a.2.2 || r.2)) (p, 0, false)

end Sys2Proof.Machine
end

