-- ==== Sys2Proof/Machine/Windows.lean ====
section
/-! DEFINITION. What a selector does at a refresh window and at a retraining pause (R157 to R161, R189, R190, R308, R311,
R361 to R365). -/

namespace Sys2Proof.Machine

/-! ### Refresh windows -/

/-- Refreshes that a rank owes. -/
def Sel.owes (l : Sel) (cs : Nat) : Nat :=
  l.owed.toList.getD cs 0 + (l.owedSb.filter fun o => o.1 == cs).length

/-- The rank is in a PPR programming interval (R311). -/
def State.progRank (s : State) (c : ChanId) (x : Sub) (cs : Nat) : Bool :=
  let k := s.chan c
  let p := (s.geom c).place k.ppr.row
  k.ppr.prog && p.sub == x && p.bank.cs == cs

/-- A rank owes the window's refresh (R161): at most four, and a fifth raises the source. What a programming interval
keeps back is not counted; where it would be a fifth, refresh revokes the grant at the interval's end (R309, R311). -/
def State.owe (s : State) (c : ChanId) (x : Sub) (cs ba : Nat) (sb : Bool) : State :=
  let prog := s.progRank c x cs
  let more := fun (t : Tab Nat 4) => if h : cs < 4 then t.put ⟨cs, h⟩ (t.at ⟨cs, h⟩ + 1) else t
  let add := fun (s : State) => s.modSel c x fun l =>
    if sb then { l with owedSb := l.owedSb ++ [(cs, ba)] } else { l with owed := more l.owed }
  let l := s.sel c x
  if prog then
    let s := if 4 ≤ l.owes cs then s.modWeir c fun w => { w with revokeDue := w.revokeDue.or (some 1) } else s
    (add s).modSel c x fun l => { l with owedIn := more l.owedIn }
  else if 4 ≤ l.owes cs - l.owedIn.toList.getD cs 0 then s.raiseChan c 3
  else add s

/-- The subchannel cannot take a slot at its T: alert recovery or replay, self-refresh, a pause (R161, R190). -/
def Sel.missesWindow (l : Sel) : Bool :=
  l.ostate != .running || l.selfRef || (l.plan.any fun p => p.kind == .sre) || l.pauseOpen

/-- The commands of a window for the ranks that take it: precharges of the ranks with an open bank, then the refreshes, in
chip-select order; a rank that needs no precharge is refreshed tRP after its turn (R157 to R159). `now` is the window's
DCLK, `trp` tRP in DCLK. -/
def windowPlan (ranks : List Nat) (l : Sel) (sb x2 : Bool) (trp : Nat) : List Cmd :=
  let ix := l.refIx
  let isOpen := fun (cs : Nat) => l.banks.any fun e => e.1.cs == cs && (!sb || e.1.ba == ix)
  let bank := fun (cs : Nat) => ({ cs := cs, cid := 0, bg := 0, ba := if sb then ix else 0 } : Bank)
  let pre := (ranks.filter isOpen).map fun cs =>
    ({ kind := if sb then .presb else .preab, bank := bank cs, use := .refresh } : Cmd)
  let ref := ranks.zipIdx.map fun e =>
    ({ kind := if sb then .refsb else .refab, bank := bank e.1, use := .refresh
       notBefore := if isOpen e.1 then 0 else l.dclk + e.2 + trp } : Cmd)
  pre ++ ref ++ if x2 && !sb then ref else []

/-- A slot's closure suspends the grant holder, which loses its unfinished unit (R308), but for the steps of R311. -/
def State.suspend (s : State) (c : ChanId) : State :=
  match (s.chan c).weir.holder with
  | none => s
  | some h =>
    if (s.chan c).unstoppable || h = 2 then s
    else (s.dropUnit c h).modWeir c fun w => { w with susp := true }

/-- A refresh window reaches a subchannel: each rank takes it or owes it, all-bank with X2 twice (R158, R161). Its commands go
before the exit of a PPR from repair mode, which waits out TPGM_POST (R157, R340). -/
def State.window_ (s : State) (c : ChanId) (x : Sub) : State :=
  let l := s.sel c x
  let g := s.geom c
  let sb := flag (s.agent c 0x030) 1
  let x2 := flag (s.agent c 0x030) 2
  let owe := fun (s : State) (r : Nat) =>
    let s := s.owe c x r l.refIx sb
    if x2 && !sb then s.owe c x r l.refIx sb else s
  let next := fun (s : State) => if sb then s.modSel c x fun l => { l with refIx := (l.refIx + 1) % 2 ^ g.ba } else s
  if l.missesWindow then next (g.ranks.foldl owe s)
  else
    let kept := g.ranks.filter fun r => s.progRank c x r
    let take := g.ranks.filter fun r => !s.progRank c x r
    let s := kept.foldl owe s
    let late := fun (p : Cmd) => p.use == .pprEnd
    let s := s.modSel c x fun l => { l with
      plan := l.plan.filter (fun p => !late p) ++ windowPlan take l sb x2 (dclks (s.tim c 3)) ++ l.plan.filter late }
    next (s.suspend c)

/-! ### Retraining pauses -/

/-- Steps of a cycle with `cs` chip selects (R362). -/
def rtrSteps (cs : Nat) : Nat := 20 * cs + 2

/-- A step that RTR_CTL leaves out (R365). -/
def rtrSkips (cs : Nat) (wrEn zqEn : Bool) (i : Nat) : Bool :=
  (decide (10 * cs ≤ i) && decide (i < 20 * cs) && !wrEn) || (decide (20 * cs ≤ i) && !zqEn)

/-- The step that runs next: the first that is not skipped, from `i` on, within `n` steps. -/
def rtrNext (cs : Nat) (wrEn zqEn : Bool) : Nat → Nat → Option Nat
  | 0, _ => none
  | n + 1, i => if rtrSkips cs wrEn zqEn i then rtrNext cs wrEn zqEn n ((i + 1) % rtrSteps cs) else some i

/-- The commands of a step (R363): a read step's training mode, its 12 reads and the mode's end; a write step's ACT of
the training line (R358) and three trials; a ZQCAL command to every rank. A PRE ends each (R361). `val` of a trial's command
says where it moves the step's delay: 0 not, 1 by -2 taps, 2 by +2 taps. The mode register of the read-training mode is the
family's, MR25 (PRESUMED, log entry 21). -/
def rtrCmds (g : Geom) (step : Nat) : List Cmd :=
  let n := 2 ^ g.cs
  let cs := step % (10 * n) / 10
  let bank : Bank := ⟨cs, 0, 0, 0⟩
  let top := 2 ^ g.row - 1
  let mk := fun (k : Kind) (b : Bank) (mr v : Nat) => ({ kind := k, bank := b, row := top, use := .pause, mr := mr, val := v } : Cmd)
  let body :=
    if step < 10 * n then
      [mk .mrw bank 25 1] ++ ([0, 1, 2].map fun v => List.replicate 4 (mk .rd bank 0 v)).flatten ++ [mk .mrw bank 25 0]
    else if step < 20 * n then
      [mk .act bank 0 0] ++ ([1, 0, 2].map fun v => [mk .wr bank 0 v, mk .rd bank 0 v]).flatten
    else g.ranks.map fun r => mk (if step = 20 * n then .zqs else .zql) ⟨r, 0, 0, 0⟩ 0 0
  body ++ [{ kind := .pre, bank := bank, row := top, use := .pauseEnd }]

/-- The delay that a step tunes (R363): capture for a read step, launch for a write step. -/
def rtrKey (n : Nat) (x : Sub) (step bit : Nat) : Delay :=
  let cs := step % (10 * n) / 10
  if step < 10 * n then .dqRead x bit cs else .dqWrite x bit cs

/-- The trials of a step (R363, R364): the delays of the device's bits move, with the retrain-margin source for a failed
centre trial or a delay at its limit, the retrain-failed source for a second failure of the lane group in consecutive
cycles. -/
def State.rtrTrial (s : State) (c : ChanId) (x : Sub) (step : Nat) (t : Trial) : State :=
  let n := 2 ^ (s.geom c).cs
  if 20 * n ≤ step then s
  else
    let fails := t.fails != 0
    let again := fails && (s.sel c x).failed.contains step
    let r := (s.chan c).phy.retrain (rtrKey n x step) (step % 10) t
    let s := s.modSel c x fun l =>
      { l with failed := (l.failed.filter (· != step)) ++ if fails then [step] else [] }
    let s := s.modChan c fun k =>
      { k with phy := { r.1 with moves := satAdd 1023 r.1.moves r.2.1, fails := satAdd 255 r.1.fails (if fails then 1 else 0) } }
    let s := if fails || r.2.2 then s.raiseChan c 13 else s
    if again then s.raiseChan c 14 else s

/-- What the trials of the last pause begun find, noted for its end (R363). -/
def State.rtrOutcome (s : State) (c : ChanId) (x : Sub) (t : Trial) : State :=
  s.modSel c x fun l => if l.rtrStep.isSome then { l with rtrFound := some t } else l

/-- A pause ends tRP after its last precharge (R361): its trials have been compared, and its successor stands next (R362,
R363). Where no RETRAIN_PAUSE has said what they find, every centre passes and no delay moves (log entry 61). -/
def State.endPause (s : State) (c : ChanId) (x : Sub) : State :=
  let l := s.sel c x
  if l.pauseOpen && l.plan.isEmpty && decide (l.shutUntil ≤ l.dclk) then
    let s := s.modSel c x fun l => { l with pauseOpen := false, rtr := l.rtrNext, rtrStep := none, rtrFound := none }
    match l.rtrStep with
    | some step => s.rtrTrial c x step (l.rtrFound.getD ⟨0, 0, 0⟩)
    | none => s
  else s

/-- The pause requester's side (R308): it holds a free weir for the pause, and suspends any other holder. -/
def State.pauseGrant (s : State) (c : ChanId) : State :=
  match (s.chan c).weir.holder with
  | none => s.modWeir c fun w => { w with holder := some 2, at_ := (s.chan c).dclk, quantumOver := false, susp := false }
  | some _ => s.suspend c

/-- The step that the next pause of a subchannel runs, if any (R362, R365). -/
def State.pauseStep (s : State) (c : ChanId) (x : Sub) : Option Nat :=
  let n := 2 ^ (s.geom c).cs
  let ctl := s.agent c 0x010
  rtrNext n (flag ctl 1) (flag ctl 2) (rtrSteps n) ((s.sel c x).rtr % rtrSteps n)

/-- The step acts on a rank in a PPR programming interval alone, whose pause is left unexecuted (R311). -/
def State.pauseKept (s : State) (c : ChanId) (x : Sub) (step : Nat) : Bool :=
  let n := 2 ^ (s.geom c).cs
  decide (step < 20 * n) && s.progRank c x (step % (10 * n) / 10)

/-- The cycle passes over the steps that RTR_CTL leaves out: a failure in one of them has no consecutive cycle (R364, R365). -/
def Sel.passOver (l : Sel) (n step : Nat) : Sel :=
  let dist := (step + rtrSteps n - l.rtr % rtrSteps n) % rtrSteps n
  { l with failed := l.failed.filter fun i => decide (dist ≤ (i + rtrSteps n - l.rtr % rtrSteps n) % rtrSteps n) }

/-- A pause begins: the open banks are closed, the step's commands follow, and the next step stands once it is over
(R160, R361, R362). A rank in a PPR programming interval takes no part (R311). -/
def State.beginPause (s : State) (c : ChanId) (x : Sub) : State :=
  match s.pauseStep c x with
  | none => s
  | some step =>
    if s.pauseKept c x step then s
    else
      let g := s.geom c
      let l := s.sel c x
      let pre := g.ranks.filter fun cs => !s.progRank c x cs && l.banks.any fun e => e.1.cs == cs
      let own := (rtrCmds g step).filter fun m => !s.progRank c x m.bank.cs || m.use == .pauseEnd
      let plan := (pre.map fun cs => ({ kind := .preab, bank := ⟨cs, 0, 0, 0⟩, use := .pause } : Cmd)) ++ own
      (s.modSel c x fun l =>
        let l := l.passOver (2 ^ g.cs) step
        { l with plan := l.plan ++ plan, pauseOpen := true, rtrStep := some step, rtrFound := none
                 rtrNext := (step + 1) % rtrSteps (2 ^ g.cs) }).pauseGrant c

/-- A closure for a refresh window is under way: its commands are still to issue, or its last refresh still runs (R157,
R190). -/
def Sel.inClosure (l : Sel) : Bool := (l.plan.any fun p => p.use == .refresh) || (!l.pauseOpen && decide (l.dclk < l.shutUntil))

/-- A pause's tide value is reached at a subchannel: it begins at once, or as the closure of a refresh window ends, late
unless that window has the same T (R189, R190). Where it cannot begin it is left unexecuted (R161, R365), as before a clean
mark has been read and zeroed (R234); DESIGN CHOICE:
so is one that meets an earlier pause, begun or waiting (log entry 61). -/
def State.pause (s : State) (c : ChanId) (x : Sub) (windowToo : Bool) : State :=
  let l := s.sel c x
  if !flag (s.agent c 0x010) 0 || s.pers.strobe || (s.chan c).cmarkDue || l.missesWindow || l.pauseDue.isSome
      || (s.pauseStep c x).isNone then s
  else if l.inClosure then s.modSel c x fun l => { l with pauseDue := some !windowToo }
  else s.beginPause c x

/-- A pause that waited for a closure begins in the DCLK in which the closure ends (R189, R190). -/
def State.latePause (s : State) (c : ChanId) (x : Sub) : State :=
  let l := s.sel c x
  match l.pauseDue with
  | none => s
  | some late =>
    if l.inClosure || l.missesWindow || (s.chan c).cmarkDue then s
    else
      let s := s.modSel c x fun l => { l with pauseDue := none }
      let s := if late then s.modChan c fun k => { k with late := satAdd 65535 k.late 1 } else s
      s.beginPause c x

end Sys2Proof.Machine
end

