-- ==== Sys2Proof/Machine/SlotOps.lean ====
section
/-! DEFINITION. What a command slot does around its choice: washes, tally marks, lines that need no DRAM access, write
mode, and what follows when a command issues; what follows when a read line comes back. -/

namespace Sys2Proof.Machine

/-! ### Read lines coming back (R138, R173 to R176, R277) -/

/-- RDUE takes an event, the first with its line and the model's stamp, and the channel's source is raised (R174,
R176). -/
def State.recordRdue (s : State) (c : ChanId) (line : Nat) : State :=
  let id := s.nextId
  ((s.modChan c fun k =>
    let r := k.rdue
    { k with rdue := { valid := true, id := if r.valid then r.id else id, flag := r.flag, line := if r.valid then r.line else line,
                       count := satAdd 255 r.count 1, seq := nextSeq r.seq } }).raiseChan c 6).stamp

/-- The reconstruction that event `id` of RDUE led to answers it (R176). -/
def State.tieRecon (s : State) (c : ChanId) (line id : Nat) : State :=
  { s with recons := s.recons.map fun r =>
      if r.ch = c ∧ r.line = line ∧ id < r.id ∧ r.event = none then { r with event := some id } else r }

/-- A contributor of a reconstruction comes back (R138). -/
def State.contribGot (s : State) (r : Nat) (g : Got) : State :=
  match g with
  | .data d _ =>
    { s with recons := s.recons.map fun q => if q.id = r then { q with acc := q.acc ^^^ d, wait := q.wait - 1 } else q }
  | _ => s.loseContrib r

/-- Read-queue entry `id` is free again (R169). -/
def State.dropRead (s : State) (c : ChanId) (id : Nat) : State :=
  s.modChan c fun k => { k with rq := k.rq.filter fun o => o.id != id }

/-- The data of the RD or MRR of read-queue entry `id` have been captured (R171). -/
def State.noteCaptured (s : State) (c : ChanId) (x : Sub) (id : Nat) : State :=
  s.modSel c x fun l => { l with ox := l.ox.map fun o =>
    if o.cmd.ent = id ∧ (o.cmd.kind.isRd ∨ o.cmd.kind = .mrr) then { o with captured := true } else o }

/-- A line joins the return queue (R136, R288 code 6). -/
def State.pushRet (s : State) (c : ChanId) (e : RetE) : State :=
  s.modChan c fun k =>
    let bad := k.armedC 6
    { k.spendC bad with ret := k.ret ++ [{ e with bad := bad }] }

/-- A host or MI read's line (R173, R174): data and CORR, poison, or a reconstruction in a span set. -/
def State.hostGot (s : State) (c : ChanId) (e : RdE) (src : Src) (rid lidx : Nat) (g : Got) : State :=
  let ret : RetE := { src := src, rid := rid, lidx := lidx, tag := e.orig.tag, cls := e.cls, epoch := e.epoch,
                      code := .poison, corr := false, data := poisonLine }
  match g with
  | .data d out => s.pushRet c { ret with code := .ok, corr := e.again || out != .clean, data := d }
  | .poison => s.pushRet c ret
  | .bad =>
    let s := s.modChan c fun k => k.suspect e.home
    if s.spanMode (setOf c) && !s.offline (setOf c) then s.startRecon c e.home (.beat src rid lidx true) e.cls e.epoch e.src e.orig true
    else s.pushRet c ret

/-- The clean mark as read (R233, R234). -/
def parseMark (m : SetId) (j : Nat) (d : Line) : Cmark :=
  let body := bytesOfNat d.toNat 60
  let ok := field d 31 0 == 0x7E1DC0A5 && field d 511 480 == (crc32c body).toNat
    && field d 119 112 == m.val && field d 127 120 == j
  { valid := ok, set := field d 113 112, pos := field d 122 120, abs := field d 132 128, epoch := field d 95 32 }

/-- The clean mark comes back: it is kept, and its line is written as zero (R234). -/
def State.cleanGot (s : State) (c : ChanId) (g : Got) : State :=
  let mark : Cmark := match g with | .data d _ => parseMark (setOf c) (posOf c) d | _ => {}
  let line := (s.geom c).markLine
  (s.modChan c fun k => { k with cmark := mark }).pushRaw c
    { id := s.nextId, purp := .cleanZero, home := line, loc := line, data := 0, cls := .rt }

/-- A read line reaches what asked for it. -/
def State.deliver (s : State) (c : ChanId) (e : RdE) (g : Got) : State :=
  match e.purp with
  | .host src rid lidx => s.hostGot c e src rid lidx g
  | .form f k =>
    s.modChan c fun q => { q with intRet := q.intRet ++
      [{ f := f, k := k, res := match g with | .data d _ => some d | _ => none }] }
  | .contrib r => s.contribGot r g
  | .cleanRead => s.cleanGot c g
  | .scrub => s.scrubGot c e.home g
  | .verify => s.verifyGot c e.home g
  | .patchRead => s.patchGot c g
  | .pprRead => s.pprGot c g
  | .rebuildRead => s.rebuildGot (setOf c) g
  | .sweepRead => s.modSweep (setOf c) fun w => w.got (match g with | .data d _ => some d | _ => none)
  | _ => s

/-- Reads whose uncorrectable line is recorded in RDUE (R174): every read that is decoded and re-read. -/
def Purp.inRdue : Purp → Bool
  | .rawRead | .mrr | .mrrDropped => false
  | _ => true

/-! ### Lines ahead of a wash, and fresh lines (R135, R295) -/

/-- Reads of what the devices hold, whatever the fresh map says: raw and mode-register reads (R142, R290). -/
def Purp.physical : Purp → Bool
  | .mrr | .mrrDropped | .rawRead | .dropped => true
  | _ => false

/-- A queued read whose line is zeros without a DRAM access: its granule is fresh, or washes and the cursor has not
reached it, and no earlier write of its row waits. A patched or staged line is no exception; the test reads of a PPR
are. -/
def State.zeroRead (s : State) (c : ChanId) (e : RdE) : Bool :=
  !e.issued && !e.held && !e.purp.physical && !(e.purp == .pprRead && (s.chan c).ppr.step == 6)
    && (match s.granAt c e.home with
        | .fresh => true
        | .washing g => !g.behind e.home
        | .written => false)
    && (match e.purp with
        | .form f k => !s.earlierLineWrite c e.home (s.formStamp f k) (some f)
        | p => !s.earlierRowWrite c e.home e.loc (s.standing c p e.id))

/-- A read-queue word is read, for issue or for the answer of a line of zeros (R287, R288 code 3). -/
def State.readRq (s : State) (c : ChanId) (e : RdE) : State :=
  match e.bad with
  | none => s
  | some b =>
    let s := s.modChan c fun k =>
      { k.hitC (some b) with rq := k.rq.map fun o => if o.id = e.id then { o with bad := none } else o }
    if b.checkOnly then s else (s.modChan c fun k => { k with failDue := 3 }).raiseChan c 19

/-- Such reads are answered, host and MI reads while the return queue has room (R116); a bad word that acts leaves nothing to
answer. -/
def State.zeroReads (s : State) (c : ChanId) : State :=
  ((s.chan c).rq.filter (s.zeroRead c)).foldl (fun (s : State) (e : RdE) =>
    if (s.chan c).returning < 32 ∨ !(match e.purp with | .host _ _ _ => true | _ => false) then
      if acts e.bad then s.readRq c e else ((s.readRq c e).dropRead c e.id).deliver c e (.data 0 .clean)
    else s) s

/-! ### Washes (R296 to R301) -/

/-- The background wash takes the next fresh granule (R299). -/
def State.startWash (s : State) (c : ChanId) : State :=
  if !s.washOn c || ((s.chan c).wash.any (·.bg)) || 4 ≤ (s.chan c).washing then s
  else match s.nextFresh c with
    | none => s
    | some g =>
      let s := s.lookFresh c (g * granLines)
      if s.nextFresh c = some g then
        s.modChan c fun k => { k with wash := k.wash ++ [{ gran := g, start := 0, done := 0, bg := true }] }
      else s

/-- The background wash has lines left of its rate in this 1,024 DCLK (R299). -/
def State.washRate (s : State) (c : ChanId) : Bool :=
  let k := s.chan c
  let w := (k.sel.at 0).dclk / 1024
  decide ((if k.washWin = w then k.washUsed else 0) < max 1 (field (s.agent c 0x088) 11 1))

/-- A queued write waits on the wash of granule `g`. -/
def State.washWanted (s : State) (c : ChanId) (g : WashG) : Bool :=
  (s.chan c).wq.any fun w => !w.issued && !w.purp.reserved && granOf w.home == g.gran && !g.behind w.home

/-- A wash write of the line waits for the copy in hand, unless an earlier write of the line, which the copy waits for, waits on the
wash (R321, R322). -/
def State.washWaits (s : State) (c : ChanId) (line : Nat) : Bool :=
  let k := s.chan c
  let from_ := match k.patchOf line with | some _ => k.patch.copyAt | none => k.ppr.copyAt
  (k.target (s.geom c) line true).2 && !s.earlierLineWrite c line from_ none

/-- The wash write at a granule's cursor enters the write queue, a patched line's at its spare, and at both its places in
DUAL and RELEASE (R296, R298, R301, R321). A drain other than the sluice's washes on only for writes that wait (R301,
R375). -/
def State.feedWash (s : State) (c : ChanId) (g : WashG) : State :=
  let k := s.chan c
  if g.inQ || g.done == granLines || s.pers.strobe || (k.drain != .none && !s.washWanted c g) then s
  else if g.bg && !(s.holding c 8 && s.washOn c && s.washRate c) then s
  else if 256 < k.wqFill + s.writeCost c g.cursor then s
  else if s.washWaits c g.cursor then s
  else
    let line := g.cursor
    let w := (k.sel.at 0).dclk / 1024
    let s := s.modChan c fun k =>
      { k with
        wash := k.wash.map fun h => if h.gran = g.gran then { h with inQ := true } else h
        washUsed := if g.bg then (if k.washWin = w then k.washUsed else 0) + 1 else k.washUsed
        washWin := if g.bg then w else k.washWin }
    let s := s.readPatch c line
    ((s.chan c).target (s.geom c) line true).1.foldl (fun (s : State) (loc : Nat) =>
      s.pushRaw c { id := s.nextId, purp := .wash g.gran, home := line, loc := loc, cls := .rt }) s

def State.feedWashes (s : State) (c : ChanId) : State :=
  let s := if s.holding c 8 then s.startWash c else s
  (s.chan c).wash.foldl (fun (s : State) (g : WashG) => s.feedWash c g) s

/-- Queued writes to fresh granules start their washes as granules come free (R295, R298); those to a granule under
background wash turn it immediate, whatever their purpose (R299). -/
def State.touchQueued (s : State) (c : ChanId) : State :=
  ((s.chan c).wq.filter fun w => !w.issued && !w.purp.reserved).foldl (fun (s : State) (w : WrE) =>
    match w.purp with
    | .wash _ => s
    | _ => s.touchFresh c w.home) s

/-! ### Tally marks (R229 to R232) -/

/-- Unissued stripe lines of tally line `t`, in the write queues of the set, with the highest epoch. -/
def State.tallyLoad (s : State) (m : SetId) (t : Nat) : Nat × Nat :=
  let ls := (setChans m).map fun c => (s.chan c).wq.filter fun w =>
    !w.issued && (match w.page with | some (m', q) => m' == m && q / 512 == t | none => false)
  (ls.flatten.length, (ls.flatten.map (·.epoch)).foldl max 0)

/-- In the sluice an entry with no unissued line gives its place up without a write of its line (R232). DESIGN CHOICE: the first
such entry does (log entry 78). -/
def State.freeMark (s : State) (m : SetId) : State :=
  if !s.pers.strobe || decide ((s.span m).marks.length < 512) then s
  else match (s.span m).marks.find? fun e => (s.tallyLoad m e.t).1 == 0 with
    | some o => s.modSpan m fun sp => { sp with marks := sp.marks.filter fun e => e.t != o.t }
    | none => s

/-- A stripe line of page `q` asks for its mark (R230, R231). -/
def State.askMark (s : State) (m : SetId) (q : Nat) (epoch : Nat) (cls : Cls) : State :=
  let t := q / 512
  let bit : BitVec 512 := BitVec.ofNat 512 (2 ^ (q % 512))
  match (s.span m).marks.find? fun e => e.t == t with
  | some e =>
    let was := e.bits
    let x := s.readMark m e
    let s := x.1
    let e := x.2
    let unclear := fun (s : State) =>
      (setChans m).foldl (fun (s : State) (c : ChanId) => s.modChan c fun k =>
        { k with wq := k.wq.filter fun w => w.issued || w.purp != .tally m t false }) s
    let s := if e.clearing then unclear s else s
    let new := !e.bits.getLsbD (q % 512) || e.bits != was
    let e' : Mark := { e with bits := e.bits ||| bit, emax := max e.emax epoch, clearing := false }
    let s := s.modSpan m fun sp => { sp with marks := sp.marks.map fun x => if x.t = t then e' else x }
    if new then s.pushTally m e' true cls else s
  | none =>
    let s := s.freeMark m
    if (s.span m).marks.length < 512 then
      let bad := s.armedG 10 m.val
      let gone := (s.span m).lacks (t % 5)
      let e : Mark := { t := t, bits := bit, acked := 0, count := 1, emax := epoch, fallback := gone, bad := bad }
      let s := (s.modSpan m fun sp => { sp with marks := sp.marks ++ [e], markFull := false }).spendG bad
      s.pushTally m e true cls
    else s.modSpan m fun sp => { sp with markFull := true }

/-- The stripe line of page `q` has to be taken in by its entry: its bit is not acknowledged, or the entry is being
cleared (R230, R231). -/
def State.needsMark (s : State) (m : SetId) (q : Nat) : Bool :=
  !s.pageMarked m q || (s.span m).marks.any fun e => e.t == q / 512 && e.clearing

/-- The stripe lines of channel `c` ask for their marks. -/
def State.markChan (s : State) (m : SetId) (c : ChanId) : State :=
  ((s.chan c).wq.filter fun w => !w.issued).foldl (fun (s : State) (w : WrE) =>
    match w.page with
    | some (_, q) => if s.needsMark m q then s.askMark m q w.epoch w.cls else s
    | none => s) s

/-- Every stripe line in the set's write queues asks for its mark, and the entries' counts are brought up to date (R230,
R231). -/
def State.markQueued (s : State) (m : SetId) : State :=
  if !s.spanMode m then s
  else
    let s := (setChans m).foldl (fun (s : State) (c : ChanId) => s.markChan m c) s
    s.modSpan m fun sp =>
      { sp with marks := sp.marks.map fun e =>
          let (n, x) := s.tallyLoad m e.t
          { e with count := n, emax := max e.emax x } }

/-! ### Write mode (R155, R218) -/

/-- WM_HI, WM_LO and WBATCH_MIN in force; a WM_LO at or above WM_HI acts as WM_HI − 1 (R177). -/
def State.watermarks (s : State) (c : ChanId) : Nat × Nat × Nat :=
  let w := s.agent c 0x024
  (field w 8 0, offLevel (field w 8 0) (field w 17 9), field w 23 18)

/-- The mode of the slot. -/
def State.updMode (s : State) (c : ChanId) (x : Sub) : State :=
  let (hi, lo, least) := s.watermarks c
  let n := ((s.chan c).wq.filter fun w => ((s.geom c).place w.loc).sub == x).length
  let rd := (s.readCands c x).any (s.eligible c x)
  let wr := (s.writeCands c x).any (s.eligible c x)
  let l := s.sel c x
  if s.pers.strobe then s.modSel c x fun l => { l with wmode := true }
  else if !l.wmode then
    if hi ≤ n ∨ !rd then s.modSel c x fun l => { l with wmode := true, wbatch := 0 } else s
  else if (n ≤ lo ∧ least ≤ l.wbatch) ∨ (!wr ∧ rd) then s.modSel c x fun l => { l with wmode := false }
  else s

/-! ### Before the choice -/

/-- A closure that keeps the holder suspended is under way (R308). -/
def Sel.closed (l : Sel) : Bool := l.inClosure || l.pauseOpen || l.pauseDue.isSome

def State.resumeHolder (s : State) (c : ChanId) : State :=
  if (s.chan c).weir.susp && !((s.chan c).sel.toList.any (·.closed)) then s.modWeir c fun w => { w with susp := false }
  else s

/-- The clean mark is read once the first refreshes have issued (R234). -/
def State.askClean (s : State) (c : ChanId) : State :=
  let k := s.chan c
  let started := k.sel.toList.all fun l => !(l.plan.any fun p => p.use == .initial)
  if k.cmarkDue && started && !(k.rq.any fun e => e.purp == .cleanRead) && !(k.wq.any fun w => w.purp == .cleanZero) then
    s.pushRawRead c .cleanRead (s.geom c).markLine .rt
  else s

/-- Marked entries that need no re-issue fall away (R171). -/
def Sel.turn (l : Sel) : Sel :=
  if l.rcvrDone && l.redo.isEmpty then
    let ox := l.skipMarked l.ox
    if ox.any (·.marked) then { l with ox := ox }
    else { l with ox := ox, ostate := if l.ostate = .stopped then .stopped else .running, rcvrDone := false }
  else l

/-- The pause requester gives the weir back once no pause runs (R308). -/
def State.freePause (s : State) (c : ChanId) : State :=
  if (s.chan c).weir.holder = some 2 ∧ !((s.chan c).sel.toList.any (·.pauseOpen)) then s.release c else s

/-- The channel's own work is brought up to date before a slot's choice. -/
def State.prepSlot (s : State) (c : ChanId) : State :=
  let s := ((s.endPause c 0).endPause c 1).modChan c fun k => { k with sel := k.sel.each Sel.turn }
  let s := ((s.latePause c 0).latePause c 1).freePause c
  let s := (((s.resumeHolder c).askClean c).feedWashes c).touchQueued c
  let s := s.lookLines (((s.chan c).rq.filter fun e => !e.issued).map fun e => (c, e.home))
  let s := (((s.feedHolder c).sweepStep (setOf c)).markQueued (setOf c)).zeroReads c
  ((s.finishMaint.settleAll).drainTick c)

/-! ### Issue -/

/-- The LFSR of x^32 + x^22 + x^2 + x + 1, shifted toward bit 0 (R165, log entry 20). -/
def lfsrNext (v : BitVec 32) : BitVec 32 := if v.getLsbD 0 then (v >>> 1) ^^^ 0x80200003#32 else v >>> 1

/-- K of NBR_CTL: values below 6 act as 6, above 12 as 12 (R165). -/
def State.nbrK (s : State) (c : ChanId) : Nat := max 6 (min 12 (field (s.agent c 0x038) 4 1))

/-- The draw on an ACT (R165, R166). -/
def State.drawNbr (s : State) (c : ChanId) (x : Sub) (m : Cmd) : State :=
  if !flag (s.agent c 0x038) 0 then s
  else
    let g := s.geom c
    let hit := decide ((lfsrNext (s.sel c x).lfsr).toNat % 2 ^ s.nbrK c = 0)
    let rows := (if m.row = 0 then [] else [m.row - 1]) ++ if m.row + 1 < 2 ^ g.row then [m.row + 1] else []
    s.modSel c x fun l =>
      { l with lfsr := lfsrNext l.lfsr
               nbr := if hit then (l.nbr.filter fun n => n.bank != m.bank) ++ [{ bank := m.bank, rows := rows }] else l.nbr }

/-- A bank's refresh-management count with `f` applied (R163). -/
def countRfm (f : Nat → Nat) (b : Bank) (l : List (Bank × Nat)) : List (Bank × Nat) :=
  let n := f (((l.find? fun e => e.1 == b).map Prod.snd).getD 0)
  (l.filter fun e => e.1 != b) ++ if n = 0 then [] else [(b, n)]

/-- The refresh-management counts after a command (R163). -/
def State.countCmd (s : State) (c : ChanId) (x : Sub) (m : Cmd) : State :=
  if !flag (s.agent c 0x034) 0 then s
  else
    let sub := fun (n : Nat) => s.modSel c x fun l =>
      { l with rfm := (l.rfm.map fun e => if m.covers e.1 then (e.1, e.2 - n) else e).filter fun e => 0 < e.2 }
    match m.kind with
    | .act => s.modSel c x fun l => { l with rfm := countRfm (· + 1) m.bank l.rfm }
    | .refab | .refsb => sub (s.tim c 34)
    | .rfmab | .rfmsb => sub (s.tim c 32)
    | _ => s

/-- A neighbour refresh is complete once its last row is closed (R166, R177); not in a recovery or replay, which closes
banks before their ACTs are carried out again. -/
def State.endNbr (s : State) (c : ChanId) (x : Sub) : State :=
  let shut := fun (l : Sel) (n : Nbr) => l.ostate == .running && n.rows.isEmpty && (l.openRow n.bank).isNone
  let n := ((s.sel c x).nbr.filter (shut (s.sel c x))).length
  let s := s.modSel c x fun l => { l with nbr := l.nbr.filter fun n => !shut l n }
  if n = 0 then s else s.modChan c fun k => { k with nNbr := satAdd (2 ^ 32 - 1) k.nNbr n }

/-- A line as it is stored (R274, R281, R289). -/
def WrE.stored (w : WrE) : Stored :=
  match w.enc with
  | .code => encodeLine w.data
  | .poison => poisonStored
  | .raw chk => BitVec.ofNat 640 (w.data.toNat + chk.toNat * 2 ^ 512)

/-- A write-queue word is read for issue (R288 code 4). -/
def State.readWq (s : State) (c : ChanId) (w : WrE) : State :=
  match w.bad with
  | none => s
  | some b =>
    let s := s.modChan c fun k => k.hitC (some b)
    if b.checkOnly then s
    else match Config.sramLane 4 b.lane with
      | .data =>
        (s.modChan c fun k => { k with wq := k.wq.map fun o =>
          if o.id = w.id then { o with enc := .poison, data := poisonLine, bad := none } else o }).raiseChan c 20
      | _ => (s.modChan c fun k => { k with failDue := 3 }).raiseChan c 19

/-- A read's RD issues. -/
def State.issueRd (s : State) (c : ChanId) (x : Sub) (id : Nat) : State :=
  match (s.chan c).rq.find? fun e => e.id == id with
  | none => s
  | some e =>
    let n := (s.sel c x).count
    (s.readRq c e).modChan c fun k =>
      { k with
        rq := k.rq.map fun o => if o.id = id then { o with issued := true, at_ := n, bad := none } else o
        nReread := if e.reread then satAdd (2 ^ 32 - 1) k.nReread 1 else k.nReread }

/-- What the issue of a write does at once: the wash cursor moves (R296), a tally clear frees its entry (R231). -/
def State.wrIssued (s : State) (c : ChanId) (w : WrE) : State :=
  match w.purp with
  | .wash g =>
    if (s.chan c).wq.any fun o => !o.issued && o.purp == .wash g then s
    else s.modChan c fun k =>
      { k with wash := k.wash.map fun h => if h.gran = g then { h with done := h.done + 1, inQ := false } else h }
  | .tally m t false => s.modSpan m fun sp => { sp with marks := sp.marks.filter fun e => e.t != t, markFull := false }
  | .cleanZero => s.modChan c fun k => { k with cmarkDue := false }
  | _ => s

/-- A write's WR issues, with its line on DQ. -/
def State.issueWr (s : State) (c : ChanId) (x : Sub) (m : Cmd) (id : Nat) : State :=
  match (s.chan c).wq.find? fun w => w.id == id with
  | none => s
  | some w =>
    let s := s.readWq c w
    let st := (((s.chan c).wq.find? fun o => o.id == id).getD w).stored
    let s := s.modChan c fun k => { k with wq := k.wq.map fun o => if o.id = id then { o with issued := true } else o }
    let s := s.modSel c x fun l => { l with out := some (m, some st), wbatch := if l.wmode then l.wbatch + 1 else l.wbatch }
    s.wrIssued c w

/-- A column command of a class spends one credit; a refill comes first (R152). -/
def State.spend (s : State) (c : ChanId) (x : Sub) (d : Cand) (refill : Bool) : State :=
  let ws : Tab Nat 4 := Vector.ofFn fun i => s.weight c i
  let i : Fin 4 := ⟨clsRank d.cls, by cases d.cls <;> decide⟩
  s.modSel c x fun l =>
    let cr := if refill then ws else l.credits
    { l with credits := if d.hit && !d.wash && !d.holder then cr.put i (cr.at i - 1) else cr }

/-- A queued request's command issues. -/
def State.issueCand (s : State) (c : ChanId) (x : Sub) (m : Cmd) (d : Cand) (refill : Bool) : State :=
  let s := s.spend c x d refill
  let s := if d.holder then s.modSel c x fun l => { l with share := l.share + 1 } else s
  if m.kind.isRd then s.issueRd c x d.id
  else if m.kind.isWr then s.issueWr c x m d.id
  else s

/-- The last first refresh of both subchannels ends the exit from IDLE (R385). -/
def State.endExit (s : State) (c : ChanId) : State :=
  let k := s.chan c
  if k.pwrst = 3 && k.sel.toList.all (fun l => l.plan.all fun p => p.use != .initial && p.use != .selfRef) then
    (s.modChan c fun k => { k with pwrst := 0, phy := { k.phy with level := 1 } }).idleDone 0x32 c true
  else s

/-- How long a refresh command of a window closes its banks (R147, R158). -/
def State.refTime (s : State) (c : ChanId) (m : Cmd) : Nat :=
  if m.kind = .refab then dclks (s.tim c (if flag (s.agent c 0x030) 2 then 27 else 26))
  else if m.kind = .refsb then dclks (s.tim c 28) else 0

/-- A due command issues at DCLK `now`: it leaves the place it waited in. The exit from a PPR's repair mode waits for
TPGM_POST after the precharge (R329, R340), a pause's own commands for tRP of its last PREab (R361). -/
def State.issueDue (s : State) (c : ChanId) (x : Sub) (m : Cmd) (now : Nat) : State :=
  let l := s.sel c x
  let planned := match l.plan with | p :: _ => p == m | [] => false
  let s := if planned then s.modSel c x fun l => { l with plan := l.plan.tail } else s
  match m.use with
  | .refresh =>
    if planned then
      let until_ := now + s.refTime c m
      s.modSel c x fun l => { l with shutUntil := max l.shutUntil until_ }
    else if m.val = 0 then s
    else s.modSel c x fun l =>
      { l with
        owed := if h : m.bank.cs < 4 then (if m.kind = .refab then l.owed.put ⟨m.bank.cs, h⟩ (l.owed.at ⟨m.bank.cs, h⟩ - 1) else l.owed)
                else l.owed
        owedSb := if m.kind = .refsb then l.owedSb.tail else l.owedSb
        owedIn := if h : m.bank.cs < 4 then l.owedIn.put ⟨m.bank.cs, h⟩ (l.owedIn.at ⟨m.bank.cs, h⟩ - 1) else l.owedIn }
  | .nbr =>
    s.modSel c x fun l =>
      { l with nbr := l.nbr.map fun n => if n.bank = m.bank ∧ m.kind = .act then { n with rows := n.rows.tail } else n }
  | .pause =>
    let start := now + dclks (s.tim c 3)
    let s := if m.kind = .preab then s.modSel c x fun l => { l with plan := l.plan.map fun p =>
        if (p.use = .pause ∧ p.kind ≠ .preab) ∨ p.use = .pauseEnd then { p with notBefore := start } else p }
      else s
    if m.kind = .wr then s.modSel c x fun l => { l with out := some (m, some (Config.trainPattern m.val)) } else s
  | .pauseEnd =>
    let until_ := now + dclks (s.tim c 3)
    s.modSel c x fun l => { l with shutUntil := max l.shutUntil until_ }
  | .holder =>
    let s := s.modSel c x fun l => { l with hold := l.hold.tail, holdSince := l.dclk, holdAged := false, share := l.share + 1 }
    if m.kind = .mrr then s.issueRd c x m.ent else s
  | .idle => s.modSel c x fun l => { l with idleDue := l.idleDue.filter fun b => b != m.bank }
  | .selfRef =>
    let more := (s.sel c x).plan.any fun p => p.kind == m.kind && p.use == .selfRef
    if m.kind = .sre && !more then s.modSel c x fun l => { l with selfRef := true }
    else if m.kind = .srx && !more then s.modSel c x fun l => { l with selfRef := false }
    else s
  | .initial => s.endExit c
  | .pprEnd =>
    let exit := now + dclks (field (s.agent c 0x080) 31 16)
    s.modSel c x fun l =>
      { l with plan := l.plan.map fun p => if m.kind = .pre ∧ p.use = .pprEnd then { p with notBefore := exit } else p }
  | _ => s

/-- A recovery or replay command issues (R170, R171): a precharge of R170 leaves the list; the re-issue of a marked RD or
MRR waits for its data again, and that of a WR drives its line again. -/
def State.issueRedo (s : State) (c : ChanId) (x : Sub) (m : Cmd) : State :=
  let s := s.modSel c x fun l =>
    { l with redo := if m.use = .recover then l.redo.tail else l.redo
             ostate := if m.use = .recover then l.ostate else .replay }
  if m.kind.isRd || m.kind == .mrr then
    let n := (s.sel c x).count
    s.modChan c fun k => { k with rq := k.rq.map fun o => if o.id = m.ent then { o with at_ := n } else o }
  else if m.kind.isWr then
    match (s.chan c).wq.find? fun w => w.id == m.ent with
    | some w => s.modSel c x fun l => { l with out := some (m, some w.stored) }
    | none => s
  else s

/-- Longest spacing in DCLK (R149): older commands bind nothing. -/
def histSpan : Nat := 16384

/-- The buffer with its oldest acknowledged entries dropped while it holds more than 32 (R168). -/
def trimOx : Nat → List Ox → List Ox
  | 0, l => l
  | n + 1, l => if l.length ≤ 32 then l else trimOx n (match l with | o :: r => if o.acked then r else o :: r | [] => [])

/-- The entries with one put before the first marked one. -/
def insertOx (o : Ox) : List Ox → List Ox
  | [] => [o]
  | e :: r => if e.marked then o :: e :: r else e :: insertOx o r

/-- The entries with the first marked one re-issued (R171). -/
def reissueOx (bad : Option Bad) : List Ox → List Ox
  | [] => []
  | e :: r =>
    if e.marked then { e with marked := false, captured := false, again := true, bad := bad } :: r
    else e :: reissueOx bad r

/-- The oxbow buffer takes an issued command, and with it an armed injection of code 7 (R168, R291). A command issued in
a recovery or replay stands before those still to be replayed; a re-issued one keeps its own entry. -/
def State.pushOx (s : State) (c : ChanId) (x : Sub) (m : Cmd) (again reissue : Bool) : State :=
  let bad := (s.chan c).armedC 7
  let s := s.modChan c fun k => k.spendC bad
  s.modSel c x fun l =>
    { l with ox := if reissue then reissueOx bad l.ox
                   else if again then trimOx 32 (insertOx { cmd := m, again := true, bad := bad } l.ox)
                   else trimOx 32 (l.ox ++ [{ cmd := m, bad := bad }]) }

/-- The idle wait of a bank starts over with its column commands and ends as it closes (R145). -/
def Sel.idleAfter (l : Sel) (m : Cmd) : Sel :=
  { l with idleDue := l.idleDue.filter fun b => !(m.kind.isCol && b == m.bank) && l.banks.any fun e => e.1 == b }

/-- The chosen command issues in this slot (R141, R150). -/
def State.issue (s : State) (c : ChanId) (x : Sub) (ch : Choice) : State :=
  let m := ch.cmd
  let now := (s.sel c x).dclk
  if m.kind = .des then s.modSel c x fun l => { l with dclk := now + 1, out := some (m, none) }
  else
    let again := (s.sel c x).ostate != .running
    let reissue := again && (match s.redoNext c x with | some (n, b) => b && n == m | none => false)
    let s := s.modSel c x fun l =>
      { l with dclk := now + 1, count := l.count + 1
               hist := (l.hist.filter fun h => decide (now < h.time + histSpan)) ++ [{ cmd := m, time := now }]
               banks := banksAfter l.banks m, out := some (m, none) }
    let s := (s.modSel c x fun l => l.idleAfter m).pushOx c x m again reissue
    let s := s.countCmd c x m
    let s := if m.kind = .rfmab ∨ m.kind = .rfmsb then s.modChan c fun k => { k with nRfm := satAdd (2 ^ 32 - 1) k.nRfm 1 } else s
    let s := if m.kind = .act && !again && m.use != .nbr then s.drawNbr c x m else s
    let s :=
      if again then s.issueRedo c x m
      else match ch.cand with
        | some d => s.issueCand c x m d ch.refill
        | none => s.issueDue c x m now
    s.endNbr c x

/-! ### Acknowledgement (R168, R169) -/

/-- The tally bits of an acknowledged mark, if its entry still has its line there (R230, R336). -/
def State.markAcked (s : State) (m : SetId) (t : Nat) (c : ChanId) (line : Nat) (d : Line) : State :=
  let take := fun (e : Mark) =>
    if e.t = t ∧ s.tallySpot m t e.fallback = (c, line) then { e with acked := e.acked ||| (d &&& e.bits) } else e
  s.modSpan m fun sp => { sp with marks := sp.marks.map take }

/-- The other line of a write that goes to two places is still to be acknowledged (R321). -/
def State.doubled (s : State) (c : ChanId) (p : Purp) : Bool := (s.chan c).wq.any fun w => w.purp == p

/-- What an acknowledged write was for. -/
def State.wrAcked (s : State) (c : ChanId) (w : WrE) : State :=
  match w.purp with
  | .tally m t true => s.markAcked m t c w.home w.data
  | .scrubWb => if s.doubled c w.purp then s else s.scrubAcked c
  | .patchWrite => s.patchAcked c
  | .pprWrite => s.pprAcked c
  | .rebuildWrite => if s.doubled c w.purp then s else s.rebuildAcked (setOf c)
  | _ => s

/-- Every rank of both subchannels is in self-refresh, its entry acknowledged. -/
def Chan.allSelf (k : Chan) : Bool := k.sel.toList.all fun l => l.selfRef && !(l.ox.any fun o => o.cmd.kind == .sre && !o.acked)

/-- The bytes of a mode-register read, device 0 first, as reply words (R414). -/
def mrrWords (raw : Stored) : List Word :=
  let b := (List.range 10).map fun d => (Config.mrrByte raw d).toNat
  let w := fun (i : Nat) => BitVec.ofNat 32 (b.getD (4 * i) 0 + b.getD (4 * i + 1) 0 * 2 ^ 8 + b.getD (4 * i + 2) 0 * 2 ^ 16
    + b.getD (4 * i + 3) 0 * 2 ^ 24)
  [w 0, w 1, w 2]

/-- A mode-register read's result goes to the PPR sequence or to MR_READ (R142, R329, R414). -/
def State.mrrGot (s : State) (c : ChanId) (raw : Stored) : State :=
  match (s.chan c).weir.holder with
  | some 3 => s.pprResource c raw
  | some 6 =>
    (match s.cmp.cur with
      | some u => if u.opc = 0x16 ∧ u.ch = c then s.replyCur stOk 0 (mrrWords raw) else s
      | none => s)
  | _ => s

/-- The result of mode-register read `id` is used once it has been captured and its command acknowledged: an alert before
that discards it (R171). -/
def State.endMrr (s : State) (c : ChanId) (x : Sub) (id : Nat) : State :=
  if (s.sel c x).ox.any fun o => o.cmd.ent == id && o.cmd.kind == .mrr && !o.acked then s
  else match (s.chan c).rq.find? fun e => e.id == id && e.purp == .mrr with
    | some e =>
      match e.got with
      | some raw => (s.dropRead c id).mrrGot c raw
      | none => s
    | none => s

/-- The entries with the oldest unacknowledged one acknowledged, and its command. -/
def ackOx : List Ox → List Ox × Option Cmd
  | [] => ([], none)
  | o :: r =>
    if o.acked || o.marked then ((o :: (ackOx r).1), (ackOx r).2) else ({ o with acked := true } :: r, some o.cmd)

/-- The oldest unacknowledged command is acknowledged (R168, R169). -/
def State.ack (s : State) (c : ChanId) (x : Sub) : State :=
  match ackOx (s.sel c x).ox with
  | (_, none) => s
  | (ox, some m) =>
    let s := s.modSel c x fun l => { l with ox := ox }
    let s :=
      if m.kind.isWr then
        match (s.chan c).wq.find? fun w => w.id == m.ent && w.issued with
        | some w => (s.modChan c fun k => { k with wq := k.wq.filter fun o => o.id != w.id }).wrAcked c w
        | none => s
      else if m.kind = .mrw then s.endMr c
      else if m.kind = .mrr then s.endMrr c x m.ent
      else s
    if m.kind = .sre && (s.chan c).drain != .none && (s.chan c).allSelf then s.retain c else s

/-! ### Recovery and replay (R170 to R172) -/

/-- The subchannel stops and the channel fails (R172). -/
def State.stopSub (s : State) (c : ChanId) (x : Sub) : State :=
  ((s.modSel c x fun l => { l with ostate := .stopped, redo := [] }).raiseChan c 5).modChan c fun k => { k with failDue := 2 }

/-- ALERT_n is seen low (R170, R172): every unacknowledged command is marked, those that a replay has not yet re-issued
included, and what an unacknowledged MRR captured is discarded (R171). -/
def State.alert (s : State) (c : ChanId) (x : Sub) : State :=
  let l := s.sel c x
  if l.ostate = .stopped ∨ (l.ostate = .recovery ∧ !l.alertSeenHigh) then s
  else
    let repeated := l.ostate != .running || l.ox.any fun o => o.again && !o.acked
    let n := if repeated then l.retries + 1 else 0
    let s := (s.modChan c fun k => { k with nAlert := satAdd (2 ^ 32 - 1) k.nAlert 1 }).raiseChan c 4
    let open_ := fun (id : Nat) => l.ox.any fun o => o.cmd.ent == id && o.cmd.kind == .mrr && !o.acked
    let s := s.modChan c fun k => { k with rq := k.rq.map fun e => if e.purp = .mrr ∧ open_ e.id then { e with got := none } else e }
    let s := s.modSel c x fun l =>
      { l with ostate := .recovery, retries := min n 7, redo := [], rcvrDone := false, alertSeenHigh := false
               ox := l.ox.map fun o => if o.acked then o else { o with marked := true } }
    if max 1 (field (s.agent c 0x020) 3 1) < n then s.stopSub c x else s

/-- tPAR_RCVR has passed (R170 steps 4 and 5): the precharges are due, and after them the marked entries; a bad oxbow word
found among these fails the channel (R288 code 7). -/
def State.beginReplay (s : State) (c : ChanId) (x : Sub) : State :=
  let l := s.sel c x
  let ranks := (s.geom c).ranks
  let pre := ranks.map fun r => ({ kind := .preab, bank := ⟨r, 0, 0, 0⟩, use := .recover } : Cmd)
  let bads := (l.ox.filter (·.marked)).filterMap (·.bad)
  let s := bads.foldl (fun (s : State) (b : Bad) => s.modChan c fun k => k.hitC (some b)) s
  let s := if bads.any fun b => !b.checkOnly then
      (s.modChan c fun k => { k with failDue := 3 }).raiseChan c 21 else s
  s.modSel c x fun l => { l with rcvrDone := true, redo := pre }

end Sys2Proof.Machine
end

