-- ==== Sys2Proof/Machine/Slot.lean ====
section
/-! DEFINITION. The scheduler's commands (chapter 5): command slots, ageing and windows, acknowledgement, alerts, read
data, refresh windows and retraining pauses (R160, R361 to R365). -/

namespace Sys2Proof.Machine

/-- The selectors of CHn have slots: the scheduler is enabled and started, DCLK n runs, and the channel is there (R141). -/
def State.slotOn (s : State) (c : ChanId) : Bool :=
  let k := s.chan c
  s.schEn c && k.schOn && !k.dead && k.phy.lock && k.pwrst != 2

/-- What follows any change at a channel: complete forms, reconstructions and maintenance units move on, drains advance,
and severs that became due are carried out. -/
def State.after (s : State) (c : ChanId) : State :=
  ((s.finishMaint.settleAll).drainTick c).sweepFails

/-- A slot of one selector (R141, R150). -/
def State.slot (s : State) (c : ChanId) (x : Sub) : State :=
  let s := (s.prepSlot c).updMode c x
  (s.issue c x (s.choose c x)).after c

def execCommandSlot (c : ChanId) (x : Sub) (s : State) : Host.Outcome State Fault Refusal :=
  .next (if s.slotOn c then s.slot c x else s)

/-- A candidate's wait reaches the ageing limit (R151). `id` is the stamp of its queue entry; 0 names the grant holder's
own command in front. A wait that COMMAND_SLOT itself has counted needs no such event (`State.waited`). -/
def execCandidateAged (c : ChanId) (id : Nat) (s : State) : Host.Outcome State Fault Refusal :=
  .next (s.modChan c fun k =>
    { k with rq := k.rq.map fun e => if e.id = id then { e with aged := true } else e
             wq := k.wq.map fun w => if w.id = id then { w with aged := true } else w
             sel := k.sel.each fun l => if id = 0 ∧ !l.hold.isEmpty then { l with holdAged := true } else l })

/-- A window of 64 slots ends (R154). -/
def execMshareWindowEnd (c : ChanId) (x : Sub) (s : State) : Host.Outcome State Fault Refusal :=
  .next (s.modSel c x fun l => { l with share := 0 })

/-- An open bank reaches its idle limit (R145): IDLE_PC of 0 sets none. -/
def execPageIdleExpiry (c : ChanId) (x : Sub) (b : Bank) (s : State) : Host.Outcome State Fault Refusal :=
  .next (if field (s.agent c 0x028) 27 16 ≠ 0 ∧ ((s.sel c x).openRow b).isSome ∧ !(s.sel c x).idleDue.contains b then
      s.modSel c x fun l => { l with idleDue := l.idleDue ++ [b] }
    else s)

/-! ### Acknowledgement and alerts (R168 to R172) -/

/-- The oldest unacknowledged command is acknowledged; during a recovery nothing is (R168, R170). The last SRE of an entry
to IDLE may end a step of SLUMBER (R387). -/
def execCommandAck (c : ChanId) (x : Sub) (s : State) : Host.Outcome State Fault Refusal :=
  .next (if (s.sel c x).ostate = .running ∨ (s.sel c x).ostate = .replay ∨ (s.sel c x).rcvrDone then
      ((s.ack c x).after c).slumberStep
    else s)

def execCaParityAlert (c : ChanId) (x : Sub) (s : State) : Host.Outcome State Fault Refusal :=
  .next (if s.slotOn c then (s.alert c x).sweepFails else s)

/-- ALERT_n is seen high (R170 step 3). -/
def execAlertRelease (c : ChanId) (x : Sub) (s : State) : Host.Outcome State Fault Refusal :=
  .next (if (s.sel c x).ostate = .recovery then s.modSel c x fun l => { l with alertSeenHigh := true } else s)

/-- tPAR_RCVR ends after ALERT_n was seen high (R170 steps 4 and 5). -/
def execAlertRcvrExpiry (c : ChanId) (x : Sub) (s : State) : Host.Outcome State Fault Refusal :=
  .next (if (s.sel c x).ostate = .recovery ∧ (s.sel c x).alertSeenHigh ∧ !(s.sel c x).rcvrDone then
      (s.beginReplay c x).sweepFails
    else s)

/-- ALERT_n is still low at the stuck limit (R172). -/
def execAlertStuckTimeout (c : ChanId) (x : Sub) (s : State) : Host.Outcome State Fault Refusal :=
  .next (if (s.sel c x).ostate = .recovery ∧ !(s.sel c x).alertSeenHigh then (s.stopSub c x).sweepFails else s)

/-! ### Read data (R142, R173 to R175, R276, R277, R285) -/

/-- The RD of an entry is to be replayed, so that the data on the bus are not its own (R170, R171). -/
def Sel.redoes (l : Sel) (id : Nat) : Bool :=
  l.ox.any fun o => o.marked && o.cmd.ent == id && ((o.cmd.kind.isRd && !o.captured) || o.cmd.kind == .mrr)

/-- The read whose data come next: the earliest issued on the subchannel (R142). Raw reads complete apart (R290). -/
def State.nextData (s : State) (c : ChanId) (x : Sub) : Option RdE :=
  pick (fun (a b : RdE) => decide (a.at_ < b.at_))
    ((s.chan c).rq.filter fun e => e.issued && e.purp != .rawRead && e.got.isNone && ((s.geom c).place e.loc).sub == x
      && !(s.sel c x).redoes e.id)

/-- A decode counts in ECC_DEVCNT or ECC_ERSCNT; a device count that reaches CE_THR raises its source, once until it is cleared
(R285). -/
def State.countEcc (s : State) (c : ChanId) (x : Sub) (out : Decoded) : State :=
  match out with
  | .corrected d =>
    let i := devIx x d
    let n := (s.chan c).eccDev.at i
    let thr := field (s.agentRw c 0x090) 31 16
    let now := satAdd 65535 n 1
    let tell := thr != 0 && decide (thr ≤ now) && !(s.chan c).eccTold.at i
    let s := s.modChan c fun k => { k with eccDev := k.eccDev.put i now, eccTold := k.eccTold.put i (k.eccTold.at i || tell) }
    if tell then s.raiseChan c 7 else s
  | .erased => s.modChan c fun k => { k with eccErs := k.eccErs.put x (satAdd 65535 (k.eccErs.at x) 1) }
  | _ => s

/-- A decoded line leaves its entry (R169, R173, R174): an uncorrectable one first waits for its one re-read. -/
def State.decodeRead (s : State) (c : ChanId) (x : Sub) (e : RdE) (raw : Stored) : State :=
  let r := decodeStored (s.erasedAt c e.loc) raw
  let s := s.countEcc c x r.out
  match r.out with
  | .uncorrectable =>
    if !e.again then
      s.modChan c fun k => { k with rq := k.rq.map fun o =>
        if o.id = e.id then { o with issued := false, reread := true, again := true } else o }
    else
      let id := s.nextId
      let s := if e.purp.inRdue then s.recordRdue c e.home else s
      ((s.dropRead c e.id).deliver c e .bad).tieRecon c e.home id
  | .poison => (s.dropRead c e.id).deliver c e .poison
  | out => (s.dropRead c e.id).deliver c e (.data r.data out)

/-- The data of a RD or MRR are captured. -/
def State.capture (s : State) (c : ChanId) (x : Sub) (raw : Stored) : State :=
  match s.nextData c x with
  | none => s
  | some e =>
    let s := s.noteCaptured c x e.id
    if e.purp = .mrrDropped then s.dropRead c e.id
    else if e.purp = .mrr then
      (s.modChan c fun k => { k with rq := k.rq.map fun o => if o.id = e.id then { o with got := some raw } else o }).endMrr c x e.id
    else s.decodeRead c x e raw

def execReadDataDecode (c : ChanId) (x : Sub) (raw : Stored) (s : State) : Host.Outcome State Fault Refusal :=
  .next ((s.capture c x raw).after c)

end Sys2Proof.Machine
end

