-- ==== Sys2Proof/Machine/Power.lean ====
section
/-! DEFINITION. The commands of power failure (chapter 7), sled service, power states and the standby monitor (chapter 12),
and bring-back (R394, R482). -/

namespace Sys2Proof.Machine

/-! ### Power failure and the sag guard (R214 to R227) -/

/-- PWR_FAIL_N is seen at its other level at two SCLK edges: low raises the strobe (R214); high is what SAG_STAT shows from
then on, and what a later release of core reset finds (R227, R238). -/
def execPwrFail (s : State) : Host.Outcome State Fault Refusal :=
  .next (if s.phase = .off then s
    else
      let low := s.sbm.pfPin
      let s : State := { s with sbm := { s.sbm with pfPin := !low } }
      if low && flag s.sagCfg 4 && s.ticking then (s.strobe 3).sweepFails else s)

/-- Step 3 of the sluice is complete (R216): the SEVER after the last TRAILER, or in the safe state the SEVER of R257, has
been sent, or the link is down. -/
def State.millShut (s : State) : Bool :=
  let m := s.mill
  !m.moUp || (if s.fcol.safe then m.mo.toList.all (·.sever.isNone) else !m.streams || s.pers.mclosed)

/-- Every channel that is neither failed nor absent has completed step 5, and step 3 is complete (R216 step 6). -/
def State.sluiceOver (s : State) : Bool :=
  s.pers.strobe && s.millShut
    && allChans.all fun c => (s.chan c).dead || !(s.chan c).schOn || s.pers.held.getLsbD c.val

/-- SLUICE_DONE rises; a core reset that waited for it is entered (R216, R432, R482). -/
def execSluiceDone (s : State) : Host.Outcome State Fault Refusal :=
  .next (if s.sluiceOver then ({ s with pers := { s.pers with done := true } }).resetDue else s)

/-- Three of the last five warn samples are like the one given (R224): the decision, its count, its source and its rule. -/
def execSagWarn (pinLow : Bool) (droop : BitVec 6) (s : State) : Host.Outcome State Fault Refusal :=
  .next (if s.phase = .off then s
    else
      let s : State := { s with sbm := { s.sbm with warnPin := !pinLow, droop := droop } }
      if !s.warnPresent || s.sbm.warn then s
      else
        let under := s.awake && (!s.flash.ksQ.isEmpty || !s.evr.buf.isEmpty || s.anyJob fun b => b.runs 0x41 || b.runs 0x43)
        let s : State := { s with sbm := { s.sbm with warn := true, warnCount := satAdd 65535 s.sbm.warnCount 1 }
                                  flash := { s.flash with under := under } }
        (s.raiseOn 549).ruleEvent 7 0 0)

/-- Three of the last five critical samples are like the one given (R214, R224): the decision raises the strobe, but in
SLUMBER only its rule acts (R391). -/
def execSagCrit (pinLow : Bool) (droop : BitVec 6) (s : State) : Host.Outcome State Fault Refusal :=
  .next (if s.phase = .off then s
    else
      let s : State := { s with sbm := { s.sbm with critPin := !pinLow, droop := droop } }
      match s.critPresent with
      | none => s
      | some cause =>
        if s.sbm.crit then s
        else
          let s : State := { s with sbm := { s.sbm with crit := true } }
          let s := s.raiseOn 550
          let s := if s.ticking then (s.strobe cause).sweepFails else s
          s.ruleEvent 7 0 1)

/-- The warn decision falls (R226): a counter entry that waited is programmed, PMIC writes that waited go on, and SLUMBER does. -/
def execWarnClearTimeout (s : State) : Host.Outcome State Fault Refusal :=
  .next (if !s.sbm.warn then s
    else
      let s : State := { s with sbm := { s.sbm with warn := false }, flash := { s.flash with under := false } }
      let s := if s.evr.ctrDue && s.awake then s.writeCounter else s
      (allChans.foldl (fun (s : State) (c : ChanId) => s.askXfers c []) s).slumberStep)

/-- A tally line whose stripe lines are all issued and durable is cleared (R231); in the sluice nothing is (R232). -/
def execTallyClear (m : SetId) (t : Nat) (s : State) : Host.Outcome State Fault Refusal :=
  .next (let now := s.markQueued m
    match (now.span m).marks.find? fun e => e.t == t with
    | none => s
    | some e =>
      if e.count ≠ 0 ∨ s.pers.dur < e.emax ∨ s.pers.strobe ∨ e.clearing then s
      else
        let x := now.readMark m e
        if x.2.bits ≠ e.bits then x.1.pushTally m x.2 true .bulk
        else
          let s := x.1.modSpan m fun sp => { sp with marks := sp.marks.map fun o => if o.t = t then { o with clearing := true } else o }
          s.pushTally m { x.2 with clearing := true } false .bulk)

/-! ### Buttons, presence, sled power (R367 to R373, R380) -/

/-- A debounced press (R368, R388, R390). -/
def execButtonPress (c : ChanId) (s : State) : Host.Outcome State Fault Refusal :=
  .next (if s.phase = .off then s
    else
      let b := s.sbm
      let s : State := { s with sbm := { b with btn := b.btn ||| chanBit c, press := b.press ||| chanBit c, pressSeq := nextSeq b.pressSeq } }
      s.ruleEvent 3 c.val 0)

/-- Debounced presence changes (R369, R372, R390). -/
def execPresenceChange (c : ChanId) (present : Bool) (s : State) : Host.Outcome State Fault Refusal :=
  .next (if s.phase = .off ∨ (s.chan c).svc.pres = present then s
    else
      let b := s.sbm
      let s : State := { s with sbm := { b with pchg := b.pchg ||| chanBit c, pchgSeq := nextSeq b.pchgSeq } }
      let s := s.modChan c fun k =>
        { k with svc := { k.svc with pres := present, st := if !present && (k.svc.st == 4 || k.svc.st == 5) then 0 else k.svc.st } }
      s.ruleEvent 4 c.val 0)

/-- Raw presence is lost (R369): a sled with power is severed, by the SBM alone while the core is in reset or SLUMBER
(R380). -/
def execPresenceLoss (c : ChanId) (s : State) : Host.Outcome State Fault Refusal :=
  .next (if !(s.chan c).svc.pwrOn then s
    else if s.ticking then (((s.sever c 1).raiseChan c 18).sweepFails).slumberStep
    else s.sbmSever c)

/-- A channel waits for sled power (R371). -/
def State.waitsPower (s : State) (c : ChanId) : Bool :=
  s.pwrBit c && (s.chan c).svc.pres && (s.chan c).svc.st == 0

/-- Sled power rises on the lowest channel that waits for it (R371). -/
def execSledPowerOn (s : State) : Host.Outcome State Fault Refusal :=
  .next (if s.phase = .off then s
    else match allChans.find? s.waitsPower with
      | some c => s.powerOn c
      | none => s)

/-! ### Prepare (R375, R376) -/

/-- Writes with a line on CHn that their destination has taken are accepted now, as admitted before the gate (R375 step 3); one that
the MO buffer cannot hold waits on (R248). -/
def State.acceptTaken (s : State) (c : ChanId) : State :=
  (s.xbar.taken.filter fun e => (newLines e).any fun x => x.1 == c).foldl (fun (s : State) (e : XEntry) =>
    if s.pers.strobe || !s.moRoom e then s else s.acceptWrite e) s

/-- The gate of a prepare: what CHn holds is released with CHn still present, from here on requests treat CHn as prepared, and CHn
drains what came before (R375 steps 2 and 3, R376). -/
def State.prepareGate (s : State) (c : ChanId) : State :=
  let s := (s.acceptTaken c).releaseAll c
  let s := s.modChan c fun k => { k with gate := none, gated := true, drain := .prepare, prepStep := 3 }
  ((s.loseChan c).loseWaiting c false).after c

/-- Sled power falls at step 6 of a prepare, and its keepsake record is asked for (R370, R371, R375 steps 6 and 7). -/
def execPreparePowerOff (c : ChanId) (s : State) : Host.Outcome State Fault Refusal :=
  .next (if (s.chan c).svc.st ≠ 3 ∨ (s.chan c).prepStep ≠ 5 then s
    else
      let s := s.modChan c fun k =>
        { k with
          prepStep := 7, forceOff := true, schOn := false, pwrst := 0
          svc := { k.svc with st := 4, pwrOn := false, req := false } }
      let s := s.leds c 2 0 true
      s.askKs c .prepare)

/-! ### IDLE (R383 to R385) -/

/-- The gate of an entry to IDLE: requests admitted before it are completed (R383). -/
def State.idleGate (s : State) (c : ChanId) : State :=
  ((s.modChan c fun k => { k with gate := none, drain := .idle }).releaseAll c).after c

/-- The gate that stands at a channel: of a prepare, or of an entry to IDLE. -/
def State.passGate (s : State) (c : ChanId) : State :=
  if (s.chan c).svc.st = 3 then s.prepareGate c
  else if (s.chan c).pwrst = 1 then s.idleGate c
  else s.modChan c fun k => { k with gate := none }

/-- An SRE of the self-refresh entry has issued on the subchannel. -/
def Sel.sreIssued (l : Sel) (g : Geom) : Bool :=
  let n := (l.plan.filter fun p => p.kind == .sre).length
  l.selfRef || (decide (0 < n) && decide (n < g.ranks.length))

/-- Something waits for the channel: a request at the crossbar, or a read or write of one that another channel of its set
serves (R384). Weir requests do not count. -/
def State.calls (s : State) (c : ChanId) : Bool :=
  let k := s.chan c
  s.xbar.entries.any (fun e => (s.chansOf e).contains c) || s.xbar.taken.any (fun e => (s.chansOf e).contains c)
    || !k.rq.isEmpty || !k.wq.isEmpty || s.recons.any fun r => r.todo.contains c

/-- An entry to IDLE is given up: before its first SRE the channel runs on, after it the entry completes and the exit follows (R384). -/
def State.leaveEntry (s : State) (c : ChanId) : State :=
  if (s.chan c).sel.toList.any fun l => l.sreIssued (s.geom c) then s.modChan c fun k => { k with wakeDue := true }
  else
    let s := s.modChan c fun k =>
      { k with pwrst := 0, drain := .none, gate := none
               sel := k.sel.each fun l => { l with plan := l.plan.filter fun p => p.use != .selfRef } }
    s.idleDone 0x31 c false

/-- A request reaches a channel that is in IDLE, or enters it past its gate (R384). -/
def execIdleWake (c : ChanId) (s : State) : Host.Outcome State Fault Refusal :=
  .next (let k := s.chan c
    if k.dead || s.pers.strobe || !s.calls c then s
    else if k.pwrst = 2 then s.beginExit c
    else if k.pwrst = 1 ∧ k.drain = .idle then s.leaveEntry c
    else s)

/-! ### SLUMBER and its wake events (R387 to R391) -/

/-- The commit window ends: CORE_PWR_REQ falls, the core is in SLUMBER, and level sources are evaluated (R387, R388). -/
def execSlumberCommit (s : State) : Host.Outcome State Fault Refusal :=
  .next (let s := s.slumberStep
    if s.phase ≠ .commit then s
    else
      let s := s.coreReset
      let s : State := { s with
        phase := .slumber
        sbm := { s.sbm with powerReq := false, corePg := false, rstPend := false, lastPoll := Tab.all 20 none } }
      let s := s.levelEvents
      { s with sbm := { s.sbm with wakeLow := 0 } })

/-- A WAKE_N pin is low (R388, R390). -/
def execWakePin (i : Fin 2) (s : State) : Host.Outcome State Fault Refusal :=
  .next (let s : State := if s.phase = .commit then
      { s with sbm := { s.sbm with wakeLow := s.sbm.wakeLow ||| BitVec.ofNat 2 (2 ^ i.val) } } else s
    s.ruleEvent 1 i.val 0)

/-- WAKE_PULSE_N falls (R388, R390). -/
def execWakePulse (s : State) : Host.Outcome State Fault Refusal := .next (s.ruleEvent 2 0 0)

/-- A retained channel's sensors are polled in SLUMBER: a temperature or a failure counts when two polls in a row show it
(R389, R390). -/
def execSbmTempPoll (c : ChanId) (ack : Bool) (temp : Nat) (s : State) : Host.Outcome State Fault Refusal :=
  .next (if s.phase ≠ .slumber ∨ (s.chan c).phy.level ≠ 2 then s
    else
      let last := s.sbm.lastPoll.at c
      let now := if ack then some temp else none
      let s : State := { s with sbm := { s.sbm with lastPoll := s.sbm.lastPoll.put c (some now) } }
      match last, now with
      | some (some t), some u => s.ruleEvent 5 c.val (min t u)
      | some none, none => s.ruleEvent 6 c.val 0
      | _, _ => s)

/-- SBM_CTL.ALARM_CLR (R391). -/
def State.dropAlarm (s : State) : State := { s with sbm := { s.sbm with alarm := false } }

def execAlarmClr (s : State) : Host.Outcome State Fault Refusal := .next (s.ctl State.dropAlarm)

/-! ### The always-on supply and bring-back (R382, R394, R395) -/

/-- The state as the always-on supply comes up: what the keepsake flash and the OTP hold, and the rest as at power-up. -/
def State.powerUp (s : State) : State :=
  { State.reset with
    pending := s.pending, nextId := s.nextId, freeIx := s.freeIx, otp := s.otp, flash := { s.flash with ksQ := [], store := none, under := false } }

def execAonPowerUp (s : State) : Host.Outcome State Fault Refusal := .next (if s.phase = .off then s.powerUp else s)

/-- The core enters OFF (R382): everything but flash and OTP is lost. -/
def execAonPowerLoss (s : State) : Host.Outcome State Fault Refusal := .next ({ s.powerUp with phase := .off })

/-- The newest counter entry is loaded, and a power-up counts (R443). -/
def State.loadCounters (s : State) : State :=
  let (h, p, n) := match s.flash.counter.newest with
    | some e => (e.hours, e.pcyc, e.next)
    | none => (0, 0, 0)
  let up := s.sbm.pcycDue
  let s : State := { s with
    evr := { s.evr with hours := h, pcyc := if up then p + 1 else p, made := n }
    sbm := { s.sbm with pcycDue := false } }
  if up then s.writeCounter else s

/-- WAKE_CAUSE as a word (R396). -/
def WakeCause.word (w : WakeCause) : Nat :=
  placeB w.wake 0 + placeB w.por 1 + placeB w.fail 2 + place w.rule 5 3 + place w.cls 3 8 + place w.ch 5 11 + place w.seq 4 28

/-- Row 7 ends: the boot state machine is READY, the counters are loaded, the power-up is recorded, and a standing E hold
enters the safe state again (R394, R399, R435, R441, R443). -/
def State.bringDone (s : State) : State :=
  let s : State := { s with phase := .on, cmp := { s.cmp with boot := { s.cmp.boot with ready := true, st := 1 } } }
  let s := s.loadCounters
  let s := s.note 7 s.sbm.wakeCause.word
  if s.fcol.ehold then s.enterSafe s.fcol.cause else s

/-- A row of the bring-back table ends with its condition met (R394). -/
def execBringBackRow (s : State) : Host.Outcome State Fault Refusal :=
  .next (match s.phase with
    | .bring 1 => { s with phase := .bring 2 }
    | .bring 2 => { s with phase := .bring 3, sbm := { s.sbm with powerReq := true } }
    | .bring 3 => if s.sbm.corePg then { s with phase := .bring 4 } else s
    | .bring 4 => { s with phase := .bring 5 }
    | .bring 5 => (({ s with phase := .bring 6 }).releaseReset).sweepFails
    | .bring 6 => { s with phase := .bring 7, cmp := { s.cmp with imem := [], dmem := [] } }
    | .bring 7 => s.bringDone.sweepFails
    | _ => s)

/-- CORE_PG rises in row 3. -/
def execCorePg (s : State) : Host.Outcome State Fault Refusal :=
  .next (if s.phase = .bring 3 then { s with sbm := { s.sbm with corePg := true } } else s)

/-- CORE_PG is still low 5 ms into row 3 (R395): the core stays in SLUMBER, where standing levels are matched (R390). -/
def execCorePgTimeout (s : State) : Host.Outcome State Fault Refusal :=
  .next (if s.phase = .bring 3 ∧ !s.sbm.corePg then
      let w := s.sbm.wakeCause
      ({ s with phase := .slumber
                sbm := { s.sbm with powerReq := false, eval := true, lastPoll := Tab.all 20 none,
                                    wakeCause := { w with fail := true, seq := nextSeq w.seq } } }).levelEvents
    else s)

/-! ### CORE_RST_N (R482) -/

/-- The core is supplied, so that CORE_RST_N acts on it. -/
def State.supplied (s : State) : Bool :=
  match s.phase with
  | .on | .commit | .held => true
  | .bring row => decide (4 ≤ row)
  | _ => false

/-- CORE_RST_N has been low for 100 ns: core reset is entered, after a sluice that runs. -/
def execCoreRst (s : State) : Host.Outcome State Fault Refusal :=
  .next (if !s.supplied || s.phase = .held then s
    else
      let s : State := { s with sbm := { s.sbm with rstLow := true } }
      if s.pers.strobe && !s.pers.done then { s with sbm := { s.sbm with rstPend := true } } else s.enterReset)

/-- CORE_RST_N rises: rows 4 to 7 run. -/
def execCoreRstRelease (s : State) : Host.Outcome State Fault Refusal :=
  .next (let s : State := { s with sbm := { s.sbm with rstLow := false } }
    if s.phase = .held then { s with phase := .bring 4 } else s)

/-- 30 µs after the strobe, a pending core reset is entered though the sluice has not ended (R432, R482). -/
def execCoreResetTimeout (s : State) : Host.Outcome State Fault Refusal :=
  .next (if s.pers.strobe && (s.fcol.corePend || s.sbm.rstPend) then s.enterReset else s)

/-! ### Sources of the SBM and the debug port (R425) -/

def execRefclkOutOfRange (s : State) : Host.Outcome State Fault Refusal := .next (s.raiseOn 563)

def execDebugPortActive (s : State) : Host.Outcome State Fault Refusal := .next (s.raiseOn 559)

end Sys2Proof.Machine
end

