-- ==== Sys2Proof/Machine/Phy.lean ====
section
/-! DEFINITION. The commands of the PHY, the PLLs and the I3C sideband (chapter 11, R419, R474). -/

namespace Sys2Proof.Machine

/-! ### PLLs and calibration (R356, R385, R474) -/

/-- Channel PLL n locks: the PHY calibrates, or the exit from IDLE goes on with SRX (R356, R385). -/
def execChannelPllLock (c : ChanId) (s : State) : Host.Outcome State Fault Refusal :=
  .next (let k := s.chan c
    if !k.phy.started || k.phy.lock || !s.ticking then s
    else
      let s := s.modChan c fun k => { k with phy := { k.phy with lock := true } }
      if k.pwrst = 3 then
        let g := s.geom c
        s.modChan c fun k => { k with sel := k.sel.each fun l => { l with plan := l.plan ++ g.exitPlan l.dclk } }
      else s)

/-- Calibration completes (R356). -/
def execPhyCalDone (c : ChanId) (s : State) : Host.Outcome State Fault Refusal :=
  .next (let k := s.chan c
    if k.phy.started && k.phy.lock && s.phyEn c then s.modChan c fun k => { k with phy := { k.phy with cal := true } } else s)

/-- A PLL is not locked by its limit: it stays unlocked and its source is raised (R474). -/
def execPllLockTimeout (q : Pll) (s : State) : Host.Outcome State Fault Refusal :=
  .next (match q with
    | .global => s.raiseOn 564
    | .mirrorOut => s.raiseOn 565
    | .mirrorIn => if s.mill.st ≠ .off ∧ !s.mill.wiclk then s.raiseOn 565 else s
    | .channel c => if (s.chan c).phy.started ∧ !(s.chan c).phy.lock then s.raiseOn (chanSrc c 23) else s)

/-- A running PLL loses lock (R425, R474); a channel whose PLL does enters the failed state (R424). -/
def execPllUnlock (q : Pll) (s : State) : Host.Outcome State Fault Refusal :=
  .next (match q with
    | .global => s.raiseOn 564
    | .mirrorOut => s.raiseOn 565
    | .mirrorIn =>
      if s.mill.wiclk then ({ s with mill := { s.mill with wiclk := false } }).raiseOn 565 else s
    | .channel c =>
      if (s.chan c).phy.started ∧ (s.chan c).phy.lock then
        let s := s.modChan c fun k => { k with failDue := 2, phy := { k.phy with lock := false } }
        (s.raiseChan c 23).sweepFails
      else s)

/-- The mirror-in PLL locks: WICLK runs (R474). -/
def execMirrorInPllLock (s : State) : Host.Outcome State Fault Refusal :=
  .next (if s.mill.st = .off ∨ !s.ticking then s else { s with mill := { s.mill with wiclk := true } })

/-! ### Temperature (R354, R355) -/

/-- TEMP_CTL. -/
def State.tempCtl (s : State) (c : ChanId) : Word := s.agentRw c 0x018

/-- Slots that hold a module: slot 1 by PHY_CFG.SLOT1, which MRD overrides (R366). -/
def State.slots (s : State) (c : ChanId) : List Nat :=
  let w := s.agent c 0x004
  if flag w 5 && !flag w 4 then [0, 1] else [0]

/-- The polling period ends: every sensor of every module is read, the hub's among them (R352, R354). -/
def execTempPoll (c : ChanId) (s : State) : Host.Outcome State Fault Refusal :=
  .next (if !s.awake || !flag (s.tempCtl c) 0 || !(s.chan c).svc.pwrOn then s
    else
      let xs := (s.slots c).flatMap fun slot => [0, 1, 2].map fun t => ({ slot := slot, target := t, use := .temp } : Xfer)
      s.askXfers c xs)

/-- A slot's reading at the end of a poll: TEMP_STAT, and with TEMP_CTL.EN still 1 HOT and the module-hot source (R355). -/
def State.readTemp (s : State) (c : ChanId) (x : Fin 2) (t : Nat) : State :=
  let hotC := field (s.tempCtl c) 16 9
  let was := (s.chan c).hot.at x
  let now := if !flag (s.tempCtl c) 0 then was else if hotC ≤ t then true else if t + 2 ≤ hotC then false else was
  let s := s.modChan c fun k =>
    { k with
      t0 := if x = 0 then min 255 t else k.t0
      t1 := if x = 1 then min 255 t else k.t1
      hot := k.hot.put x now }
  if now && !was then s.raiseChan c 16 else s

/-- A sensor answers or does not; the last one of a slot ends the slot's poll. -/
def State.tempDone (s : State) (c : ChanId) (x : Xfer) (ack : Bool) (bytes : List Byte) : State :=
  let i : Fin 2 := if x.slot = 1 then 1 else 0
  let old := if x.target = 0 then none else (s.chan c).tacc.at i
  let new := if ack then some (max (old.getD 0) (Config.tempC bytes)) else old
  let s := s.modChan c fun k => { k with tacc := k.tacc.put i new }
  if x.target = 2 then
    match new with
    | some t => s.readTemp c i t
    | none => s
  else s

/-! ### Transfers of jobs and commands (R351 to R354, R414, R419) -/

/-- A channel's part of SPD_READ or PATCH_LOAD is over. -/
def State.spdOver (s : State) (c : ChanId) (j : Nat) : Bool := !((s.chan c).i3c.any fun x => x.use == .spd j)

/-- The number of channels in a mask. -/
def popCount (m : BitVec 20) : Nat := (allChans.filter fun c => m.getLsbD c.val).length

/-- SPD_READ on one channel moves on: slot 0 read, slot 1 read, or failed. -/
def State.spdDone (s : State) (c : ChanId) (j : Nat) (slot : Nat) (ack : Bool) (bytes : List Byte) : State :=
  let s := if ack then s.modChan c fun k =>
      { k with spd0 := if slot = 0 then some bytes else k.spd0, spd1 := if slot = 1 then some bytes else k.spd1 } else s
  if h : j < 8 then
    let named := allChans.filter fun d => (s.job ⟨j, h⟩).mask.getLsbD d.val
    let over_ := named.filter fun d => s.spdOver d j
    let ended := named.all fun d => s.spdOver d j
    s.modJob ⟨j, h⟩ fun b =>
      if b.st ≠ 1 then b
      else
        let b : Job := { b with
          ok := if ack ∧ slot = 0 then b.ok ||| chanBit c else b.ok
          aux := if ack ∧ slot = 1 then b.aux ||| chanBit c else b.aux
          bad := if !ack ∧ slot = 0 then b.bad ||| chanBit c else b.bad }
        let b : Job := { b with prog := progress over_.length named.length }
        if ended then b.finish 0 else b
  else s

/-- Bytes as reply words (R414). -/
def byteWords (bs : List Byte) (n : Nat) : List Word :=
  (List.range n).map fun i => BitVec.ofNat 32 (natOfBytes ((bs.drop (4 * i)).take 4))

/-- What a finished transfer does. -/
def State.xferDone (s : State) (c : ChanId) (x : Xfer) (ack : Bool) (bytes : List Byte) : State :=
  match x.use with
  | .temp => s.tempDone c x ack bytes
  | .spd j => s.spdDone c j x.slot ack bytes
  | .i3cRead =>
    (match s.cmp.cur with
      | some u =>
        if u.opc = 0x12 ∧ u.ch = c then
          if ack then s.replyCur stOk 0 (byteWords (bytes.take x.len) 12) else s.replyCur stFailed 14 []
        else s
      | none => s)
  | .pmicSet =>
    if ack then s.modChan c fun k => { k with settling := true }
    else
      match s.cmp.cur with
      | some u => if u.opc = 0x14 ∧ u.ch = c then (s.replyCur stFailed 14 []).lateRevoke c else s
      | none => s
  | .pmicEnable _ | .pmicOff => s

/-- The I3C transfer under way on the channel ends, acknowledged or not, and the next is sent (R351, R354). An idle bus lets the SBM
take it (R353, R387 step 4). -/
def execI3cTransferDone (c : ChanId) (ack : Bool) (bytes : List Byte) (s : State) : Host.Outcome State Fault Refusal :=
  .next (match (s.chan c).i3c.find? (·.sent) with
    | none => s
    | some x =>
      if !s.awake then s
      else
        let s := s.modChan c fun k => { k with i3c := k.i3c.filter fun x => !x.sent }
        let s := if ack then s else s.raiseChan c 15
        (((s.xferDone c x ack bytes).askXfers c []).after c).slumberStep)

/-! ### PMIC_ENABLE (R419) -/

/-- The write that enables or disables a module's rails; a sled without power has no PMIC to write. -/
def State.pmicWrite (s : State) (c : ChanId) (slot : Nat) (use : XferFor) : State :=
  if !(s.chan c).svc.pwrOn then s else s.askXfers c [{ slot := slot, target := 3, use := use }]

/-- The next module of the order is enabled, or the job has ended. -/
def State.nextEnable (s : State) (j : Fin 8) : State :=
  match (s.job j).todo with
  | [] => s.modJob j fun b => b.finish 0
  | (c, slot) :: _ => (s.modJob j fun b => { b with flag := false, polls := 0 }).pmicWrite c slot (.pmicEnable j.val)

/-- The module in hand leaves the order; its channel passes with its last module. -/
def State.enabled (s : State) (j : Fin 8) (c : ChanId) : State :=
  (s.modJob j fun b =>
    let rest := b.todo.tail
    let more := rest.any fun t => t.1 == c
    let ok := if more || b.bad.getLsbD c.val then b.ok else b.ok ||| chanBit c
    { b with todo := rest, ok := ok, prog := progress (popCount (ok ||| b.bad)) (popCount b.mask) }).nextEnable j

/-- The module in hand has not reached power-good: the channel's rails are disabled, and its later slot is not enabled. -/
def State.givenUp (s : State) (j : Fin 8) (c : ChanId) (slot : Nat) : State :=
  let s := (List.range (slot + 1)).foldl (fun (s : State) (i : Nat) => s.pmicWrite c i .pmicOff) s
  (s.modJob j fun b =>
    let bad := b.bad ||| chanBit c
    { b with todo := b.todo.tail.filter fun t => t.1 != c, bad := bad
             prog := progress (popCount (b.ok ||| bad)) (popCount b.mask) }).nextEnable j

/-- Polls of power-good before a module is given up (R419). -/
def pollLimit : Nat := 10

/-- The job's poll, or the end of the spacing once power-good is reached, at the module in hand. -/
def State.enableStep (s : State) (j : Fin 8) (c : ChanId) (slot1 good : Bool) : State :=
  let b := s.job j
  match b.todo with
  | [] => s
  | (d, slot) :: _ =>
    if d ≠ c ∨ (slot == 1) ≠ slot1 then s
    else if b.flag then (if s.sbm.warn then s else s.enabled j c)
    else if good && (s.chan c).svc.pwrOn then s.modJob j fun b => { b with flag := true }
    else if b.polls + 1 < pollLimit then s.modJob j fun b => { b with polls := b.polls + 1 }
    else if s.sbm.warn then s
    else s.givenUp j c slot

def execPmicEnableSpacing (c : ChanId) (slot1 good : Bool) (s : State) : Host.Outcome State Fault Refusal :=
  .next (match (List.finRange 8).find? fun j => (s.job j).runs 0x13 with
    | some j => s.enableStep j c slot1 good
    | none => s)

end Sys2Proof.Machine
end

