-- ==== Sys2Proof/Machine/Inject.lean ====
section
/-! DEFINITION. The injection window, the parity injections, ECC_CTL.CLR and the fresh-map fill (chapter 9). -/

namespace Sys2Proof.Machine

/-! ### The buffer (R289) -/

/-- The 80 bytes of INJ_BUF. -/
def State.injBuf (s : State) (c : ChanId) : Stored :=
  BitVec.ofNat 640 (((List.range 20).map fun i => (s.agentRw c (0x140 + 4 * i)).toNat * 2 ^ (32 * i)).sum)

def State.setInjBuf (s : State) (c : ChanId) (w : Stored) : State :=
  (List.range 20).foldl (fun (s : State) (i : Nat) =>
    s.setProg (agentKey c.val (0x140 + 4 * i)) (BitVec.ofNat 32 (field w (32 * i + 31) (32 * i)))) s

/-- The line that INJ_LINE holds. -/
def State.injLine (s : State) (c : ChanId) : Nat :=
  (s.agentRw c 0x128).toNat + field (s.agentRw c 0x12C) 1 0 * 2 ^ 32

/-- OUTCOME, DEV and NSYM of a decode (R292). -/
def Inj.report (i : Inj) (r : DecRes) : Inj :=
  match r.out with
  | .clean => { i with outcome := 0, dev := 0, nsym := 0 }
  | .corrected d => { i with outcome := 1, dev := d, nsym := r.nsym }
  | .erased => { i with outcome := 2, dev := 0, nsym := r.nsym }
  | .poison => { i with outcome := 3, dev := 0, nsym := 0 }
  | .uncorrectable => { i with outcome := 4, dev := 0, nsym := 0 }

/-- ENCODE: the check symbols of the 64 data bytes (R274, R289, R290). -/
def State.injEncode (s : State) (c : ChanId) : State :=
  (s.setInjBuf c (encodeLine (rawData (s.injBuf c)))).modChan c fun k => { k with inj := { k.inj with err := 0 } }

/-- DECODE under the erasure setting of the named line's rank (R289, R290). -/
def State.injDecode (s : State) (c : ChanId) : State :=
  let r := decodeStored (s.erasedAt c (s.injLine c)) (s.injBuf c)
  s.modChan c fun k => { k with inj := { k.inj.report r with err := 0 } }

/-- The cause for which a raw access is refused, in the order of R290. -/
def State.rawRefusal (s : State) (c : ChanId) (line : Nat) : Option Nat :=
  if !s.running c then some 3
  else if !(s.geom c).ok ∨ (s.geom c).lines ≤ line then some 2
  else if s.granAt c line ≠ .written then some 1
  else none

/-- WRITE_RAW and READ_RAW ask for the weir with a copy of the buffer and the address (R290). -/
def State.injRaw (s : State) (c : ChanId) (op : Nat) : State :=
  let line := s.injLine c
  let s := if (s.geom c).ok ∧ line < (s.geom c).lines then s.lookFresh c line else s
  match s.rawRefusal c line with
  | some e => s.modChan c fun k => { k with inj := { k.inj with busy := false, err := e } }
  | none =>
    let buf := s.injBuf c
    (s.modChan c fun k => { k with inj := { k.inj with busy := true, op := op, line := line, buf := buf, sent := false } }).ask c 0

/-- INJ_CTL is written with GO and OP (R289, R290): ignored while BUSY is 1. -/
def State.injGo (s : State) (c : ChanId) (op : Nat) : State :=
  if (s.chan c).inj.busy then s
  else
    let s := s.setProg (agentKey c.val 0x120) (BitVec.ofNat 32 (op % 8))
    match op with
    | 1 => s.injEncode c
    | 2 | 3 => s.injRaw c op
    | 4 => s.injDecode c
    | _ => s

def execInjEncode (c : ChanId) (s : State) : Host.Outcome State Fault Refusal := .next (s.agentCtl (·.injGo c 1))
def execInjWriteRaw (c : ChanId) (s : State) : Host.Outcome State Fault Refusal := .next (s.agentCtl (·.injGo c 2))
def execInjReadRaw (c : ChanId) (s : State) : Host.Outcome State Fault Refusal := .next (s.agentCtl (·.injGo c 3))
def execInjDecode (c : ChanId) (s : State) : Host.Outcome State Fault Refusal := .next (s.agentCtl (·.injGo c 4))

/-- A raw write waits for its write-queue entry, or has not been acknowledged (R290). -/
def Chan.rawWriting (k : Chan) : Bool := (k.backs.any fun w => w.purp == .rawWrite) || k.wq.any fun w => w.purp == .rawWrite

/-- The raw access's entry has gone through its queue: a read is issued, a write issued and acknowledged (R290). -/
def Chan.rawEntry (k : Chan) : Option RdE := k.rq.find? fun e => e.purp == .rawRead && e.issued

/-- A raw access completes (R289, R290): READ_RAW fills the buffer and reports the decoder outcome, counting nothing
(R285). -/
def execInjRawComplete (c : ChanId) (raw : Stored) (s : State) : Host.Outcome State Fault Refusal :=
  .next (let k := s.chan c
    if !k.inj.busy || !k.inj.sent then s
    else if k.inj.op = 2 then
      if k.rawWriting then s
      else s.modChan c fun k => { k with inj := { k.inj with busy := false, sent := false, err := 0 } }
    else match k.rawEntry with
      | none => s
      | some e =>
        let r := decodeStored (s.erasedAt c e.loc) raw
        (s.setInjBuf c raw).modChan c fun k =>
          { k with rq := k.rq.filter fun o => o.id != e.id
                   inj := { k.inj.report r with busy := false, sent := false, err := 0 } })

/-! ### Parity injections (R291) -/

/-- What an ARM takes from its control register; lanes beyond the SRAM's word arm nothing. -/
def armOf (w : Word) (serves : Nat → Bool) (at_ : Nat) : InjArm :=
  let code := field w 4 0
  let lane := field w 10 5
  { pend := serves code && Config.sramLane code lane != .beyond, at_ := at_, code := code, lane := lane,
    checkOnly := flag w 11, port := field w 16 12 }

/-- INJ_PARM.ARM: codes 3 to 8 of the channel agent. -/
def State.armChan (s : State) (c : ChanId) : State :=
  let a := armOf (s.agentRw c 0x130) (fun n => decide (3 ≤ n) && decide (n ≤ 8)) (s.tide + 64)
  (s.modChan c fun k => { k with arm := a }).postNow (groupBit 29)

def execInjArm (c : ChanId) (s : State) : Host.Outcome State Fault Refusal := .next (s.agentCtl (·.armChan c))

/-- INJ_GPARM.ARM: codes 0 to 2 and 9 to 17; 16 and 17 arm at once. -/
def State.armGlobal (s : State) : State :=
  let serves := fun (n : Nat) => decide (n ≤ 2) || (decide (9 ≤ n) && decide (n ≤ 17))
  let a := armOf (s.prog 0xB040) serves (s.tide + 64)
  if a.code = 16 ∨ a.code = 17 then { s with garm := { a with pend := false, armed := a.pend } }
  else ({ s with garm := a }).postNow (groupBit 29)

def execInjGarm (s : State) : Host.Outcome State Fault Refusal := .next (s.ctl (·.armGlobal))

/-! ### Counts and the fresh map (R285, R302) -/

/-- ECC_CTL.CLR. -/
def State.clearEcc (s : State) (c : ChanId) : State :=
  s.modChan c fun k => { k with eccDev := Tab.all 20 0, eccErs := Tab.all 2 0, eccTold := Tab.all 20 false }

def execEccClr (c : ChanId) (s : State) : Host.Outcome State Fault Refusal := .next (s.agentCtl (·.clearEcc c))

/-- FRESH_CTL.GO: an update of group 28 is posted, or the fill is refused while a port is open. -/
def State.freshGo (s : State) : State :=
  if s.allClosed then s.postNow (groupBit 28) else { s with fresh := { s.fresh with refused := true } }

def execFreshFillGo (s : State) : Host.Outcome State Fault Refusal := .next (s.ctl (·.freshGo))

/-- The fill reaches its last bit. -/
def execFreshFillDone (s : State) : Host.Outcome State Fault Refusal :=
  .next { s with fresh := { s.fresh with busy := false } }

end Sys2Proof.Machine
end

