-- ==== Sys2Proof/Machine/Flags.lean ====
section
/-! DEFINITION. What software and the pins see: status words, the values that reads return, the output pins, and the
snapshot items. -/

namespace Sys2Proof.Machine

/-- A number as a register word. -/
def word (n : Nat) : Word := BitVec.ofNat 32 n

/-- A mask of the indices below `n` that satisfy `p`, as a number. -/
def maskOf (n : Nat) (p : Nat → Bool) : Nat := ((List.range n).map fun i => placeB (p i) i).sum

/-! ### Ports (R75, R79, R95) -/

/-- STATE of PORT_STAT (R75). -/
def State.portState (s : State) (p : PortId) : Nat :=
  match (s.port p).mode with
  | .closed => 0
  | .isOpen => if s.holdCause p = 0 then 1 else 2
  | .halted => 3
  | .safe => 4
  | .closing => 5

/-- HOLD of PORT_STAT: the cause while the port is HELD. DESIGN CHOICE: R75, R79 and R99 speak of HOLD in HELD alone, and
the spec does not say what it reads while a port in update mode is HALTED or CLOSING; the model reads 0 (log entry 60). -/
def State.portHold (s : State) (p : PortId) : Nat := if (s.port p).mode = .isOpen then s.holdCause p else 0

/-- PORT_STAT (R79). DESIGN CHOICE: WCRD_HELD reads 1 only while a credit is owed to the host; R79 says no more than
'withheld under R78' of a level that is up before any beat has been drained (log entry 60), nor what a HALTED or CLOSING port,
which returns no credit, reads once the level has cleared: the model goes on reading 1 of credits still owed (log entry
70). -/
def State.portStat (s : State) (p : PortId) : Nat :=
  let q := s.port p
  place (s.portState p) 3 0 + place (s.portHold p) 3 3 + placeB q.flood 6 + placeB (q.wdOwed != 0) 7
    + place (min 1024 q.tags.length) 11 8 + place q.reqBuf.length 8 19

def Perr.word (e : Perr) : Nat := place e.reason 4 0 + place e.tag.toNat 12 4 + place e.count 8 16 + place e.seq 4 28

def Vstat.word (v : Vstat) : Nat :=
  placeB v.valid 0 + place v.reason 3 1 + place v.win 5 4 + placeB v.priv 9 + placeB v.wb 10 + place v.opc 4 11
    + place v.count 8 16 + place v.seq 4 28

/-- WCU_VADDR_HI. -/
def Vstat.hi (v : Vstat) : Nat := place (v.addr / 2 ^ 32) 14 0 + place v.tag.toNat 12 14

/-- WCU_VADDR_LO; bits [5:0] are 0. -/
def Vstat.lo (v : Vstat) : Nat := v.addr % 2 ^ 32 / 64 * 64

def SeqCount.word (x : SeqCount) : Nat := place x.count 16 0 + place x.seq 4 28

/-- WCU_STAT: requests admitted and not yet fully answered. DESIGN CHOICE: R98 does not say whether the requests that the
safe state answers ABSENT without a WCU (R63, R486) count as admitted; the model counts them (log entry 60). -/
def Port.wcuStat (q : Port) : Nat := placeB q.updm 0 + place q.flights.length 11 1

/-- The port's own status registers. -/
def State.readPort (s : State) (p : PortId) (off : Nat) : Option Nat :=
  let q := s.port p
  match off with
  | 0x104 => some q.wcuStat
  | 0x108 => some q.vstat.word
  | 0x10C => some q.vstat.lo
  | 0x110 => some q.vstat.hi
  | 0x114 => some q.wbx.word
  | 0x204 => some (s.portStat p)
  | 0x208 => some q.perr.word
  | _ => none

/-! ### Channel agents (R140, R177, R286, R292, R303, R332, R340, R366) -/

def LineRec.word (r : LineRec) : Nat :=
  placeB r.valid 0 + placeB r.flag 1 + place (r.line / 2 ^ 32) 2 2 + place r.count 8 16 + place r.seq 4 28

/-- Banks of CHn in strict in-order mode (R131). -/
def State.strictBanks (s : State) (c : ChanId) : Nat :=
  let g := s.geom c
  let k := s.chan c
  let locs := (k.rq.map (·.loc)).filter (s.strictBank c)
  (locs.foldl (fun (l : List Nat) (x : Nat) => if l.any (g.sameBank x) then l else x :: l) []).length

def State.chqStat (s : State) (c : ChanId) : Nat :=
  let k := s.chan c
  place k.rq.length 8 0 + place k.wqFill 9 8 + place k.eddy.length 7 17 + place (min 63 (s.strictBanks c)) 6 24

def oxNum : OxState → Nat
  | .running => 0
  | .recovery => 1
  | .replay => 2
  | .stopped => 3

/-- Unacknowledged commands of a selector, those marked for replay included (R177). -/

def Chan.oxbStat (k : Chan) : Nat :=
  let a := k.sel.at 0
  let b := k.sel.at 1
  place (oxNum a.ostate) 2 0 + place (oxNum b.ostate) 2 2 + place (min 32 a.unacked) 6 4 + place (min 32 b.unacked) 6 10
    + place a.retries 3 16 + place b.retries 3 19

def Weir.word (w : Weir) (lock : Bool) : Nat :=
  place (w.holder.getD 15) 4 0 + place (maskOf 10 fun i => w.want.toList.getD i false || (i == 0 && w.revokeDue == some 0)) 10 4 + placeB w.susp 14 + placeB lock 15
    + place w.revokes 16 16

def Phy.stat (p : Phy) : Nat := placeB p.lock 0 + placeB p.cal 1 + placeB p.trained 2 + place p.level 3 3

/-- TRN_STAT of a channel that no job trains: the step that failed last (R359). -/
def Phy.trnStat (p : Phy) : Nat :=
  place p.trn.step 4 0 + place p.trn.err 3 4 + place p.trn.sub 1 7 + place p.trn.cs 2 8 + place p.trn.lane 4 10

def Chan.rtrStat (k : Chan) : Nat :=
  place (k.sel.at 0).rtr 7 0 + place (k.sel.at 1).rtr 7 7 + place k.phy.moves 10 14 + place k.phy.fails 8 24

def Chan.tempStat (k : Chan) : Nat := place k.t0 8 0 + place k.t1 8 8 + placeB (k.hot.toList.any id) 16

def Cmark.word (m : Cmark) : Nat := placeB m.valid 0 + place m.set 2 1 + place m.pos 3 3 + place m.abs 5 6

def Chan.tideStat (k : Chan) : Nat := placeB k.tideValid 0 + place k.skew 8 8 + place k.late 16 16

def Ppr.stat (p : Ppr) : Nat := place p.step 4 0 + place p.err 3 4

def Ladder.stat (l : Ladder) : Nat := place l.want 3 0 + place l.rungs 8 8

/-- WASH_STAT (R303). -/
def State.washStat (s : State) (c : ChanId) : Nat :=
  let k := s.chan c
  let now := k.wash.filter fun g => decide (g.done < granLines)
  let bg := now.find? (·.bg)
  let wait := (k.wq.filter fun w =>
    !w.issued && (match w.purp with | .wash _ => false | p => !p.reserved && s.waitsWash c w.home)).length
  place now.length 3 0 + placeB bg.isSome 3 + place ((bg.map (·.gran)).getD 0) 18 4 + place (min 1023 wait) 10 22

def Scrub.stat (x : Scrub) : Nat := place x.st 2 0 + place x.suspect.length 5 2

def Patch.stat (p : Patch) : Nat :=
  place (p.tab.toList.filter fun e => e.st != 0).length 7 0 + place p.badSp.length 11 7 + placeB (p.ksPend || p.ksBad) 18
    + placeB p.staged.isSome 19

def PatchE.hi (e : PatchE) : Nat := place (e.line / 2 ^ 32) 2 0 + place e.st 3 2 + place e.spare 10 5

def Inj.stat (i : Inj) : Nat :=
  placeB i.busy 0 + place i.outcome 3 1 + place i.dev 4 4 + place i.nsym 4 8 + place i.err 2 12

/-- ARMED and HIT of a parity-injection register. -/
def InjArm.bits (a : InjArm) : Nat := placeB a.armed 30 + placeB a.hit 31

/-- Two 16-bit counts of a device, subchannels A and B. -/
def pairOf (t : Tab Nat 20) (d : Nat) : Nat := place (t.toList.getD d 0) 16 0 + place (t.toList.getD (10 + d) 0) 16 16

/-- TRN_STAT: while a TRAIN job still works on the channel it shows the step in progress, and no failure (R366). -/
def State.trnStat (s : State) (c : ChanId) : Nat := if s.inTraining c then s.trainStep c else (s.chan c).phy.trnStat

/-- The status registers of a channel agent. -/
def State.readAgentStat (s : State) (c : ChanId) (off : Nat) : Option Nat :=
  let k := s.chan c
  if 0x0A0 ≤ off ∧ off < 0x0C8 then some (pairOf k.eccDev ((off - 0x0A0) / 4))
  else if 0x0E0 ≤ off ∧ off < 0x108 then some (pairOf k.scrub.ce ((off - 0x0E0) / 4))
  else if 0x400 ≤ off ∧ off < 0x600 then
    let e := k.patch.entry ((off - 0x400) / 8)
    some (if off % 8 = 0 then e.line % 2 ^ 32 else e.hi)
  else match off with
    | 0x008 => some k.phy.stat
    | 0x00C => some (s.trnStat c)
    | 0x014 => some k.rtrStat
    | 0x01C => some k.tempStat
    | 0x044 => some (s.chqStat c)
    | 0x048 => some k.psn.word
    | 0x04C => some (k.psn.line % 2 ^ 32)
    | 0x050 => some k.oxbStat
    | 0x054 => some k.nAlert
    | 0x058 => some k.nNbr
    | 0x05C => some k.nRfm
    | 0x060 => some k.nReread
    | 0x064 => some k.rdue.word
    | 0x068 => some (k.rdue.line % 2 ^ 32)
    | 0x06C => some k.cmark.word
    | 0x070 => some k.tideStat
    | 0x078 => some (k.weir.word k.ppr.lock)
    | 0x07C => some k.ppr.stat
    | 0x084 => some k.ladder.stat
    | 0x08C => some (s.washStat c)
    | 0x09C => some (place (k.eccErs.at 0) 16 0 + place (k.eccErs.at 1) 16 16)
    | 0x0D0 => some k.scrub.stat
    | 0x0D4 => some (place k.scrub.ers 16 0 + place k.scrub.ue 8 16 + place k.scrub.recon 8 24)
    | 0x0D8 => some (place k.scrub.fresh 16 0 + place k.scrub.psn 8 16 + place k.scrub.hard 8 24)
    | 0x110 => some k.patch.stat
    | 0x124 => some k.inj.stat
    | _ => none

/-- What a read of the register with key `key` returns of its stored bits; write-only bits and EVR_KEY read 0 (R9, R447,
R462). -/
def State.stored (s : State) (key : Nat) : Word :=
  let i := regInfo key
  if 0x5040 ≤ key ∧ key < 0x5060 then 0 else s.shadow key &&& (i.rw ||| i.rws ||| i.rwc)

/-- A read of register `off` of channel agent `c` (R453). -/
def State.readAgent (s : State) (c : ChanId) (off : Nat) : Word :=
  match s.readAgentStat c off with
  | some n => word n
  | none =>
    let w := s.stored (agentKey c.val off)
    if off = 0x130 then w ||| word (s.chan c).arm.bits else w

/-! ### Pins of the fault collector (R430, R447) -/

/-- The reaction field of a source (R429). -/
def State.react (s : State) (src : Nat) : Nat :=
  let i := src % 4
  field (s.prog (0x4200 + 4 * (src / 4))) (8 * i + 7) (8 * i)

/-- A latched source has bit `b` of its reaction set; source 575 ignores its field (R429). -/
def State.anyReact (s : State) (b : Nat) : Bool :=
  (List.range 575).any fun src => s.fcol.fstat.getLsbD src && (s.react src).testBit b

/-- Levels of ZX_INT, ZX_NMI and ERR_OUT_N (true when low); inert during core reset (R430). -/
def State.zxInt (s : State) : Bool := s.ticking && s.anyReact 0
def State.zxNmi (s : State) : Bool := s.ticking && (s.fcol.safe || s.anyReact 1)
def State.errOut (s : State) : Bool := s.ticking && (s.fcol.safe || s.anyReact 2)

def State.fcolStat (s : State) : Nat :=
  let f := s.fcol
  placeB f.safe 0 + placeB f.ehold 1 + placeB f.corePend 2 + placeB f.self 3 + place f.cause 10 4 + placeB s.zxInt 14
    + placeB s.zxNmi 15 + placeB s.errOut 16

/-- CORE_PWR_REQ, THERM_ALARM, SLUICE_DONE and WITNESS_REQ (R387, R391, R483, R263). -/
def State.corePwrReq (s : State) : Bool := s.sbm.powerReq
def State.thermAlarm (s : State) : Bool := s.sbm.alarm
def State.sluiceDonePin (s : State) : Bool := s.pers.done
def State.witnessReq (s : State) : Bool := s.mill.wreq

/-! ### Global status (R188, R238, R272, R396, R406, R447, R461, R465, R470) -/

/-- Channels that the sluice waits for. -/
def State.sluiceChans (s : State) : List ChanId := allChans.filter fun c => !(s.chan c).dead && (s.chan c).schOn

/-- SLU_STAT.STATE (R216). -/
def State.sluState (s : State) : Nat :=
  let all := fun (m : BitVec 20) => s.sluiceChans.all fun c => m.getLsbD c.val
  if !s.pers.strobe then 0
  else if !all s.pers.drained || !s.millShut then 2
  else if !all s.pers.inSelf then 3
  else if !all s.pers.held then 4
  else 5

def State.sluStat (s : State) : Nat := place s.sluState 3 0 + place s.pers.cause 3 3 + placeB s.pers.mclosed 6

def State.persStat (s : State) : Nat :=
  place (min 255 (s.pers.cur - s.pers.dur)) 8 0 + place (min 255 (s.pers.cur - s.pers.loc)) 8 8

def Span.tallyStat (sp : Span) : Nat :=
  place sp.marks.length 10 0 + placeB sp.markFull 10 + place (min (2 ^ 21 - 1) sp.markWrites) 21 11

def Span.stat (sp : Span) : Nat := place sp.st 2 0 + place sp.pos 3 2 + place sp.ranks.toNat 8 5

def State.cadStat (s : State) : Nat :=
  place (maskOf 8 s.cadActs) 8 0
    + place (maskOf 8 fun k => s.cad.posted.any fun e => e.entry == k) 8 8

def moSixteenths (n : Nat) : Nat := min 16 (sixteenths n 16384)

/-- MILL_STAT (R272). -/
def State.millStat (s : State) : Nat :=
  let m := s.mill
  let n := match m.st with
    | .off => 0 | .handshake => 1 | .mirrored => 2 | .frozen => 3 | .solo => 4 | .fenced => 5 | .resyncSrc => 6
    | .resyncTgt => 7
  place n 4 0 + placeB m.linked 4 + placeB m.moUp 5 + placeB m.miUp 6 + placeB (m.st == .frozen && (m.wreq || s.wmode == 2)) 7 + placeB m.withhold 8
    + place (moSixteenths m.moBuf.length) 5 9 + place (min 16 s.miFill) 5 14 + place m.refuse 3 19 + place m.why 3 22
    + placeB m.driftOk 25

def Brk.word (b : Brk) : Nat := placeB b.valid 0 + place b.lane 2 1 + place b.reason 4 3 + place b.count 8 16 + place b.seq 4 28

def Mill.rsStat (m : Mill) : Nat := place m.drift.size 23 0 + placeB m.rs.active 23 + placeB m.rs.full 24

def Sbm.sagStat (b : Sbm) : Nat :=
  placeB b.warn 0 + placeB b.crit 1 + placeB b.warnPin 2 + placeB b.critPin 3 + placeB b.pfPin 4 + place b.droop.toNat 6 5
    + place b.warnCount 16 16

def Chan.svcStat (k : Chan) : Nat :=
  let v := k.svc
  place v.st 3 0 + placeB v.pres 3 + placeB v.powerOut 4 + placeB v.req 5 + placeB v.lost 6 + placeB v.abandon 7
    + place v.why 3 8 + place k.pwrst 2 11 + place k.prepStep 3 13

/-- RCVD_KIB: what has been received. How much of a stored image the boot state machine has read is its own affair: a free value
up to TOTAL (R404). -/
def State.rcvdKib (s : State) : Nat :=
  let b := s.cmp.boot
  (if b.st = 2 ∧ b.src then Config.workDone s.freeIx % (b.total + 1) else b.image.length) / 1024

def Boot.word (b : Boot) (kib : Nat) : Nat :=
  placeB b.ready 0 + place b.st 3 1 + place b.err 5 4 + placeB b.src 9 + placeB b.keySlot 10
    + place kib 10 11 + place b.svn 8 21

def Cmp.stat (m : Cmp) : Nat :=
  place m.ci 5 0 + placeB m.ovf 5 + placeB m.seqSet 6 + placeB m.cur.isSome 7 + place m.lseq 16 16

def Job.stat (b : Job) : Nat := place b.st 3 0 + place b.opc 8 3 + place b.target 5 11 + place b.err 5 16
def Job.progWord (b : Job) : Nat := place b.prog 11 0 + place b.cseq 16 16

/-- EVR_CNT: keep-forever records held, and circulating records presented. -/
def State.evrCnt (s : State) : Nat :=
  place (min 256 s.flash.kf.length) 9 0 + place (min 256 (s.flash.circ.length + s.evr.buf.length)) 9 16

def Evr.stat (e : Evr) : Nat :=
  placeB e.busy 0 + placeB e.valid 1 + place e.buf.length 7 2 + placeB e.chal.isSome 9 + place e.lost 16 16

def Regs.updAtStat (r : Regs) : Nat :=
  placeB r.atPend 0 + placeB r.atPosted 1 + placeB r.atDone 2 + placeB r.atLate 3 + place r.atSeq 4 28

def State.stitchStat (s : State) : Nat :=
  let r := s.regs
  placeB r.stArmed 0 + placeB r.stPend 1 + placeB r.stMism 2 + placeB s.fcol.safe 3 + place r.stAuto 8 8
    + place r.stSweeps 16 16

def Regs.snapStat (r : Regs) : Nat := placeB r.snapValid 0 + placeB r.snapErr 1 + place r.snapItem 10 2

/-- Reply slots, job registers and the command window's status (R406). -/
def State.readCmd (s : State) (off : Nat) : Option Nat :=
  if 0x400 ≤ off ∧ off < 0x800 then some (s.cmp.rpl.get zeroWord ((off - 0x400) / 4)).toNat
  else if 0x840 ≤ off ∧ off < 0x880 then
    let b := s.cmp.jobs.toList.getD ((off - 0x840) / 8) {}
    some (if off % 8 = 0 then b.stat else b.progWord)
  else match off with
    | 0x804 => some s.cmp.stat
    | 0x808 => some (s.cmp.boot.word s.rcvdKib)
    | _ => none

/-- The status registers of the global blocks other than the ports. -/
def State.readGlobalStat (s : State) (addr : Nat) : Option Nat :=
  if 0x2000 ≤ addr ∧ addr < 0x3000 then s.readCmd (addr - 0x2000)
  else if 0x4000 ≤ addr ∧ addr < 0x4048 then some (field s.fcol.fstat (8 * (addr - 0x4000) + 31) (8 * (addr - 0x4000)))
  else if 0x4080 ≤ addr ∧ addr < 0x40C8 then some (s.fcol.fseq.toList.getD ((addr - 0x4080) / 4) 0)
  else if 0x5020 ≤ addr ∧ addr < 0x5040 then some (field s.evr.rcd (8 * (addr - 0x5020) + 31) (8 * (addr - 0x5020)))
  else if 0x6180 ≤ addr ∧ addr < 0x61D0 then some ((s.chans.toList.getD ((addr - 0x6180) / 4) {}).svcStat)
  else if 0x7020 ≤ addr ∧ addr < 0x7030 then some ((s.spans.toList.getD ((addr - 0x7020) / 4) {}).tallyStat)
  else if 0xB000 ≤ addr ∧ addr < 0xB010 then some ((s.spans.toList.getD ((addr - 0xB000) / 4) {}).stat)
  else if 0xB010 ≤ addr ∧ addr < 0xB020 then some ((s.spans.toList.getD ((addr - 0xB010) / 4) {}).holes.length % 2 ^ 19)
  else match addr with
    | 0x000 => some 0x18140200
    | 0x018 => some s.regs.indErr
    | 0x024 => some s.posted.toNat
    | 0x040 => some s.regs.updAtStat
    | 0x050 => some s.regs.cinch.toNat
    | 0x060 => some s.regs.stRef.toNat
    | 0x068 => some s.stitchStat
    | 0x074 => some s.regs.snapStat
    | 0x078 => some s.regs.snapLo.toNat
    | 0x07C => some s.regs.snapHi.toNat
    | 0x4104 => some s.fcolStat
    | 0x5000 => some s.evr.made
    | 0x5004 => some s.evrCnt
    | 0x500C => some s.evr.stat
    | 0x5010 => some s.evr.hours
    | 0x5014 => some s.evr.pcyc
    | 0x6004 => some s.sbm.sagStat
    | 0x600C => some (placeB s.sbm.alarm 0 + placeB s.sbm.eval 1)
    | 0x6010 => some s.sbm.wakeCause.word
    | 0x6014 => some (s.sbm.press.toNat + place s.sbm.pressSeq 4 28)
    | 0x6018 => some (s.sbm.pchg.toNat + place s.sbm.pchgSeq 4 28)
    | 0x7008 => some s.persStat
    | 0x7010 => some s.sluStat
    | 0x7014 => some s.pers.held.toNat
    | 0x7018 => some s.pers.lost.toNat
    | 0x8100 => some s.cadStat
    | 0x9020 => some s.millStat
    | 0x9024 => some s.mill.brk.word
    | 0x9028 => some s.mill.rsStat
    | 0x902C => some s.mill.log.length
    | 0xA06C => some (place s.freshBits.size 23 0 + placeB s.fresh.busy 23 + placeB s.fresh.refused 24)
    | 0xB020 => some (place s.retire.list.length 10 0 + place s.retire.dropped 16 16)
    | _ => none

/-- What a direct read of a global register returns (R449); IND_DATA is read apart. -/
def State.readGlobal (s : State) (addr : Nat) : Word :=
  let addr := addr / 4 * 4
  if 0x10000 ≤ addr then
    match allPorts.find? fun p => p.val == (addr - 0x10000) / 0x1000 with
    | none => 0
    | some p =>
      match s.readPort p (addr % 0x1000) with
      | some n => word n
      | none => s.stored addr
  else match s.readGlobalStat addr with
    | some n => word n
    | none =>
      let w := s.stored addr
      if addr = 0xB040 then w ||| word s.garm.bits else w

/-! ### Snapshot items (R319, R471) -/

/-- RETIRE_HEAD. -/
def State.retireHead (s : State) : Nat :=
  match s.retire.list with
  | [] => 0
  | e :: _ => place e.page 34 0 + place e.ch.val 5 34 + place e.cause 3 39 + 2 ^ 63

/-- The value of a snapshot item, none for a number that is not in the table. -/
def State.snapItem (s : State) (i : Nat) : Option Nat :=
  let m := s.mill
  if 0x010 ≤ i ∧ i < 0x018 then some ((s.cad.next.toList.getD (i - 0x010) none).getD 0)
  else if 0x020 ≤ i ∧ i < 0x024 then some (s.spans.toList.getD (i - 0x020) {}).reb.cur
  else if 0x040 ≤ i ∧ i < 0x054 then some (s.chans.toList.getD (i - 0x040) {}).cmark.epoch
  else if 0x060 ≤ i ∧ i < 0x074 then some (s.chans.toList.getD (i - 0x060) {}).scrub.lines
  else if 0x080 ≤ i ∧ i < 0x094 then some (s.chans.toList.getD (i - 0x080) {}).scrub.next
  else if 0x0A0 ≤ i ∧ i < 0x0B8 then some (s.ports.toList.getD (i - 0x0A0) {}).rdCnt
  else if 0x0C0 ≤ i ∧ i < 0x0D8 then some (s.ports.toList.getD (i - 0x0C0) {}).wrCnt
  else match i with
    | 0 => some s.tide
    | 1 => some s.pers.cur
    | 2 => some s.pers.loc
    | 3 => some s.pers.dur
    | 4 => some m.div
    | 5 => some m.acked
    | 6 => some m.applied
    | 7 => some m.peerLast
    | 8 => some m.peerInfo
    | 9 => some s.retireHead
    | 10 => some (s.evr.hours % 2 ^ 32 + s.evr.pcyc % 2 ^ 32 * 2 ^ 32)
    | _ => none

end Sys2Proof.Machine
end

