-- ==== Sys2Proof/Machine/Faults.lean ====
section
/-! DEFINITION. The commands of the fault collector and the event recorder (chapter 14), and the sequence-number clears
(R457). -/

namespace Sys2Proof.Machine

/-! ### Unit resets (R27, R238, R431, R468) -/

/-- Key `key` belongs to channel agent `c`. -/
def agentOwns (c : ChanId) (key : Nat) : Bool := decide (agentKey c.val 0 ≤ key) && decide (key < agentKey c.val 0x1000)

/-- The registers of channel agent `c` return to their reset values; CHn keeps the levels of its PHY field, its service state
and its washing granules with their cursors (R27, R301, R431). -/
def State.resetAgent (s : State) (c : ChanId) : State :=
  let r := s.regs
  let s : State := { s with regs := { r with
    prog := r.prog.keep fun k => !agentOwns c k
    live := r.live.keep fun k => !agentOwns c k
    held := r.held.filter fun h => !agentOwns c h.key } }
  let s := s.modChan c fun k =>
    { svc := k.svc, ret := k.ret, forceOff := k.forceOff, failed := k.failed, wash := k.wash, phy := { level := k.phy.level, drst := k.phy.drst } }
  s.autoCommit

/-- Nuinun stops, and every running job is abandoned with ERR 5 (R399, R418). -/
def State.stopNuinun (s : State) : State :=
  ({ s with cmp := { s.cmp with nuHalt := true, nuRun := false } }).abandonJobs 5 fun _ => true

/-- Nuinun halts and is held in reset: only a core reset restarts it (R398, R431). -/
def State.haltNuinun (s : State) : State :=
  State.stopNuinun { s with cmp := { s.cmp with nuHeld := true } }

/-- The port whose reaction a global source's UNIT is. -/
def portOfSrc (src : Nat) : Option PortId :=
  if src < 480 ∨ 528 ≤ src then none else some ⟨(src - 480) % 24, Nat.mod_lt _ (by decide)⟩

/-- The channel of a channel source. -/
def chanOfSrc (src : Nat) : Option ChanId := if h : src / 24 < 20 then some ⟨src / 24, h⟩ else none

/-- Sources whose unit is the millrace, and Nuinun (R425). -/
def millSrc (src : Nat) : Bool := [533, 534, 535, 536, 540, 542, 565].contains src
def nuinunSrc (src : Nat) : Bool := src == 538 || src == 539

/-- The channel has sled power and is in use: a sever of it does something (R431). -/
def State.severable (s : State) (c : ChanId) : Bool :=
  let k := s.chan c
  k.svc.st == 1 || k.svc.st == 2 || k.svc.st == 3

/-- SEVER (R429). -/
def State.severReact (s : State) (src : Nat) : State :=
  match chanOfSrc src with
  | some c => s.sever c 4
  | none => s

/-- The effective OPEN of a port is forced to 0 (R431). -/
def State.shutPort (s : State) (p : PortId) : State :=
  (s.modPort p fun q => { q.beginClose with forcedShut := true, shutAt := s.tide }).updFlood p

/-- UNIT (R431); `used`: its channel was in use before the source's reactions. A channel that SEVER has severed is not severed again. -/
def State.unitReact (s : State) (src : Nat) (used : Bool) : State :=
  match chanOfSrc src with
  | some c => if used then (s.sever c 4).resetAgent c else s
  | none =>
    match portOfSrc src with
    | some p => s.shutPort p
    | none =>
      if millSrc src then ({ s with mill := { s.mill with forceOff := true, offAt := s.tide } }).millOff
      else if nuinunSrc src then s.haltNuinun
      else s

/-! ### Latching (R426 to R438) -/

/-- The first-record register of a source that has one, for its fault record (R441). -/
def State.firstRecord (s : State) (src : Nat) : Nat :=
  match chanOfSrc src with
  | some c =>
    if src % 24 = 2 then (s.chan c).psn.word else if src % 24 = 6 then (s.chan c).rdue.word else 0
  | none =>
    match portOfSrc src with
    | some p => if src < 504 then (s.port p).perr.word else (s.port p).vstat.word
    | none => if src = 542 then s.mill.brk.word else 0

/-- The bit of a source latches, and FSEQ of its word advances (R426). -/
def State.latchBit (s : State) (src : Nat) : State :=
  let f := s.fcol
  let w : Fin 18 := ⟨src / 32 % 18, Nat.mod_lt _ (by decide)⟩
  { s with fcol := { f with lines := f.lines.erase src
                            fstat := f.fstat ||| BitVec.ofNat 576 (2 ^ src)
                            fseq := f.fseq.put w (nextSeq (f.fseq.at w)) } }

/-- The fault record of a 0-to-1 change (R429, R441). -/
def State.faultRecord (s : State) (src : Nat) : State :=
  s.record 1 src (srcClass src) (s.fcol.fseq.toList.getD (src / 32) 0 + s.firstRecord src * 2 ^ 8)

/-- The latch enters the safe state: class D and E, CORE where it acts, and source 575 (R428, R433). -/
def entersSafe (src react : Nat) : Bool :=
  let cls := srcClass src
  cls == 3 || cls == 4 || (cls != 0 && src != 575 && react.testBit 5)

/-- CORE acts at the latch of the source (R428, R429, R437). -/
def wantsCore (src react : Nat) : Bool := srcClass src != 0 && src != 575 && react.testBit 5

/-- SEVER and UNIT of a latch outside the safe state (R428, R431). -/
def State.unitReactions (s : State) (src : Nat) (react : Nat) : State :=
  if srcClass src = 0 then s
  else
    let used := match chanOfSrc src with | some c => s.severable c | none => false
    let t := if react.testBit 4 then s.severReact src else s
    if react.testBit 3 then t.unitReact src used else t

/-- The reactions of the latches of one MCLK, the safe state's entry first: where any of them enters it, or it holds, none
acts through SEVER or UNIT (R428 to R434). -/
def State.reactTo (s : State) (srcs : List (Nat × Nat)) : State :=
  let safe := s.fcol.safe || srcs.any fun e => entersSafe e.1 e.2
  if safe then
    let s := match srcs.find? fun e => entersSafe e.1 e.2 with
      | some e => s.enterSafe e.1
      | none => s
    if srcs.any fun e => wantsCore e.1 e.2 then ({ s with fcol := { s.fcol with corePend := true } }).resetDue else s
  else srcs.foldl (fun (s : State) (e : Nat × Nat) => s.unitReactions e.1 e.2) s

/-- A source latches (R426): its own rule where it acts at the FCOL alone, the record, EHOLD. -/
def State.latch (s : State) (src : Nat) : State :=
  let fresh := !s.fcol.fstat.getLsbD src
  let react := s.react src
  let s := s.latchBit src
  let s := if src = 538 then s.haltNuinun else s
  let s := if fresh && react.testBit 6 && src != 575 then s.faultRecord src else s
  let s : State := if src = 575 then { s with fcol := { s.fcol with self := true } } else s
  if srcClass src = 4 then { s with fcol := { s.fcol with ehold := true } } else s

/-- The sources of one MCLK latch in ascending order (R438), and then react. -/
def State.latchAll (s : State) (srcs : List Nat) : State :=
  let reacts := srcs.map fun n => (n, s.react n)
  (srcs.foldl State.latch s).reactTo reacts

/-- The sources that latch, ascending: reserved ones are never raised (R425). -/
def latching (srcs : List (Fin 576)) : List Nat :=
  (List.range 576).filter fun n => (srcs.any fun o => o.val == n) && srcClass n != 7

/-- Source 556 asserted by the flash, not by an operation of the core that has already failed: the failure is that of the next
flash operation whose row does not say how it went. DESIGN CHOICE: log entry 67. -/
def State.flashFault (s : State) (srcs : List Nat) : State :=
  if srcs.contains 556 && !s.fcol.lines.contains 556 then { s with flash := { s.flash with failed := true } } else s

/-- Lines of sources reach the FCOL in one MCLK, out of core reset (R426, R438). -/
def execFaultLatch (srcs : List (Fin 576)) (s : State) : Host.Outcome State Fault Refusal :=
  .next (if !s.ticking then s else (((s.flashFault (latching srcs)).latchAll (latching srcs)).settleAll.sweepFails))

/-- A write of FCLR (R427). -/
def State.clearFault (s : State) (data : Word) : State :=
  let w := field data 4 0
  if h : w < 18 then
    if s.fcol.fseq.at ⟨w, h⟩ = field data 8 5 then
      { s with fcol := { s.fcol with fstat := s.fcol.fstat &&& ~~~(BitVec.ofNat 576 (0xFFFFFFFF * 2 ^ (32 * w))) } }
    else s
  else s

def execFclr (data : Word) (s : State) : Host.Outcome State Fault Refusal := .next (s.ctl (·.clearFault data))

/-- The SBM's watch of the firmware heartbeat: 100 ms without one in RUNNING (R425). -/
def execNuinunWatchdog (s : State) : Host.Outcome State Fault Refusal :=
  .next (if s.cmp.boot.st = 5 ∧ !s.cmp.nuHalt ∧ s.ticking then s.raise 539 else s)

/-! ### Event records (R439 to R446) -/

/-- The 28 bytes of a record before its CRC, as a number (R440). DESIGN CHOICE: R484 says that event records carry RELEASE, and R440's
layout, which has no such field, is followed (log entry 74). -/
def EvRec.body (r : EvRec) : Nat :=
  place r.rseq 32 0 + place r.hours 32 32 + place r.pcyc 32 64 + place r.tide 32 96 + place r.source 16 128
    + place r.type 8 144 + place r.cls 3 152 + placeB r.lostBefore 155 + r.detail.toNat * 2 ^ 160

/-- A record's 32 bytes (R440). -/
def EvRec.bytes (r : EvRec) : BitVec 256 :=
  BitVec.ofNat 256 (r.body + (crc32c (bytesOfNat r.body 28)).toNat * 2 ^ 224)

/-- Slots of the circulating ring, and those lost when it starts a sector again (R439). -/
def ringSlots : Nat := 512
def sectorSlots : Nat := 128

/-- A record is written to the circulating area, newest first, and to the keep-forever area while that has room and the
record is no clear record (R439). -/
def Flash.put (f : Flash) (r : EvRec) : Flash :=
  let circ := if ringSlots ≤ f.circ.length then f.circ.take (ringSlots - sectorSlots) else f.circ
  { f with circ := r :: circ, kf := if f.kf.length < 256 ∧ r.type ≠ 9 then f.kf ++ [r] else f.kf }

/-- The oldest buffered record is programmed while the warn decision is not raised (R225, R442); one whose byte is bad is
dropped and counted as lost (R288 code 16). -/
def State.programRecord (s : State) : State :=
  match s.evr.buf with
  | [] => s
  | (r, bad) :: rest =>
    let s : State := { s with evr := { s.evr with buf := rest } }
    let s := s.readG 537 bad
    if acts bad then { s with evr := { s.evr with lost := satAdd 65535 s.evr.lost 1, lostBefore := true } }
    else { s with flash := s.flash.put r }

/-- A program of the oldest record ends. DESIGN CHOICE: one that the flash failed leaves the record in the buffer, to be
programmed again (log entry 67). -/
def execEvrRecordProgram (s : State) : Host.Outcome State Fault Refusal :=
  .next (if !s.mayProgram || !s.ticking then s
    else if s.evr.buf.isEmpty then s.slumberStep
    else if s.flash.failed then s.programmed.flashTold
    else s.programmed.programRecord.slumberStep)

/-- Another 1/64 h of operation (R443). -/
def execHourTick (s : State) : Host.Outcome State Fault Refusal :=
  .next (match s.phase with
    | .on | .commit => ({ s with evr := { s.evr with hours := (s.evr.hours + 1) % 2 ^ 32 } }).writeCounter
    | _ => s)

/-- A write of EVR_SEL (R444). -/
def State.selRecord (s : State) (data : Word) : State :=
  let s := s.setProg 0x5008 (data &&& 0x1FF)
  { s with evr := { s.evr with busy := true, valid := false } }

def execEvrFetch (data : Word) (s : State) : Host.Outcome State Fault Refusal := .next (s.ctl (·.selRecord data))

/-- The record that EVR_SEL names (R444), with the bad byte of one still in the buffer, which is served from there. -/
def State.fetched (s : State) : Option (EvRec × Option Bad) :=
  let w := s.prog 0x5008
  let i := field w 7 0
  let stored := fun (rs : List EvRec) => rs.map fun r => (r, (none : Option Bad))
  if flag w 8 then ((s.evr.buf.reverse ++ stored s.flash.circ).take 256)[i]?
  else
    let room := 256 - s.flash.kf.length
    (stored s.flash.kf ++ (s.evr.buf.filter fun e => e.1.type != 9).take room)[i]?

/-- The buffered record with a bad byte is dropped and counted as lost (R288 code 16). -/
def Evr.dropBad (e : Evr) (r : EvRec) : Evr :=
  { e with buf := e.buf.filter fun o => o.1.rseq != r.rseq, lost := satAdd 65535 e.lost 1, lostBefore := true }

/-- The fetch ends (R444). -/
def execEvrFetchDone (s : State) : Host.Outcome State Fault Refusal :=
  .next (if !s.evr.busy then s
    else
      match s.fetched with
      | some (r, bad) =>
        let s := s.readG 537 bad
        if acts bad then { s with evr := { s.evr.dropBad r with busy := false, valid := false } }
        else { s with evr := { s.evr with busy := false, valid := true, rcd := r.bytes } }
      | none => { s with evr := { s.evr with busy := false, valid := false } })

/-! ### Sequence-number clears (R457) -/

/-- The SEQ of a clearing write. -/
def seqOf (data : Word) : Nat := field data 31 28

def Perr.clear (e : Perr) (data : Word) : Perr := if e.seq = seqOf data then { seq := e.seq } else e
def Vstat.clear (v : Vstat) (data : Word) : Vstat := if v.seq = seqOf data then { seq := v.seq } else v
def SeqCount.clear (x : SeqCount) (data : Word) : SeqCount := if x.seq = seqOf data then { seq := x.seq } else x
def LineRec.clear (r : LineRec) (data : Word) : LineRec := if r.seq = seqOf data then { seq := r.seq } else r
def Brk.clear (b : Brk) (data : Word) : Brk := if b.seq = seqOf data then { seq := b.seq } else b
def WakeCause.clear (w : WakeCause) (data : Word) : WakeCause :=
  if w.seq = seqOf data then { por := false, seq := w.seq } else w

/-- PORT_PERR (R74); WCU_VSTAT with WCU_VADDR_LO and WCU_VADDR_HI (R94); WCU_WBX (R91). -/
def State.clearPerr (s : State) (p : PortId) (data : Word) : State := s.modPort p fun q => { q with perr := q.perr.clear data }
def State.clearVstat (s : State) (p : PortId) (data : Word) : State := s.modPort p fun q => { q with vstat := q.vstat.clear data }
def State.clearWbx (s : State) (p : PortId) (data : Word) : State := s.modPort p fun q => { q with wbx := q.wbx.clear data }

/-- EDDY_PSN with EDDY_PSN_L (R129); RDUE with RDUE_L (R176). -/
def State.clearPsn (s : State) (c : ChanId) (data : Word) : State := s.modChan c fun k => { k with psn := k.psn.clear data }
def State.clearRdue (s : State) (c : ChanId) (data : Word) : State := s.modChan c fun k => { k with rdue := k.rdue.clear data }

def execPortPerrClear (p : PortId) (data : Word) (s : State) : Host.Outcome State Fault Refusal :=
  .next (s.ctl (·.clearPerr p data))

def execWcuVstatClear (p : PortId) (data : Word) (s : State) : Host.Outcome State Fault Refusal :=
  .next (s.ctl (·.clearVstat p data))

def execWcuWbxClear (p : PortId) (data : Word) (s : State) : Host.Outcome State Fault Refusal :=
  .next (s.ctl (·.clearWbx p data))

def execEddyPsnClear (c : ChanId) (data : Word) (s : State) : Host.Outcome State Fault Refusal :=
  .next (s.agentCtl (·.clearPsn c data))

def execRdueClear (c : ChanId) (data : Word) (s : State) : Host.Outcome State Fault Refusal :=
  .next (s.agentCtl (·.clearRdue c data))

/-- UPD_AT_STAT: DONE and LATE. -/
def State.clearUpdAt (s : State) (data : Word) : State :=
  if s.regs.atSeq = seqOf data then { s with regs := { s.regs with atDone := false, atLate := false } } else s

def execUpdAtStatClear (data : Word) (s : State) : Host.Outcome State Fault Refusal := .next (s.ctl (·.clearUpdAt data))

/-- MILL_BRK (R272). -/
def State.clearBrk (s : State) (data : Word) : State := { s with mill := { s.mill with brk := s.mill.brk.clear data } }

def execMillBrkClear (data : Word) (s : State) : Host.Outcome State Fault Refusal := .next (s.ctl (·.clearBrk data))

/-- SVC_PRESS and SVC_PCHG. -/
def State.clearPress (s : State) (data : Word) : State :=
  if s.sbm.pressSeq = seqOf data then { s with sbm := { s.sbm with press := 0 } } else s
def State.clearPchg (s : State) (data : Word) : State :=
  if s.sbm.pchgSeq = seqOf data then { s with sbm := { s.sbm with pchg := 0 } } else s

def execSvcPressClear (data : Word) (s : State) : Host.Outcome State Fault Refusal := .next (s.ctl (·.clearPress data))
def execSvcPchgClear (data : Word) (s : State) : Host.Outcome State Fault Refusal := .next (s.ctl (·.clearPchg data))

/-- WAKE_CAUSE (R396). -/
def State.clearWake (s : State) (data : Word) : State :=
  { s with sbm := { s.sbm with wakeCause := s.sbm.wakeCause.clear data } }

def execWakeCauseClear (data : Word) (s : State) : Host.Outcome State Fault Refusal := .next (s.ctl (·.clearWake data))

end Sys2Proof.Machine
end

