-- ==== Sys2Proof/Machine/Packet.lean ====
section
/-! DEFINITION. The command ring and how a packet is decided (R400, R406 to R413). -/

namespace Sys2Proof.Machine

/-! ### The ring (R406 to R408) -/

/-- A command packet as it stands in its slot. -/
structure Packet where
  opc : Nat
  seq : Nat
  /-- FLAGS and the four bytes after SEQ, which are zero in a good packet. -/
  spare : Nat
  params : List Word
  crcOk : Bool
  deriving DecidableEq, Repr

/-- CMD_PI. -/
def State.producer (s : State) : Nat := field (s.prog 0x2800) 4 0

/-- The words of the slot that CI names. -/
def State.slotWords (s : State) : List Word := (List.range 16).map fun i => s.prog (0x2000 + 64 * (s.cmp.ci % 16) + 4 * i)

def packetOf (ws : List Word) : Packet :=
  let w0 := ws.getD 0 0
  { opc := field w0 7 0, seq := field w0 31 16, spare := field w0 15 8 + (ws.getD 1 0).toNat
    params := (ws.drop 2).take 13, crcOk := ws.getD 15 0 == packetCrc (ws.take 15) }

/-- The packet that the CMP can take now: one waits, and the previous reply is written (R407, R413). -/
def State.front (s : State) : Option Packet :=
  if s.awake && s.cmp.cur.isNone && s.producer != s.cmp.ci then some (packetOf s.slotWords) else none

/-- Parameter `i`. -/
def Packet.p (k : Packet) (i : Nat) : Word := k.params.getD i 0

/-- CH. -/
def Packet.chan (k : Packet) : ChanId := ⟨field (k.p 0) 4 0 % 20, Nat.mod_lt _ (by decide)⟩

/-- A channel MASK. -/
def Packet.mask (k : Packet) : BitVec 20 := (k.p 0).setWidth 20

/-- A channel-local line L. -/
def Packet.line (k : Packet) : Nat := (k.p 1).toNat + field (k.p 2) 1 0 * 2 ^ 32

/-- The channels of the mask. -/
def Packet.chans (k : Packet) : List ChanId := allChans.filter fun c => k.mask.getLsbD c.val

/-! ### Opcodes (R414) -/

/-- Opcodes that the CMP carries out before RUNNING (R400), in the safe state (R413), and without Nuinun (flag C). -/
def bootOps : List Nat := [0x01, 0x02, 0x03, 0x04, 0x05]
def safeOps : List Nat := [0x01, 0x02, 0x06, 0x07]
def flagC : List Nat := [0x01, 0x02, 0x03, 0x04, 0x05, 0x06, 0x07, 0x34]

/-- Long commands (kind L). -/
def longOps : List Nat :=
  [0x10, 0x13, 0x15, 0x18, 0x20, 0x21, 0x22, 0x23, 0x24, 0x26, 0x27, 0x28, 0x30, 0x41, 0x43]

/-- The parameter bits that an opcode uses; none for an opcode that is not in the table. -/
def paramBits (opc : Nat) : Option (List Word) :=
  let all : Word := 0xFFFFFFFF
  match opc with
  | 0x01 | 0x02 | 0x05 | 0x33 | 0x40 | 0x43 | 0x48 => some []
  | 0x03 => some [all, 1]
  | 0x04 | 0x42 => some [all, all, all]
  | 0x06 => some (List.replicate 13 all)
  | 0x07 => some [0x107]
  | 0x08 | 0x38 => some [7]
  | 0x10 | 0x13 | 0x18 | 0x31 | 0x32 => some [0xFFFFF]
  | 0x11 => some [0x11F, all]
  | 0x12 => some [0xF1F, 0x3FFF]
  | 0x14 => some [0x11F, 0xFFFF]
  | 0x15 => some [0x1FFFFF]
  | 0x16 => some [0x3F1F, 0xFF]
  | 0x17 => some [0x7F1F, 0xFF, 0xFF]
  | 0x20 => some [0x1F, all, 3, all, 3, 0x7FF]
  | 0x21 => some [0x1F, all, 3]
  | 0x22 => some [0x31F, all, 3]
  | 0x23 => some [0x1F]
  | 0x24 | 0x25 => some [0x71F]
  | 0x26 | 0x27 => some [0xF]
  | 0x28 => some [0x103]
  | 0x30 => some [0x11F]
  | 0x34 | 0x41 => some [all]
  | 0x49 => some (List.replicate 8 all)
  | _ => none

/-- Opcodes whose P0[4:0] names a channel. -/
def chanOps : List Nat := [0x11, 0x12, 0x14, 0x16, 0x17, 0x20, 0x21, 0x22, 0x23, 0x24, 0x25, 0x30]

/-- TOTAL of an image (R404). -/
def totalOk (n : Nat) : Bool := decide (576 ≤ n) && decide (n ≤ 786432) && n % 64 == 0

/-- The parameters lie in their ranges. -/
def State.inRange (s : State) (k : Packet) : Bool :=
  let g := s.geom k.chan
  (!chanOps.contains k.opc || decide (field (k.p 0) 4 0 < 20))
    && (match k.opc with
      | 0x03 | 0x41 => totalOk (k.p 0).toNat
      | 0x11 => decide ((k.p 1).toNat ≤ 1023)
      | 0x12 => decide (field (k.p 0) 11 9 ≤ 3) && decide (1 ≤ field (k.p 1) 13 8) && decide (field (k.p 1) 13 8 ≤ 48)
      | 0x21 => decide (k.line < g.lines)
      | 0x22 => decide (k.line < g.lines) && (g.place k.line).col == 0
      | 0x24 => decide (1 ≤ field (k.p 0) 10 8) && decide (field (k.p 0) 10 8 ≤ 5)
      | 0x38 => decide (1 ≤ field (k.p 0) 2 0) && decide (field (k.p 0) 2 0 ≤ 5)
      | _ => true)

/-- A parameter breaks ERR 1: out of range, or a reserved bit or byte set (R408, R412). -/
def State.breaksParam (s : State) (k : Packet) : Bool :=
  let used := (paramBits k.opc).getD []
  k.spare != 0 || ((List.range 13).any fun i => k.p i &&& ~~~(used.getD i 0) != 0) || !s.inRange k

/-! ### The decision (R409 to R413) -/

/-- The packet is answered. -/
def State.answer (s : State) (k : Packet) (status err : Nat) (res : List Word) : State := s.reply k.opc k.seq status err res

/-- ERR of a packet that is not taken (R410). -/
def State.badPacket (s : State) (k : Packet) : Option Nat :=
  if !k.crcOk then some 3
  else if s.cmp.seqSet && k.seq != (s.cmp.lseq + 1) % 65536 then some 2
  else none

/-- The packet is taken: its SEQ is the last one. -/
def State.takePacket (s : State) (k : Packet) : State := { s with cmp := { s.cmp with seqSet := true, lseq := k.seq } }

/-- The refusals that every opcode shares, in the order of R413. -/
def State.gate (s : State) (k : Packet) : Option Nat :=
  if s.cmp.boot.st ≠ 5 ∧ !bootOps.contains k.opc then some 4
  else if s.fcol.safe ∧ !safeOps.contains k.opc then some 12
  else if s.cmp.nuHalt ∧ !flagC.contains k.opc then some 5
  else if s.pers.strobe ∧ flagD k.opc then some 11
  else if s.breaksParam k then some 1
  else none

/-- LADDER_TAKE of rung 2 asks for a PPR, as PPR itself does (R225, R331). -/
def Packet.asksPpr (k : Packet) : Bool := k.opc == 0x24 && field (k.p 0) 10 8 == 2

/-- A packet is decided (R413): `own` gives the opcode's own refusal, `act` carries it out and answers it. -/
def State.decidePacket (s : State) (k : Packet) (own : State → Packet → Option Nat) (act : State → Packet → State) : State :=
  match s.badPacket k with
  | some e => (s.answer k stBadPacket e []).raise 557
  | none =>
    let s := s.takePacket k
    if (paramBits k.opc).isNone then s.answer k stUnknown 0 []
    else
      match s.gate k with
      | some e => s.answer k stRefused e []
      | none =>
        if s.sbm.warn && (flagW k.opc || k.asksPpr) then s.answer k stDeferred 0 []
        else
          match own s k with
          | some e => s.answer k stRefused e []
          | none =>
            if longOps.contains k.opc && s.freeJob.isNone then s.answer k stRefused 8 [] else act s k

/-- The CMP takes the packet at CI, if its opcode is `opc`. -/
def State.serve (s : State) (opc : Nat) (own : State → Packet → Option Nat) (act : State → Packet → State) : State :=
  match s.front with
  | some k => if k.opc = opc then s.decidePacket k own act else s
  | none => s

/-- No refusal of its own. -/
def noRefusal (_ : State) (_ : Packet) : Option Nat := none

/-- The first refusal that holds. -/
def firstOf : List (Bool × Nat) → Option Nat
  | [] => none
  | (b, e) :: l => if b then some e else firstOf l

/-- A command of kind S† holds the ring until its reply. -/
def State.holdRing (s : State) (k : Packet) (mask : BitVec 20) : State :=
  { s with cmp := { s.cmp with cur := some { opc := k.opc, seq := k.seq, params := k.params, ch := k.chan, mask := mask } } }

/-- A long command starts as a job in the lowest free slot and is answered ACCEPTED with its number (R411, R416). -/
def State.startJob (s : State) (k : Packet) (target : Nat) (f : Job → Job) : State :=
  match s.freeJob with
  | none => s
  | some j =>
    (s.modJob j fun _ => f { st := 1, opc := k.opc, target := target, cseq := k.seq }).answer k stAccepted 0 [BitVec.ofNat 32 j.val]

/-! ### CMD_PI and packets outside the table -/

/-- A write of CMD_PI (R407): one that would leave more than 16 packets untaken is ignored. -/
def State.writePi (s : State) (data : Word) : State :=
  let pi := field data 4 0
  if 16 < (pi + 32 - s.cmp.ci) % 32 then { s with cmp := { s.cmp with ovf := true } }
  else ({ s with cmp := { s.cmp with ovf := false } }).setProg 0x2800 (BitVec.ofNat 32 pi)

def execCmdPiWrite (data : Word) (s : State) : Host.Outcome State Fault Refusal := .next (s.ctl (·.writePi data))

/-- A packet whose opcode is not in R414. -/
def execUnknownOpcode (s : State) : Host.Outcome State Fault Refusal :=
  .next (match s.front with
    | some k => if (paramBits k.opc).isNone then s.decidePacket k noRefusal fun s _ => s else s
    | none => s)

end Sys2Proof.Machine
end

