-- ==== Sys2Proof/Machine/Boot.lean ====
section
/-! DEFINITION. The boot state machine, firmware images and their store, and the commands that every boot state honours
(R398 to R405, R414, R415). -/

namespace Sys2Proof.Machine

/-! ### Images (R401, R402) -/

/-- Bytes [hi:lo] of a byte string as a number, lowest byte first. -/
def bytesAt (bs : List Byte) (hi lo : Nat) : Nat := natOfBytes ((bs.drop lo).take (hi + 1 - lo))

/-- A 48-byte hash in the order of its bytes. -/
def hashAt (bs : List Byte) (lo : Nat) : BitVec 384 := BitVec.ofNat 384 (bytesAt bs (lo + 47) lo)

def imemLen (bs : List Byte) : Nat := bytesAt bs 15 12
def dmemLen (bs : List Byte) : Nat := bytesAt bs 19 16

/-- Check 1 (R402): the header passes HCRC, holds what R401 requires, and its lengths add up to TOTAL. -/
def headerOk (bs : List Byte) (total : Nat) : Bool :=
  bytesAt bs 3 0 == 0xB007F1A6 && bytesAt bs 5 4 == 1 && bytesAt bs 7 6 == coreRelease
    && imemLen bs % 64 == 0 && decide (imemLen bs ≤ 524288) && dmemLen bs % 64 == 0 && decide (dmemLen bs ≤ 262144)
    && bytesAt bs 23 20 % 4 == 0 && decide (bytesAt bs 23 20 < imemLen bs)
    && bytesAt bs 63 24 == 0 && bytesAt bs 507 304 == 0
    && bytesAt bs 511 508 == (crc32c (bs.take 508)).toNat
    && 512 + imemLen bs + dmemLen bs == total

/-- The public key of an image. -/
def pubKey (bs : List Byte) : List Byte := (bs.drop 64).take 96

/-- The live OTP slot whose hash the key has (R402 check 2, R403): true for slot 1. -/
def Otp.slotFor (o : Otp) (bs : List Byte) : Option Bool :=
  let h := hash384 (pubKey bs)
  if h = o.hash0 ∧ o.hash0 ≠ 0 ∧ !o.revoke0 then some false
  else if h = o.hash1 ∧ o.hash1 ≠ 0 ∧ !o.revoke1 then some true
  else none

/-- Checks 2 to 5 of R402: the ERR of the first that fails. -/
def Otp.imageErr (o : Otp) (bs : List Byte) : Option Nat :=
  firstOf
    [((o.slotFor bs).isNone, 16),
     (decide (bytesAt bs 11 8 < o.minSvn), 19),
     (hash384 (bs.drop 512) != hashAt bs 160, 17),
     (!ecdsaVerify (pubKey bs) (sha384 (bs.take 208)) ((bs.drop 208).take 96), 18)]

/-! ### LOAD_BUF (R404, R406) -/

/-- The first `n` bytes of LOAD_BUF. -/
def State.loadBuf (s : State) (n : Nat) : List Byte :=
  (((List.range ((n + 3) / 4)).map fun i => wordBytes (s.prog (0x3000 + 4 * i))).flatten).take n

/-- LEN, OFFSET or their end break R404. -/
def chunkBroken (k : Packet) (got total : Nat) : Bool :=
  let off := (k.p 0).toNat
  let len := (k.p 1).toNat
  off != got || len % 64 != 0 || len == 0 || decide (4096 < len) || decide (total < off + len)

/-- P2 does not match the buffer; a LEN beyond the buffer is ERR 23's. -/
def State.chunkCrcBad (s : State) (k : Packet) : Bool :=
  let len := (k.p 1).toNat
  decide (len ≤ 4096) && k.p 2 != crc32c (s.loadBuf len)

/-! ### IDENTIFY and STATUS (R415) -/

/-- Bytes 0 to 15 of a key hash, as four words. -/
def hashWords (h : BitVec 384) : List Word := (List.range 4).map fun i => BitVec.ofNat 32 (field h (32 * i + 31) (32 * i))

def State.identity (s : State) : List Word :=
  let o := s.otp
  [0x18140200,
   word (placeB (o.hash0 != 0) 0 + placeB (o.hash1 != 0) 1 + placeB o.revoke0 2 + placeB o.revoke1 3 + place o.minSvn 8 4
     + place s.cmp.boot.st 3 12 + placeB s.sbm.wakeCause.wake 15)]
    ++ hashWords o.hash0 ++ hashWords o.hash1

/-- The channels whose service state is `n`. -/
def State.svcMask (s : State) (n : Nat) : Word :=
  word ((allChans.map fun c => placeB ((s.chan c).svc.st == n) c.val).sum)

def State.statusWords (s : State) : List Word :=
  let m := s.cmp
  [word (place m.boot.st 3 0 + placeB m.nuRun 3 + placeB m.nuHalt 4 + placeB s.fcol.safe 5 + placeB s.sbm.warn 6
     + placeB s.sbm.crit 7 + place s.sluState 3 8 + place (millNum s.mill.st) 4 11
     + place (maskOf 8 fun i => (m.jobs.toList.getD i {}).st != 0) 8 15),
   s.svcMask 2, s.svcMask 5,
   word ((allSets.map fun i => place (s.span i).st 2 (2 * i.val)).sum)]

def execIdentify (s : State) : Host.Outcome State Fault Refusal :=
  .next (s.serve 0x01 noRefusal fun s k => s.answer k stOk 0 s.identity)

def execStatus (s : State) : Host.Outcome State Fault Refusal :=
  .next (s.serve 0x02 noRefusal fun s k => s.answer k stOk 0 s.statusWords)

/-- ECHO (R414). -/
def execEcho (s : State) : Host.Outcome State Fault Refusal :=
  .next (s.serve 0x06 noRefusal fun s k => s.answer k stOk 0 k.params)

/-! ### The stored image (R325, R414) -/

/-- The 12 bytes that the descriptor's CRC covers. -/
def ImgDesc.bytes (d : ImgDesc) : List Byte := bytesOfNat (place d.magic 32 0 + place d.total 32 32 + place d.svn 32 64) 12

def imgMagic : Nat := 0x1D6E5C21

/-- The descriptor of an image of `total` bytes with security version `svn`. -/
def imgDesc (total svn : Nat) : ImgDesc :=
  let d : ImgDesc := { magic := imgMagic, total := total, svn := svn % 256, crc := 0 }
  { d with crc := crc32c d.bytes }

def ImgDesc.good (d : ImgDesc) : Bool := d.magic == imgMagic && decide (d.svn < 256) && d.crc == crc32c d.bytes

/-- The stored image, its SVN and its bytes: valid only with a valid descriptor (R325). -/
def Flash.image (f : Flash) : Option (Nat × List Byte) :=
  match f.desc with
  | some d => if d.good then some (d.svn, f.img.take d.total) else none
  | none => none

/-! ### The load (R399, R404, R405) -/

def State.modBoot (s : State) (f : Boot → Boot) : State := { s with cmp := { s.cmp with boot := f s.cmp.boot } }

/-- The load or the start fails (R399). -/
def Boot.fail (b : Boot) (err : Nat) : Boot := { b with st := 6, err := err }

/-- LOAD_BEGIN (R404): 6 in STARTING and RUNNING, and before READY; 13 without a stored image. -/
def loadBeginOwn (s : State) (k : Packet) : Option Nat :=
  let b := s.cmp.boot
  firstOf [(b.st == 0 || b.st == 4 || b.st == 5, 6), (flag (k.p 1) 0 && s.flash.image.isNone, 13)]

def State.loadBegin (s : State) (k : Packet) : State :=
  let src := flag (k.p 1) 0
  let s := s.modBoot fun b => { b with st := 2, src := src, total := (k.p 0).toNat, image := [] }
  s.answer k (if src then stAccepted else stOk) 0 []

def execLoadBegin (s : State) : Host.Outcome State Fault Refusal := .next (s.serve 0x03 loadBeginOwn State.loadBegin)

/-- LOAD_CHUNK (R404). -/
def loadChunkOwn (s : State) (k : Packet) : Option Nat :=
  let b := s.cmp.boot
  firstOf [(b.st != 2 || b.src, 6), (s.chunkCrcBad k, 3), (chunkBroken k b.image.length b.total, 23)]

/-- The load or the start has failed between `s` and `t`: source 558 is raised (R399, R425). -/
def State.tellBoot (s t : State) : State := if s.cmp.boot.st ≠ 6 ∧ t.cmp.boot.st = 6 then t.raise 558 else t

/-- The header check is made once bytes 0 to 511 have been received (R402). -/
def Boot.headerDue (b : Boot) (before : Nat) : Boot :=
  if before < 512 ∧ 512 ≤ b.image.length ∧ !headerOk b.image b.total then b.fail 15 else b

def State.loadChunk (s : State) (k : Packet) : State :=
  let bytes := s.loadBuf (k.p 1).toNat
  let t := s.modBoot fun b => { b with image := b.image ++ bytes }.headerDue b.image.length
  (s.tellBoot t).answer k stOk 0 []

def execLoadChunk (s : State) : Host.Outcome State Fault Refusal := .next (s.serve 0x04 loadChunkOwn State.loadChunk)

/-- LOAD_END (R404, R414). -/
def loadEndOwn (s : State) (_ : Packet) : Option Nat :=
  let b := s.cmp.boot
  firstOf [(b.st != 2, 6), (decide (b.image.length < b.total), 23)]

def State.loadEnd (s : State) (k : Packet) : State := (s.modBoot fun b => { b with st := 3 }).answer k stAccepted 0 []

def execLoadEnd (s : State) : Host.Outcome State Fault Refusal := .next (s.serve 0x05 loadEndOwn State.loadEnd)

/-- The last byte of the stored image has been read (R404): its header is checked, and the state passes to VERIFYING. A
flash that failed ends the load with ERR 13 (R412, log entry 67). -/
def execFlashImageReadDone (s : State) : Host.Outcome State Fault Refusal :=
  .next (match s.flash.image with
    | none => s
    | some (_, bytes) =>
      if s.cmp.boot.st ≠ 2 ∨ !s.cmp.boot.src then s
      else if s.flash.failed then (s.tellBoot (s.modBoot fun b => b.fail 13)).flashTold
      else
        s.tellBoot (s.modBoot fun b =>
          let b : Boot := { b with image := bytes.take b.total }
          if headerOk b.image b.total then { b with st := 3 } else b.fail 15))

/-- Nuinun is released at ENTRY (R399), the image's body in its memories (R401), which take an armed injection of code 17 with them
(R291). A start that failed has halted it only until the next release; held in reset it stays so (R398, R399, R431). -/
def State.startNuinun (s : State) (bs : List Byte) (slot : Bool) : State :=
  let bad := s.armedG 17 0
  let s := s.spendG bad
  let s := s.modBoot fun b => { b with st := 4, keySlot := slot, svn := bytesAt bs 11 8 % 256 }
  let body := bs.drop 512
  let n := bytesAt bs 15 12
  { s with cmp := { s.cmp with nuRun := !s.cmp.nuHeld, nuHalt := s.cmp.nuHeld, nuEntry := bytesAt bs 23 20, nuBad := bad
                               imem := body.take n, dmem := (body.drop n).take (bytesAt bs 19 16) } }

/-- Verification ends (R402, R405). -/
def execImageVerified (s : State) : Host.Outcome State Fault Refusal :=
  .next (if s.cmp.boot.st ≠ 3 then s
    else
      let bs := s.cmp.boot.image
      match s.otp.imageErr bs, s.otp.slotFor bs with
      | none, some slot => s.startNuinun bs slot
      | some e, _ => s.tellBoot (s.modBoot fun b => b.fail e)
      | none, none => s.tellBoot (s.modBoot fun b => b.fail 16))

/-- The firmware reports ready (R399). A bad byte in Nuinun's memories is found as the firmware runs: it halts (R288 code
17). -/
def execFirmwareReady (s : State) : Host.Outcome State Fault Refusal :=
  .next (if s.cmp.boot.st ≠ 4 ∨ s.cmp.nuHalt then s
    else
      let bad := s.cmp.nuBad
      let s := ({ s with cmp := { s.cmp with nuBad := none } }).readG 538 bad
      if acts bad then s.haltNuinun else s.modBoot fun b => { b with st := 5 })

/-- 50 ms without the report (R399, R405). -/
def execStartTimeout (s : State) : Host.Outcome State Fault Refusal :=
  .next (if s.cmp.boot.st ≠ 4 then s else s.tellBoot (s.stopNuinun.modBoot fun b => b.fail 24))

/-! ### The image store (R404, R414) -/

/-- FLASH_INFO: 13 where the flash failed to answer (log entry 67). -/
def execFlashInfo (s : State) : Host.Outcome State Fault Refusal :=
  .next (s.serve 0x40 noRefusal fun s k =>
    let img := match s.flash.image with
      | some (svn, _) => 1 + place svn 8 8
      | none => 0
    if s.flash.failed then (s.answer k stRefused 13 []).flashTold
    else s.answer k stOk 0 [Config.flashId, Config.flashKib, word img])

/-- A store's erase or its end runs. -/
def State.storing (s : State) : Bool := s.anyJob fun b => b.runs 0x41 || b.runs 0x43

/-- IMG_STORE_BEGIN: the stored image is invalid from here on, its area and its descriptor's sector erased. -/
def State.storeBegin (s : State) (k : Packet) : State :=
  ({ s with flash := { s.flash with desc := none, img := [], store := some { total := (k.p 0).toNat, erased := false } } }).startJob
    k 0 id

/-- A store has been begun (R414): its area is erased, or the erase runs, and its end does not. DESIGN CHOICE: what comes while the
erase runs is carried out behind it (log entry 82). -/
def State.storeOpen (s : State) (x : Store) : Bool :=
  (x.erased || s.anyJob fun b => b.runs 0x41) && !s.anyJob fun b => b.runs 0x43

def execImgStoreBegin (s : State) : Host.Outcome State Fault Refusal :=
  .next (s.serve 0x41 (fun s _ => firstOf [(s.storing, 7)]) State.storeBegin)

/-- IMG_STORE_CHUNK: 6 with no store begun. -/
def storeChunkOwn (s : State) (k : Packet) : Option Nat :=
  match s.flash.store with
  | none => some 6
  | some x => firstOf [(!s.storeOpen x, 6), (s.chunkCrcBad k, 3), (chunkBroken k s.flash.img.length x.total, 23)]

def State.storeChunk (s : State) (k : Packet) : State :=
  let bytes := s.loadBuf (k.p 1).toNat
  ({ s with flash := { s.flash with img := s.flash.img ++ bytes } }).answer k stOk 0 []

/-- FAILED 13 where the flash failed to program the chunk (log entry 67). -/
def execImgStoreChunk (s : State) : Host.Outcome State Fault Refusal :=
  .next (s.serve 0x42 storeChunkOwn fun s k => if s.flash.failed then (s.answer k stFailed 13 []).flashTold else s.storeChunk k)

def storeEndOwn (s : State) (_ : Packet) : Option Nat :=
  match s.flash.store with
  | none => some 6
  | some x => firstOf [(!s.storeOpen x, 6), (decide (s.flash.img.length < x.total), 23)]

def execImgStoreEnd (s : State) : Host.Outcome State Fault Refusal :=
  .next (s.serve 0x43 storeEndOwn fun s k => s.startJob k 0 id)

/-- The stored image is read back and R402 applied: valid, its descriptor programmed, or invalid with the ERR. -/
def State.endStore (s : State) : State × Nat :=
  match s.flash.store with
  | none => (s, 23)
  | some x =>
    let bs := s.flash.img
    let err := if headerOk bs x.total then s.otp.imageErr bs else some 15
    let desc := match err with
      | none => some (imgDesc x.total (bytesAt bs 11 8))
      | some _ => none
    ({ s with flash := { s.flash with store := none, desc := desc } }, err.getD 0)

end Sys2Proof.Machine
end

