-- ==== Sys2Proof/Machine/JobOps.lean ====
section
/-! DEFINITION. What a job's end does (R324, R359, R414, R416 to R418, R422). -/

namespace Sys2Proof.Machine

/-! ### Training (R359, R422) -/

/-- Step 1 of training: DRST_N goes high, and the module is given its SRX if it was in self-refresh (R350, R356, R357). Outputs that do
not run drive nothing. -/
def Phy.trainStart (p : Phy) : Phy := if p.level = 1 then { p with drst := true, quiet := false } else p

/-- A channel passes: its lines are centred and its outputs run. -/
def Phy.pass (p : Phy) (delays : List (Delay × Int)) : Phy :=
  { p.trainStart with trained := true, delays := delays, trn := ⟨0, 0, 0, 0, 0⟩ }

/-- CHn passes training, with delays that training finds (R347, R357, R359). -/
def State.passTrain (s : State) (c : ChanId) : State :=
  let found := trainedDelays s.freeIx (s.geom c).ranks
  { s.modChan c fun k => { k with phy := k.phy.pass found } with freeIx := s.freeIx + 1 }

/-- A channel fails: TRAINED stays 0 and TRN_STAT names the step. -/
def Phy.flunk (p : Phy) (f : TrnFail) : Phy := { p.trainStart with trained := false, trn := f }

/-- A failed channel raises its source, and with SEVER it enters the failed state (R422). -/
def State.failTrain (s : State) (c : ChanId) (f : TrnFail) (sever : Bool) : State :=
  let s := (s.modChan c fun k => { k with phy := k.phy.flunk f }).raiseChan c 12
  if sever then s.sever c 2 else s

/-- The channels of a mask whose PHY is running. -/
def State.phyOn (s : State) (m : BitVec 20) : BitVec 20 :=
  (allChans.filter fun c => m.getLsbD c.val && (s.chan c).phy.started).foldl (fun b c => b ||| chanBit c) 0

/-- The outcome of TRAIN on the channels that it still names (R359, R417): `ok` pass, but for one whose PHY has been turned off
meanwhile; the rest of `mask` fail, each in its own step, unless the job was cancelled before they were begun. -/
def State.endTrain (s : State) (b : Job) (r : JobEnd) (f : Tab TrnFail 20) : State × BitVec 20 × BitVec 20 :=
  let left := b.mask &&& ~~~b.bad
  let ok := s.phyOn (r.ok &&& left)
  let bad := if b.cancel then r.bad &&& left &&& ~~~ok else left &&& ~~~ok
  let s := allChans.foldl (fun (s : State) (c : ChanId) =>
    if ok.getLsbD c.val then s.passTrain c
    else if bad.getLsbD c.val then s.failTrain c (f.at c) b.flag
    else s) s
  (s, ok, bad ||| b.bad)

/-! ### Patch tables (R324, R414) -/

/-- An entry as it is loaded: DUAL is taken as ACTIVE (R324). -/
def PatchE.loaded (e : PatchE) : PatchE := if e.st = 2 then { e with st := 3 } else e

/-- Redirections of a staged row (R329). -/
def Geom.redirections (g : Geom) (row : Nat) : List (Nat × Nat) :=
  (List.range 128).map fun j => (g.rowLine row j, g.stagingLine (g.place row).sub j)

/-- The table of a keepsake record. -/
def KsRec.table (r : KsRec) : Tab PatchE 64 := Vector.ofFn fun i : Fin 64 => (r.entries.getD i.val {}).loaded

/-- CHn loads its newer valid record; a valid PPRBEGIN restores the row's redirections. -/
def State.loadPatch (s : State) (c : ChanId) : State :=
  match newestKs c (s.flash.ks.at c) with
  | none => s
  | some (r, _) =>
    let g := s.geom c
    let row := r.pprBegin.map Prod.fst
    s.modPatch c fun _ =>
      { tab := r.table, badSp := r.badSp, soft := r.soft, pprBegin := r.pprBegin, staged := row
        redir := (row.map g.redirections).getD [] }

/-- Result words of PATCH_LOAD over the channels it still names: loaded, staged, no valid record. -/
def State.patchLoadWords (s : State) (m : BitVec 20) : List Word :=
  let sel := fun (p : ChanId → Bool) => word ((allChans.map fun c => placeB (m.getLsbD c.val && p c) c.val).sum)
  let rec_ := fun (c : ChanId) => (newestKs c (s.flash.ks.at c)).map Prod.fst
  [sel fun c => (rec_ c).isSome, sel fun c => ((rec_ c).bind (·.pprBegin)).isSome, sel fun c => (rec_ c).isNone]

def State.endPatchLoad (s : State) (m : BitVec 20) : State :=
  allChans.foldl (fun (s : State) (c : ChanId) => if m.getLsbD c.val then s.loadPatch c else s) s

/-! ### The end of a job (R416) -/

/-- The job leaves RUNNING with its ERR and its result words. -/
def Job.close (b : Job) (err : Nat) (res : List Word) : Job :=
  { b with st := if b.cancel then 4 else if err = 0 then 2 else 3, err := if b.cancel then 0 else err
           prog := if err = 0 ∧ !b.cancel then 1024 else b.prog, res := res }

def State.closeJob (s : State) (j : Fin 8) (err : Nat) (res : List Word) : State := s.modJob j fun b => b.close err res

/-- The ERR with which an engine has finished a job. A job whose last channels a sever took has finished too (R418). -/
def State.jobFin (s : State) (j : Fin 8) : Option Nat :=
  let b := s.job j
  if b.opc = 0x10 ∧ allChans.all (fun c => !((s.chan c).i3c.any fun x => x.use == .spd j.val)) then some 0 else b.fin

/-- The flash has failed in a job's work (R412, R425). -/
def State.flashFail (s : State) (j : Fin 8) : State := (s.closeJob j 13 []).raise 556

/-- A job whose work lies outside the core's engines ends with what that work found; one of an engine ends once the engine
has finished. -/
def State.endJob (s : State) (j : Fin 8) (r : JobEnd) (f : Tab TrnFail 20) : State :=
  let b := s.job j
  match b.opc with
  | 0x15 =>
    let x := s.endTrain b r f
    let s := x.1
    s.closeJob j 0 [maskWord x.2.1, maskWord x.2.2]
  | 0x18 =>
    let m := b.mask &&& ~~~b.bad
    let res := s.patchLoadWords m
    (s.endPatchLoad m).closeJob j 0 res
  | 0x41 => if !s.mayProgram then s else
    let s := s.programmed
    let store := s.flash.store.map fun (x : Store) => { x with erased := true }
    if r.err = 0 then ({ s with flash := { s.flash with store := store } }).closeJob j 0 []
    else ({ s with flash := { s.flash with store := none } }).flashFail j
  | 0x43 => if !s.mayProgram then s else
    if r.err ≠ 0 then ({ s.programmed with flash := { s.programmed.flash with store := none } }).flashFail j else
    let x := s.programmed.endStore
    let s := x.1
    let err := x.2
    s.closeJob j err []
  | _ =>
    match s.jobFin j with
    | none => s
    | some err =>
      s.closeJob j err b.words

def execJobEnd (j : Fin 8) (r : JobEnd) (trn : Tab TrnFail 20) (s : State) : Host.Outcome State Fault Refusal :=
  .next (if (s.job j).st ≠ 1 then s else (s.endJob j r trn).settleAll.sweepFails)

end Sys2Proof.Machine
end

