-- ==== Sys2Proof/Machine/Commands.lean ====
section
/-! DEFINITION. The command packets that Nuinun carries out (chapter 13), with their own refusals and effects. -/

namespace Sys2Proof.Machine

/-! ### Jobs (R416, R417) -/

/-- The job that P0 names. -/
def Packet.job (k : Packet) : Fin 8 := ⟨field (k.p 0) 2 0 % 8, Nat.mod_lt _ (by decide)⟩

/-- JOB_STATUS: 6 when FREE names a running job. -/
def jobStatusOwn (s : State) (k : Packet) : Option Nat := firstOf [(flag (k.p 0) 8 && (s.job k.job).st == 1, 6)]

/-- The result words of a job; while it runs they are not valid, and free (log entry 8). -/
def State.jobWords (s : State) (b : Job) : List Word :=
  if b.st = 1 then (List.range 11).map fun i => Config.openWord (s.freeIx + i) else b.res

/-- Work of a free extent, short of its end. -/
def partOf (n total : Nat) : Nat := progress (Config.workDone n % max 1 total) (max 1 total)

/-- PROG of a job that runs (R416): channels, tally lines, steps and bytes come from what does the work; where that is the firmware
or the flash, how far it has come is a free value (log entry 8). -/
def State.progNow (s : State) (b : Job) : Nat :=
  let c : ChanId := ⟨b.target % 20, Nat.mod_lt _ (by decide)⟩
  let k := s.chan c
  match b.opc with
  | 0x15 | 0x18 => partOf s.freeIx (popCount b.mask)
  | 0x22 | 0x23 => progress (k.ppr.step - 1) 8
  | 0x26 | 0x27 => s.sweepProg b.aux
  | 0x30 => progress (k.prepStep - 1) 7
  | 0x41 | 0x43 => partOf s.freeIx 1024
  | _ => b.prog

def State.jobStatus (s : State) (k : Packet) : State :=
  let b := s.job k.job
  let shown : Job := if b.st = 1 then { b with prog := s.progNow b } else b
  let s := s.answer k stOk 0 ([word b.stat, word shown.progWord] ++ s.jobWords b)
  let s := if b.st = 1 then { s with freeIx := s.freeIx + 11 } else s
  if flag (k.p 0) 8 then s.modJob k.job fun _ => {} else s

def execJobStatus (s : State) : Host.Outcome State Fault Refusal := .next (s.serve 0x07 jobStatusOwn State.jobStatus)

/-- JOB_CANCEL: only SCRUB, SPD_READ and TRAIN, while they run (R417). -/
def jobCancelOwn (s : State) (k : Packet) : Option Nat :=
  let b := s.job k.job
  firstOf [(b.st != 1 || !([0x10, 0x15, 0x20].contains b.opc), 6)]

/-- A cancelled pass stops at its next line, in STATE 2. -/
def State.cancelScrub (s : State) (c : ChanId) : State :=
  let x := (s.chan c).scrub
  if x.st ≠ 1 then s
  else if x.stage = .idle then s.endScrub c
  else s.modScrub c fun x => { x with stop := if x.fromList then x.next else min x.stop (x.cur + 1) }

/-- A channel of a cancelled SPD_READ: in progress, it stops at the end of its transfer and counts as failed; not begun, it
is dropped. -/
def State.cancelSpd (s : State) (j : Fin 8) (c : ChanId) : State :=
  let k := s.chan c
  let mine := fun (x : Xfer) => x.use == .spd j.val
  if !(k.i3c.any mine) then s
  else
    let b := s.job j
    let running := k.i3c.any fun x => x.sent && mine x
    let begun := running || b.ok.getLsbD c.val || b.bad.getLsbD c.val
    let s := s.modChan c fun k =>
      { k with i3c := k.i3c.filter fun x => x.sent || !mine x }
    if begun then s.modJob j fun b => { b with bad := b.bad ||| chanBit c } else s

/-- The channels of a cancelled SPD_READ have all stopped. -/
def State.spdStopped (s : State) (j : Fin 8) : State :=
  if allChans.all fun c => s.spdOver c j.val then s.modJob j (Job.finish 0) else s

def State.jobCancel (s : State) (k : Packet) : State :=
  let j := k.job
  let b := s.job j
  let s := s.modJob j fun b => { b with cancel := true }
  let s :=
    if b.opc = 0x20 then s.cancelScrub ⟨b.target % 20, Nat.mod_lt _ (by decide)⟩
    else if b.opc = 0x10 then (allChans.foldl (fun (s : State) (c : ChanId) => s.cancelSpd j c) s).spdStopped j
    else s
  s.answer k stOk 0 []

def execJobCancel (s : State) : Host.Outcome State Fault Refusal := .next (s.serve 0x08 jobCancelOwn State.jobCancel)

/-! ### Sideband (R351 to R354, R419) -/

/-- A job of an opcode runs over one of the packet's channels. -/
def State.jobMeets (s : State) (k : Packet) (opc : Nat) : Bool :=
  k.chans.any fun c => s.anyJob fun b => b.runsOn opc c

/-- SPD_READ. -/
def spdReadOwn (s : State) (k : Packet) : Option Nat :=
  firstOf [(k.chans.any fun c => (s.chan c).svc.st != 1 && (s.chan c).svc.st != 2, 6),
           (s.jobMeets k 0x10 || s.jobMeets k 0x15, 7)]

/-- The two SPD hubs of a channel are read whole. -/
def spdXfers (j : Nat) : List Xfer := [0, 1].map fun slot => { slot := slot, target := 0, len := 1024, use := .spd j }

def State.spdRead (s : State) (k : Packet) : State :=
  match s.freeJob with
  | none => s
  | some j =>
    let s := k.chans.foldl (fun (s : State) (c : ChanId) =>
      s.askXfers c (spdXfers j.val)) s
    (s.startJob k maskTarget fun b => { b with mask := k.mask }).spdStopped j

def execSpdRead (s : State) : Host.Outcome State Fault Refusal := .next (s.serve 0x10 spdReadOwn State.spdRead)

/-- The SPD bytes of a packet's module, if they have been read since core reset. -/
def State.spdOf (s : State) (k : Packet) : Option (List Byte) :=
  if flag (k.p 0) 8 then (s.chan k.chan).spd1 else (s.chan k.chan).spd0

def spdFetchOwn (s : State) (k : Packet) : Option Nat := firstOf [((s.spdOf k).isNone, 6)]

def State.spdFetch (s : State) (k : Packet) : State :=
  s.answer k stOk 0 (byteWords (((s.spdOf k).getD []).drop (k.p 1).toNat) 12)

def execSpdFetch (s : State) : Host.Outcome State Fault Refusal := .next (s.serve 0x11 spdFetchOwn State.spdFetch)

/-- I3C_READ: 6 when the SBM owns the bus (R353). -/
def i3cReadOwn (s : State) (_ : Packet) : Option Nat := firstOf [(decide (s.phase = .commit) || decide (s.phase = .slumber), 6)]

def State.i3cRead (s : State) (k : Packet) : State :=
  let x : Xfer := { slot := field (k.p 0) 8 8, target := field (k.p 0) 11 9, reg := field (k.p 1) 7 0,
                    len := field (k.p 1) 13 8, use := .i3cRead }
  (s.holdRing k 0).askXfers k.chan [x]

def execI3cRead (s : State) : Host.Outcome State Fault Refusal := .next (s.serve 0x12 i3cReadOwn State.i3cRead)

/-- PMIC_ENABLE. -/
def pmicEnableOwn (s : State) (k : Packet) : Option Nat :=
  firstOf [(k.chans.any fun c => s.phyEn c || ((s.chan c).spd0.isNone && (s.chan c).spd1.isNone), 6),
           (s.anyJob fun b => b.runs 0x13, 7)]

/-- The modules that SPD_READ found, in the order of R419. -/
def State.modules (s : State) (k : Packet) : List (ChanId × Nat) :=
  k.chans.flatMap fun c =>
    (if (s.chan c).spd0.isSome then [(c, 0)] else []) ++ (if (s.chan c).spd1.isSome then [(c, 1)] else [])

def State.pmicEnable (s : State) (k : Packet) : State :=
  match s.freeJob with
  | none => s
  | some j => (s.startJob k maskTarget fun b => { b with mask := k.mask, todo := s.modules k }).nextEnable j

def execPmicEnable (s : State) : Host.Outcome State Fault Refusal := .next (s.serve 0x13 pmicEnableOwn State.pmicEnable)

/-- PMIC_SET. -/
def pmicSetOwn (s : State) (k : Packet) : Option Nat :=
  firstOf [((s.chan k.chan).svc.st != 2, 6), ((s.chan k.chan).ppr.lock, 7)]

/-- A command that works through the weir holds the ring and requests the grant (R304). -/
def State.askWeir (s : State) (k : Packet) (r : Fin 10) : State := ((s.holdRing k 0).ask k.chan r).after k.chan

def State.pmicSet (s : State) (k : Packet) : State := s.askWeir k 7

def execPmicSet (s : State) : Host.Outcome State Fault Refusal := .next (s.serve 0x14 pmicSetOwn State.pmicSet)

/-! ### Training, mode registers, patch tables -/

/-- TRAIN. -/
def trainOwn (s : State) (k : Packet) : Option Nat :=
  firstOf [(k.chans.any fun c => !(s.chan c).phy.cal || s.schEn c, 6), (s.jobMeets k 0x15, 7)]

/-- Training begins, at most ten channels at a time (R357, R360). DESIGN CHOICE: the lowest ten of the mask begin at once, and the
others show no effect before the job ends (log entry 62). -/
def State.train (s : State) (k : Packet) : State :=
  let s := (k.chans.take 10).foldl (fun (s : State) (c : ChanId) => s.modChan c fun q => { q with phy := q.phy.trainStart }) s
  s.startJob k maskTarget fun b => { b with mask := k.mask, flag := flag (k.p 0) 20 }

def execTrain (s : State) : Host.Outcome State Fault Refusal := .next (s.serve 0x15 trainOwn State.train)

/-- MR_READ. -/
def mrReadOwn (s : State) (k : Packet) : Option Nat := firstOf [(!s.schEn k.chan, 6)]

def State.mrRead (s : State) (k : Packet) : State := s.askWeir k 6

def execMrRead (s : State) : Host.Outcome State Fault Refusal := .next (s.serve 0x16 mrReadOwn State.mrRead)

/-- MR_WRITE. -/
def mrWriteOwn (s : State) (k : Packet) : Option Nat := firstOf [(!s.schEn k.chan, 6), ((s.chan k.chan).ppr.lock, 7)]

def State.mrWrite (s : State) (k : Packet) : State := s.askWeir k 6

def execMrWrite (s : State) : Host.Outcome State Fault Refusal := .next (s.serve 0x17 mrWriteOwn State.mrWrite)

/-- PATCH_LOAD. -/
def patchLoadOwn (s : State) (k : Packet) : Option Nat := firstOf [(k.chans.any fun c => !s.phyEn c || s.schEn c, 6)]

def State.patchLoad (s : State) (k : Packet) : State := s.startJob k maskTarget fun b => { b with mask := k.mask }

def execPatchLoad (s : State) : Host.Outcome State Fault Refusal := .next (s.serve 0x18 patchLoadOwn State.patchLoad)

/-! ### Maintenance (R313, R322, R328 to R331) -/

/-- COUNT and RATE of SCRUB. -/
def Packet.count (k : Packet) : Nat := (k.p 3).toNat + field (k.p 4) 1 0 * 2 ^ 32

/-- SCRUB (R313). -/
def scrubOwn (s : State) (k : Packet) : Option Nat :=
  firstOf [((s.chan k.chan).scrub.st == 1, 7), (!s.running k.chan, 6),
           (decide ((s.geom k.chan).reserved < k.line + k.count), 9)]

/-- A pass begins, every counter at zero (R318). -/
def State.scrub (s : State) (k : Packet) : State :=
  let c := k.chan
  let s := s.startJob k c.val id
  let s := s.modScrub c fun x =>
    { st := 1, first := k.line, next := k.line, stop := k.line + k.count, rate := field (k.p 5) 10 0,
      suspect := x.suspect, stage := x.stage, cur := x.cur, dev := x.dev, fromList := x.fromList, stale := x.stale,
      rebuilt := x.rebuilt, proved := x.proved,
      win := x.win, used := x.used }
  (s.ask c 9).after c

def execScrub (s : State) : Host.Outcome State Fault Refusal := .next (s.serve 0x20 scrubOwn State.scrub)

/-- PATCH_INSTALL: 6 when CHn is not running or the line has its spare already, 7 while it is being installed or its rank is
locked by PPR, 21 when no entry or no spare is left. -/
def patchInstallOwn (s : State) (k : Packet) : Option Nat :=
  let q := s.chan k.chan
  let st : Nat := ((q.patchOf k.line).map fun (e : PatchE) => e.st).getD 0
  let g := s.geom k.chan
  firstOf [(!s.running k.chan || decide (3 ≤ st), 6),
           (st == 1 || st == 2 || q.patch.wait.contains k.line || s.pprLocked k.chan k.line, 7),
           (q.patch.freeEntry.isNone || (q.patch.freeSpare (g.place k.line).sub).isNone, 21)]

def State.patchInstall (s : State) (k : Packet) : State :=
  let c := k.chan
  let s := s.startJob k c.val fun b => { b with line := k.line }
  ((s.askPatch c k.line).ask c 5).after c

def execPatchInstall (s : State) : Host.Outcome State Fault Refusal := .next (s.serve 0x21 patchInstallOwn State.patchInstall)

/-- A PMIC change or a rebuild holds the rank of `line` (R328). DEDUCED: a change holds the ranks of the slot whose voltage it
writes, a rebuild those that it rebuilds, or the rank of the stripe at its cursor on another position (log entry 79). -/
def State.rankHeld (s : State) (c : ChanId) (line : Nat) : Bool :=
  let k := s.chan c
  let m := setOf c
  let sp := s.span m
  let cs := ((s.geom c).place line).bank.cs
  let pmic := (k.i3c.any fun x => x.use == .pmicSet && x.slot == cs / 2)
    || (k.settling && match s.cmp.cur with | some u => field (u.params.getD 0 0) 8 8 == cs / 2 | none => true)
  let rebuilt := if sp.pos = posOf c then s.lineLost m (posOf c) line
    else sp.reb.begun && s.rankBit c line == s.rankBit c sp.reb.cur
  pmic || (s.spanMode m && sp.reb.on && rebuilt)

/-- What bars a PPR of a row, in order (R328): another PPR or a holder of the rank, the channel's or the row's state, and what
RESTORE asks for. -/
def State.pprBars (s : State) (c : ChanId) (row : Nat) (hard restore : Bool) : List (Bool × Nat) :=
  let q := s.chan c
  [(q.ppr.step != 0 || s.rankHeld c row, 7),
   (!s.running c || (s.spanMode (setOf c) && s.lineLost (setOf c) (posOf c) row)
      || (q.patch.staged.isSome && q.patch.staged != some row), 6),
   (restore && (hard || !q.patch.soft.contains row), 1)]

/-- PPR (R328): 7, 6, and 1 for RESTORE with HARD or a row not in SOFT. 21 comes with step 1 of R329. -/
def pprOwn (s : State) (k : Packet) : Option Nat := firstOf (s.pprBars k.chan k.line (flag (k.p 0) 8) (flag (k.p 0) 9))

/-- The sequence begins at step 1 (R329); installations in its row that wait are to be looked at again (R340). -/
def State.beginPpr (s : State) (c : ChanId) (row : Nat) (hard restore : Bool) : State :=
  let g := s.geom c
  let s := s.modPpr c fun _ => { step := 1, row := row, hard := hard, restore := restore }
  let s := s.modPatch c fun p => { p with recheck := (p.recheck ++ p.wait.filter fun l => g.sameRow row l).eraseDups }
  (s.ask c 3).after c

def State.ppr (s : State) (k : Packet) : State :=
  (s.startJob k k.chan.val id).beginPpr k.chan k.line (flag (k.p 0) 8) (flag (k.p 0) 9)

def execPpr (s : State) : Host.Outcome State Fault Refusal := .next (s.serve 0x22 pprOwn State.ppr)

/-- PPR_UNSTAGE. -/
def pprUnstageOwn (s : State) (k : Packet) : Option Nat :=
  let q := s.chan k.chan
  firstOf [(q.patch.staged.isNone || q.ppr.step != 0, 6)]

/-- Steps 7 and 8 on the staged row. -/
def State.pprUnstage (s : State) (k : Packet) : State :=
  let c := k.chan
  let row := (s.chan c).patch.staged.getD 0
  let s := (s.startJob k c.val id).modPpr c fun _ => { step := 7, row := row, unstage := true, lock := true }
  (s.ask c 3).after c

def execPprUnstage (s : State) : Host.Outcome State Fault Refusal := .next (s.serve 0x23 pprUnstageOwn State.pprUnstage)

/-- The row of a line, as the L of its column-line 0. -/
def Geom.rowOf (g : Geom) (line : Nat) : Nat :=
  let j := (g.place line).col
  line - (g.rowLine line j - line)

/-- LADDER_TAKE: 6 when the rung is not the one wanted. Rung 2 asks for a PPR, and what bars that bars it (R328; DEDUCED, log
entry 79). -/
def ladderTakeOwn (s : State) (k : Packet) : Option Nat :=
  let c := k.chan
  let rung := field (k.p 0) 10 8
  let l := (s.chan c).ladder
  let row := (s.geom c).rowOf l.wantLine
  firstOf ((rung != l.want, 6) ::
    if rung = 2 then s.pprBars c row ((s.chan c).patch.soft.contains row) false else [])

/-- The wanted rung is taken (R331, R332). Rung 2 asks for a PPR of the line's row, soft first and then hard. -/
def State.takeRung (s : State) (c : ChanId) (rung : Nat) : State :=
  let l := (s.chan c).ladder
  let done := fun (s : State) => s.finishLine 0x24 c.val l.wantLine 0
  match rung with
  | 1 => (((s.rung c 1 l.wantLine true l.wantDev).askPatch c l.wantLine).ask c 5).after c
  | 2 =>
    let row := (s.geom c).rowOf l.wantLine
    (s.rung c 2 l.wantLine true l.wantDev).beginPpr c row ((s.chan c).patch.soft.contains row) false
  | 3 => done (s.takeErase c l.wantLine l.wantDev)
  | 4 => (s.takeDegrade c l.wantLine).ask c 4
  | _ => done s

def State.ladderTake (s : State) (k : Packet) : State :=
  let c := k.chan
  let l := (s.chan c).ladder
  let rung := field (k.p 0) 10 8
  let line := if rung = 2 then (s.geom c).rowOf l.wantLine else l.wantLine
  (s.startJob k c.val fun b => { b with line := line }).takeRung c rung

def execLadderTake (s : State) : Host.Outcome State Fault Refusal :=
  .next (s.serve 0x24 ladderTakeOwn State.ladderTake).settleAll.sweepFails

/-! ### Span sets (R235, R236, R335, R338) -/

/-- DEGRADE_RANK. -/
def degradeOwn (s : State) (k : Packet) : Option Nat :=
  let m := setOf k.chan
  let sp := s.span m
  firstOf [(!s.spanMode m, 22),
           (sp.st == 2 || sp.st == 3 || (sp.st == 1 && sp.pos != posOf k.chan), 6)]

/-- The rank is degraded, with an event record in every case (R335, R414). -/
def State.degradeRank (s : State) (k : Packet) : State :=
  let rank := BitVec.ofNat 8 (2 ^ (4 * field (k.p 0) 8 8 + field (k.p 0) 10 9))
  ((s.askDegrade k.chan { ranks := rank, line := none }).ask k.chan 4).answer k stOk 0 []

def execDegradeRank (s : State) : Host.Outcome State Fault Refusal :=
  .next (s.serve 0x25 degradeOwn State.degradeRank).settleAll

/-- The set mask of TALLY_ZERO and RESWEEP. -/
def Packet.sets (k : Packet) : BitVec 20 := BitVec.ofNat 20 (field (k.p 0) 3 0)

/-- 10 unless every host port and MI is closed, 22 for a plain set. -/
def sweepOwn (s : State) (k : Packet) : Option Nat :=
  firstOf [(!s.allClosed, 10), (allSets.any fun m => k.sets.getLsbD m.val && !s.spanMode m, 22)]

/-- The job holds its set mask apart from a channel mask, and the sweep of every set named begins. -/
def State.startSweep (s : State) (k : Packet) : State :=
  let s := s.startJob k maskTarget fun b => { b with aux := k.sets, fin := if k.sets = 0 then some 0 else none }
  (allSets.filter fun m => k.sets.getLsbD m.val).foldl (fun (s : State) (m : SetId) =>
    s.modSweep m fun _ => { on := true, zeroing := k.opc == 0x26 }) s

def execTallyZero (s : State) : Host.Outcome State Fault Refusal := .next (s.serve 0x26 sweepOwn State.startSweep)

def execResweep (s : State) : Host.Outcome State Fault Refusal := .next (s.serve 0x27 sweepOwn State.startSweep)

def Packet.set (k : Packet) : SetId := ⟨field (k.p 0) 1 0 % 4, Nat.mod_lt _ (by decide)⟩

/-- REBUILD (R338): the set is DEGRADED and its position is present, trained and running. -/
def rebuildOwn (s : State) (k : Packet) : Option Nat :=
  let m := k.set
  let c := chanOf m (s.span m).pos
  let q := s.chan c
  firstOf [(!s.spanMode m || (s.span m).st != 1 || !q.phy.trained || !s.running c, 6), ((s.span m).reb.on, 7)]

/-- NEW empties position j's patch table and both keepsake records. -/
def State.newModule (s : State) (c : ChanId) : State :=
  let s := s.modPatch c fun _ => {}
  { s with flash := { s.flash with ks := s.flash.ks.put c (none, none) } }

def State.rebuild (s : State) (k : Packet) : State :=
  let m := k.set
  let isNew := flag (k.p 0) 8
  let s := s.startJob k m.val id
  let s := if isNew then s.newModule (chanOf m (s.span m).pos) else s
  let s := s.modReb m fun _ => { on := true, isNew := isNew }
  (setChans m).foldl (fun (s : State) (c : ChanId) => (s.ask c 4).after c) s

def execRebuild (s : State) : Host.Outcome State Fault Refusal := .next (s.serve 0x28 rebuildOwn State.rebuild)

/-! ### Prepare (R374, R375) -/

/-- PREPARE (R374). -/
def prepareOwn (s : State) (k : Packet) : Option Nat :=
  let c := k.chan
  let m := setOf c
  let sp := s.span m
  let others := (setChans m).filter (· != c)
  let barred := !s.spanMode m || ((sp.st == 1 || sp.st == 2) && sp.pos != posOf c) || sp.st == 3
    || others.any fun d => (s.chan d).svc.st == 3
  firstOf [(!flag (k.p 0) 8 && barred, 6), ((s.chan c).svc.st != 2 || s.pers.strobe, 6)]

/-- Maintenance work at step 1 of a prepare: a scrub pass ends with STATE 3, an installation is abandoned and what it held
goes on, a PPR ends abandoned (R330, R340, R375). -/
def State.stopMaint (s : State) (c : ChanId) : State :=
  let line := (s.chan c).patch.inst.map fun (x : Nat × Nat) => ((s.chan c).patch.entry x.1).line
  let copied := (s.chan c).ppr.line
  let err := s.openErr
  let s := s.modChan c fun k =>
    { k.dropInst with
      scrub := { k.scrub with st := if k.scrub.st = 1 then 3 else k.scrub.st }
      ppr := k.ppr.abandon }
  let s := [line, copied].foldl (fun (s : State) (o : Option Nat) =>
    match o with
    | some l => s.releaseHeld c l
    | none => s) s
  (s.modJobs fun b =>
    if b.st = 1 ∧ b.target = c.val ∧ [0x20, 0x21, 0x22, 0x23, 0x24].contains b.opc then b.finish err else b).useFree

/-- The prepare begins: its gate tide is fixed, and a channel in IDLE leaves it (R375 step 1). -/
def State.prepare (s : State) (k : Packet) : State :=
  let c := k.chan
  let s := s.startJob k c.val id
  let s := s.stopMaint c
  let s := if (s.chan c).pwrst = 2 then s.beginExit c
    else if (s.chan c).pwrst = 1 then s.modChan c fun q => { q with wakeDue := true } else s
  let g := s.tide + 1024
  (s.modChan c fun q => { q with prepStep := 1, gate := some g, svc := { q.svc with st := 3 } }).after c

def execPrepare (s : State) : Host.Outcome State Fault Refusal := .next (s.serve 0x30 prepareOwn State.prepare)

/-! ### Power states (R383 to R387) -/

/-- A channel that IDLE_ENTER may take (R383). -/
def State.mayIdle (s : State) (c : ChanId) : Bool :=
  let k := s.chan c
  let m := setOf c
  k.svc.st == 2 && (k.pwrst == 0 || k.pwrst == 2) && k.weir.holder.isNone && k.scrub.st != 1
    && !(k.wash.any fun g => decide (g.done < granLines))
    && !(s.spanMode m && (s.span m).st == 2) && !s.anyJob fun b => b.runs 0x28 && b.target == m.val

/-- Each named channel is refused, or enters IDLE; one already there has entered. -/
def State.idleEnter (s : State) (k : Packet) : State :=
  let of := fun (p : ChanId → Bool) => k.chans.foldl (fun (b : BitVec 20) (c : ChanId) => if p c then b ||| chanBit c else b) 0
  let refused := of fun c => !s.mayIdle c
  let there := of fun c => s.mayIdle c && (s.chan c).pwrst == 2
  let go := k.chans.filter fun c => s.mayIdle c && (s.chan c).pwrst == 0
  let s := s.holdRing k k.mask
  let cur := s.cmp.cur.map fun (u : Cur) => { u with ok := there, refused := refused }
  let s : State := { s with cmp := { s.cmp with cur := cur } }
  (go.foldl State.beginIdle s).finishIdle

def execIdleEnter (s : State) : Host.Outcome State Fault Refusal := .next (s.serve 0x31 noRefusal State.idleEnter)

/-- Each named channel leaves IDLE, or was not in it. -/
def State.idleExit (s : State) (k : Packet) : State :=
  let out := k.chans.foldl (fun (b : BitVec 20) (c : ChanId) =>
    if (s.chan c).pwrst = 2 ∨ (s.chan c).pwrst = 3 then b else b ||| chanBit c) 0
  let go := k.chans.filter fun c => (s.chan c).pwrst == 2
  let s := s.holdRing k k.mask
  let cur := s.cmp.cur.map fun (u : Cur) => { u with bad := out }
  let s : State := { s with cmp := { s.cmp with cur := cur } }
  (go.foldl State.beginExit s).finishIdle

def execIdleExit (s : State) : Host.Outcome State Fault Refusal := .next (s.serve 0x32 noRefusal State.idleExit)

/-- SLUMBER (R387). -/
def slumberOwn (s : State) (_ : Packet) : Option Nat :=
  firstOf [(!s.allClosed || s.mill.st != .off || s.anyJob (fun b => b.st == 1) || allChans.any fun c => (s.chan c).svc.st == 3, 6)]

def State.slumber (s : State) (k : Packet) : State :=
  let s := s.holdRing k 0
  (({ s with sbm := { s.sbm with eval := true } }).levelEvents).slumberStep

def execSlumber (s : State) : Host.Outcome State Fault Refusal := .next (s.serve 0x33 slumberOwn State.slumber)

/-! ### Sluice and millrace (R214, R265) -/

/-- SLUICE: ERR 1 for any P0 but the key. -/
def sluiceOwn (_ : State) (k : Packet) : Option Nat := firstOf [(k.p 0 != 0x534C5543, 1)]

def State.sluiceCmd (s : State) (k : Packet) : State := (s.answer k stOk 0 []).strobe 4

def execSluice (s : State) : Host.Outcome State Fault Refusal := .next (s.serve 0x34 sluiceOwn State.sluiceCmd).sweepFails

def millActionOwn (s : State) (k : Packet) : Option Nat := firstOf [(!s.actOk (field (k.p 0) 2 0), 6)]

/-- MILL_ACTION writes MILL_CMD.ACTION and its group's strobe, and replies once the action is taken. -/
def State.millAction (s : State) (k : Packet) : State :=
  ((s.holdRing k 0).store 0x9004 (k.p 0 &&& 7)).postNow (groupBit 27)

def execMillAction (s : State) : Host.Outcome State Fault Refusal := .next (s.serve 0x38 millActionOwn State.millAction)

/-! ### Event records (R445, R446) -/

/-- A challenge: 16 random bytes, EVR_MADE, PCYC, HOURS, four zero bytes. -/
def State.challenge (s : State) : List Byte :=
  bytesOfNat (Config.random s.freeIx).toNat 16 ++ bytesOfNat s.evr.made 4 ++ bytesOfNat s.evr.pcyc 4
    ++ bytesOfNat s.evr.hours 4 ++ bytesOfNat 0 4

def State.evrChallenge (s : State) (k : Packet) : State :=
  let b := s.challenge
  (({ s with evr := { s.evr with chal := some b } }).answer k stOk 0 (byteWords b 8)).useFree

def execEvrChallenge (s : State) : Host.Outcome State Fault Refusal := .next (s.serve 0x48 noRefusal State.evrChallenge)

/-- The EVR key: the OTP slot, or the EVR_KEY registers (all zero when not loaded). -/
def State.evrKey (s : State) : Option (List Byte) :=
  match s.otp.evrKey with
  | some k => some k
  | none =>
    let ws := (List.range 8).map fun i => s.prog (0x5040 + 4 * i)
    if ws.all (· == 0) then none else some ((ws.map wordBytes).flatten)

/-- The response matches the outstanding challenge. -/
def State.provesClear (s : State) (key : List Byte) (k : Packet) : Bool :=
  match s.evr.chal with
  | none => false
  | some c =>
    let msg : List Byte := [0x45, 0x56, 0x52, 0x43] ++ c
    hmacSha256 key msg == ((k.params.take 8).map wordBytes).flatten

/-- 6 with no challenge outstanding, 20 with no key. -/
def evrClearOwn (s : State) (_ : Packet) : Option Nat := firstOf [(s.evr.chal.isNone, 6), (s.evrKey.isNone, 20)]

/-- RSEQ of the newest record made. -/
def State.newestRseq (s : State) : Nat := if s.evr.made = 0 then 0 else s.evr.made - 1

/-- The circulating area is erased, a counter entry written, and then the clear record as its first record (R446). -/
def State.clearRecords (s : State) : State :=
  let e := s.evr
  let gone := s.flash.circ.length
  let last := (s.flash.circ.head?.map (·.rseq)).getD 0
  let r : EvRec := { rseq := e.made, hours := e.hours, pcyc := e.pcyc, tide := (s.tide >>> 16) % 2 ^ 32, source := 0xFFFF,
                     type := 9, cls := 7, lostBefore := e.lostBefore,
                     detail := BitVec.ofNat 64 (place last 32 0 + place gone 16 32) }
  let s := s.writeCounter
  ({ s with evr := { s.evr with made := (e.made + 1) % 2 ^ 32, lostBefore := false }
            flash := { s.flash with circ := [r] } }).raise 561

def State.evrClear (s : State) (k : Packet) : State :=
  let key := s.evrKey.getD []
  if s.provesClear key k then s.clearRecords.answer k stOk 0 []
  else ((s.note 10 s.newestRseq).raise 561).answer k stRefused 20 []

/-- An EVR_CLEAR that is taken consumes the challenge, whatever its outcome (R445). -/
def State.consumed (s t : State) : State :=
  match s.front with
  | some k => if k.opc = 0x49 ∧ (s.badPacket k).isNone then { t with evr := { t.evr with chal := none } } else t
  | none => t

def execEvrClear (s : State) : Host.Outcome State Fault Refusal :=
  .next (s.consumed (s.serve 0x49 evrClearOwn State.evrClear))

/-! ### The 25 ms limit (R413) -/

/-- The access of the command being carried out has begun: it does not withdraw. -/
def State.accessBegun (s : State) (u : Cur) : Bool :=
  let out := fun (use : XferFor) => (s.chan u.ch).i3c.any fun x => x.sent && x.use == use
  if u.opc = 0x12 then out .i3cRead
  else if u.opc = 0x14 then out .pmicSet || (s.chan u.ch).settling
  else u.begun

/-- A waiting command withdraws: its transfer and its weir request go. -/
def State.withdraw (s : State) (u : Cur) : State :=
  let drop := fun (x : Xfer) => x.use == .i3cRead || x.use == .pmicSet
  let s := s.modChan u.ch fun k =>
    { k with i3c := k.i3c.filter fun x => !drop x
             weir := { k.weir with want := (k.weir.want.put 6 false).put 7 false } }
  (s.replyCur stFailed 24 []).after u.ch

/-- IDLE_ENTER or IDLE_EXIT replies by its limit: what has not entered is given up, and reported with what was not done. -/
def State.endIdle (s : State) (u : Cur) : State :=
  let left := allChans.filter fun c => u.mask.getLsbD c.val && !(u.ok ||| u.bad ||| u.refused).getLsbD c.val
  let s := if u.opc = 0x31 then left.foldl State.leaveEntry s else s
  match s.cmp.cur with
  | some v => ({ s with cmp := { s.cmp with cur := some { v with bad := v.mask &&& ~~~(v.ok ||| v.refused) } } }).finishIdle
  | none => s

/-- 25 ms have passed: a command that waits for a weir grant or an I3C bus withdraws. DESIGN CHOICE: IDLE_ENTER and IDLE_EXIT, whose kind has
the same limit, reply with what they have done (R413; log entry 80). -/
def execCommandTimeout (s : State) : Host.Outcome State Fault Refusal :=
  .next (match s.cmp.cur with
    | none => s
    | some u =>
      if [0x12, 0x14, 0x16, 0x17].contains u.opc && !s.accessBegun u then s.withdraw u
      else if u.opc = 0x31 ∨ u.opc = 0x32 then s.endIdle u
      else s)

end Sys2Proof.Machine
end

