-- ==== Sys2Proof/Machine/HostPort.lean ====
section
/-! DEFINITION. The host-port commands (chapter 2): requests, write data and credits entering, admission, response
beats. -/

namespace Sys2Proof.Machine

/-- What follows any change at a port: flood (R69), complete epochs (R208). -/
def State.portAfter (s : State) (p : PortId) : State := (s.updFlood p).settleAll

/-- NOP (R45). The port reads the opcode from the wires (R41, log entry 12). -/
def execNop (p : PortId) (w : BitVec 144) (par : BitVec 18) (s : State) : Host.Outcome State Fault Refusal :=
  .next ((s.takeRequest p w par).portAfter p)

/-- RD (R41). -/
def execRd (p : PortId) (w : BitVec 144) (par : BitVec 18) (s : State) : Host.Outcome State Fault Refusal :=
  .next ((s.takeRequest p w par).portAfter p)

/-- RDS (R44). -/
def execRds (p : PortId) (w : BitVec 144) (par : BitVec 18) (s : State) : Host.Outcome State Fault Refusal :=
  .next ((s.takeRequest p w par).portAfter p)

/-- WR (R41, R47): paired with the write-data group in front. -/
def execWr (p : PortId) (w : BitVec 144) (par : BitVec 18) (s : State) : Host.Outcome State Fault Refusal :=
  .next ((s.takeRequest p w par).portAfter p)

/-- WRP (R43). -/
def execWrp (p : PortId) (w : BitVec 144) (par : BitVec 18) (s : State) : Host.Outcome State Fault Refusal :=
  .next ((s.takeRequest p w par).portAfter p)

/-- WRS (R44). -/
def execWrs (p : PortId) (w : BitVec 144) (par : BitVec 18) (s : State) : Host.Outcome State Fault Refusal :=
  .next ((s.takeRequest p w par).portAfter p)

/-- EFENCE (R213). -/
def execEfence (p : PortId) (w : BitVec 144) (par : BitVec 18) (s : State) : Host.Outcome State Fault Refusal :=
  .next ((s.takeRequest p w par).portAfter p)

/-- PFENCE (R212). -/
def execPfence (p : PortId) (w : BitVec 144) (par : BitVec 18) (s : State) : Host.Outcome State Fault Refusal :=
  .next ((s.takeRequest p w par).portAfter p)

/-- A write-data beat enters (R46). -/
def execWriteDataBeat (p : PortId) (d : Line) (par : BitVec 64) (last : Bool) (s : State) :
    Host.Outcome State Fault Refusal :=
  .next ((s.takeBeat p d par last).portAfter p)

/-- A response credit returns (R54). -/
def execResponseCreditReturn (p : PortId) (s : State) : Host.Outcome State Fault Refusal :=
  .next ((s.takeRspCredit p).portAfter p)

/-- The head of the request buffer is admitted (R57). -/
def execRequestAdmit (p : PortId) (s : State) : Host.Outcome State Fault Refusal :=
  .next ((s.admitFront p).portAfter p)

/-- The read counter of R471 takes a beat. -/
def Port.countBeat (q : Port) (o : RspOut) : Port := if countsRead o then { q with rdCnt := q.rdCnt + 1 } else q

/-- Beat `b` of flight `f` leaves port `p` for one response credit (R48, R137). -/
def State.sendBeat (s : State) (p : PortId) (f : Flight) (b : Rsp) : State :=
  let o := beatOut f b
  let s := s.readG 529 b.bad
  s.modPort p fun q =>
    { q with rspOut := some o, rspCrd := q.rspCrd - 1, flights := flightsAfter q.flights f b }.countBeat o

/-- A port sends one beat (R137), if it may and one is ready. -/
def execResponseBeat (p : PortId) (s : State) : Host.Outcome State Fault Refusal :=
  .next (if s.maySend p then
      match s.chooseBeat p with
      | some (f, b) => (s.sendBeat p f b).portAfter p
      | none => s
    else s)

end Sys2Proof.Machine
end

