-- ==== Sys2Proof/Machine/Tide.lean ====
section
/-! DEFINITION. The commands of the tide, the cadence and the updates (chapter 6, R206, R207, R256, R302, R461). -/

namespace Sys2Proof.Machine

/-! ### Tide copies (R180 to R182) -/

/-- The tide copy of CHn, in units of 1 over the multiplier: it advances by 64 of them in every DCLK, and a DCLK takes
64 of them over the multiplier in tide units (R180). -/
def State.copyNum (s : State) (c : ChanId) : Nat :=
  let k := s.chan c
  k.copyBase + (s.tide - k.copyFrom) * k.phy.mul / 64 * 64

/-- The copy's value is the whole part (R180). -/
def State.copy (s : State) (c : ChanId) : Nat := s.copyNum c / (s.chan c).phy.mul

/-- A copy that shows `n` at a mark of tide value `T` is aligned: less than one DCLK's worth of tide units lies between
(R181). -/
def aligned (n T mul : Nat) : Bool := decide (n < T * mul + 64) && decide (T * mul < n + 64)

/-- The sync mark of tide value `T` at one tide copy that shows `n`: an invalid copy of a running DCLK loads the mark, one
that is not aligned is invalid until the next mark (R181, R182). -/
def Chan.syncMark (k : Chan) (n T : Nat) : Chan :=
  if !k.phy.lock then k
  else if !k.tideValid then
    { k with tideValid := true, tideReload := false, copyBase := T * k.phy.mul, copyFrom := T
             skew := if k.tideReload then satAdd 255 k.skew 1 else k.skew }
  else if !aligned n T k.phy.mul then { k with tideValid := false, tideReload := true }
  else { k with copyBase := n, copyFrom := T }

/-- The mark at one channel; `seen` names the copies that something has disturbed, with what they show. -/
def State.syncMark (s : State) (seen : List (ChanId × Nat)) (c : ChanId) : State :=
  let k := s.chan c
  let n := ((seen.find? fun e => e.1 == c).map Prod.snd).getD (s.copyNum c)
  let hit := k.phy.lock && k.tideValid && !aligned n s.tide k.phy.mul
  let s := s.modChan c fun k => k.syncMark n s.tide
  if hit then s.raiseChan c 0 else s

/-- A sync mark goes to every tide copy (R181). -/
def State.sendMark (s : State) (seen : List (ChanId × Nat)) : State :=
  allChans.foldl (fun (s : State) (c : ChanId) => s.syncMark seen c) s

/-! ### Slots (R185 to R188, R196) -/

/-- The slot of entry `k` at tide value `T`, with its targets (R187). -/
def State.slotOf (s : State) (k : Fin 8) (T : Nat) : PostedSlot :=
  let base := 0x8000 + 0x20 * k.val
  let on := ((allChans.filter fun c => flag (s.agent c 0x030) 0).map fun c => 2 ^ c.val).sum
  { entry := k.val, at_ := T, kind := s.cadKind k.val, sub := BitVec.ofNat 2 (field (s.live base) 4 3)
    chm := BitVec.ofNat 20 (field (s.live (base + 4)) 19 0) &&& BitVec.ofNat 20 on }

/-- Entry `k`'s next slot is posted (R187); after the strobe no pause is (R196). DESIGN CHOICE: NEXT k then shows the slot
after it, though this one is still to come (R188, log entry 61). -/
def State.postSlot (s : State) (k : Fin 8) (T : Nat) : State :=
  let e := s.slotOf k T
  let per := cadPeriod e.kind (s.live (0x8008 + 0x20 * k.val)).toNat
  { s with cad := { s.cad with
      next := s.cad.next.put k (some (T + per))
      posted := if e.kind = 2 ∧ s.pers.strobe then s.cad.posted else s.cad.posted ++ [e] } }

/-- LAG of PERS_STAT. -/
def State.lag (s : State) : Nat := s.pers.cur - s.pers.dur

/-- The open epoch closes and the next opens; in FROZEN a LAG of 8 raises the withhold (R207, R256). -/
def State.cut (s : State) : State :=
  let s : State := { s with pers := { s.pers with cur := s.pers.cur + 1 } }
  let s := s.settle
  let s : State := if s.mill.st = .frozen ∧ 8 ≤ s.lag then { s with mill := { s.mill with withhold := true } } else s
  s.updWithhold

/-! ### Updates (R197 to R201, R460 to R463) -/

/-- UPD_STROBE (R461). -/
def State.strobeUpd (s : State) (data : Word) : State :=
  if strobeMask data = 0 then s else s.postNow (strobeMask data)

def execUpdStrobe (data : Word) (s : State) : Host.Outcome State Fault Refusal := .next (s.ctl (·.strobeUpd data))

/-- The launch tide value of UPD_AT (R197). -/
def State.atTide (s : State) : Nat := (s.prog 0x030).toNat + (s.prog 0x034).toNat * 2 ^ 32

/-- ARM (R198). -/
def State.armAt (s : State) : State :=
  if s.regs.atPend || s.regs.atPosted then s
  else if s.atTide ≤ s.tide + 1024 then
    { s with regs := { s.regs with atLate := true, atSeq := nextSeq s.regs.atSeq } }
  else { s with regs := { s.regs with atPend := true } }

/-- CANCEL (R199). -/
def State.cancelAt (s : State) : State := { s with regs := { s.regs with atPend := false } }

def execUpdAtArm (s : State) : Host.Outcome State Fault Refusal := .next (s.ctl State.armAt)
def execUpdAtCancel (s : State) : Host.Outcome State Fault Refusal := .next (s.ctl State.cancelAt)

/-- An armed update is posted (R199). -/
def State.postArmed (s : State) : State :=
  ({ s with regs := { s.regs with atPend := false, atPosted := true } }).post (strobeMask (s.prog 0x038)) s.atTide true

end Sys2Proof.Machine
end

