-- ==== Sys2Proof/Machine/Launch.lean ====
section
/-! DEFINITION. What the tide launches (R20 to R22, R157, R178, R181, R186, R187, R195, R199, R207, R361, R375, R383): every
action of a tide value takes place in all units at once, in the CCLK in which the tide reaches it. -/

namespace Sys2Proof.Machine

/-! ### What is due -/

/-- The next sync mark that some tide copy waits for (R182). -/
def State.markDue (s : State) : List Nat :=
  if (allChans.any fun c => (s.chan c).phy.lock && !(s.chan c).tideValid) then [(s.tide / 4096 + 1) * 4096] else []

/-- The tide values at which something is due. -/
def State.dues (s : State) : List Nat :=
  s.regs.posted.map (·.at_) ++ s.cad.posted.map (·.at_) ++ (s.cad.next.toList.filterMap id).map (· - 1024)
    ++ (if s.regs.atPend then [s.atTide - 1024] else []) ++ allChans.filterMap (fun c => (s.chan c).gate) ++ s.markDue

/-- The earliest of them. -/
def State.nextDue (s : State) : Option Nat := pick (fun (a b : Nat) => decide (a < b)) s.dues

/-! ### A launch -/

/-- The tide moves on to `T`; the CCLK that end let held writes land (R178, R462). -/
def State.advance (s : State) (T : Nat) : State :=
  if s.tide < T then (({ s with tide := T }).nextCclk.landHeld).sledFalls (T - s.tide) else s

/-- The posted slots of a kind that are reached. -/
def State.reached (s : State) (kind : Nat) : List PostedSlot :=
  s.cad.posted.filter fun e => e.kind == kind && decide (e.at_ ≤ s.tide)

/-- An epoch cut that is reached: two of one T make one cut, and after the strobe none takes place (R207, R216). -/
def State.cuts (s : State) : State := if (s.reached 3).isEmpty || s.pers.strobe then s else s.cut

/-- An entry's slot whose posting time has come is posted (R187). -/
def State.postDue (s : State) (k : Fin 8) : State :=
  match s.cad.next.at k with
  | some T => if T ≤ s.tide + 1024 then s.postSlot k T else s
  | none => s

/-- Slots whose posting time has come are posted, and an armed update is (R187, R199). -/
def State.posts (s : State) : State :=
  let s := (List.finRange 8).foldl State.postDue s
  if s.regs.atPend && decide (s.atTide ≤ s.tide + 1024) then s.postArmed else s

/-- The windows and pauses that are reached at one subchannel, the window first (R189). A channel whose tide copy is invalid
takes none (R195). DESIGN CHOICE: two windows, or two pauses, of one T act once (log entry 61). -/
def State.takeSlots (s : State) (wins pauses : List PostedSlot) (c : ChanId) (x : Sub) : State :=
  if !((s.chan c).tideValid && s.slotOn c) then s
  else
    let win := wins.any fun e => e.names c x
    let s := if win then s.window_ c x else s
    if pauses.any fun e => e.names c x then s.pause c x win else s

/-- Every subchannel takes the windows and pauses that are reached, and they are posted no longer. -/
def State.allSlots (s : State) : State :=
  let wins := s.reached 1
  let pauses := s.reached 2
  let s : State := { s with cad := { s.cad with posted := s.cad.posted.filter fun e => !decide (e.at_ ≤ s.tide) } }
  if wins.isEmpty && pauses.isEmpty then s
  else allChans.foldl (fun (s : State) (c : ChanId) => (s.takeSlots wins pauses c 0).takeSlots wins pauses c 1) s

/-- The gate of a channel that is reached (R375, R383). -/
def State.gateDue (s : State) (c : ChanId) : State :=
  match (s.chan c).gate with
  | some g => if g ≤ s.tide then s.passGate c else s
  | none => s

/-- The gates that are reached. -/
def State.gates (s : State) : State := allChans.foldl State.gateDue s

/-- The tide reaches `T`, and all that is due there takes place (R20, R21): the sync mark, the epoch cut, the updates, the
postings, the windows and pauses, the gates. DESIGN CHOICE: an update of the same T goes before a window or pause (R201,
log entry 61). -/
def State.launch (s : State) (T : Nat) (seen : List (ChanId × Nat)) : State :=
  let s := s.advance T
  let s := if s.tide % 4096 = 0 then s.sendMark seen else s
  s.cuts.takeUpdates.posts.allSlots.gates.settleAll.sweepFails

/-- One CCLK passes with nothing else: the tide counts by one while it runs, and what is due there takes place (R178, log
entry 2). -/
def State.tick (s : State) : State :=
  if !s.ticking then s.sledFalls 1
  else
    let T := s.tide + 1
    if (s.nextDue.any fun d => decide (d ≤ T)) || T % 4096 = 0 then s.launch T [] else s.advance T

/-- Time passes up to tide value `T`, what is due before it taking place on the way, in at most `n` launches (log entry
3). -/
def State.runTo : Nat → State → Nat → List (ChanId × Nat) → State
  | 0, s, T, seen => s.launch T seen
  | n + 1, s, T, seen =>
    match s.nextDue with
    | some d => if d < T then (s.launch (max d (s.tide + 1)) []).runTo n T seen else s.launch T seen
    | none => s.launch T seen

/-- A row whose event is due at a tide value: time passes up to it. An event that is not due changes nothing. -/
def State.await (s : State) (T : Option Nat) : State :=
  match T with
  | some T => if s.ticking then s.runTo (T - s.tide) T [] else s
  | none => s

/-- The earliest tide value of a list. -/
def earliest (l : List Nat) : Option Nat := pick (fun (a b : Nat) => decide (a < b)) l

/-! ### The rows -/

/-- The sync mark of the next multiple of 4,096; `seen` gives what disturbed copies show, in units of 1 over their
multiplier (R181). -/
def execTideSyncMark (seen : List (ChanId × Nat)) (s : State) : Host.Outcome State Fault Refusal :=
  let T := (s.tide / 4096 + 1) * 4096
  .next (if s.ticking then s.runTo (T - s.tide) T seen else s)

/-- An entry's next slot is posted, 1,024 tide units ahead (R187). -/
def execSlotPost (k : Fin 8) (s : State) : Host.Outcome State Fault Refusal :=
  .next (s.await ((s.cad.next.at k).map (· - 1024)))

/-- A posted refresh window of the subchannel is reached (R157). -/
def execRefreshWindow (c : ChanId) (x : Sub) (s : State) : Host.Outcome State Fault Refusal :=
  .next (s.await (earliest ((s.cad.posted.filter fun e => e.kind == 1 && e.names c x).map (·.at_))))

/-- A posted retraining pause of the subchannel is reached, if one is posted (R361); `fails`, `up` and `down` are what the
trials of the last pause begun find. -/
def execRetrainPause (c : ChanId) (x : Sub) (fails up down : BitVec 4) (s : State) : Host.Outcome State Fault Refusal :=
  .next (((s.await (earliest ((s.cad.posted.filter fun e => e.kind == 2 && e.names c x).map (·.at_)))).rtrOutcome c x
    { fails, up, down }).sweepFails)

/-- A posted epoch cut is reached (R207). -/
def execEpochCut (s : State) : Host.Outcome State Fault Refusal :=
  .next (s.await (earliest ((s.cad.posted.filter fun e => e.kind == 3).map (·.at_))))

/-- An armed update is posted at T − 1,024 (R199). -/
def execUpdAtPost (s : State) : Host.Outcome State Fault Refusal :=
  .next (s.await (if s.regs.atPend then some (s.atTide - 1024) else none))

/-- The earliest posted update takes effect (R20, R461). -/
def execUpdateTakesEffect (s : State) : Host.Outcome State Fault Refusal :=
  .next (s.await (earliest (s.regs.posted.map (·.at_))))

/-- The gate of a prepare: from here on requests treat CHn as prepared, and CHn drains what came before (R375 steps 2 and 3,
R376). -/
def execPrepareGate (c : ChanId) (s : State) : Host.Outcome State Fault Refusal :=
  .next (s.await (if (s.chan c).svc.st = 3 then (s.chan c).gate else none))

/-- The gate of an entry to IDLE: requests admitted before it are completed (R383). -/
def execIdleGate (c : ChanId) (s : State) : Host.Outcome State Fault Refusal :=
  .next (s.await (if (s.chan c).pwrst = 1 then (s.chan c).gate else none))

end Sys2Proof.Machine
end

