-- ==== Sys2Proof/Machine/Weir.lean ====
section
/-! DEFINITION. The weir's and the maintenance engines' commands (chapter 10). -/

namespace Sys2Proof.Machine

/-- An ordinary requester, or the debug port: codes 1 and 2 raise no request of their own (R304). -/
def asksWeir (r : Nat) : Bool := r == 0 || decide (3 ≤ r)

/-- A requester with work raises its request, once (R305). -/
def execWeirRequest (c : ChanId) (code : Fin 10) (s : State) : Host.Outcome State Fault Refusal :=
  .next (if asksWeir code.val then s.ask c code else s)

/-- A back-off ends, and the requester requests again if it still has work (R306). -/
def execBackoffExpiry (c : ChanId) (code : Fin 10) (s : State) : Host.Outcome State Fault Refusal :=
  .next (let w := (s.chan c).weir
    if !w.want.at code then s
    else if s.hasWork c code.val || code == 0 then s.request c code
    else s.modWeir c fun w => { w with want := w.want.put code false })

/-- The holder has held for its quantum while another requester waits (R307). -/
def execQuantumExpiry (c : ChanId) (s : State) : Host.Outcome State Fault Refusal :=
  .next (let w := (s.chan c).weir
    if field (s.agent c 0x074) 7 0 ≠ 0 ∧ w.holder.isSome ∧ w.want.toList.any id then
      s.modWeir c fun w => { w with quantumOver := true }
    else s)

/-- The holder releases at a checkpoint, its work done or its quantum over (R307, R310). -/
def execWeirRelease (c : ChanId) (s : State) : Host.Outcome State Fault Refusal :=
  .next (match (s.chan c).weir.holder with
    | none => s
    | some r =>
      if !s.unitBusy c r && !(s.chan c).unstoppable && ((s.chan c).weir.quantumOver || !s.moreWork c r) then (s.release c).settleAll.sweepFails else s)

/-- A TAP DRAM access asks as the debug port (R304, R309). -/
def execDebugDramAccess (c : ChanId) (s : State) : Host.Outcome State Fault Refusal := .next (s.request c 0)

/-- RETIRE_CTL.POP (R319). -/
def State.popRetire (s : State) : State := { s with retire := { s.retire with list := s.retire.list.tail } }

def execRetirePop (s : State) : Host.Outcome State Fault Refusal := .next (s.ctl State.popRetire)

/-- LADDER_CTL.CLR (R331, R332). -/
def State.clearLadder (s : State) : State :=
  { s with chans := s.chans.each fun k => { k with ladder := { k.ladder with hard := [] } } }

def execLadderClr (s : State) : Host.Outcome State Fault Refusal := .next (s.ctl State.clearLadder)

/-- A keepsake program ends and is read back (R326); none is started while the warn decision stands (R225). -/
def execKeepsakeProgramDone (ok : Bool) (s : State) : Host.Outcome State Fault Refusal :=
  .next (if !s.mayProgram || s.flash.ksQ.isEmpty then s else (s.programmed.ksDone ok).settleAll.sweepFails)

/-- A PPR programming interval ends (R329 step 5): the bank is closed and repair mode left, and what was held back during
the interval takes effect (R311). -/
def execPprProgramEnd (c : ChanId) (s : State) : Host.Outcome State Fault Refusal :=
  .next (let k := s.chan c
    if !k.ppr.prog then s
    else
      let p := (s.geom c).place k.ppr.row
      let close : List Cmd :=
        [{ kind := .pre, bank := p.bank, row := p.row, use := .pprEnd },
         { kind := .mrw, bank := ⟨p.bank.cs, 0, 0, 0⟩, use := .pprEnd, mr := 23, val := 0 }]
      let s := s.modPpr c fun q => { q with prog := false, pos := 1 }
      (s.modSel c p.sub fun l => { l with plan := l.plan ++ close }).lateRevoke c)

/-- The settling time of a PMIC change ends (R310, R311): PMIC_SET is carried out. -/
def execPmicSettled (c : ChanId) (s : State) : Host.Outcome State Fault Refusal :=
  .next (if !(s.chan c).settling then s
    else
      let s := s.modChan c fun k => { k with settling := false }
      let s := match s.cmp.cur with
        | some u => if u.opc = 0x14 ∧ u.ch = c then s.replyCur stOk 0 [] else s
        | none => s
      s.lateRevoke c)

end Sys2Proof.Machine
end

