-- ==== Sys2Proof/Machine/RegIf.lean ====
section
/-! DEFINITION. The register interface (chapter 15): views, direct and indirect accesses, the cinch bits, the stitch check
and the snapshot mailbox. -/

namespace Sys2Proof.Machine

/-! ### Views (R450) -/

/-- What a write through a view brings to a register: the value for its RW, RWS and RWC fields, the WO bits that act, and
the data of a direct write, which alone can clear RS fields. -/
structure RegWrite where
  val : Word
  act : Word
  rs : Option Word
  deriving DecidableEq, Repr

/-- A write of `data` through view `v` of a register whose fields hold `old` (R450). -/
def viewWrite (v : View) (old data : Word) : RegWrite :=
  match v with
  | .direct => ⟨data, data, some data⟩
  | .set => ⟨old ||| data, data, none⟩
  | .clear => ⟨old &&& ~~~data, 0, none⟩
  | .toggle => ⟨old ^^^ data, data, none⟩

/-- An RS register takes its clear from a direct write alone. -/
def State.onRs (s : State) (w : RegWrite) (f : State → Word → State) : State :=
  match w.rs with
  | some d => f s d
  | none => s

/-- A WO bit acts. -/
def State.onAct (s : State) (w : RegWrite) (i : Nat) (f : State → State) : State := if flag w.act i then f s else s

/-! ### Channel agents (R453, R456) -/

/-- A write of register `off` of channel agent `c` through a view: one read-modify-write (R451). -/
def State.writeAgent (s : State) (v : View) (c : ChanId) (off : Nat) (data : Word) : State :=
  let key := agentKey c.val off
  let w := viewWrite v (s.shadow key) data
  let busy := (s.chan c).inj.busy
  if 0x140 ≤ off ∧ off < 0x190 then (if busy then s else s.store key w.val)
  else match off with
    | 0x048 => s.onRs w (·.clearPsn c ·)
    | 0x064 => s.onRs w (·.clearRdue c ·)
    | 0x090 => (s.store key w.val).onAct w 0 (·.clearEcc c)
    | 0x120 => if busy then s else (s.store key w.val).onAct w 3 fun s => s.injGo c (field (s.prog key) 2 0)
    | 0x128 | 0x12C => if busy then s else s.store key w.val
    | 0x134 => s.onAct w 0 (·.armChan c)
    | _ => s.store key w.val

/-! ### IND_ADDR and IND_DATA (R453 to R455) -/

/-- OFF, AGENT, AINC and BCAST of IND_ADDR. -/
def State.indOff (s : State) : Nat := field (s.prog 0x010) 11 0
def State.indAgent (s : State) : Nat := field (s.prog 0x010) 20 16

/-- OFF after an IND_DATA access. -/
def State.advanceInd (s : State) : State :=
  let w := s.prog 0x010
  if flag w 24 then s.setProg 0x010 ((w &&& 0xFFFFF000) ||| BitVec.ofNat 32 ((field w 11 0 + 4) % 4096)) else s

def State.setIndErr (s : State) (e : Nat) : State := { s with regs := { s.regs with indErr := e } }

/-- The agent that IND_ADDR names. -/
def State.namedAgent (s : State) : Option ChanId := allChans.find? fun c => c.val == s.indAgent

/-- A write of IND_DATA. -/
def State.indWrite (s : State) (v : View) (data : Word) : State :=
  let off := s.indOff
  let s :=
    if flag (s.prog 0x010) 25 then
      if s.reachable then
        (allChans.foldl (fun (s : State) (c : ChanId) => s.writeAgent v c off data) s).setIndErr 0
      else s.setIndErr 2
    else match s.namedAgent with
      | none => s.setIndErr 1
      | some c => if s.reachable then (s.writeAgent v c off data).setIndErr 0 else s.setIndErr 2
  s.advanceInd

/-- What a read of IND_DATA returns, with the outcome in IND_STAT.ERR. -/
def State.indRead (s : State) : Word × Nat :=
  match s.namedAgent with
  | none => (0, 1)
  | some c => if s.reachable then (s.readAgent c s.indOff, 0) else (0, 2)

/-- The control port's read data, and CP_ERR. -/
def State.cpAnswer (s : State) (data : Word) (err : Bool) : State := { s with regs := { s.regs with cpData := data, cpErr := err } }

/-! ### Global registers -/

/-- SVC_CTL (R371, R372): PWR 0 is ignored while sled power is in use; PWR 1 brings a SEVERED channel back to EMPTY. -/
def State.writeSvc (s : State) (c : ChanId) (val : Word) : State :=
  let v := (s.chan c).svc
  let keep := !flag val 0 && (v.st == 1 || v.st == 2 || v.st == 3)
  let val := if keep then (val &&& ~~~1) ||| (s.prog (svcCtlKey c) &&& 1) else val
  let s := s.store (svcCtlKey c) val
  if flag val 0 && v.st == 5 && v.pres then s.modChan c fun k => { k with svc := { k.svc with st := 0 } } else s

/-- UPD_AT_TIDE and UPD_AT_GRP are not written while an armed update is pending or posted (R198). -/
def State.writeAt (s : State) (key : Nat) (val : Word) : State :=
  if s.regs.atPend || s.regs.atPosted then s else s.store key val

/-- UPD_AT_CTL: ARM and CANCEL together do nothing (R199). -/
def State.writeAtCtl (s : State) (act : Word) : State :=
  if flag act 0 && flag act 1 then s else if flag act 0 then s.armAt else if flag act 1 then s.cancelAt else s

/-- CINCH: bits are set and never cleared (R458). -/
def State.setCinch (s : State) (data : Word) : State :=
  { s with regs := { s.regs with cinch := s.regs.cinch ||| data.setWidth 6 } }

/-- STITCH_COMMIT.GO (R467). -/
def State.commitGo (s : State) : State := { s with regs := { s.regs with stPend := true } }

/-- SNAP_SEL: a fetch starts, and one under way is abandoned (R470). -/
def State.selectSnap (s : State) (val : Word) : State :=
  let s := s.setProg 0x070 (val &&& 0x3FF)
  { s with regs := { s.regs with
      snapItem := field val 9 0, snapValid := false, snapErr := false, snapBusy := true, snapLo := 0, snapHi := 0 } }

/-- The channel whose SVC_CTL lies at `addr`. -/
def svcChan (addr : Nat) : Option ChanId := allChans.find? fun c => svcCtlKey c == addr

/-- A write of a register of a host-port block. -/
def State.writePort (s : State) (p : PortId) (key : Nat) (w : RegWrite) : State :=
  match key % 0x1000 with
  | 0x108 => s.onRs w (·.clearVstat p ·)
  | 0x114 => s.onRs w (·.clearWbx p ·)
  | 0x208 => s.onRs w (·.clearPerr p ·)
  | _ => s.store key w.val

/-- A write of a global register other than IND_DATA, by its word address. -/
def State.writeGlobal (s : State) (addr : Nat) (w : RegWrite) : State :=
  if 0x10000 ≤ addr then
    match allPorts.find? fun p => p.val == (addr - 0x10000) / 0x1000 with
    | some p => s.writePort p addr w
    | none => s
  else match svcChan addr with
    | some c => s.writeSvc c w.val
    | none =>
      match addr with
      | 0x020 => if w.act = 0 then s else s.strobeUpd w.act
      | 0x030 | 0x034 | 0x038 => s.writeAt addr w.val
      | 0x03C => s.writeAtCtl w.act
      | 0x040 => s.onRs w State.clearUpdAt
      | 0x050 => s.setCinch w.val
      | 0x064 => s.onAct w 0 State.commitGo
      | 0x070 => s.selectSnap w.val
      | 0x2800 => s.writePi w.val
      | 0x4100 => if w.act = 0 ∧ w.rs = none then s else s.clearFault w.act
      | 0x5008 => s.selRecord w.val
      | 0x6008 => s.onAct w 0 State.dropAlarm
      | 0x6010 => s.onRs w State.clearWake
      | 0x6014 => s.onRs w State.clearPress
      | 0x6018 => s.onRs w State.clearPchg
      | 0x9024 => s.onRs w State.clearBrk
      | 0xA068 => (s.store addr w.val).onAct w 1 State.freshGo
      | 0xB024 => s.onAct w 0 State.popRetire
      | 0xB030 => (s.store addr w.val).onAct w 4 State.clearLadder
      | 0xB044 => s.onAct w 0 State.armGlobal
      | _ => s.store addr w.val

/-- The value that a view's read-modify-write starts from: the stored fields, or CINCH. -/
def State.oldWord (s : State) (addr : Nat) : Word := if addr = 0x050 then s.regs.cinch.setWidth 32 else s.shadow addr

/-- A write at a 22-bit register address through a view (R449, R450). -/
def State.cpWrite (s : State) (v : View) (addr : BitVec 22) (data : Word) : State :=
  let a := addr.toNat / 4 * 4
  let s := s.cpAnswer 0 (!mappedBlock a)
  if !mappedBlock a then s
  else if a = 0x014 then s.indWrite v data
  else s.writeGlobal a (viewWrite v (s.oldWord a) data)

/-! ### The commands -/

/-- A direct write of a register. -/
def execRegisterWrite (addr : BitVec 22) (data : Word) (s : State) : Host.Outcome State Fault Refusal :=
  .next (s.ctl (·.cpWrite .direct addr data))

/-- A write through a view (R450). -/
def execAliasWrite (v : View) (addr : BitVec 22) (data : Word) (s : State) : Host.Outcome State Fault Refusal :=
  .next (s.ctl (·.cpWrite v addr data))

/-- A write of IND_DATA through a view (R453 to R455). -/
def execIndDataWrite (v : View) (data : Word) (s : State) : Host.Outcome State Fault Refusal :=
  .next (s.ctl fun s => (s.cpAnswer 0 false).indWrite v data)

/-- A read of a PATCH register reads its word of the patch table (R287, R288 code 8, R327). What it returns of a word whose bad byte
acts the spec leaves open: a free value (log entry 8). -/
def State.readPatchReg (s : State) : State :=
  match s.namedAgent with
  | none => s
  | some c =>
    if s.reachable ∧ 0x400 ≤ s.indOff ∧ s.indOff < 0x600 then
      let i := (s.indOff - 0x400) / 8
      if acts ((s.chan c).patch.entry i).bad then
        { (s.cpAnswer (Config.openWord s.freeIx) false).readEntry c i with freeIx := s.freeIx + 1 }
      else s.readEntry c i
    else s

/-- A read of IND_DATA; through an alias it returns what a direct read does (R450). -/
def execIndDataRead (_ : View) (s : State) : Host.Outcome State Fault Refusal :=
  .next (s.ctl fun s => (((s.cpAnswer s.indRead.1 false).setIndErr s.indRead.2).readPatchReg.advanceInd).sweepFails)

/-- A direct write of CINCH (R458). -/
def execCinchWrite (data : Word) (s : State) : Host.Outcome State Fault Refusal := .next (s.ctl (·.setCinch data))

/-- A write of STITCH_COMMIT (R467). -/
def execStitchCommit (data : Word) (s : State) : Host.Outcome State Fault Refusal :=
  .next (s.ctl fun s => if flag data 0 then s.commitGo else s)

/-! ### The stitch check (R437, R465 to R469) -/

/-- The covered bits of a register: those in force of an RWS register, those stored of any other (R465). -/
def State.stitchWord (s : State) (key : Nat) : Word :=
  let i := regInfo key
  (if i.rws = 0 then s.prog key else s.live key) &&& i.cover

/-- A sweep's result (R466). -/
def State.stitchCrc (s : State) : Word := crc32c ((coveredKeys.map fun k => wordBytes (s.stitchWord k)).flatten)

/-- The FCOL's CRC over FREACT (R437). -/
def State.freactCrc (s : State) : Word := crc32c (((List.range 144).map fun k => wordBytes (s.prog (0x4200 + 4 * k))).flatten)

/-- The sweep of a commit: the references are taken, and the check is armed (R467). -/
def State.takeStitch (s : State) : State :=
  { s with regs := { s.regs with stRef := s.stitchCrc, stArmed := true, stPend := false }
           fcol := { s.fcol with ref := s.freactCrc } }

/-- The sweep is compared (R437, R466). -/
def State.compareStitch (s : State) : State :=
  let mism := s.stitchCrc != s.regs.stRef
  let self := s.freactCrc != s.fcol.ref
  let s := if mism then ({ s with regs := { s.regs with stMism := true } }).raise 551 else s
  if self then s.raise 575 else s

/-- A sweep completes. -/
def State.sweepStitch (s : State) : State :=
  let s : State := { s with regs := { s.regs with stSweeps := satAdd 65535 s.regs.stSweeps 1 } }
  if s.regs.stPend then (if s.posted = 0 then s.takeStitch else s)
  else if s.regs.stArmed && !s.fcol.safe then s.compareStitch
  else s

def execStitchSweepEnd (s : State) : Host.Outcome State Fault Refusal := .next (s.ctl State.sweepStitch)

/-! ### The snapshot mailbox (R470, R471) -/

def execSnapSelWrite (data : Word) (s : State) : Host.Outcome State Fault Refusal := .next (s.ctl (·.selectSnap data))

/-- The item that a fetch samples: none when it is not in the table or its owner is unreachable. -/
def State.snapValue (s : State) (i : Nat) : Option Nat :=
  if 0x040 ≤ i ∧ i < 0x0A0 ∧ !s.reachable then none else s.snapItem i

/-- The fetch ends. -/
def State.endSnap (s : State) : State :=
  let r := s.regs
  if !r.snapBusy then s
  else match s.snapValue r.snapItem with
    | none => { s with regs := { r with snapBusy := false, snapErr := true } }
    | some n =>
      { s with regs := { r with snapBusy := false, snapValid := true
                                snapLo := BitVec.ofNat 32 n, snapHi := BitVec.ofNat 32 (n / 2 ^ 32) } }

def execSnapFetchDone (s : State) : Host.Outcome State Fault Refusal := .next (s.ctl State.endSnap)

end Sys2Proof.Machine
end

