-- ==== Sys2Proof/Machine/Dispatch.lean ====
section
/-! DEFINITION. One arm per command. -/

namespace Sys2Proof.Machine

def exec (i : Instr) (s : State) : Host.Outcome State Fault Refusal :=
  match i with
  | .nop p w par => Sys2Proof.Machine.execNop p w par s
  | .rd p w par => Sys2Proof.Machine.execRd p w par s
  | .rds p w par => Sys2Proof.Machine.execRds p w par s
  | .wr p w par => Sys2Proof.Machine.execWr p w par s
  | .wrp p w par => Sys2Proof.Machine.execWrp p w par s
  | .wrs p w par => Sys2Proof.Machine.execWrs p w par s
  | .efence p w par => Sys2Proof.Machine.execEfence p w par s
  | .pfence p w par => Sys2Proof.Machine.execPfence p w par s
  | .writeDataBeat p d par last => Sys2Proof.Machine.execWriteDataBeat p d par last s
  | .responseCreditReturn p => Sys2Proof.Machine.execResponseCreditReturn p s
  | .requestAdmit p => Sys2Proof.Machine.execRequestAdmit p s
  | .crossbarTransfer d => Sys2Proof.Machine.execCrossbarTransfer d s
  | .writeAccept d => Sys2Proof.Machine.execWriteAccept d s
  | .eddyLwinExpiry c line => Sys2Proof.Machine.execEddyLwinExpiry c line s
  | .stripeSwinExpiry m stripe => Sys2Proof.Machine.execStripeSwinExpiry m stripe s
  | .internalReadReturn c => Sys2Proof.Machine.execInternalReadReturn c s
  | .commandSlot c x => Sys2Proof.Machine.execCommandSlot c x s
  | .candidateAged c id => Sys2Proof.Machine.execCandidateAged c id s
  | .mshareWindowEnd c x => Sys2Proof.Machine.execMshareWindowEnd c x s
  | .pageIdleExpiry c x b => Sys2Proof.Machine.execPageIdleExpiry c x b s
  | .commandAck c x => Sys2Proof.Machine.execCommandAck c x s
  | .caParityAlert c x => Sys2Proof.Machine.execCaParityAlert c x s
  | .alertRelease c x => Sys2Proof.Machine.execAlertRelease c x s
  | .alertRcvrExpiry c x => Sys2Proof.Machine.execAlertRcvrExpiry c x s
  | .alertStuckTimeout c x => Sys2Proof.Machine.execAlertStuckTimeout c x s
  | .readDataDecode c x raw => Sys2Proof.Machine.execReadDataDecode c x raw s
  | .returnLine c => Sys2Proof.Machine.execReturnLine c s
  | .responseBeat p => Sys2Proof.Machine.execResponseBeat p s
  | .tideSyncMark seen => Sys2Proof.Machine.execTideSyncMark seen s
  | .slotPost k => Sys2Proof.Machine.execSlotPost k s
  | .refreshWindow c x => Sys2Proof.Machine.execRefreshWindow c x s
  | .retrainPause c x fails up down => Sys2Proof.Machine.execRetrainPause c x fails up down s
  | .epochCut => Sys2Proof.Machine.execEpochCut s
  | .updStrobe data => Sys2Proof.Machine.execUpdStrobe data s
  | .updAtArm => Sys2Proof.Machine.execUpdAtArm s
  | .updAtCancel => Sys2Proof.Machine.execUpdAtCancel s
  | .updAtPost => Sys2Proof.Machine.execUpdAtPost s
  | .updateTakesEffect => Sys2Proof.Machine.execUpdateTakesEffect s
  | .pwrFail => Sys2Proof.Machine.execPwrFail s
  | .sluiceDone => Sys2Proof.Machine.execSluiceDone s
  | .sagWarn pinLow droop => Sys2Proof.Machine.execSagWarn pinLow droop s
  | .sagCrit pinLow droop => Sys2Proof.Machine.execSagCrit pinLow droop s
  | .warnClearTimeout => Sys2Proof.Machine.execWarnClearTimeout s
  | .tallyClear m t => Sys2Proof.Machine.execTallyClear m t s
  | .moBeatSend l => Sys2Proof.Machine.execMoBeatSend l s
  | .miData l d ctl => Sys2Proof.Machine.execMiData l d ctl s
  | .miHeader l d ctl => Sys2Proof.Machine.execMiHeader l d ctl s
  | .miTrailer l d ctl => Sys2Proof.Machine.execMiTrailer l d ctl s
  | .miAck l d ctl => Sys2Proof.Machine.execMiAck l d ctl s
  | .miHello l d ctl => Sys2Proof.Machine.execMiHello l d ctl s
  | .miSever l d ctl => Sys2Proof.Machine.execMiSever l d ctl s
  | .miDrift l d ctl => Sys2Proof.Machine.execMiDrift l d ctl s
  | .miRsEnd l d ctl => Sys2Proof.Machine.execMiRsEnd l d ctl s
  | .miIdle l d ctl => Sys2Proof.Machine.execMiIdle l d ctl s
  | .miLineAdmit l => Sys2Proof.Machine.execMiLineAdmit l s
  | .ackDue => Sys2Proof.Machine.execAckDue s
  | .linkUp => Sys2Proof.Machine.execLinkUp s
  | .linkDown mo mi => Sys2Proof.Machine.execLinkDown mo mi s
  | .lossTimeout l => Sys2Proof.Machine.execLossTimeout l s
  | .splitTimeout => Sys2Proof.Machine.execSplitTimeout s
  | .witnessGrant high => Sys2Proof.Machine.execWitnessGrant high s
  | .millStartResync => Sys2Proof.Machine.execMillStartResync s
  | .millForceSolo => Sys2Proof.Machine.execMillForceSolo s
  | .millForceFence => Sys2Proof.Machine.execMillForceFence s
  | .millWitnessGrantCmd => Sys2Proof.Machine.execMillWitnessGrantCmd s
  | .millWitnessDeny => Sys2Proof.Machine.execMillWitnessDeny s
  | .resyncGranule => Sys2Proof.Machine.execResyncGranule s
  | .resyncLineReturn g r l => Sys2Proof.Machine.execResyncLineReturn g r l s
  | .injEncode c => Sys2Proof.Machine.execInjEncode c s
  | .injWriteRaw c => Sys2Proof.Machine.execInjWriteRaw c s
  | .injReadRaw c => Sys2Proof.Machine.execInjReadRaw c s
  | .injDecode c => Sys2Proof.Machine.execInjDecode c s
  | .injRawComplete c raw => Sys2Proof.Machine.execInjRawComplete c raw s
  | .injArm c => Sys2Proof.Machine.execInjArm c s
  | .injGarm => Sys2Proof.Machine.execInjGarm s
  | .eccClr c => Sys2Proof.Machine.execEccClr c s
  | .freshFillGo => Sys2Proof.Machine.execFreshFillGo s
  | .freshFillDone => Sys2Proof.Machine.execFreshFillDone s
  | .weirRequest c code => Sys2Proof.Machine.execWeirRequest c code s
  | .backoffExpiry c code => Sys2Proof.Machine.execBackoffExpiry c code s
  | .quantumExpiry c => Sys2Proof.Machine.execQuantumExpiry c s
  | .weirRelease c => Sys2Proof.Machine.execWeirRelease c s
  | .debugDramAccess c => Sys2Proof.Machine.execDebugDramAccess c s
  | .retirePop => Sys2Proof.Machine.execRetirePop s
  | .ladderClr => Sys2Proof.Machine.execLadderClr s
  | .keepsakeProgramDone ok => Sys2Proof.Machine.execKeepsakeProgramDone ok s
  | .pprProgramEnd c => Sys2Proof.Machine.execPprProgramEnd c s
  | .pmicSettled c => Sys2Proof.Machine.execPmicSettled c s
  | .channelPllLock c => Sys2Proof.Machine.execChannelPllLock c s
  | .phyCalDone c => Sys2Proof.Machine.execPhyCalDone c s
  | .pllLockTimeout q => Sys2Proof.Machine.execPllLockTimeout q s
  | .pllUnlock q => Sys2Proof.Machine.execPllUnlock q s
  | .tempPoll c => Sys2Proof.Machine.execTempPoll c s
  | .i3cTransferDone c ack bytes => Sys2Proof.Machine.execI3cTransferDone c ack bytes s
  | .buttonPress c => Sys2Proof.Machine.execButtonPress c s
  | .presenceChange c present => Sys2Proof.Machine.execPresenceChange c present s
  | .presenceLoss c => Sys2Proof.Machine.execPresenceLoss c s
  | .sledPowerOn => Sys2Proof.Machine.execSledPowerOn s
  | .prepareGate c => Sys2Proof.Machine.execPrepareGate c s
  | .preparePowerOff c => Sys2Proof.Machine.execPreparePowerOff c s
  | .idleWake c => Sys2Proof.Machine.execIdleWake c s
  | .slumberCommit => Sys2Proof.Machine.execSlumberCommit s
  | .wakePin n => Sys2Proof.Machine.execWakePin n s
  | .wakePulse => Sys2Proof.Machine.execWakePulse s
  | .sbmTempPoll c ack temp => Sys2Proof.Machine.execSbmTempPoll c ack temp s
  | .alarmClr => Sys2Proof.Machine.execAlarmClr s
  | .aonPowerUp => Sys2Proof.Machine.execAonPowerUp s
  | .aonPowerLoss => Sys2Proof.Machine.execAonPowerLoss s
  | .bringBackRow => Sys2Proof.Machine.execBringBackRow s
  | .corePg => Sys2Proof.Machine.execCorePg s
  | .corePgTimeout => Sys2Proof.Machine.execCorePgTimeout s
  | .coreRst => Sys2Proof.Machine.execCoreRst s
  | .coreRstRelease => Sys2Proof.Machine.execCoreRstRelease s
  | .refclkOutOfRange => Sys2Proof.Machine.execRefclkOutOfRange s
  | .debugPortActive => Sys2Proof.Machine.execDebugPortActive s
  | .cmdPiWrite data => Sys2Proof.Machine.execCmdPiWrite data s
  | .unknownOpcode => Sys2Proof.Machine.execUnknownOpcode s
  | .identify => Sys2Proof.Machine.execIdentify s
  | .status => Sys2Proof.Machine.execStatus s
  | .loadBegin => Sys2Proof.Machine.execLoadBegin s
  | .loadChunk => Sys2Proof.Machine.execLoadChunk s
  | .loadEnd => Sys2Proof.Machine.execLoadEnd s
  | .imageVerified => Sys2Proof.Machine.execImageVerified s
  | .flashImageReadDone => Sys2Proof.Machine.execFlashImageReadDone s
  | .firmwareReady => Sys2Proof.Machine.execFirmwareReady s
  | .startTimeout => Sys2Proof.Machine.execStartTimeout s
  | .nuinunWatchdog => Sys2Proof.Machine.execNuinunWatchdog s
  | .echo => Sys2Proof.Machine.execEcho s
  | .jobStatus => Sys2Proof.Machine.execJobStatus s
  | .jobCancel => Sys2Proof.Machine.execJobCancel s
  | .jobEnd j r trn => Sys2Proof.Machine.execJobEnd j r trn s
  | .commandTimeout => Sys2Proof.Machine.execCommandTimeout s
  | .spdRead => Sys2Proof.Machine.execSpdRead s
  | .spdFetch => Sys2Proof.Machine.execSpdFetch s
  | .i3cRead => Sys2Proof.Machine.execI3cRead s
  | .pmicEnable => Sys2Proof.Machine.execPmicEnable s
  | .pmicSet => Sys2Proof.Machine.execPmicSet s
  | .train => Sys2Proof.Machine.execTrain s
  | .mrRead => Sys2Proof.Machine.execMrRead s
  | .mrWrite => Sys2Proof.Machine.execMrWrite s
  | .patchLoad => Sys2Proof.Machine.execPatchLoad s
  | .scrub => Sys2Proof.Machine.execScrub s
  | .patchInstall => Sys2Proof.Machine.execPatchInstall s
  | .ppr => Sys2Proof.Machine.execPpr s
  | .pprUnstage => Sys2Proof.Machine.execPprUnstage s
  | .ladderTake => Sys2Proof.Machine.execLadderTake s
  | .degradeRank => Sys2Proof.Machine.execDegradeRank s
  | .tallyZero => Sys2Proof.Machine.execTallyZero s
  | .resweep => Sys2Proof.Machine.execResweep s
  | .rebuild => Sys2Proof.Machine.execRebuild s
  | .prepare => Sys2Proof.Machine.execPrepare s
  | .idleEnter => Sys2Proof.Machine.execIdleEnter s
  | .idleExit => Sys2Proof.Machine.execIdleExit s
  | .slumber => Sys2Proof.Machine.execSlumber s
  | .sluice => Sys2Proof.Machine.execSluice s
  | .millAction => Sys2Proof.Machine.execMillAction s
  | .flashInfo => Sys2Proof.Machine.execFlashInfo s
  | .imgStoreBegin => Sys2Proof.Machine.execImgStoreBegin s
  | .imgStoreChunk => Sys2Proof.Machine.execImgStoreChunk s
  | .imgStoreEnd => Sys2Proof.Machine.execImgStoreEnd s
  | .evrChallenge => Sys2Proof.Machine.execEvrChallenge s
  | .evrClear => Sys2Proof.Machine.execEvrClear s
  | .faultLatch srcs => Sys2Proof.Machine.execFaultLatch srcs s
  | .coreResetTimeout => Sys2Proof.Machine.execCoreResetTimeout s
  | .fclr data => Sys2Proof.Machine.execFclr data s
  | .evrFetch data => Sys2Proof.Machine.execEvrFetch data s
  | .evrFetchDone => Sys2Proof.Machine.execEvrFetchDone s
  | .evrRecordProgram => Sys2Proof.Machine.execEvrRecordProgram s
  | .hourTick => Sys2Proof.Machine.execHourTick s
  | .portPerrClear p data => Sys2Proof.Machine.execPortPerrClear p data s
  | .wcuVstatClear p data => Sys2Proof.Machine.execWcuVstatClear p data s
  | .wcuWbxClear p data => Sys2Proof.Machine.execWcuWbxClear p data s
  | .eddyPsnClear c data => Sys2Proof.Machine.execEddyPsnClear c data s
  | .rdueClear c data => Sys2Proof.Machine.execRdueClear c data s
  | .updAtStatClear data => Sys2Proof.Machine.execUpdAtStatClear data s
  | .millBrkClear data => Sys2Proof.Machine.execMillBrkClear data s
  | .svcPressClear data => Sys2Proof.Machine.execSvcPressClear data s
  | .svcPchgClear data => Sys2Proof.Machine.execSvcPchgClear data s
  | .wakeCauseClear data => Sys2Proof.Machine.execWakeCauseClear data s
  | .indDataWrite v data => Sys2Proof.Machine.execIndDataWrite v data s
  | .indDataRead v => Sys2Proof.Machine.execIndDataRead v s
  | .aliasWrite v addr data => Sys2Proof.Machine.execAliasWrite v addr data s
  | .cinchWrite data => Sys2Proof.Machine.execCinchWrite data s
  | .stitchCommit data => Sys2Proof.Machine.execStitchCommit data s
  | .stitchSweepEnd => Sys2Proof.Machine.execStitchSweepEnd s
  | .snapSelWrite data => Sys2Proof.Machine.execSnapSelWrite data s
  | .snapFetchDone => Sys2Proof.Machine.execSnapFetchDone s
  | .registerWrite addr data => Sys2Proof.Machine.execRegisterWrite addr data s
  | .idleGate c => Sys2Proof.Machine.execIdleGate c s
  | .crossbarHeadWaitLimit d => Sys2Proof.Machine.execCrossbarHeadWaitLimit d s
  | .mirrorInPllLock => Sys2Proof.Machine.execMirrorInPllLock s
  | .pmicEnableSpacing c slot1 good => Sys2Proof.Machine.execPmicEnableSpacing c slot1 good s

end Sys2Proof.Machine
end

