-- ==== Sys2Proof/Safety.lean ====
section
/-! DEFINITION. What the claims rest on: the outcomes of a command, the invariant of the core's state, and when core
reset holds. -/

namespace Sys2Proof.Machine

/-- The command answers the next state `t`. -/
def Runs (i : Instr) (s t : State) : Prop := exec i s = .next t

/-- Core reset holds or the core has no supply: the registers, the tide and the fault collector do not run (R178, R382,
R397, R426). -/
def State.inReset (s : State) : Bool := !s.ticking

/-- The register files and the reply RAM are in canonical form: addresses rising, no cell equal to its reset value. -/
def State.canonical (s : State) : Prop :=
  s.regs.prog.wf resetWord = true ∧ s.regs.live.wf resetWord = true ∧ s.cmp.rpl.wf zeroWord = true

/-- The recorder buffer (R442), the page-retire list (R319) and the keep-forever area (R439) are within their depths. -/
def State.bounded (s : State) : Prop :=
  s.evr.buf.length ≤ evrDepth ∧ s.retire.list.length ≤ 512 ∧ s.flash.kf.length ≤ 256

/-- The invariant of the core's state. -/
def State.Inv (s : State) : Prop := s.canonical ∧ s.bounded

end Sys2Proof.Machine
end

