-- ==== Sys2Proof/Certificates/Slice0/Obligations.lean ====
section
/-! DEFINITION. The statements about the core, one to an entry of OBLIGATIONS.json. -/

open Sys2Proof Sys2Proof.Machine

/-! ### The step and the state after reset -/

/-- A step takes the command at the front of the queue and is `exec` of it with the rest of the queue waiting; on an empty
queue one CCLK passes (the model's choice, log entry 2): while the tide runs it counts by one, with what a new CCLK does to the
ports, to held writes and to sleds whose power is to fall, and where something is due at the new tide value, or it is a
multiple of 4,096, all of that is launched there; while the tide does not run, only the sleds' power is that CCLK nearer to its
fall. -/
def Obligations.StepRunsFrontCommand : Prop :=
  (∀ (c : Instr) (rest : List Instr) (s : State), step { s with pending := c :: rest } = exec c { s with pending := rest }) ∧
  (∀ s : State, s.pending = [] → step s = .next s.tick) ∧
  (∀ s : State, s.ticking = true → (∀ d ∈ s.dues, s.tide + 1 < d) → (s.tide + 1) % 4096 ≠ 0 →
    s.tick = (({ s with tide := s.tide + 1 }).nextCclk.landHeld).sledFalls 1) ∧
  (∀ s : State, s.ticking = true → ((∃ d ∈ s.dues, d ≤ s.tide + 1) ∨ (s.tide + 1) % 4096 = 0) →
    s.tick = s.launch (s.tide + 1) []) ∧
  (∀ s : State, s.ticking = false → s.tick = s.sledFalls 1)

/-- The state after reset: nothing waits, row 1 of the bring-back table runs, the tide is 0, every port is CLOSED, every
channel EMPTY, no fault is latched, no CINCH bit is set, the millrace is OFF, EPOCH_CUR is 1 and EPOCH_LOC and EPOCH_DUR are 0,
every register holds its table's reset value, and the invariant holds. -/
def Obligations.ResetState : Prop :=
  State.reset.pending = [] ∧ State.reset.phase = .bring 1 ∧ State.reset.tide = 0 ∧
  (∀ p, (State.reset.port p).mode = .closed) ∧ (∀ c, (State.reset.chan c).svc.st = 0) ∧
  State.reset.fcol.fstat = 0 ∧ State.reset.fcol.safe = false ∧ State.reset.regs.cinch = 0 ∧
  State.reset.mill.st = .off ∧ State.reset.pers.cur = 1 ∧ State.reset.pers.loc = 0 ∧ State.reset.pers.dur = 0 ∧
  (∀ k, State.reset.live k = resetWord k ∧ State.reset.prog k = resetWord k) ∧ State.reset.Inv

/-! ### Host ports (chapter 2) -/

/-- The eight request commands of a port, with the word and the parity on the wires. -/
def Sys2Proof.Machine.requestCmds (p : PortId) (w : BitVec 144) (par : BitVec 18) : List Instr :=
  [.nop p w par, .rd p w par, .rds p w par, .wr p w par, .wrp p w par, .wrs p w par, .efence p w par, .pfence p w par]

/-- A request without protocol error, at a port that checks what enters, takes a place in the request buffer for one request
credit, a write with the write-data group in front; in the safe state a CLOSING port answers it ABSENT at once. Flood and the
housekeeping of the port follow. -/
def Obligations.RequestEntersBuffer : Prop :=
  ∀ (p : PortId) (w : BitVec 144) (par : BitVec 18) (i : Instr) (o : Opc) (s : State),
    i ∈ requestCmds p w par → (s.port p).checks = true → reqError (s.port p) w par = none → opcOf (field w 3 0) = some o →
    exec i s = .next (
      let t := s.modPort p fun q =>
        { q with
          reqCrd := q.reqCrd - 1
          wdGroups := if o.isWrite then q.wdGroups.tail else q.wdGroups
          reqBuf := q.reqBuf ++ [{ id := s.nextId, req := reqOf o w
                                   data := if o.isWrite then q.wdGroups.headD [] else []
                                   bad := s.armedG 0 p.val }] }
      let t := (t.spendG (s.armedG 0 p.val)).stamp
      ((if s.fcol.safe then t.modPort p Port.answerBuffered else t).updFlood p).portAfter p)

/-- A request with a protocol error is not taken in: an OPEN port becomes HALTED and a CLOSING one stays CLOSING, HPn_HALT
rises, PORT_PERR takes the REASON and the TAG, and the port's source 480 + n asserts its line. A request that enters a SAFE
port under a request credit takes the credit and returns it, and is answered ABSENT as a whole, without entering the buffer; a
NOP or a reserved opcode passes its credit and is not answered. Without a request credit, and at a port that neither checks nor
is SAFE (a CLOSED or HALTED one, or one that is CLOSING from HALTED), it is not taken in. -/
def Obligations.RequestsTurnedAway : Prop :=
  (∀ (p : PortId) (w : BitVec 144) (par : BitVec 18) (i : Instr) (reason : Nat) (s : State),
    i ∈ requestCmds p w par → (s.port p).checks = true → reqError (s.port p) w par = some reason →
    exec i s = .next (
      let t : State := { s with
        ports := s.ports.put p { s.port p with
          mode := if (s.port p).mode = .isOpen then .halted else (s.port p).mode
          haltPin := true, discard := true, perr := (s.port p).perr.take reason (tagOf w) }
        fcol := { s.fcol with lines := s.fcol.lines ++ [480 + p.val] } }
      (t.updFlood p).portAfter p)) ∧
  ((∀ (p : PortId) (w : BitVec 144) (par : BitVec 18) (i : Instr) (o : Opc) (s : State),
    i ∈ requestCmds p w par → (s.port p).mode = .safe → 0 < (s.port p).reqCrd → opcOf (field w 3 0) = some o → o ≠ .nop →
    exec i s = .next (
      let t := s.modPort p fun q => { q with reqCrd := q.reqCrd - 1 }.returnReq 1
      ((t.modPort p fun q => { q with flights := q.flights ++ [flightOf s.nextId (reqOf o w) .absent] }).stamp).portAfter p)) ∧
  (∀ (p : PortId) (w : BitVec 144) (par : BitVec 18) (i : Instr) (s : State),
    i ∈ requestCmds p w par → (s.port p).mode = .safe → 0 < (s.port p).reqCrd →
    (opcOf (field w 3 0) = none ∨ opcOf (field w 3 0) = some .nop) →
    exec i s = .next ((s.modPort p fun q => { q with reqCrd := q.reqCrd - 1 }.returnReq 1).portAfter p)) ∧
  (∀ (p : PortId) (w : BitVec 144) (par : BitVec 18) (i : Instr) (s : State),
    i ∈ requestCmds p w par →
    ((s.port p).mode = .safe ∧ (s.port p).reqCrd = 0 ∨ (s.port p).mode ≠ .safe ∧ (s.port p).checks = false) →
    exec i s = .next (s.portAfter p)))

/-- A write-data beat with a credit and right parity enters the open group, and closes it when it is the last; without a credit
it is error 9, with wrong parity error 14. At a SAFE port a beat that has a credit is dropped and the credit returned; one
without, and a beat at a port that neither checks nor is SAFE, is lost. A response credit that returns is counted at every port
that is not CLOSED, up to 4,095; one more is error 10 at a port that checks and lost at one that does not, and a CLOSED port
counts none. -/
def Obligations.WriteBeatsAndResponseCredits : Prop :=
  (∀ (p : PortId) (d : Line) (par : BitVec 64) (last : Bool) (s : State),
    (s.port p).checks = true → (s.port p).wdCrd ≠ 0 → parityOk d par = true →
    exec (.writeDataBeat p d par last) s = .next (
      let b : Beat := { data := d, bad := s.armedG 1 p.val }
      let t := s.modPort p fun q =>
        { q with
          wdCrd := q.wdCrd - 1
          wdOpen := if last then [] else q.wdOpen ++ [b]
          wdGroups := if last then q.wdGroups ++ [q.wdOpen ++ [b]] else q.wdGroups }
      ((t.spendG b.bad).updFlood p).portAfter p)) ∧
  (∀ (p : PortId) (d : Line) (par : BitVec 64) (last : Bool) (s : State),
    (s.port p).checks = true → ((s.port p).wdCrd = 0 ∨ parityOk d par = false) →
    exec (.writeDataBeat p d par last) s =
      .next ((s.portErr p (if (s.port p).wdCrd = 0 then 9 else 14) 0).portAfter p)) ∧
  (∀ (p : PortId) (d : Line) (par : BitVec 64) (last : Bool) (s : State),
    (s.port p).mode = .safe → (s.port p).wdCrd ≠ 0 →
    exec (.writeDataBeat p d par last) s = .next (
      (s.modPort p fun q => { q with wdCrd := q.wdCrd - 1 }.returnWd 1 s.mill.withhold).portAfter p)) ∧
  (∀ (p : PortId) (d : Line) (par : BitVec 64) (last : Bool) (s : State),
    ((s.port p).mode = .safe ∧ (s.port p).wdCrd = 0 ∨ (s.port p).mode ≠ .safe ∧ (s.port p).checks = false) →
    exec (.writeDataBeat p d par last) s = .next (s.portAfter p)) ∧
  (∀ (p : PortId) (s : State), (s.port p).mode ≠ .closed → (s.port p).rspCrd < 4095 →
    exec (.responseCreditReturn p) s = .next ((s.modPort p fun q => { q with rspCrd := q.rspCrd + 1 }).portAfter p)) ∧
  (∀ (p : PortId) (s : State), (s.port p).checks = true → 4095 ≤ (s.port p).rspCrd →
    exec (.responseCreditReturn p) s = .next ((s.portErr p 10 0).portAfter p)) ∧
  (∀ (p : PortId) (s : State),
    ((s.port p).mode = .closed ∨ ((s.port p).checks = false ∧ 4095 ≤ (s.port p).rspCrd)) →
    exec (.responseCreditReturn p) s = .next (s.portAfter p))

/-- What admission at a port does to the head of its request buffer. A NOP leaves the buffer for its credit. A read or a write
that its window passes and no condition of R58 answers becomes outstanding, and its lines enter the crossbar toward their
destinations; a write whose MASK is all zeros completes OK and enters no crossbar. A fence becomes outstanding with the epoch
it covers. A request that the window denies is answered DENIED and fills or counts in the violation record; one that conditions
1, 3 or 4 answer is answered with their CODE, and a line that overruns its channel raises the channel's source 1. A head with
wrong parity is REASON 13. Under a hold, while the crossbar has no room, and at a CLOSED or SAFE port or with nothing buffered,
the head stays. -/
def Obligations.AdmissionTakesHead : Prop :=
  (∀ (p : PortId) (b : BufReq) (rest : List BufReq) (s : State),
    (s.port p).reqBuf = b :: rest → (s.port p).mode ≠ .closed → (s.port p).mode ≠ .safe → b.bad = none →
    s.holdCause p = 0 → b.req.opc = .nop →
    exec (.requestAdmit p) s = .next (
      (s.modPort p fun q => { q with reqBuf := rest }.payCredits 0 false).portAfter p)) ∧
  (∀ (p : PortId) (b : BufReq) (rest : List BufReq) (s : State),
    (s.port p).reqBuf = b :: rest → (s.port p).mode ≠ .closed → (s.port p).mode ≠ .safe → b.bad = none →
    s.holdCause p = 0 → b.req.touches = true → b.req.empty = false → (s.wcu p b.req).pass = true →
    s.decideCode b.req (s.wcu p b.req) = none → s.waitsRoom p b = false → (∀ x ∈ b.data, x.bad = none) →
    exec (.requestAdmit p) s = .next (
      let r := b.req
      let f := s.newFlight p r (s.wcu p r) none
      (((s.leaveBuffer p f b.data.length).countWbx p r (s.wcu p r)).toXbar
        (s.route (.hp p) r f.cls f.epoch (s.requestLines r b.data))).stamp.portAfter p)) ∧
  (∀ (p : PortId) (b : BufReq) (rest : List BufReq) (s : State),
    (s.port p).reqBuf = b :: rest → (s.port p).mode ≠ .closed → (s.port p).mode ≠ .safe → b.bad = none →
    s.holdCause p = 0 → b.req.opc.isWrite = true → b.req.empty = true → (s.wcu p b.req).pass = true →
    s.decideCode b.req (s.wcu p b.req) = none → (∀ x ∈ b.data, x.bad = none) →
    exec (.requestAdmit p) s = .next (
      let r := b.req
      let f := s.newFlight p r (s.wcu p r) none
      ((s.leaveBuffer p f b.data.length).countWbx p r (s.wcu p r)).stamp.portAfter p)) ∧
  (∀ (p : PortId) (b : BufReq) (rest : List BufReq) (s : State),
    (s.port p).reqBuf = b :: rest → (s.port p).mode ≠ .closed → (s.port p).mode ≠ .safe → b.bad = none →
    s.holdCause p = 0 → b.data = [] → s.fcol.safe = false →
    (b.req.opc = .efence ∨ (b.req.opc = .pfence ∧ (s.wcu p b.req).pass = true)) →
    exec (.requestAdmit p) s = .next (
      let r := b.req
      let f := s.newFlight p r (s.decision p r) none
      (s.leaveBuffer p f 0).stamp.portAfter p)) ∧
  (∀ (p : PortId) (b : BufReq) (rest : List BufReq) (s : State),
    (s.port p).reqBuf = b :: rest → (s.port p).mode ≠ .closed → (s.port p).mode ≠ .safe → b.bad = none →
    s.holdCause p = 0 → b.req.opc ≠ .nop → b.req.opc ≠ .efence → (s.wcu p b.req).pass = false → s.fcol.safe = false →
    s.waitsRoom p b = false → (∀ x ∈ b.data, x.bad = none) →
    exec (.requestAdmit p) s = .next (
      let r := b.req
      let f := s.newFlight p r (s.wcu p r) (some .denied)
      ((s.leaveBuffer p f b.data.length).violate p r (s.wcu p r)).stamp.portAfter p)) ∧
  (∀ (p : PortId) (b : BufReq) (rest : List BufReq) (code : Code) (s : State),
    (s.port p).reqBuf = b :: rest → (s.port p).mode ≠ .closed → (s.port p).mode ≠ .safe → b.bad = none →
    s.holdCause p = 0 → b.req.touches = true → (s.wcu p b.req).pass = true → s.decideCode b.req (s.wcu p b.req) = some code →
    s.waitsRoom p b = false → (∀ x ∈ b.data, x.bad = none) →
    exec (.requestAdmit p) s = .next (
      let r := b.req
      let f := s.newFlight p r (s.wcu p r) (some code)
      (((s.leaveBuffer p f b.data.length).countWbx p r (s.wcu p r)).tellOverrun r (some code)).stamp.portAfter p)) ∧
  (∀ (p : PortId) (b : BufReq) (rest : List BufReq) (s : State),
    (s.port p).reqBuf = b :: rest → (s.port p).mode ≠ .closed → (s.port p).mode ≠ .safe → acts b.bad = true →
    exec (.requestAdmit p) s = .next (
      ((s.hitG.modPort p fun q => { q with reqBuf := [] }).portErr p 13 b.req.tag).portAfter p)) ∧
  (∀ (p : PortId) (s : State),
    ((s.port p).reqBuf = [] ∨ (s.port p).mode = .closed ∨ (s.port p).mode = .safe) →
    exec (.requestAdmit p) s = .next (s.portAfter p)) ∧
  (∀ (p : PortId) (b : BufReq) (rest : List BufReq) (s : State),
    (s.port p).reqBuf = b :: rest → acts b.bad = false →
    (s.holdCause p ≠ 0 ∨ (b.req.opc ≠ .nop ∧ s.waitsRoom p b = true)) →
    exec (.requestAdmit p) s = .next (s.portAfter p))

/-- A response beat leaves for one response credit where the port may send and a beat is ready; the request is no longer
outstanding after its last beat. Which line of one RD leaves first is the model's choice (log entry 59). -/
def Obligations.ResponseBeatLeaves : Prop :=
  ∀ (p : PortId) (f : Flight) (b : Rsp) (s : State),
    s.maySend p = true → s.chooseBeat p = some (f, b) →
    exec (.responseBeat p) s = .next (
      let o := beatOut f b
      ((s.readG 529 b.bad).modPort p fun q =>
        { q with
          rspOut := some o, rspCrd := q.rspCrd - 1, flights := flightsAfter q.flights f b
          rdCnt := if countsRead o then q.rdCnt + 1 else q.rdCnt }).portAfter p)

/-! ### The path to the channels (chapters 4 to 6) -/

/-- A destination takes a request of the crossbar before the strobe: one of the head entries that it can hold (R112), which
leaves the crossbar and turns its class's turn to its source; a write waits there for acceptance and starts the wash of every
fresh granule it reaches, a read's lines go on. A head past the wait limit keeps out every other that would use the room it
waits for; which of two such heads goes first is the model's choice (log entry 30). Where nothing can be taken the state
stands, and after the strobe nothing is taken (the model's choice, log entry 33). A head entry that the destination could not
hold for the wait limit is marked for precedence and nothing else changes. -/
def Obligations.CrossbarTakesHead : Prop :=
  (∀ (d : Dest) (e : XEntry) (s : State), s.pers.strobe = false → s.chooseEntry d = some e →
    e ∈ s.heads d ∧ s.canHold e = true ∧ s.behind e = false ∧
    (e.stuck = true ∨ ∀ h ∈ s.heads d, h.stuck = true → s.sharesRoom h e = false) ∧
    exec (.crossbarTransfer d) s = .next (
      let rest := s.xbar.entries.filter fun o => !(o.id == e.id && o.dest == e.dest)
      let t : State := { s with xbar := { s.xbar with entries := rest }.turnTo d e }
      let t := if e.write then
          let u := e.lines.foldl (fun (u : State) (x : XLine) => u.touchFresh x.ch x.line) t
          { u with xbar := { u.xbar with taken := u.xbar.taken ++ [e] } }
        else t.takeRead e
      (t.feedResync 2).updMiFlood.settleAll.sweepFails)) ∧
  (∀ (d : Dest) (s : State), s.chooseEntry d = none ∨ s.pers.strobe = true → exec (.crossbarTransfer d) s = .next s) ∧
  (∀ (d : Dest) (e : XEntry) (rest : List XEntry) (s : State),
    ((s.heads d).filter fun e => !e.stuck && !s.canHold e) = e :: rest →
    exec (.crossbarHeadWaitLimit d) s = .next { s with xbar := { s.xbar with
      entries := s.xbar.entries.map fun o => if o.id = e.id ∧ o.dest = e.dest then { o with stuck := true } else o } })

/-- The earliest taken write of a destination is accepted where the strobe has not come and MO has room: it is held, enters the
mirror stream, counts in its port's WRCNT and completes OK. After the strobe no write is accepted; nor is one where none is
taken or MO has no room for it. -/
def Obligations.TakenWriteIsAccepted : Prop :=
  (∀ (d : Dest) (e : XEntry) (s : State),
    (s.xbar.taken.find? fun e => e.dest == d) = some e → s.pers.strobe = false → s.moRoom e = true →
    exec (.writeAccept d) s = .next (
      let t : State := { s with xbar := { s.xbar with taken := s.xbar.taken.filter fun o => o.id != e.id } }
      ((((t.placeWrite e).mirrorWrite e).countWrites e).giveDone e.src e.id .ok).settleAll.sweepFails)) ∧
  (∀ (d : Dest) (s : State), s.pers.strobe = true → exec (.writeAccept d) s = .next s) ∧
  (∀ (d : Dest) (s : State), (s.xbar.taken.find? fun e => e.dest == d) = none → exec (.writeAccept d) s = .next s) ∧
  (∀ (d : Dest) (e : XEntry) (s : State), (s.xbar.taken.find? fun e => e.dest == d) = some e → s.moRoom e = false →
    exec (.writeAccept d) s = .next s)

/-- The expiry of LWIN releases the eddy entry of a line of a plain set and that of SWIN the stripe record, each to its write
form; an internal read's result reaches its form; a read line leaves the return queue for its port: with its data, or, when its
SRAM word is bad and acts, as a POISON beat with the channel's source 20; that the oldest line goes first is the model's choice
(log entry 30). -/
def Obligations.BuffersReleaseAndReturn : Prop :=
  (∀ (c : ChanId) (line : Nat) (e : EddyE) (s : State),
    ((s.chan c).eddy.find? fun e => e.stripe.isNone && e.line == line) = some e →
    exec (.eddyLwinExpiry c line) s = .next (
      let t := s.modChan c fun k => { k with eddy := k.eddy.filter fun x => x.id != e.id }
      let r := (t.lookFresh c e.line).readEddy c e
      (r.1.addForm (r.1.plainForm c r.2)).settleAll.sweepFails)) ∧
  (∀ (m : SetId) (stripe : Nat) (r : StripeRec) (s : State),
    ((s.span m).recs.find? fun r => r.stripe == stripe) = some r →
    exec (.stripeSwinExpiry m stripe) s = .next (s.releaseRec m r).settleAll.sweepFails) ∧
  (∀ (c : ChanId) (r : IntRet) (rest : List IntRet) (s : State), (s.chan c).intRet = r :: rest →
    exec (.internalReadReturn c) s = .next (
      let t := s.modChan c fun k => { k with intRet := rest }
      let t : State := { t with forms := t.forms.map fun g =>
        if g.id = r.f then
          { g with reads := g.reads.map fun q => if q.key = r.k then { q with res := some r.res } else q }
        else g }
      t.settleAll.sweepFails)) ∧
  (∀ (c : ChanId) (e : RetE) (rest : List RetE) (s : State), (s.chan c).ret = e :: rest → e.bad = none →
    exec (.returnLine c) s = .next (
      ((s.modChan c fun k => { k with ret := rest }).giveBeat e.src e.rid
        { lidx := e.lidx, code := e.code, corr := e.corr, data := e.data }).settleAll)) ∧
  (∀ (c : ChanId) (e : RetE) (rest : List RetE) (s : State), (s.chan c).ret = e :: rest → acts e.bad = true →
    exec (.returnLine c) s = .next (
      ((((s.modChan c fun k => { k with ret := rest }).modChan c fun k => k.hitC e.bad).raiseChan c 20).giveBeat e.src e.rid
        { lidx := e.lidx, code := .poison, data := poisonLine }).settleAll))

/-- A slot of a selector that runs issues what it chooses, DES where nothing may issue; running with 32 commands
unacknowledged, stopped, or in a recovery before tPAR_RCVR has passed it chooses DES, as it does with nothing due in
self-refresh and inside a retraining pause; a DES slot only moves the clock and the wires. A channel without slots does
nothing. A candidate at the ageing limit is marked aged, as is the grant holder's own command; the end of a 64-slot window
clears the maintenance share; an open bank at its idle limit becomes due for its precharge, unless IDLE_PC is 0. Each changes
that and nothing else. -/
def Obligations.SlotsAndTimers : Prop :=
  ((∀ (c : ChanId) (x : Sub) (s : State), s.slotOn c = true →
    exec (.commandSlot c x) s = .next (
      let t := (s.prepSlot c).updMode c x
      (t.issue c x (t.choose c x)).after c)) ∧
  (∀ (c : ChanId) (x : Sub) (s : State), s.slotOn c = false → exec (.commandSlot c x) s = .next s) ∧
  (∀ (c : ChanId) (x : Sub) (s : State),
    ((s.sel c x).ostate = .running ∧ 32 ≤ (s.sel c x).unacked) ∨ (s.sel c x).ostate = .stopped ∨
      ((s.sel c x).ostate = .recovery ∧ (s.sel c x).rcvrDone = false) ∨
      ((s.sel c x).ostate = .running ∧ s.dueCmd c x = none ∧ ((s.sel c x).selfRef = true ∨ (s.sel c x).pauseOpen = true)) →
    s.choose c x = desChoice ∧
    s.issue c x (s.choose c x)
      = s.modSel c x fun l => { l with dclk := l.dclk + 1, out := some (desChoice.cmd, none) })) ∧
  ((∀ (c : ChanId) (id : Nat) (s : State),
    exec (.candidateAged c id) s = .next (s.modChan c fun k =>
      { k with rq := k.rq.map fun e => if e.id = id then { e with aged := true } else e
               wq := k.wq.map fun w => if w.id = id then { w with aged := true } else w
               sel := k.sel.each fun l => if id = 0 ∧ l.hold ≠ [] then { l with holdAged := true } else l })) ∧
  (∀ (c : ChanId) (x : Sub) (s : State),
    exec (.mshareWindowEnd c x) s = .next (s.modSel c x fun l => { l with share := 0 })) ∧
  (∀ (c : ChanId) (x : Sub) (b : Bank) (s : State),
    exec (.pageIdleExpiry c x b) s = .next (
      if field (s.agent c 0x028) 27 16 ≠ 0 ∧ ((s.sel c x).openRow b).isSome = true ∧ b ∉ (s.sel c x).idleDue then
        s.modSel c x fun l => { l with idleDue := l.idleDue ++ [b] }
      else s)))

/-- The oldest command that awaits its acknowledgement is acknowledged while the subchannel runs or replays; during a recovery,
before tPAR_RCVR has passed, and once it is stopped no command is. An acknowledged command keeps its place among the last 32
issued, and a write's acknowledgement frees its queue entry. An alert of a subchannel that runs starts a recovery: the alert
counts, the channel's source 4 rises, every unacknowledged command is marked for replay, what an unacknowledged MRR captured is
discarded, and the retries count on where a command was already replayed or a replay still runs; past the retry limit the
subchannel stops and the channel is to fail with WHY 2. ALERT_n seen high is kept; after tPAR_RCVR a PREab to every rank is
due; ALERT_n still low at the stuck limit stops the subchannel. -/
def Obligations.AcknowledgementsAndAlerts : Prop :=
  ((∀ (c : ChanId) (x : Sub) (s : State), (s.sel c x).ostate = .running ∨ (s.sel c x).ostate = .replay →
    exec (.commandAck c x) s = .next ((s.ack c x).after c).slumberStep) ∧
  (∀ (c : ChanId) (x : Sub) (s : State), (s.sel c x).ostate = .recovery ∨ (s.sel c x).ostate = .stopped →
    (s.sel c x).rcvrDone = false → exec (.commandAck c x) s = .next s) ∧
  (∀ (c : ChanId) (x : Sub) (pre : List Ox) (o : Ox) (rest : List Ox) (s : State),
    (s.sel c x).ox = pre ++ o :: rest → (∀ q ∈ pre, q.acked = true ∨ q.marked = true) →
    o.acked = false → o.marked = false →
    o.cmd.kind.isWr = false → o.cmd.kind ≠ .mrw → o.cmd.kind ≠ .mrr → o.cmd.kind ≠ .sre →
    s.ack c x = s.modSel c x fun l => { l with ox := pre ++ { o with acked := true } :: rest }) ∧
  (∀ (c : ChanId) (x : Sub) (pre : List Ox) (o : Ox) (rest : List Ox) (w : WrE) (s : State),
    (s.sel c x).ox = pre ++ o :: rest → (∀ q ∈ pre, q.acked = true ∨ q.marked = true) →
    o.acked = false → o.marked = false → o.cmd.kind.isWr = true → o.cmd.kind ≠ .sre →
    ((s.chan c).wq.find? fun w => w.id == o.cmd.ent && w.issued) = some w →
    s.ack c x = (((s.modSel c x fun l => { l with ox := pre ++ { o with acked := true } :: rest }).modChan c fun k =>
      { k with wq := k.wq.filter fun q => q.id != w.id }).wrAcked c w)) ∧
  (∀ (c : ChanId) (x : Sub) (s : State), (∀ q ∈ (s.sel c x).ox, q.acked = true ∨ q.marked = true) → s.ack c x = s)) ∧
  ((∀ (c : ChanId) (x : Sub) (s : State), s.slotOn c = true → (s.sel c x).ostate = .running ∨ (s.sel c x).ostate = .replay →
    exec (.caParityAlert c x) s = .next (
      let l := s.sel c x
      let n := if (l.ostate != .running || l.ox.any fun o => o.again && !o.acked) = true then l.retries + 1 else 0
      let t := (s.modChan c fun k => { k with nAlert := satAdd (2 ^ 32 - 1) k.nAlert 1 }).raiseChan c 4
      let t := t.modChan c fun k => { k with rq := k.rq.map fun e =>
        if e.purp = .mrr ∧ (l.ox.any fun o => o.cmd.ent == e.id && o.cmd.kind == .mrr && !o.acked) = true then
          { e with got := none } else e }
      let t := t.modSel c x fun l =>
        { l with ostate := .recovery, retries := min n 7, redo := [], rcvrDone := false, alertSeenHigh := false
                 ox := l.ox.map fun o => if o.acked then o else { o with marked := true } }
      (if max 1 (field (t.agent c 0x020) 3 1) < n then
        ((t.modSel c x fun l => { l with ostate := .stopped, redo := [] }).raiseChan c 5).modChan c fun k =>
          { k with failDue := 2 }
      else t).sweepFails)) ∧
  (∀ (c : ChanId) (x : Sub) (s : State), (s.sel c x).ostate = .recovery →
    exec (.alertRelease c x) s = .next (s.modSel c x fun l => { l with alertSeenHigh := true })) ∧
  (∀ (c : ChanId) (x : Sub) (s : State), (s.sel c x).ostate = .recovery → (s.sel c x).alertSeenHigh = true →
    (s.sel c x).rcvrDone = false → (∀ o ∈ (s.sel c x).ox, o.bad = none) →
    exec (.alertRcvrExpiry c x) s = .next (s.modSel c x fun l =>
      { l with rcvrDone := true
               redo := (s.geom c).ranks.map fun r =>
                 ({ kind := .preab, bank := ⟨r, 0, 0, 0⟩, use := .recover } : Cmd) }).sweepFails) ∧
  (∀ (c : ChanId) (x : Sub) (s : State), (s.sel c x).ostate = .recovery → (s.sel c x).alertSeenHigh = false →
    exec (.alertStuckTimeout c x) s = .next (
      ((s.modSel c x fun l => { l with ostate := .stopped, redo := [] }).raiseChan c 5).modChan c fun k =>
        { k with failDue := 2 }).sweepFails))

/-- What the data of the earliest issued read do. Decoded clean, corrected or with an erased device they leave the read queue
for what asked for them, and count; poison does too. An uncorrectable line is read again once; the second time its record is
made in RDUE, whatever asked for it but a mode-register or raw read, and it goes out as bad. The data of a mode-register read
wait for its acknowledgement, and those of one whose grant was revoked are dropped. Where no read is out nothing is captured. A
host read's decoded line joins the return queue, OK with its data and CORR where it was read again or corrected; a corrected
device's symbols count with its device, and a clean line counts nothing. -/
def Obligations.ReadDataDecoded : Prop :=
  (∀ (c : ChanId) (x : Sub) (raw : Stored) (s : State), s.nextData c x = none →
    exec (.readDataDecode c x raw) s = .next (s.after c)) ∧
  (∀ (c : ChanId) (x : Sub) (raw : Stored) (e : RdE) (s : State),
    s.nextData c x = some e → e.purp ≠ .mrr → e.purp ≠ .mrrDropped →
    (decodeStored (s.erasedAt c e.loc) raw).out ≠ .poison → (decodeStored (s.erasedAt c e.loc) raw).out ≠ .uncorrectable →
    exec (.readDataDecode c x raw) s = .next (
      let r := decodeStored (s.erasedAt c e.loc) raw
      (((((s.noteCaptured c x e.id).countEcc c x r.out).dropRead c e.id).deliver c e (.data r.data r.out)).after c))) ∧
  (∀ (c : ChanId) (x : Sub) (raw : Stored) (e : RdE) (s : State),
    s.nextData c x = some e → e.purp ≠ .mrr → e.purp ≠ .mrrDropped →
    (decodeStored (s.erasedAt c e.loc) raw).out = .poison →
    exec (.readDataDecode c x raw) s = .next (
      ((((s.noteCaptured c x e.id).dropRead c e.id).deliver c e .poison).after c))) ∧
  (∀ (c : ChanId) (x : Sub) (raw : Stored) (e : RdE) (s : State),
    s.nextData c x = some e → e.purp ≠ .mrr → e.purp ≠ .mrrDropped →
    (decodeStored (s.erasedAt c e.loc) raw).out = .uncorrectable → e.again = false →
    exec (.readDataDecode c x raw) s = .next (
      ((s.noteCaptured c x e.id).modChan c fun k => { k with rq := k.rq.map fun o =>
        if o.id = e.id then { o with issued := false, reread := true, again := true } else o }).after c)) ∧
  (∀ (c : ChanId) (x : Sub) (raw : Stored) (e : RdE) (s : State),
    s.nextData c x = some e → e.purp ≠ .mrr → e.purp ≠ .mrrDropped →
    (decodeStored (s.erasedAt c e.loc) raw).out = .uncorrectable → e.again = true → e.purp.inRdue = true →
    exec (.readDataDecode c x raw) s = .next (
      let t := ((s.noteCaptured c x e.id).modChan c fun k =>
        { k with rdue := { valid := true, id := if k.rdue.valid then k.rdue.id else s.nextId, flag := k.rdue.flag
                           line := if k.rdue.valid then k.rdue.line else e.home
                           count := satAdd 255 k.rdue.count 1, seq := nextSeq k.rdue.seq } }).raiseChan c 6
      ((((t.stamp.dropRead c e.id).deliver c e .bad).tieRecon c e.home s.nextId).after c))) ∧
  (∀ (c : ChanId) (x : Sub) (raw : Stored) (e : RdE) (s : State), s.nextData c x = some e → e.purp = .mrr →
    exec (.readDataDecode c x raw) s = .next (
      (((s.noteCaptured c x e.id).modChan c fun k => { k with rq := k.rq.map fun o =>
        if o.id = e.id then { o with got := some raw } else o }).endMrr c x e.id).after c)) ∧
  (∀ (c : ChanId) (x : Sub) (raw : Stored) (e : RdE) (s : State), s.nextData c x = some e → e.purp = .mrrDropped →
    exec (.readDataDecode c x raw) s = .next (((s.noteCaptured c x e.id).dropRead c e.id).after c)) ∧
  (∀ (c : ChanId) (e : RdE) (src : Src) (rid lidx : Nat) (d : Line) (out : Decoded) (s : State),
    e.purp = .host src rid lidx → (s.chan c).armedC 6 = none →
    s.deliver c e (.data d out) = (s.modChan c fun k => { k.spendC none with ret := k.ret ++
      [{ src := src, rid := rid, lidx := lidx, tag := e.orig.tag, cls := e.cls, epoch := e.epoch, code := .ok
         corr := e.again || out != .clean, data := d, bad := none }] })) ∧
  (∀ (c : ChanId) (x : Sub) (d : Nat) (s : State),
    field (s.agentRw c 0x090) 31 16 = 0 →
    s.countEcc c x (.corrected d) = s.modChan c fun k =>
      { k with eccDev := k.eccDev.put (devIx x d) (satAdd 65535 ((s.chan c).eccDev.at (devIx x d)) 1)
               eccTold := k.eccTold.put (devIx x d) (k.eccTold.at (devIx x d)) }) ∧
  (∀ (c : ChanId) (x : Sub) (s : State), s.countEcc c x .clean = s)

/-- A posted refresh window is taken in the CCLK in which the tide equals its T, with all else that is due there. Where nothing
else is due, and the slot names one subchannel that runs and takes windows, the subchannel's plan gains the precharges of the
ranks with an open bank and the refreshes of every rank, twice with X2, ahead of the exit of a PPR, and the closure suspends
the grant holder; a per-bank window goes on to the next bank index. A subchannel that cannot take the window owes each rank's
refresh; the fifth that a rank owes raises the channel's source 3 and adds nothing. With no window posted for the subchannel
nothing happens. A posted retraining pause begins in the CCLK in which the tide equals its T; the operands give what its trials
find. Where nothing else is due, and the slot names one subchannel that takes it, the pause runs the next step of its cycle
that RTR_CTL leaves in: precharges of the ranks with an open bank, the step's commands and the weir closed for the pause. The
trials take effect when the pause ends, its commands issued, and count then. One that meets the closure of a window waits for
its end; one that meets an alert, self-refresh or another pause, that comes after the strobe or while the clean mark is due
(the last is the model's choice, log entry 61), or that is not enabled is left unexecuted. With no pause posted the operands go
to the pause that is open. -/
def Obligations.RefreshAndRetrain : Prop :=
  ((∀ (c : ChanId) (x : Sub) (s : State), (∀ e ∈ s.cad.posted, e.kind = 1 → e.names c x = false) →
    exec (.refreshWindow c x) s = .next s) ∧
  (∀ (c : ChanId) (x : Sub) (e : PostedSlot) (s : State), s.ticking = true →
    e ∈ s.cad.posted → e.kind = 1 → e.names c x = true → s.tide < e.at_ → (∀ d ∈ s.dues, e.at_ ≤ d) →
    exec (.refreshWindow c x) s = .next (
      let t := s.advance e.at_
      let t := if e.at_ % 4096 = 0 then t.sendMark [] else t
      t.cuts.takeUpdates.posts.allSlots.gates.settleAll.sweepFails)) ∧
  (∀ (c : ChanId) (x : Sub) (e : PostedSlot) (s v : State), s.ticking = true →
    s.cad.posted = [e] → e.kind = 1 → (∀ n y, e.names n y = true ↔ n = c ∧ y = x) → s.tide < e.at_ → e.at_ % 4096 ≠ 0 →
    (∀ d ∈ s.dues, e.at_ ≤ d) → (∀ k n, s.cad.next.at k = some n → e.at_ + 1024 < n) →
    s.regs.posted = [] → s.regs.atPend = false →
    v = { s.advance e.at_ with cad := { s.cad with posted := [] } } →
    (v.chan c).tideValid = true → v.slotOn c = true → (v.sel c x).missesWindow = false →
    (∀ r ∈ (v.geom c).ranks, v.progRank c x r = false) →
    exec (.refreshWindow c x) s = .next (
      let sb := flag (v.agent c 0x030) 1
      let x2 := flag (v.agent c 0x030) 2
      let t := (v.modSel c x fun l =>
        { l with plan := l.plan.filter (fun p => p.use != .pprEnd)
                   ++ windowPlan (v.geom c).ranks (v.sel c x) sb x2 (dclks (v.tim c 3))
                   ++ l.plan.filter fun p => p.use == .pprEnd }).suspend c
      (if sb then t.modSel c x fun l => { l with refIx := (l.refIx + 1) % 2 ^ (v.geom c).ba } else t).gates.settleAll.sweepFails)) ∧
  (∀ (c : ChanId) (x : Sub) (s : State), (s.sel c x).missesWindow = true →
    flag (s.agent c 0x030) 1 = false → flag (s.agent c 0x030) 2 = false →
    s.window_ c x = (s.geom c).ranks.foldl (fun (t : State) (r : Nat) => t.owe c x r (s.sel c x).refIx false) s) ∧
  (∀ (c : ChanId) (x : Sub) (cs ba : Nat) (sb : Bool) (s : State),
    s.progRank c x cs = false → 4 ≤ (s.sel c x).owes cs - (s.sel c x).owedIn.toList.getD cs 0 →
    s.owe c x cs ba sb = s.raiseChan c 3) ∧
  (∀ (c : ChanId) (x : Sub) (cs : Fin 4) (ba : Nat) (s : State),
    s.progRank c x cs.val = false → (s.sel c x).owes cs.val - (s.sel c x).owedIn.toList.getD cs.val 0 < 4 →
    s.owe c x cs.val ba false = s.modSel c x fun l => { l with owed := l.owed.put cs (l.owed.at cs + 1) })) ∧
  ((∀ (c : ChanId) (x : Sub) (fl up dn : BitVec 4) (s : State), (∀ e ∈ s.cad.posted, e.kind = 2 → e.names c x = false) →
    exec (.retrainPause c x fl up dn) s = .next (s.rtrOutcome c x ⟨fl, up, dn⟩).sweepFails) ∧
  (∀ (c : ChanId) (x : Sub) (fl up dn : BitVec 4) (e : PostedSlot) (s : State), s.ticking = true →
    e ∈ s.cad.posted → e.kind = 2 → e.names c x = true → s.tide < e.at_ → (∀ d ∈ s.dues, e.at_ ≤ d) →
    exec (.retrainPause c x fl up dn) s = .next (
      let u := s.advance e.at_
      let u := if e.at_ % 4096 = 0 then u.sendMark [] else u
      (u.cuts.takeUpdates.posts.allSlots.gates.settleAll.sweepFails.rtrOutcome c x ⟨fl, up, dn⟩).sweepFails)) ∧
  (∀ (c : ChanId) (x : Sub) (fl up dn : BitVec 4) (e : PostedSlot) (step : Nat) (s v : State), s.ticking = true →
    s.cad.posted = [e] → e.kind = 2 → (∀ n y, e.names n y = true ↔ n = c ∧ y = x) → s.tide < e.at_ → e.at_ % 4096 ≠ 0 →
    (∀ d ∈ s.dues, e.at_ ≤ d) → (∀ k n, s.cad.next.at k = some n → e.at_ + 1024 < n) →
    s.regs.posted = [] → s.regs.atPend = false →
    v = { s.advance e.at_ with cad := { s.cad with posted := [] } } →
    (v.chan c).tideValid = true → v.slotOn c = true → (v.sel c x).missesWindow = false →
    flag (v.agent c 0x010) 0 = true → v.pers.strobe = false → (v.chan c).cmarkDue = false →
    (v.sel c x).pauseDue = none → (v.sel c x).inClosure = false →
    v.pauseStep c x = some step → (v.chan c).ppr.prog = false →
    exec (.retrainPause c x fl up dn) s = .next (
      let n := 2 ^ (v.geom c).cs
      let pre := ((v.geom c).ranks.filter fun cs => (v.sel c x).banks.any fun e => e.1.cs == cs).map fun cs =>
        ({ kind := .preab, bank := ⟨cs, 0, 0, 0⟩, use := .pause } : Cmd)
      let u := v.modSel c x fun l =>
        let l := l.passOver n step
        { l with plan := l.plan ++ (pre ++ rtrCmds (v.geom c) step), pauseOpen := true, rtrStep := some step
                 rtrFound := none, rtrNext := (step + 1) % rtrSteps n }
      ((u.pauseGrant c).gates.settleAll.sweepFails.rtrOutcome c x ⟨fl, up, dn⟩).sweepFails)) ∧
  (∀ (c : ChanId) (x : Sub) (t : Trial) (s : State),
    s.rtrOutcome c x t = s.modSel c x fun l => if l.rtrStep.isSome then { l with rtrFound := some t } else l) ∧
  (∀ (c : ChanId) (x : Sub) (step : Nat) (t : Trial) (s : State), (s.sel c x).pauseOpen = true → (s.sel c x).plan = [] →
    (s.sel c x).shutUntil ≤ (s.sel c x).dclk → (s.sel c x).rtrStep = some step → (s.sel c x).rtrFound = some t →
    s.endPause c x = (s.modSel c x fun l =>
      { l with pauseOpen := false, rtr := l.rtrNext, rtrStep := none, rtrFound := none }).rtrTrial c x step t) ∧
  (∀ (c : ChanId) (x : Sub) (step : Nat) (t : Trial) (s : State), step < 20 * 2 ^ (s.geom c).cs → t.fails = 0 →
    ((s.chan c).phy.retrain (rtrKey (2 ^ (s.geom c).cs) x step) (step % 10) t).2.2 = false →
    s.rtrTrial c x step t = (
      let r := (s.chan c).phy.retrain (rtrKey (2 ^ (s.geom c).cs) x step) (step % 10) t
      (s.modSel c x fun l => { l with failed := l.failed.filter (· != step) }).modChan c fun k =>
        { k with phy := { r.1 with moves := satAdd 1023 r.1.moves r.2.1, fails := satAdd 255 r.1.fails 0 } })) ∧
  (∀ (p : Phy) (d : Delay) (up : Bool),
    let v := p.delay d + if up then 1 else -1
    (d.range.1 ≤ v ∧ v ≤ d.range.2 → (p.nudge d up).1.delay d = v ∧ (p.nudge d up).2 = false ∧
      ∀ e, e ≠ d → (p.nudge d up).1.delay e = p.delay e) ∧
    (¬(d.range.1 ≤ v ∧ v ≤ d.range.2) → p.nudge d up = (p, true))) ∧
  (∀ (c : ChanId) (x : Sub) (w : Bool) (s : State),
    (flag (s.agent c 0x010) 0 = false ∨ s.pers.strobe = true ∨ (s.sel c x).missesWindow = true ∨
      (s.chan c).cmarkDue = true ∨ (s.sel c x).pauseDue ≠ none) → s.pause c x w = s) ∧
  (∀ (c : ChanId) (x : Sub) (w : Bool) (s : State),
    flag (s.agent c 0x010) 0 = true → s.pers.strobe = false → (s.chan c).cmarkDue = false →
    (s.sel c x).missesWindow = false → (s.sel c x).pauseDue = none → (s.pauseStep c x).isSome = true → (s.sel c x).inClosure = true →
    s.pause c x w = s.modSel c x fun l => { l with pauseDue := some !w }))

/-! ### Tide, epochs and updates (chapters 6 and 7) -/

/-- The sync mark of the next multiple of 4,096, where nothing is due before it, meets every tide copy of a running DCLK, with
what a disturbed copy shows as an operand: an invalid copy loads the mark and becomes valid, a valid one within less than 64 ÷
Mn of it is aligned and goes on, any other becomes invalid with its channel's source 0. All else that is due at that tide value
takes place with it. A copy counts 64 ÷ Mn for each DCLK. A cadence entry's slot of tide value T is posted 1,024 tide units
ahead with the targets of that moment, and the entry's next slot is one period later; after the strobe a retraining slot is not
posted. All that is due in that CCLK takes place together; an entry that does not act posts nothing. A posted epoch cut closes
the open epoch in the CCLK in which the tide equals its T: EPOCH_CUR rises by one, completion is brought up to date, and in
FROZEN a LAG of 8 raises the withhold; all else that is due there follows. After the strobe no cut takes place. -/
def Obligations.TideSlotsAndCuts : Prop :=
  ((∀ (seen : List (ChanId × Nat)) (s : State), s.ticking = true → (∀ d ∈ s.dues, (s.tide / 4096 + 1) * 4096 ≤ d) →
    exec (.tideSyncMark seen) s = .next (
      let t := s.advance ((s.tide / 4096 + 1) * 4096)
      let t := allChans.foldl (fun (t : State) (c : ChanId) => t.syncMark seen c) t
      t.cuts.takeUpdates.posts.allSlots.gates.settleAll.sweepFails)) ∧
  (∀ (seen : List (ChanId × Nat)) (c : ChanId) (s : State), (s.chan c).phy.lock = true → (s.chan c).tideValid = false →
    s.syncMark seen c = s.modChan c fun k =>
      { k with tideValid := true, tideReload := false, copyBase := s.tide * k.phy.mul, copyFrom := s.tide
               skew := if k.tideReload then satAdd 255 k.skew 1 else k.skew }) ∧
  (∀ (seen : List (ChanId × Nat)) (c : ChanId) (n : Nat) (s : State), (s.chan c).phy.lock = true →
    (s.chan c).tideValid = true → n = ((seen.find? fun e => e.1 == c).map Prod.snd).getD (s.copyNum c) →
    n < s.tide * (s.chan c).phy.mul + 64 → s.tide * (s.chan c).phy.mul < n + 64 →
    s.syncMark seen c = s.modChan c fun k => { k with copyBase := n, copyFrom := s.tide }) ∧
  (∀ (seen : List (ChanId × Nat)) (c : ChanId) (n : Nat) (s : State), (s.chan c).phy.lock = true →
    (s.chan c).tideValid = true → n = ((seen.find? fun e => e.1 == c).map Prod.snd).getD (s.copyNum c) →
    s.tide * (s.chan c).phy.mul + 64 ≤ n ∨ n + 64 ≤ s.tide * (s.chan c).phy.mul →
    s.syncMark seen c = (s.modChan c fun k => { k with tideValid := false, tideReload := true }).raiseChan c 0) ∧
  (∀ (seen : List (ChanId × Nat)) (c : ChanId) (s : State), (s.chan c).phy.lock = false → s.syncMark seen c = s) ∧
  (∀ (c : ChanId) (s : State), s.copyNum c =
    (s.chan c).copyBase + 64 * ((s.tide - (s.chan c).copyFrom) * (s.chan c).phy.mul / 64))) ∧
  ((∀ (k : Fin 8) (T : Nat) (s : State), s.ticking = true → s.cad.next.at k = some T → s.tide + 1024 < T →
    (∀ d ∈ s.dues, T - 1024 ≤ d) → exec (.slotPost k) s = .next (s.launch (T - 1024) [])) ∧
  (∀ (k : Fin 8) (T : Nat) (s v : State), s.ticking = true → s.cad.next.at k = some T → s.tide + 1024 < T →
    (T - 1024) % 4096 ≠ 0 → (∀ d ∈ s.dues, T - 1024 ≤ d) → (∀ j n, j ≠ k → s.cad.next.at j = some n → T < n) →
    (∀ e ∈ s.cad.posted, T - 1024 < e.at_) → s.regs.posted = [] → s.regs.atPend = false →
    (∀ n, (s.chan n).gate = none) → v = s.advance (T - 1024) →
    exec (.slotPost k) s = .next (
      let kind := (v.slotOf k T).kind
      { v with cad := { s.cad with
          next := s.cad.next.put k (some (T + cadPeriod kind (v.live (0x8008 + 0x20 * k.val)).toNat))
          posted := if kind = 2 ∧ s.pers.strobe = true then s.cad.posted
            else s.cad.posted ++ [v.slotOf k T] } }.settleAll.sweepFails)) ∧
  (∀ (k : Fin 8) (s : State), s.cad.next.at k = none → exec (.slotPost k) s = .next s)) ∧
  ((∀ (e : PostedSlot) (s : State), s.ticking = true → e ∈ s.cad.posted → e.kind = 3 → s.tide < e.at_ →
    (∀ d ∈ s.dues, e.at_ ≤ d) → s.pers.strobe = false →
    exec .epochCut s = .next (
      let t := s.advance e.at_
      let t := if e.at_ % 4096 = 0 then t.sendMark [] else t
      let t := ({ t with pers := { t.pers with cur := t.pers.cur + 1 } }).settle
      let t := (if t.mill.st = .frozen ∧ 8 ≤ t.pers.cur - t.pers.dur then
        { t with mill := { t.mill with withhold := true } } else t).updWithhold
      t.takeUpdates.posts.allSlots.gates.settleAll.sweepFails)) ∧
  (∀ (e : PostedSlot) (s : State), s.ticking = true → e ∈ s.cad.posted → e.kind = 3 → s.tide < e.at_ →
    (∀ d ∈ s.dues, e.at_ ≤ d) → s.pers.strobe = true →
    exec .epochCut s = .next (
      let t := s.advance e.at_
      let t := if e.at_ % 4096 = 0 then t.sendMark [] else t
      t.takeUpdates.posts.allSlots.gates.settleAll.sweepFails)) ∧
  (∀ s : State, s.settle.pers.cur = s.pers.cur ∧ s.pers.dur ≤ s.settle.pers.dur) ∧
  (∀ s : State, s.mill.st = .off ∨ s.mill.st = .solo ∨ s.mill.st = .resyncSrc →
    s.pers.dur ≤ s.settle.pers.loc → s.settle.pers.dur = s.settle.pers.loc))

/-- UPD_STROBE posts an update of the groups written, bits 28, 29 and 31 apart, for 64 tide units later. ARM of UPD_AT is
ignored while one is armed or posted, is LATE where its tide value is at most 1,024 ahead, and is pending otherwise; CANCEL
withdraws a pending one; a pending one is posted 1,024 tide units ahead of its tide value. A posted update takes effect in the
CCLK in which the tide equals its tide value: its groups take their shadows and act, and an armed one reports DONE with the
next SEQ. Held writes land as the CCLK before ends, and all else that is due takes place with it. A register of a group takes
in force the bits of its shadow that an update applies, and keeps the others. -/
def Obligations.Updates : Prop :=
  ((∀ (data : Word) (s : State), s.awake = true → strobeMask data ≠ 0 →
    exec (.updStrobe data) s = .next { s with regs := { s.regs with
      posted := s.regs.posted ++ [{ groups := data &&& 0x4FFFFFFF, at_ := s.tide + 64, armed := false }] } }) ∧
  (∀ s : State, s.awake = true →
    exec .updAtArm s = .next (
      if s.regs.atPend = true ∨ s.regs.atPosted = true then s
      else if s.atTide ≤ s.tide + 1024 then
        { s with regs := { s.regs with atLate := true, atSeq := nextSeq s.regs.atSeq } }
      else { s with regs := { s.regs with atPend := true } })) ∧
  (∀ s : State, s.awake = true → exec .updAtCancel s = .next { s with regs := { s.regs with atPend := false } }) ∧
  (∀ s : State, s.ticking = true → s.regs.atPend = true → s.tide + 1024 < s.atTide →
    (∀ d ∈ s.dues, s.atTide - 1024 ≤ d) → exec .updAtPost s = .next (s.launch (s.atTide - 1024) [])) ∧
  (∀ s v : State, s.ticking = true → s.regs.atPend = true → s.tide + 1024 < s.atTide → (s.atTide - 1024) % 4096 ≠ 0 →
    (∀ d ∈ s.dues, s.atTide - 1024 ≤ d) → (∀ k n, s.cad.next.at k = some n → s.atTide < n) →
    (∀ e ∈ s.cad.posted, s.atTide - 1024 < e.at_) → s.regs.posted = [] → (∀ n, (s.chan n).gate = none) →
    v = s.advance (s.atTide - 1024) → v.atTide = s.atTide →
    exec .updAtPost s = .next (
      { v with regs := { v.regs with
          atPend := false, atPosted := true
          posted := [{ groups := strobeMask (v.prog 0x038), at_ := s.atTide, armed := true }] }
        }.settleAll.sweepFails)) ∧
  (∀ s : State, s.regs.atPend = false → exec .updAtPost s = .next s)) ∧
  ((∀ (p : Posting) (s : State), s.ticking = true → p ∈ s.regs.posted → s.tide < p.at_ → (∀ d ∈ s.dues, p.at_ ≤ d) →
    exec .updateTakesEffect s = .next (s.launch p.at_ [])) ∧
  (∀ (p : Posting) (s v : State), s.ticking = true → s.regs.posted = [p] → s.tide < p.at_ → p.at_ % 4096 ≠ 0 →
    (∀ d ∈ s.dues, p.at_ ≤ d) → (∀ e ∈ s.cad.posted, p.at_ < e.at_) → v = s.advance p.at_ →
    exec .updateTakesEffect s = .next (
      let t := ({ v with regs := { v.regs with posted := [], lately := v.regs.lately ++ [p] } } : State).takeGroups p.groups
      let t : State := if p.armed then
          { t with regs := { t.regs with atPosted := false, atDone := true, atSeq := nextSeq t.regs.atSeq } }
        else t
      t.posts.allSlots.gates.settleAll.sweepFails)) ∧
  (∀ (s : State) (key : Nat), s.Inv → (s.install key).live key = blend (regInfo key).rws (s.live key) (s.prog key)) ∧
  (∀ (s : State) (key k : Nat), k ≠ key → (s.install key).live k = s.live k) ∧
  (∀ s : State, s.regs.posted = [] → exec .updateTakesEffect s = .next s))

/-- PWR_FAIL_N is remembered as it was last seen; as it goes low, it raises the strobe with CAUSE 3 where SAG_CFG.PF_EN lets
it; the sluice is done once every step is, and a core reset that waited for it follows. Once the marks of the queued stripe
lines have been asked for, a tally line with no stripe line left to issue, all of them durable, is cleared by a tally write;
where its mark-list word was bad its line is written as all ones instead. In the sluice, and while lines are outstanding or not
durable, it stands. A set without stripes has no marks to ask for. -/
def Obligations.SluiceAndTally : Prop :=
  ((∀ s : State, s.phase ≠ .off → s.sbm.pfPin = true →
    exec .pwrFail s = .next (
      let t : State := { s with sbm := { s.sbm with pfPin := false } }
      if flag t.sagCfg 4 && t.ticking then (t.strobe 3).sweepFails else t)) ∧
  (∀ s : State, s.phase ≠ .off → s.sbm.pfPin = false → exec .pwrFail s = .next { s with sbm := { s.sbm with pfPin := true } }) ∧
  (∀ (cause : Nat) (s : State), s.pers.strobe = true → s.strobe cause = s) ∧
  (∀ s : State, s.sluiceOver = true →
    exec .sluiceDone s = .next (
      let t : State := { s with pers := { s.pers with done := true } }
      if (t.fcol.corePend || t.sbm.rstPend) && t.pers.done then t.enterReset else t)) ∧
  (∀ s : State, s.sluiceOver = false → exec .sluiceDone s = .next s)) ∧
  ((∀ (m : SetId) (t : Nat) (e : Mark) (s : State),
    (((s.markQueued m).span m).marks.find? fun e => e.t == t) = some e → e.bad = none →
    e.count = 0 → e.emax ≤ s.pers.dur → s.pers.strobe = false → e.clearing = false →
    exec (.tallyClear m t) s = .next (
      ((s.markQueued m).modSpan m fun sp => { sp with marks := sp.marks.map fun o =>
        if o.t = t then { o with clearing := true } else o }).pushTally m { e with clearing := true } false .bulk)) ∧
  (∀ (m : SetId) (t : Nat) (e : Mark) (b : Bad) (s : State),
    (((s.markQueued m).span m).marks.find? fun e => e.t == t) = some e → e.bad = some b → b.checkOnly = false →
    e.bits ≠ BitVec.allOnes 512 →
    e.count = 0 → e.emax ≤ s.pers.dur → s.pers.strobe = false → e.clearing = false →
    exec (.tallyClear m t) s = .next (
      (((s.markQueued m).readG 531 (some b)).modSpan m fun sp => { sp with marks := sp.marks.map fun x =>
        if x.t = e.t then { e with bad := none, bits := BitVec.allOnes 512 } else x }).pushTally m
          { e with bad := none, bits := BitVec.allOnes 512 } true .bulk)) ∧
  (∀ (m : SetId) (t : Nat) (e : Mark) (s : State),
    (((s.markQueued m).span m).marks.find? fun e => e.t == t) = some e →
    (e.count ≠ 0 ∨ s.pers.dur < e.emax ∨ s.pers.strobe = true ∨ e.clearing = true) →
    exec (.tallyClear m t) s = .next s) ∧
  (∀ (m : SetId) (s : State), s.spanMode m = false → s.markQueued m = s))

/-- A warn sample that is present raises the warn decision once, with its count, source 549 and its wake rule; a critical one
raises the critical decision with source 550, the strobe and its wake rule; the samples themselves are kept always. The warn
decision falls at its timeout, a counter entry that waited for it is programmed, and a PMIC write that waited for it goes out.
Whether a program was under way as the decision rose is kept, so that it may end. -/
def Obligations.SagDecisions : Prop :=
  (∀ (pinLow : Bool) (droop : BitVec 6) (s : State), s.phase ≠ .off →
    exec (.sagWarn pinLow droop) s = .next (
      let t : State := { s with sbm := { s.sbm with warnPin := !pinLow, droop := droop } }
      if t.warnPresent = false ∨ t.sbm.warn = true then t
      else
        (({ t with
          sbm := { t.sbm with warn := true, warnCount := satAdd 65535 t.sbm.warnCount 1 }
          flash := { t.flash with under := t.awake && (!t.flash.ksQ.isEmpty || !t.evr.buf.isEmpty ||
            t.anyJob fun b => b.runs 0x41 || b.runs 0x43) } }).raiseOn 549).ruleEvent 7 0 0)) ∧
  (∀ (pinLow : Bool) (droop : BitVec 6) (s : State), s.phase ≠ .off →
    exec (.sagCrit pinLow droop) s = .next (
      let t : State := { s with sbm := { s.sbm with critPin := !pinLow, droop := droop } }
      match t.critPresent with
      | none => t
      | some cause =>
        if t.sbm.crit then t
        else
          let u := ({ t with sbm := { t.sbm with crit := true } }).raiseOn 550
          (if u.ticking then (u.strobe cause).sweepFails else u).ruleEvent 7 0 1)) ∧
  (∀ s : State, s.sbm.warn = true →
    exec .warnClearTimeout s = .next (
      let t : State := { s with sbm := { s.sbm with warn := false }, flash := { s.flash with under := false } }
      let t := if t.evr.ctrDue && t.awake then t.writeCounter else t
      (allChans.foldl (fun (t : State) (c : ChanId) => t.askXfers c []) t).slumberStep)) ∧
  (∀ s : State, s.sbm.warn = false → exec .warnClearTimeout s = .next s)

/-- CORE_RST_N low enters core reset at once, or after a sluice that runs; its rise lets the bring-back start at row 4; a
pending core reset is entered at its timeout though the sluice has not ended. Core reset leaves the queue, the OTP, the
keep-forever area, the standby monitor's warn decision and EHOLD as they are, and takes the tide, the ports, the millrace and
the CINCH bits back to their reset values. -/
def Obligations.CoreResetPin : Prop :=
  (∀ s : State, s.supplied = true → s.phase ≠ .held → (s.pers.strobe = false ∨ s.pers.done = true) →
    exec .coreRst s = .next ({ s with sbm := { s.sbm with rstLow := true } }).enterReset) ∧
  (∀ s : State, s.supplied = true → s.phase ≠ .held → s.pers.strobe = true → s.pers.done = false →
    exec .coreRst s = .next { s with sbm := { s.sbm with rstLow := true, rstPend := true } }) ∧
  (∀ s : State, s.phase = .held →
    exec .coreRstRelease s = .next { s with phase := .bring 4, sbm := { s.sbm with rstLow := false } }) ∧
  (∀ s : State, s.phase ≠ .held →
    exec .coreRstRelease s = .next { s with sbm := { s.sbm with rstLow := false } }) ∧
  (∀ s : State, s.pers.strobe = true → (s.fcol.corePend = true ∨ s.sbm.rstPend = true) →
    exec .coreResetTimeout s = .next s.enterReset) ∧
  (∀ s : State,
    s.enterReset.pending = s.pending ∧ s.enterReset.otp = s.otp ∧ s.enterReset.flash.kf = s.flash.kf ∧
    s.enterReset.fcol.ehold = s.fcol.ehold ∧ s.enterReset.sbm.warn = s.sbm.warn ∧ s.enterReset.tide = 0 ∧
    s.enterReset.ports = State.reset.ports ∧ s.enterReset.mill.st = .off ∧ s.enterReset.regs.cinch = 0 ∧
    s.enterReset.phase = if s.sbm.rstLow then .held else .bring 4)

/-! ### The millrace (chapter 7) -/

/-- The nine beats that MI can receive on a lane. -/
def Sys2Proof.Machine.miBeats (l : Lane) (d : Line) (ctl : BitVec 192) : List Instr :=
  [.miData l d ctl, .miHeader l d ctl, .miTrailer l d ctl, .miAck l d ctl, .miHello l d ctl, .miSever l d ctl,
   .miDrift l d ctl, .miRsEnd l d ctl, .miIdle l d ctl]

/-- One beat of an MO lane: a lane that is not driven is quiet; a driven one reads what its choice is built from, sends it with
the owed credits (15 at most) and the next sequence number, pays a credit for a beat that costs one, and what the beat's
sending does follows; a bad line of the MO buffer is not driven and loses the link with WHY 3. A SEVER that is due comes before
everything, after it the lane is inert, and with CAUSE 2 sent on every lane the mirror stream is closed; a HEADER opens its
epoch on the lane, a live line leaves the MO buffer and is counted, a TRAILER shuts the epoch. -/
def Obligations.MirrorOutBeat : Prop :=
  (∀ (l : Lane) (s : State), s.moDrives l = false →
    exec (.moBeatSend l) s = .next (s.modMo l fun q => { q with out := none })) ∧
  (∀ (l : Lane) (s : State), s.moDrives l = true → (s.endCopies.moNext l).bad = false →
    exec (.moBeatSend l) s = .next (
      let n := s.endCopies.moNext l
      let t := s.endCopies.readFor n
      let crd := min 15 (t.mill.mo.at l).ret
      let p := { t.pktFor (t.mill.mo.at l) n with crd := crd, pseq := (t.mill.mo.at l).pseq }
      let u := t.modMo l fun q =>
        { q with pseq := (q.pseq + 1) % 2 ^ 16, ret := q.ret - crd, crd := if n.costs then q.crd - 1 else q.crd,
                 slot := (q.slot + 1) % 16, out := some p }
      ((((u.modMi l fun q => { q with crd := q.crd + crd }).moSent l n (beatCrc p.data p.ctl)).settle).updWithhold).settleAll)) ∧
  (∀ (l : Lane) (x : MoLine) (b : Bad) (s : State), s.moDrives l = true → s.endCopies.moNext l = .live x → x.bad = some b →
    b.checkOnly = false →
    exec (.moBeatSend l) s = .next (
      (((s.endCopies.readG 533 (some b)).modMo l fun q => { q with out := none }).loseLink 3).settle.updWithhold.settleAll)) ∧
  (∀ (l : Lane) (s : State) (c : Nat), (s.mill.mo.at l).sever = some c →
    s.moNext l = .sever c ∧ (s.pktFor (s.mill.mo.at l) (.sever c)).ptype = 6 ∧
    ∀ crc, s.moSent l (.sever c) crc = (
      let t := s.modMo l fun q => { q with sever := none, inert := true }
      if c = 2 ∧ t.mill.mo.toList.all (·.inert) = true then { t with pers := { t.pers with mclosed := true } } else t)) ∧
  (∀ (l : Lane) (e : Nat) (crc : Word) (s : State),
    s.moSent l (.header e) crc
      = s.modMo l fun q => { q with isOpen := e, shut := false, lines := 0, digest := 0xFFFFFFFF }) ∧
  (∀ (l : Lane) (x : MoLine) (crc : Word) (s : State),
    s.moSent l (.live x) crc = ((s.modMill fun m => { m with moBuf := m.moBuf.erase x }).modMo l fun q =>
      { q with lines := q.lines + 1, digest := digestStep q.digest crc }).logLine l x) ∧
  (∀ (l : Lane) (e : Nat) (crc : Word) (s : State),
    s.moSent l (.trailer e) crc = (s.modMo l fun q => { q with shut := true }).closeSent)

/-- A beat on MI that the first failed check of R252 breaks: CRC, sequence number, type, then on a linked side the stream's own
rules, reasons 4 to 9. The stream breaks with that reason on that lane: MILL_BRK keeps the first lane and reason and counts,
every lane discards, source 542 rises and the link is lost with WHY 3. After it everything but a good SEVER or HELLO is
discarded. -/
def Obligations.MirrorInBreak : Prop :=
  (∀ (l : Lane) (d : Line) (ctl : BitVec 192) (i : Instr) (r : Nat) (s : State),
    i ∈ miBeats l d ctl → s.mill.st ≠ .off → s.mill.wiclk = true → s.ticking = true → (s.mill.mi.at l).broken = false →
    miReason l (s.mill.mi.at l) s.mill (pktOf d ctl) (crcHolds d ctl) = some r →
    exec i s = .next (
      let t := if crcHolds d ctl then s.modMi l fun q => { q with pseq := some (pktOf d ctl).pseq } else s
      (t.streamBreak l r).miAfter)) ∧
  (∀ (l : Lane) (d : Line) (ctl : BitVec 192) (i : Instr) (s : State),
    i ∈ miBeats l d ctl → s.mill.st ≠ .off → s.mill.wiclk = true → s.ticking = true → (s.mill.mi.at l).broken = true →
    (crcHolds d ctl = false ∨ ((pktOf d ctl).ptype ≠ 5 ∧ (pktOf d ctl).ptype ≠ 6)) →
    exec i s = .next (
      (if crcHolds d ctl then s.modMi l fun q => { q with pseq := some (pktOf d ctl).pseq } else s).miAfter)) ∧
  (∀ (l : Lane) (r : Nat) (s : State),
    s.streamBreak l r = (
      let b := s.mill.brk
      let b' : Brk := { valid := true, lane := if b.valid then b.lane else l.val, reason := if b.valid then b.reason else r,
                        count := satAdd 255 b.count 1, seq := nextSeq b.seq }
      let t : State := { s with mill := { s.mill with brk := b', mi := s.mill.mi.each fun x => { x with broken := true } } }
      (t.raise 542).loseLink 3)) ∧
  (∀ (l : Lane) (q : MiLane) (m : Mill) (p : Pkt), miReason l q m p false = some 1) ∧
  (∀ (l : Lane) (q : MiLane) (m : Mill) (p : Pkt) (n : Nat),
    q.pseq = some n → p.pseq ≠ (n + 1) % 2 ^ 16 → miReason l q m p true = some 2) ∧
  (∀ (l : Lane) (q : MiLane) (m : Mill) (p : Pkt),
    (∀ n, q.pseq = some n → p.pseq = (n + 1) % 2 ^ 16) → 9 ≤ p.ptype → miReason l q m p true = some 3) ∧
  (∀ (l : Lane) (q : MiLane) (m : Mill) (p : Pkt),
    (∀ n, q.pseq = some n → p.pseq = (n + 1) % 2 ^ 16) → p.ptype < 9 →
    miReason l q m p true = if m.linked = true then miCheck l q m.lastAck m.trSent p else none) ∧
  (∀ (l : Lane) (q : MiLane) (a c e : Nat) (p : Pkt), p.ptype = 1 → q.isOpen = some e → p.elo = e % 2 ^ 16 →
    miCheck l q a c p = if q.crd = 0 then some 7 else if p.laddr % 4 = l.val then none else some 8) ∧
  (∀ (l : Lane) (q : MiLane) (a c : Nat) (p : Pkt), (p.ptype = 1 ∨ p.ptype = 3 ∨ p.ptype = 8) → q.isOpen = none →
    miCheck l q a c p = some 4) ∧
  (∀ (l : Lane) (q : MiLane) (a c e : Nat) (p : Pkt), p.ptype = 2 → q.isOpen = some e → miCheck l q a c p = some 4) ∧
  (∀ (l : Lane) (q : MiLane) (a c e : Nat) (p : Pkt), p.ptype = 3 → q.isOpen = some e → payload p.data 7 0 = e →
    p.elo = e % 2 ^ 16 →
    miCheck l q a c p =
      if payload p.data 11 8 ≠ q.lines then some 5
      else if payload p.data 15 12 ≠ (digestOf q.lines q.digest).toNat then some 6
      else if q.crd = 0 then some 7 else none) ∧
  (∀ (l : Lane) (q : MiLane) (a c : Nat) (p : Pkt), p.ptype = 4 →
    miCheck l q a c p = if payload p.data 7 0 < a ∨ c < payload p.data 7 0 then some 9 else none) ∧
  (∀ (l : Lane) (d : Line) (ctl : BitVec 192) (i : Instr) (s : State),
    i ∈ miBeats l d ctl → (s.mill.st = .off ∨ s.mill.wiclk = false ∨ s.ticking = false) → exec i s = .next s.miAfter)

/-- A beat that lane `l` takes as good: MI runs and has not broken, the beat's CRC, sequence number and type are right, and on a
linked side the stream's own checks pass. -/
def Sys2Proof.Machine.GoodBeat (l : Lane) (d : Line) (ctl : BitVec 192) (ptype : Nat) (s : State) : Prop :=
  s.mill.st ≠ .off ∧ s.mill.wiclk = true ∧ s.ticking = true ∧ (s.mill.mi.at l).broken = false ∧ crcHolds d ctl = true ∧
  (pktOf d ctl).ptype = ptype ∧ ptype < 9 ∧
  (∀ n, (s.mill.mi.at l).pseq = some n → (pktOf d ctl).pseq = (n + 1) % 2 ^ 16) ∧
  (s.mill.linked = true → miCheck l (s.mill.mi.at l) s.mill.lastAck s.mill.trSent (pktOf d ctl) = none)

/-- What every good beat does: its sequence number is kept, and its CRD goes to the lane's credits. -/
def Sys2Proof.Machine.beatTold (l : Lane) (p : Pkt) (s : State) : State :=
  (s.modMi l fun q => { q with pseq := some p.pseq }).modMo l fun o => { o with crd := min 1024 (o.crd + p.crd) }

/-- A beat on MI that fails no check: its sequence number is taken, its CRD is added to its MO lane's credits up to 1,024, and
a type that the state takes is taken: a DATA, HEADER, TRAILER, DRIFT or RS_END enters the elastic buffer for a credit of its
lane with the lane's stream state moved on, an ACK acknowledges, a HELLO is kept for pairing, a SEVER ends the mirror. A DRIFT
that leaves the buffer gives its credit back and its chunk goes into the map. An IDLE beat carries credits only. On a linked
side a beat that the state does not take moves its lane's stream state on and gives its credit back at once. A SEVER takes a
linked MIRRORED side through the marking of R261 to SOLO with WHY 4, source 540 and a record; a FROZEN side before the strobe
and the target of a resync go SOLO; the other states stand. -/
def Obligations.MirrorInTakesBeatAndSever : Prop :=
  ((∀ (l : Lane) (d : Line) (ctl : BitVec 192) (s : State), GoodBeat l d ctl 1 s → s.mill.takes 1 = true →
    exec (.miData l d ctl) s = .next (
      let p := pktOf d ctl
      let t := (beatTold l p s).modMi l fun q =>
        { q with crd := q.crd - 1
                 buf := q.buf ++ [{ pkt := p, epoch := (q.isOpen).getD 0, bad := s.armedG 13 0 }] }
      (((t.spendG (s.armedG 13 0)).modMi l fun q =>
        { q with lines := q.lines + 1, digest := digestStep q.digest (BitVec.ofNat 32 (field ctl 191 160)) }).drainMi
          miPasses).miAfter)) ∧
  (∀ (l : Lane) (d : Line) (ctl : BitVec 192) (s : State), GoodBeat l d ctl 2 s → s.mill.takes 2 = true →
    exec (.miHeader l d ctl) s = .next (
      let p := pktOf d ctl
      let e := payload p.data 7 0
      let t := (beatTold l p s).modMi l fun q =>
        { q with isOpen := some e, lines := 0, digest := 0xFFFFFFFF, crd := q.crd - 1
                 buf := q.buf ++ [{ pkt := p, epoch := e, bad := s.armedG 13 0 }] }
      ((t.spendG (s.armedG 13 0)).drainMi miPasses).miAfter)) ∧
  (∀ (l : Lane) (d : Line) (ctl : BitVec 192) (s : State), GoodBeat l d ctl 3 s → s.mill.takes 3 = true →
    exec (.miTrailer l d ctl) s = .next (
      let p := pktOf d ctl
      let e := payload p.data 7 0
      let t := (beatTold l p s).modMi l fun q =>
        { q with isOpen := none, lastTr := some e, crd := q.crd - 1
                 buf := q.buf ++ [{ pkt := p, epoch := e, bad := s.armedG 13 0 }] }
      ((t.spendG (s.armedG 13 0)).drainMi miPasses).miAfter)) ∧
  (∀ (l : Lane) (d : Line) (ctl : BitVec 192) (s : State), GoodBeat l d ctl 8 s → s.mill.takes 8 = true →
    exec (.miRsEnd l d ctl) s = .next (
      let p := pktOf d ctl
      let t := (beatTold l p s).modMi l fun q =>
        { q with crd := q.crd - 1, buf := q.buf ++ [{ pkt := p, epoch := payload p.data 7 0, bad := s.armedG 13 0 }] }
      ((t.spendG (s.armedG 13 0)).drainMi miPasses).miAfter)) ∧
  (∀ (l : Lane) (d : Line) (ctl : BitVec 192) (s : State), GoodBeat l d ctl 4 s → s.mill.takes 4 = true →
    s.mill.rs.ended = none → s.mill.logBad = none →
    exec (.miAck l d ctl) s = .next (
      let e := payload (pktOf d ctl).data 7 0
      ((((beatTold l (pktOf d ctl) s).modMill fun m =>
        { m with acked := e, lastAck := e, log := m.log.filter fun g => decide (e < g.2) }).settle).drainMi miPasses).miAfter)) ∧
  (∀ (l : Lane) (d : Line) (ctl : BitVec 192) (s : State), GoodBeat l d ctl 4 s → s.mill.takes 4 = true →
    exec (.miAck l d ctl) s = .next (
      (((beatTold l (pktOf d ctl) s).takeAck (payload (pktOf d ctl).data 7 0)).drainMi miPasses).miAfter)) ∧
  (∀ (l : Lane) (d : Line) (ctl : BitVec 192) (s : State), GoodBeat l d ctl 5 s → s.mill.takes 5 = true →
    exec (.miHello l d ctl) s = .next (
      let h := helloOf (pktOf d ctl).data
      (((((beatTold l (pktOf d ctl) s).modMi l fun q => { q with hello := some h }).modMill fun m =>
        { m with peerLast := h.peerLast, peerInfo := h.info }).tryPair).drainMi miPasses).miAfter)) ∧
  (∀ (l : Lane) (d : Line) (ctl : BitVec 192) (s : State), GoodBeat l d ctl 6 s →
    exec (.miSever l d ctl) s = .next (((beatTold l (pktOf d ctl) s).takeSever.drainMi miPasses).miAfter)) ∧
  (∀ (l : Lane) (d : Line) (ctl : BitVec 192) (s : State), GoodBeat l d ctl 7 s → s.mill.takes 7 = true →
    exec (.miDrift l d ctl) s = .next (
      let p := pktOf d ctl
      let t := (beatTold l p s).modMi l fun q =>
        { q with crd := q.crd - 1, buf := q.buf ++ [{ pkt := p, epoch := payload p.data 7 0, bad := s.armedG 13 0 }] }
      ((t.spendG (s.armedG 13 0)).drainMi miPasses).miAfter)) ∧
  (∀ (l : Lane) (b : MiBeat) (rest : List MiBeat) (s : State),
    (s.mill.mi.at l).buf = b :: rest → b.pkt.ptype = 7 → b.bad = none →
    s.takeHead l = some (
      let u := (s.modMi l fun q => { q with buf := q.buf.tail }).modMo l fun q => { q with ret := q.ret + 1 }
      let u := ((List.range 512).filter fun i => b.pkt.data.getLsbD i).foldl (fun (u : State) (i : Nat) =>
        u.markDrift (512 * (b.pkt.laddr % 2 ^ 14) + i)) u
      u.modMill fun m => { m with driftGot := m.driftGot + 1, driftOk := decide (10240 ≤ m.driftGot + 1) })) ∧
  (∀ (l : Lane) (d : Line) (ctl : BitVec 192) (s : State), GoodBeat l d ctl 0 s →
    exec (.miIdle l d ctl) s = .next (beatTold l (pktOf d ctl) s).miAfter) ∧
  (∀ (l : Lane) (d : Line) (ctl : BitVec 192) (k : Nat) (i : Instr) (s : State), i ∈ miBeats l d ctl → GoodBeat l d ctl k s →
    s.mill.takes k = false →
    exec i s = .next (
      if s.mill.linked = true ∧ credited k = true then
        (((beatTold l (pktOf d ctl) s).modMi l fun q =>
          { q.follow (pktOf d ctl) (BitVec.ofNat 32 (field ctl 191 160)) with crd := q.crd - 1 }).modMo l fun q =>
            { q with ret := q.ret + 1 }).miAfter
      else (beatTold l (pktOf d ctl) s).miAfter)) ∧
  (∀ (l : Lane) (p : Pkt) (crc : Word) (s : State), p.ptype = 4 → s.mill.st = .mirrored → s.mill.log = [] →
    s.mill.logBad = none →
    s.takePkt l p crc
      = (s.modMill fun m => { m with acked := payload p.data 7 0, lastAck := payload p.data 7 0 }).settle)) ∧
  ((∀ s : State, s.mill.st = .mirrored →
    s.takeSever = ((((s.markSplit.modMill fun m => { m with why := 4 }).raise 540).toSolo).noteMill .mirrored 0)) ∧
  (∀ s : State, s.mill.st = .frozen → s.pers.strobe = false →
    s.takeSever = ((s.modMill fun m => { m with why := 4 }).toSolo).noteMill .frozen 0) ∧
  (∀ s : State, s.mill.st = .resyncTgt →
    s.takeSever = ((s.modMill fun m => { m with why := 4 }).toSolo).noteMill .resyncTgt 0) ∧
  (∀ s : State, (s.mill.st = .solo ∨ s.mill.st = .fenced ∨ s.mill.st = .handshake ∨ s.mill.st = .resyncSrc) →
    s.takeSever = s) ∧
  (∀ (l : Lane) (p : Pkt) (crc : Word) (s : State), p.ptype = 6 → s.takePkt l p crc = s.takeSever))

/-- The head DATA line of a lane is admitted in its turn: its lines go toward their destinations in class RT with the epoch in
force, its entry's credit goes back to the twin, and it is outstanding until accepted; one with an empty MASK writes nothing
and counts as accepted at once, and so does one that no channel can take. The ACK of the next twin epoch is due once its
TRAILERs are taken and its lines accepted, on a streaming side and on a linked SOLO. The resync engine of a source takes the
lowest granule with its drift bit set and reads every line of it through MI's crossbar source, four lines a request in class
RS_QOS, its bit cleared once all its reads have entered; lines of no reachable channel are passed over, which is the model's
choice (log entry 66). A line that comes back is copied toward the twin in the epoch current at its return, unless a host write
has superseded it. -/
def Obligations.MirrorInAdmissionAndResync : Prop :=
  ((∀ (l : Lane) (b : MiBeat) (rest : List MiBeat) (s : State),
    (s.mill.mi.at l).buf = b :: rest → b.pkt.ptype = 1 → s.pers.strobe = false → s.fcol.safe = false →
    b.epoch = s.mill.twin → b.bad = none → s.absentAt (miReq b.pkt) = false → b.pkt.mask ≠ 0 →
    s.xbarRoom (s.route .mi (miReq b.pkt) .rt s.pers.cur
      ((s.requestLines (miReq b.pkt) [{ data := b.pkt.data }]).map fun x =>
        { x with poison := b.pkt.rs && b.pkt.mask == allOnes && b.pkt.data == poisonLine })) = true →
    exec (.miLineAdmit l) s = .next (
      let es := s.route .mi (miReq b.pkt) .rt s.pers.cur
        ((s.requestLines (miReq b.pkt) [{ data := b.pkt.data }]).map fun x =>
          { x with poison := b.pkt.rs && b.pkt.mask == allOnes && b.pkt.data == poisonLine })
      let t := (s.modMi l fun q => { q with buf := q.buf.tail }).modMo l fun q => { q with ret := q.ret + 1 }
      let t : State := { t with
        xbar := { t.xbar with entries := t.xbar.entries ++ es }
        mill := { t.mill with flights := t.mill.flights ++ [{ id := t.nextId, twin := b.epoch, epoch := t.pers.cur }] } }
      (t.stamp.drainMi miPasses).miAfter)) ∧
  (∀ (l : Lane) (b : MiBeat) (rest : List MiBeat) (s : State),
    (s.mill.mi.at l).buf = b :: rest → b.pkt.ptype = 1 → s.pers.strobe = false → s.fcol.safe = false →
    b.epoch = s.mill.twin → b.bad = none → s.absentAt (miReq b.pkt) = false → b.pkt.mask = 0 →
    exec (.miLineAdmit l) s = .next (
      let t := (s.modMi l fun q => { q with buf := q.buf.tail }).modMo l fun q => { q with ret := q.ret + 1 }
      (t.drainMi miPasses).miAfter)) ∧
  (∀ (l : Lane) (b : MiBeat) (rest : List MiBeat) (s : State),
    (s.mill.mi.at l).buf = b :: rest → b.pkt.ptype = 1 → s.pers.strobe = false → s.fcol.safe = false →
    b.epoch = s.mill.twin → b.bad = none → s.absentAt (miReq b.pkt) = true →
    exec (.miLineAdmit l) s = .next (
      let t := (s.modMi l fun q => { q with buf := q.buf.tail }).modMo l fun q => { q with ret := q.ret + 1 }
      ((t.dropMi (miReq b.pkt)).drainMi miPasses).miAfter)) ∧
  (∀ (l : Lane) (b : MiBeat) (rest : List MiBeat) (x : Bad) (s : State),
    (s.mill.mi.at l).buf = b :: rest → b.pkt.ptype = 1 → s.pers.strobe = false → s.fcol.safe = false →
    b.epoch = s.mill.twin → b.bad = some x → x.checkOnly = false →
    exec (.miLineAdmit l) s = .next ((s.readG 534 (some x)).streamBreak l 1).miAfter) ∧
  (∀ s : State, (s.mill.streams = true ∨ (s.mill.st = .solo ∧ s.mill.linked = true)) → s.mill.twin ≠ 0 →
    (s.mill.ackedTo + 1 < s.mill.twin ∨
      (s.mill.ackedTo + 1 = s.mill.twin ∧ ∀ k : Lane, k.val ∈ s.mill.trDone)) →
    (∀ f ∈ s.mill.flights, f.twin ≠ s.mill.ackedTo + 1) →
    exec .ackDue s = .next (s.modMill fun m =>
      { m with acks := m.acks ++ [m.ackedTo + 1], ackedTo := m.ackedTo + 1, applied := m.ackedTo + 1 })) ∧
  (∀ s : State, s.mill.streams = false → s.mill.linked = false → exec .ackDue s = .next s)) ∧
  ((∀ (g : Nat) (s : State), s.mill.st = .resyncSrc → s.mill.rs.active = true → s.mill.rs.gran = none →
    s.mill.rs.ended = none → s.pers.strobe = false → s.mill.drift.min? = some g → s.mill.driftBad = none →
    exec .resyncGranule s = .next (
      (s.modMill fun m => { m with rs := { m.rs with gran := some g, next := 0 } }).feedResync resyncBurst)) ∧
  (∀ (g : Nat) (s : State), s.mill.st = .resyncSrc → s.mill.rs.active = true → s.mill.rs.gran = some g →
    s.mill.rs.ended = none → s.pers.strobe = false → exec .resyncGranule s = .next (s.feedResync resyncBurst)) ∧
  (∀ s : State, s.mill.st = .resyncSrc → s.mill.rs.active = true → s.mill.rs.gran = none → s.mill.rs.ended = none →
    s.pers.strobe = false → s.mill.drift.min? = none → s.mill.driftBad = none →
    exec .resyncGranule s = .next s.endCopies) ∧
  (∀ (n g : Nat) (s : State), s.mill.rs.gran = some g → s.mill.rs.next < 65536 →
    s.absentAt (rsReq g s.mill.rs.next) = false →
    s.xbarRoom (s.route .mi (rsReq g s.mill.rs.next) s.rsCls s.pers.cur
      (s.requestLines (rsReq g s.mill.rs.next) [])) = true →
    s.feedResync (n + 1) = (
      let r := rsReq g s.mill.rs.next
      let t : State := { s with
        xbar := { s.xbar with
          entries := s.xbar.entries ++ s.route .mi r s.rsCls s.pers.cur (s.requestLines r []) }
        mill := { s.mill with rs := { s.mill.rs with
          next := s.mill.rs.next + 4
          reads := s.mill.rs.reads ++ [{ id := s.nextId, first := r.addr / 64, left := 4 }] } } }
      t.stamp.feedResync n)) ∧
  (∀ (n g : Nat) (s : State), s.mill.rs.gran = some g → 65536 ≤ s.mill.rs.next →
    s.feedResync (n + 1) =
      ((s.writeDrift g false).modMill fun m => { m with rs := { m.rs with gran := none, next := 0 } })) ∧
  (∀ (g : Nat) (r : Fin 16384) (i : Fin 4) (d : Line) (more : List (Nat × Line)) (s : State),
    s.mill.rs.back = (65536 * g + 4 * r.val + i.val, d) :: more →
    exec (.resyncLineReturn g r i) s = .next (
      let line := 65536 * g + 4 * r.val + i.val
      let x : MoLine := { addr := 64 * line, data := d, mask := allOnes, epoch := s.pers.cur, rs := true }
      (s.modMill fun m => { m with rs := { m.rs with
        back := more, out := m.rs.out.del line (line + 1), newer := m.rs.newer.del line (line + 1)
        copies := if m.rs.newer.mem line = true then m.rs.copies else m.rs.copies ++ [x] } }).endCopies)) ∧
  (∀ (g : Nat) (r : Fin 16384) (i : Fin 4) (s : State), (∀ b ∈ s.mill.rs.back, b.1 ≠ 65536 * g + 4 * r.val + i.val) →
    exec (.resyncLineReturn g r i) s = .next s))

/-- A link-up input that rises clears the refusal and starts its sequence numbers afresh, and with both high an enabled mirror
takes up HANDSHAKE; a falling input and LOSS_TO lose the link (LINK_DOWN gives the levels of the two inputs): a MIRRORED side
is FROZEN with source 540, the source of a resync goes SOLO, its target FENCED. FROZEN is decided: at the split timeout SOLO on
the side with PRIMACY in WMODE 0 and FENCED otherwise; by a rise of WITNESS_GRANT after it was seen low, in WMODE 1, SOLO; by
an action of MILL_CMD, taken where R265 lets it, with source 541 and a record. After the strobe nothing decides. -/
def Obligations.LinksAndSplit : Prop :=
  ((∀ s : State, s.mill.moUp = true → s.mill.miUp = true → exec .linkUp s = .next s.tryEnable.settleAll) ∧
  (∀ s : State, s.mill.moUp = false → s.mill.miUp = false →
    exec .linkUp s = .next ((s.modMill fun m =>
      { m with moUp := true, miUp := true, barred := false
               mo := m.mo.each fun l => { l with pseq := 0, greeted := false }
               mi := m.mi.each fun l => { l with pseq := none, hello := none } }).tryEnable.settleAll)) ∧
  (∀ s : State, s.mill.moUp = false → s.mill.miUp = true →
    exec .linkUp s = .next ((s.modMill fun m =>
      { m with moUp := true, barred := false, mo := m.mo.each fun l => { l with pseq := 0, greeted := false } }).tryEnable.settleAll)) ∧
  (∀ s : State, s.mill.moUp = true → s.mill.miUp = false →
    exec .linkUp s = .next ((s.modMill fun m =>
      { m with miUp := true, barred := false
               mi := m.mi.each fun l => { l with pseq := none, hello := none } }).tryEnable.settleAll)) ∧
  (∀ (mo mi : Bool) (s : State), mo = false ∨ mi = false →
    exec (.linkDown mo mi) s = .next ((s.linkFall (s.mill.moUp && !mo) (s.mill.miUp && !mi)).linkRise
      (mo && !s.mill.moUp) (mi && !s.mill.miUp))) ∧
  (∀ s : State, exec (.linkDown true true) s = exec .linkUp s ∧ s.linkFall false false = s ∧ s.linkRise false false = s) ∧
  (∀ (mo mi : Bool) (s : State), mo = true ∨ mi = true →
    s.linkFall mo mi = ((s.modMill fun m =>
      { m with moUp := m.moUp && !mo, miUp := m.miUp && !mi
               mo := if mo then m.mo.each fun l => { l with sever := none, out := none } else m.mo }).loseLink 1).settleAll ∧
    s.linkRise mo mi = s.modMill fun m =>
      { m with moUp := m.moUp || mo, miUp := m.miUp || mi, barred := false
               mo := if mo then m.mo.each fun l => { l with pseq := 0, greeted := false } else m.mo
               mi := if mi then m.mi.each fun l => { l with pseq := none, hello := none } else m.mi }) ∧
  (∀ (l : Lane) (s : State), s.mill.streams = true → exec (.lossTimeout l) s = .next (s.loseLink 2).settleAll) ∧
  (∀ (l : Lane) (s : State), s.mill.streams = false → exec (.lossTimeout l) s = .next s) ∧
  (∀ (why : Nat) (s : State), s.mill.st = .mirrored → s.loseLink why = s.toFrozen why) ∧
  (∀ (why : Nat) (s : State), s.mill.st = .resyncSrc → s.loseLink why = (s.modMill fun m => { m with why := why }).toSolo) ∧
  (∀ (why : Nat) (s : State), s.mill.st = .resyncTgt → s.loseLink why = (s.modMill fun m => { m with why := why }).toFenced)) ∧
  ((∀ s : State, s.mill.st = .frozen → s.pers.strobe = false →
    exec .splitTimeout s = .next (
      (if s.wmode == 0 && s.primacy then s.toSolo else s.toFenced).noteMill .frozen 0).settleAll) ∧
  (∀ s : State, s.mill.st ≠ .frozen ∨ s.pers.strobe = true → exec .splitTimeout s = .next s) ∧
  (∀ s : State, s.mill.st = .frozen → s.pers.strobe = false → s.wmode = 1 → s.mill.grantLow = true →
    exec (.witnessGrant true) s = .next (
      ((s.modMill fun m => { m with grantPin := true }).toSolo.noteMill .frozen 0).settleAll)) ∧
  (∀ s : State, exec (.witnessGrant false) s = .next (s.modMill fun m => { m with grantPin := false, grantLow := true })) ∧
  (∀ s : State, s.actOk 1 = true → exec .millStartResync s = .next ((s.startResync false).forced s.mill.st 1)) ∧
  (∀ s : State, s.actOk 2 = true →
    exec .millForceSolo s = .next (((s.modMill fun m => { m with why := 5 }).toSolo).forced s.mill.st 2)) ∧
  (∀ s : State, s.actOk 3 = true →
    exec .millForceFence s = .next (((s.modMill fun m => { m with why := 5 }).toFenced).forced s.mill.st 3)) ∧
  (∀ s : State, s.actOk 4 = true → exec .millWitnessGrantCmd s = .next (s.toSolo.forced s.mill.st 4)) ∧
  (∀ s : State, s.actOk 5 = true → exec .millWitnessDeny s = .next (s.toFenced.forced s.mill.st 5)) ∧
  (∀ (n : Nat) (s : State), s.actOk n = false → s.millAct n = s))

/-! ### Codes, repair and the weir (chapters 8 and 9) -/

/-- The injection buffer's commands, while the registers answer and no raw access is under way: ENCODE puts the check symbols
of the 64 data bytes in, DECODE reports what the decoder makes of the buffer and counts nothing, WRITE_RAW and READ_RAW take a
copy of the buffer and the line and ask for the weir, or refuse with ERR. INJ_CTL takes OP. While BUSY is 1 nothing changes. -/
def Obligations.InjectionCommands : Prop :=
  (∀ (c : ChanId) (s : State), s.awake = true → s.fcol.safe = false → (s.chan c).inj.busy = false →
    exec (.injEncode c) s = .next (
      let t := s.setProg (agentKey c.val 0x120) 1
      (t.setInjBuf c (encodeLine (rawData (t.injBuf c)))).modChan c fun k => { k with inj := { k.inj with err := 0 } })) ∧
  (∀ (c : ChanId) (s : State), s.awake = true → s.fcol.safe = false → (s.chan c).inj.busy = false →
    exec (.injDecode c) s = .next (
      let t := s.setProg (agentKey c.val 0x120) 4
      let r := decodeStored (t.erasedAt c (t.injLine c)) (t.injBuf c)
      t.modChan c fun k => { k with inj := { k.inj.report r with err := 0 } })) ∧
  (∀ (c : ChanId) (i : Instr) (op : Nat) (s : State), (i = .injWriteRaw c ∧ op = 2) ∨ (i = .injReadRaw c ∧ op = 3) →
    s.awake = true → s.fcol.safe = false → (s.chan c).inj.busy = false →
    exec i s = .next (
      let t := s.setProg (agentKey c.val 0x120) (BitVec.ofNat 32 op)
      let line := t.injLine c
      let t := if (t.geom c).ok = true ∧ line < (t.geom c).lines then t.lookFresh c line else t
      match t.rawRefusal c line with
      | some e => t.modChan c fun k => { k with inj := { k.inj with busy := false, err := e } }
      | none => (t.modChan c fun k =>
          { k with inj := { k.inj with busy := true, op := op, line := line, buf := t.injBuf c, sent := false } }).ask c 0)) ∧
  (∀ (c : ChanId) (i : Instr) (s : State), i ∈ [.injEncode c, .injWriteRaw c, .injReadRaw c, .injDecode c] →
    (s.awake = false ∨ s.fcol.safe = true ∨ (s.chan c).inj.busy = true) → exec i s = .next s) ∧
  (∀ (c : ChanId) (raw : Stored) (s : State), (s.chan c).inj.busy = true → (s.chan c).inj.sent = true →
    (s.chan c).inj.op = 2 → (∀ w ∈ (s.chan c).backs, w.purp ≠ .rawWrite) → (∀ w ∈ (s.chan c).wq, w.purp ≠ .rawWrite) →
    exec (.injRawComplete c raw) s = .next (s.modChan c fun k =>
      { k with inj := { k.inj with busy := false, sent := false, err := 0 } })) ∧
  (∀ (c : ChanId) (raw : Stored) (e : RdE) (s : State), (s.chan c).inj.busy = true → (s.chan c).inj.sent = true →
    (s.chan c).inj.op = 3 → (s.chan c).rawEntry = some e →
    exec (.injRawComplete c raw) s = .next (
      let r := decodeStored (s.erasedAt c e.loc) raw
      (s.setInjBuf c raw).modChan c fun k =>
        { k with rq := k.rq.filter fun o => o.id != e.id
                 inj := { k.inj.report r with busy := false, sent := false, err := 0 } }))

/-- INJ_PARM.ARM and INJ_GPARM.ARM take what their register names, post group 29 for it, and codes 16 and 17 arm at once;
ECC_CTL.CLR clears both counts; FRESH_CTL.GO posts group 28 while every port is closed and is REFUSED otherwise; the fill's end
clears BUSY. -/
def Obligations.ArmsCountsAndFill : Prop :=
  (∀ (c : ChanId) (s : State), s.awake = true → s.fcol.safe = false →
    exec (.injArm c) s = .next (
      let a := armOf (s.agentRw c 0x130) (fun n => decide (3 ≤ n) && decide (n ≤ 8)) (s.tide + 64)
      (s.modChan c fun k => { k with arm := a }).post (groupBit 29) (s.tide + 64) false)) ∧
  (∀ s : State, s.awake = true →
    exec .injGarm s = .next (
      let a := armOf (s.prog 0xB040) (fun n => decide (n ≤ 2) || (decide (9 ≤ n) && decide (n ≤ 17))) (s.tide + 64)
      if a.code = 16 ∨ a.code = 17 then { s with garm := { a with pend := false, armed := a.pend } }
      else ({ s with garm := a }).post (groupBit 29) (s.tide + 64) false)) ∧
  (∀ (c : ChanId) (s : State), s.awake = true → s.fcol.safe = false →
    exec (.eccClr c) s = .next (s.modChan c fun k => { k with eccDev := Tab.all 20 0, eccErs := Tab.all 2 0, eccTold := Tab.all 20 false })) ∧
  (∀ s : State, s.awake = true → s.allClosed = true →
    exec .freshFillGo s = .next (s.post (groupBit 28) (s.tide + 64) false)) ∧
  (∀ s : State, s.awake = true → s.allClosed = false →
    exec .freshFillGo s = .next { s with fresh := { s.fresh with refused := true } }) ∧
  (∀ s : State, exec .freshFillDone s = .next { s with fresh := { s.fresh with busy := false } })

/-- The weir: a request is granted at once where nobody holds it; the debug port revokes another holder outside the steps of
R311, where it waits; another requester that finds it held in an earlier DCLK loses, which raises its exponent up to 8, and of
two requests of one DCLK the one that ranks before takes the grant. A requester without work, that holds or that waits out a
back-off does not ask; on a channel that does not run a request waits. A TAP DRAM access is a request of the debug port. The
quantum's end is kept for the holder while another requester waits, unless WEIR_CTL's quantum is 0; the holder releases at a
checkpoint, its work done or its quantum over, and a debug-port request that waits is granted then; what the grant carries
takes effect with it. -/
def Obligations.Weir : Prop :=
  ((∀ (c : ChanId) (r : Fin 10) (s : State), s.running c = true → (s.chan c).weir.holder = none →
    s.request c r = s.modWeir c fun w =>
      { w with holder := some r.val, want := w.want.put r false, rank := w.exps.at r, exps := w.exps.put r 0
               at_ := (s.chan c).dclk, quantumOver := false, susp := false }) ∧
  (∀ (c : ChanId) (r : Fin 10) (s : State), s.running c = false →
    s.request c r = s.modWeir c fun w => { w with want := w.want.put r true }) ∧
  (∀ (c : ChanId) (h : Nat) (s : State), s.running c = true → (s.chan c).weir.holder = some h → h ≠ 0 → (s.chan c).unstoppable = false →
    (s.chan c).weir.at_ ≠ (s.chan c).dclk →
    exec (.debugDramAccess c) s = .next ((s.revoke c h).grant c 0)) ∧
  (∀ (c : ChanId) (h : Nat) (s : State), s.running c = true → (s.chan c).weir.holder = some h → h ≠ 0 → (s.chan c).unstoppable = true →
    (s.chan c).weir.at_ ≠ (s.chan c).dclk →
    exec (.debugDramAccess c) s = .next (s.modWeir c fun w => { w with revokeDue := some 0 })) ∧
  (∀ (c : ChanId) (s : State), s.running c = true → (s.chan c).weir.holder = none →
    exec (.debugDramAccess c) s = .next (s.modWeir c fun w =>
      { w with holder := some 0, want := w.want.put 0 false, rank := w.exps.at 0, exps := w.exps.put 0 0
               at_ := (s.chan c).dclk, quantumOver := false, susp := false })) ∧
  (∀ (c : ChanId) (s : State), s.running c = false ∨ (s.chan c).weir.holder = some 0 →
    exec (.debugDramAccess c) s = .next (s.modWeir c fun w => { w with want := w.want.put 0 true })) ∧
  (∀ (c : ChanId) (r h : Fin 10) (s : State), s.running c = true → (s.chan c).weir.holder = some h.val → h ≠ r → h.val ≠ 2 →
    (s.chan c).weir.at_ = (s.chan c).dclk →
    ranksBefore (r.val, (s.chan c).weir.exps.at r) (h.val, (s.chan c).weir.rank) = true →
    s.request c r = (
      let t := (s.dropUnit c h.val).modWeir c fun w => { w with holder := none, exps := w.exps.put h (s.chan c).weir.rank }
      (t.lose c h).grant c r)) ∧
  (∀ (c : ChanId) (code : Fin 10) (s : State),
    s.running c = true → asksWeir code.val = true → s.hasWork c code.val = true → (s.chan c).weir.holder = none →
    (s.chan c).weir.want.at code = false →
    exec (.weirRequest c code) s = .next (s.modWeir c fun w =>
      { w with holder := some code.val, want := w.want.put code false, rank := w.exps.at code, exps := w.exps.put code 0
               at_ := (s.chan c).dclk, quantumOver := false, susp := false })) ∧
  (∀ (c : ChanId) (code : Fin 10) (h : Nat) (s : State),
    s.running c = true → asksWeir code.val = true → s.hasWork c code.val = true → code.val ≠ 0 →
    (s.chan c).weir.holder = some h →
    h ≠ code.val → (s.chan c).weir.want.at code = false → (s.chan c).weir.at_ ≠ (s.chan c).dclk →
    exec (.weirRequest c code) s = .next (s.modWeir c fun w =>
      { w with want := w.want.put code true, exps := w.exps.put code (min 8 (w.exps.at code + 1))
               lost := (if w.lostAt = (s.chan c).dclk then w.lost else []) ++ [(code, w.exps.at code)]
               lostAt := (s.chan c).dclk })) ∧
  (∀ (c : ChanId) (code : Fin 10) (s : State), (asksWeir code.val = false ∨ s.hasWork c code.val = false ∨
    (s.chan c).weir.holder = some code.val ∨ (s.chan c).weir.want.at code = true) →
    exec (.weirRequest c code) s = .next s) ∧
  (∀ (c : ChanId) (code : Fin 10) (s : State),
    (s.chan c).weir.want.at code = true → s.hasWork c code.val = false → code ≠ 0 →
    exec (.backoffExpiry c code) s = .next (s.modWeir c fun w => { w with want := w.want.put code false })) ∧
  (∀ (c : ChanId) (code : Fin 10) (s : State),
    (s.chan c).weir.want.at code = true → s.hasWork c code.val = true ∨ code = 0 →
    exec (.backoffExpiry c code) s = .next (s.request c code)) ∧
  (∀ (c : ChanId) (code : Fin 10) (s : State), (s.chan c).weir.want.at code = false →
    exec (.backoffExpiry c code) s = .next s)) ∧
  ((∀ (c : ChanId) (s : State), field (s.agent c 0x074) 7 0 ≠ 0 → (s.chan c).weir.holder.isSome = true →
    (s.chan c).weir.want.toList.any id = true →
    exec (.quantumExpiry c) s = .next (s.modWeir c fun w => { w with quantumOver := true })) ∧
  (∀ (c : ChanId) (s : State), field (s.agent c 0x074) 7 0 = 0 ∨ (s.chan c).weir.holder = none →
    exec (.quantumExpiry c) s = .next s) ∧
  (∀ (c : ChanId) (r : Nat) (s : State), (s.chan c).weir.holder = some r → s.unitBusy c r = false →
    (s.chan c).unstoppable = false → ((s.chan c).weir.quantumOver = true ∨ s.moreWork c r = false) →
    (s.chan c).weir.want.at 0 = false → (s.chan c).weir.lostAt ≠ (s.chan c).dclk → r ≠ 8 → r ≠ 4 →
    (s.chan c).ladder.carried = [] →
    exec (.weirRelease c) s = .next (
      (s.modWeir c fun w => { w with holder := none, susp := false, quantumOver := false }).settleAll.sweepFails)) ∧
  (∀ (c : ChanId) (r : Nat) (s : State), (s.chan c).weir.holder = some r → s.unitBusy c r = false →
    (s.chan c).unstoppable = false → ((s.chan c).weir.quantumOver = true ∨ s.moreWork c r = false) →
    (s.chan c).weir.want.at 0 = true → (s.chan c).weir.lostAt ≠ (s.chan c).dclk → r ≠ 8 → r ≠ 4 → r ≠ 0 →
    s.running c = true →
    (s.chan c).ladder.carried = [] →
    exec (.weirRelease c) s = .next (
      ((s.modWeir c fun w => { w with
        holder := some 0, susp := false, quantumOver := false, want := w.want.put 0 false, rank := 8
        exps := (w.exps.put 0 8).put 0 0, at_ := (s.chan c).dclk
        lost := w.lost.filter fun b => b.1 != 0 })).settleAll.sweepFails)) ∧
  (∀ (c : ChanId) (s : State), s.spanMode (setOf c) = true → (s.span (setOf c)).reb.on = true →
    chanOf (setOf c) (s.span (setOf c)).pos = c →
    let t := s.modSpan (setOf c) fun sp => { sp with reb := { sp.reb with turn := 0 } }
    ((s.span (setOf c)).reb.turn = 1 → s.carryTurn c = t.beginWalk (setOf c)) ∧
    ((s.span (setOf c)).reb.turn = 2 → s.carryTurn c = t.endRebuild (setOf c))) ∧
  (∀ (c : ChanId) (d : Carried) (s : State), (s.chan c).ladder.carried = [d] →
    s.carry c = (s.modChan c fun k => { k with ladder := { k.ladder with carried := [] } }).degrade c d) ∧
  (∀ (c : ChanId) (r : Nat) (s : State), (s.chan c).weir.holder = some r →
    (s.unitBusy c r = true ∨ (s.chan c).unstoppable = true) → exec (.weirRelease c) s = .next s))

/-- RETIRE_CTL.POP removes the oldest entry of the page-retire list; LADDER_CTL.CLR forgets every channel's hard lines. A
keepsake program that succeeds replaces the channel's older copy with a record whose CRC holds, and leaves the queue; a first
failure leaves no record in that sector and is tried once more; a second one gives up with source 556, and the newest copy
stays. While the warn decision stands, only a program that was under way as it rose ends. A PPR programming interval ends with
the precharge and the mode-register write that leave repair mode, and with a revocation that it held back; a PMIC change
settles and PMIC_SET replies OK. -/
def Obligations.RetireKeepsakesAndProgrammes : Prop :=
  ((∀ s : State, s.awake = true →
    exec .retirePop s = .next { s with retire := { s.retire with list := s.retire.list.tail } }) ∧
  (∀ s : State, s.awake = true →
    exec .ladderClr s = .next { s with chans := s.chans.each fun k => { k with ladder := { k.ladder with hard := [] } } }) ∧
  (∀ (o : KsOp) (rest : List KsOp) (s : State), (s.sbm.warn = false ∨ s.flash.under = true) → s.flash.ksQ = o :: rest →
    exec (.keepsakeProgramDone true) s = .next (
      let t := ({ s with flash := { s.flash with under := false } } : State).writeKs o.ch true
      let t : State := { t with flash := { t.flash with ksQ := rest } }
      ((t.modPatch o.ch fun p =>
        { p with ksPend := rest.any fun q => q.ch == o.ch, ksBad := false }).afterKs o true).settleAll.sweepFails)) ∧
  (∀ (o : KsOp) (rest : List KsOp) (s : State), (s.sbm.warn = false ∨ s.flash.under = true) → s.flash.ksQ = o :: rest →
    o.retried = false →
    exec (.keepsakeProgramDone false) s = .next (
      let t := ({ s with flash := { s.flash with under := false } } : State).writeKs o.ch false
      ({ t with flash := { t.flash with ksQ := { o with retried := true } :: rest } } : State).settleAll.sweepFails)) ∧
  (∀ (o : KsOp) (rest : List KsOp) (s : State), (s.sbm.warn = false ∨ s.flash.under = true) → s.flash.ksQ = o :: rest →
    o.retried = true →
    exec (.keepsakeProgramDone false) s = .next (
      let t := ({ s with flash := { s.flash with under := false } } : State).writeKs o.ch false
      let t := ({ t with flash := { t.flash with ksQ := rest } } : State).modPatch o.ch fun p =>
        { p with ksPend := rest.any fun q => q.ch == o.ch, ksBad := true }
      ((t.raise 556).afterKs o false).settleAll.sweepFails)) ∧
  (∀ (ok : Bool) (s : State), (s.sbm.warn = true ∧ s.flash.under = false) ∨ s.flash.ksQ = [] →
    exec (.keepsakeProgramDone ok) s = .next s) ∧
  (∀ (k : Chan) (c : ChanId) (gen : Nat), (k.ksRecord c gen).crc = crc32c ({ (k.ksRecord c gen) with crc := 0 }.bytes c))) ∧
  ((∀ (c : ChanId) (s : State), (s.chan c).ppr.prog = true →
    exec (.pprProgramEnd c) s = .next (
      let p := (s.geom c).place (s.chan c).ppr.row
      let close : List Cmd :=
        [{ kind := .pre, bank := p.bank, row := p.row, use := .pprEnd },
         { kind := .mrw, bank := ⟨p.bank.cs, 0, 0, 0⟩, use := .pprEnd, mr := 23, val := 0 }]
      ((s.modChan c fun k => { k with ppr := { k.ppr with prog := false, pos := 1 } }).modSel c p.sub fun l =>
        { l with plan := l.plan ++ close }).lateRevoke c)) ∧
  (∀ (c : ChanId) (u : Cur) (s : State), (s.chan c).settling = true → s.cmp.cur = some u → u.opc = 0x14 → u.ch = c →
    exec (.pmicSettled c) s = .next (
      ((s.modChan c fun k => { k with settling := false }).replyCur stOk 0 []).lateRevoke c)) ∧
  (∀ (c : ChanId) (s : State), (s.chan c).weir.revokeDue = none →
    s.lateRevoke c = s.modWeir c fun w => { w with revokeDue := none }))

/-! ### PHY, service and power (chapters 10 and 11) -/

/-- The lock of a started channel PLL is kept, and a channel that leaves IDLE goes on with SRX to every rank and the first
refreshes; calibration completes on a locked, enabled PHY; the mirror-in PLL's lock starts WICLK. A PLL not locked at its limit
raises its source. A running PLL that loses lock raises its source, and a channel PLL fails its channel with WHY 2. -/
def Obligations.PllsAndCalibration : Prop :=
  (∀ (c : ChanId) (s : State), (s.chan c).phy.started = true → (s.chan c).phy.lock = false → s.ticking = true →
    (s.chan c).pwrst ≠ 3 →
    exec (.channelPllLock c) s = .next (s.modChan c fun k => { k with phy := { k.phy with lock := true } })) ∧
  (∀ (c : ChanId) (s : State), (s.chan c).phy.started = true → (s.chan c).phy.lock = false → s.ticking = true →
    (s.chan c).pwrst = 3 →
    exec (.channelPllLock c) s = .next ((s.modChan c fun k => { k with phy := { k.phy with lock := true } }).modChan c fun k =>
      { k with sel := k.sel.each fun l => { l with plan := l.plan ++ (s.geom c).exitPlan l.dclk } })) ∧
  (∀ (c : ChanId) (s : State), (s.chan c).phy.started = true → (s.chan c).phy.lock = true → s.phyEn c = true →
    exec (.phyCalDone c) s = .next (s.modChan c fun k => { k with phy := { k.phy with cal := true } })) ∧
  (∀ s : State, s.mill.st ≠ .off → s.ticking = true →
    exec .mirrorInPllLock s = .next { s with mill := { s.mill with wiclk := true } }) ∧
  (∀ s : State, s.ticking = true →
    exec (.pllLockTimeout .global) s = .next (s.raise 564) ∧ exec (.pllLockTimeout .mirrorOut) s = .next (s.raise 565) ∧
    exec (.pllUnlock .global) s = .next (s.raise 564) ∧ exec (.pllUnlock .mirrorOut) s = .next (s.raise 565)) ∧
  (∀ (c : ChanId) (s : State), s.ticking = true → (s.chan c).phy.started = true → (s.chan c).phy.lock = false →
    exec (.pllLockTimeout (.channel c)) s = .next (s.raiseChan c 23)) ∧
  (∀ (c : ChanId) (s : State), (s.chan c).phy.started = true → (s.chan c).phy.lock = true →
    exec (.pllUnlock (.channel c)) s = .next (
      ((s.modChan c fun k => { k with failDue := 2, phy := { k.phy with lock := false } }).raiseChan c 23).sweepFails)) ∧
  (∀ s : State, s.ticking = true → s.mill.wiclk = true →
    exec (.pllUnlock .mirrorIn) s = .next (({ s with mill := { s.mill with wiclk := false } }).raise 565))

/-- A polling period queues a transfer to the three sensor targets of every module of a powered channel. The bus carries one
transfer at a time, the oldest, but for a PMIC write while the warn decision stands, which later ones pass (the model's choice,
log entry 80); the one under way ends, with source 15 where it is not acknowledged, and does what it was for, and the next goes
out. The last sensor of a slot that has a reading sets its temperature and its HOT, which rises at the limit, falls 2 °C below
it, and raises source 16 as it rises. PMIC_ENABLE's module in hand: power-good in a poll of a powered sled begins the spacing,
whose end takes the next module; ten polls without it give the module up, disable the channel's rails and drop its later slot.
While the warn decision stands no PMIC write is made. -/
def Obligations.I3cAndPmicEnable : Prop :=
  ((∀ (c : ChanId) (s : State), s.awake = true → flag (s.tempCtl c) 0 = true → (s.chan c).svc.pwrOn = true →
    exec (.tempPoll c) s = .next (s.modChan c fun k => ({ k with i3c := k.i3c ++
      ((s.slots c).flatMap fun slot => [0, 1, 2].map fun t => ({ slot := slot, target := t, use := .temp } : Xfer)) }).nextXfer
        s.sbm.warn)) ∧
  (∀ (c : ChanId) (s : State), (s.awake = false ∨ flag (s.tempCtl c) 0 = false ∨ (s.chan c).svc.pwrOn = false) →
    exec (.tempPoll c) s = .next s) ∧
  (∀ (k : Chan) (warn : Bool), (k.i3c.any (·.sent)) = true → k.nextXfer warn = k) ∧
  (∀ (k : Chan) (x : Xfer) (pre rest : List Xfer) (warn : Bool), k.i3c = pre ++ x :: rest →
    (∀ y ∈ k.i3c, y.sent = false) → (∀ y ∈ pre, warn = true ∧ y.use.pmic = true) →
    (warn = false ∨ x.use.pmic = false) →
    k.nextXfer warn = { k with i3c := pre ++ { x with sent := true } :: rest }) ∧
  (∀ (c : ChanId) (ack : Bool) (bytes : List Byte) (x : Xfer) (s : State),
    (s.chan c).i3c.find? (·.sent) = some x → s.awake = true →
    exec (.i3cTransferDone c ack bytes) s = .next (
      let t := s.modChan c fun k => { k with i3c := k.i3c.filter fun x => !x.sent }
      ((((if ack then t else t.raiseChan c 15).xferDone c x ack bytes).askXfers c []).after c).slumberStep)) ∧
  (∀ (c : ChanId) (ack : Bool) (bytes : List Byte) (s : State), (∀ x ∈ (s.chan c).i3c, x.sent = false) ∨ s.awake = false →
    exec (.i3cTransferDone c ack bytes) s = .next s) ∧
  (∀ (c : ChanId) (x : Fin 2) (t : Nat) (s : State),
    let hotC := field (s.tempCtl c) 16 9
    let now := if flag (s.tempCtl c) 0 = false then (s.chan c).hot.at x
      else if hotC ≤ t then true else if t + 2 ≤ hotC then false else (s.chan c).hot.at x
    s.readTemp c x t = (
      let u := s.modChan c fun k =>
        { k with t0 := if x = 0 then min 255 t else k.t0, t1 := if x = 1 then min 255 t else k.t1, hot := k.hot.put x now }
      if now = true ∧ (s.chan c).hot.at x = false then u.raiseChan c 16 else u)) ∧
  (∀ (c : ChanId) (bytes : List Byte) (x : Xfer) (u : Cur) (s : State), x.use = .i3cRead → s.cmp.cur = some u →
    u.opc = 0x12 → u.ch = c →
    s.xferDone c x true bytes = s.replyCur stOk 0 (byteWords (bytes.take x.len) 12) ∧
    s.xferDone c x false bytes = s.replyCur stFailed 14 []) ∧
  (∀ (c : ChanId) (bytes : List Byte) (x : Xfer) (s : State), x.use = .pmicSet →
    s.xferDone c x true bytes = s.modChan c fun k => { k with settling := true })) ∧
  ((∀ (c : ChanId) (slot1 good : Bool) (j : Fin 8) (slot : Nat) (rest : List (ChanId × Nat)) (s : State),
    ((List.finRange 8).find? fun j => (s.job j).runs 0x13) = some j → (s.job j).todo = (c, slot) :: rest →
    (slot == 1) = slot1 →
    exec (.pmicEnableSpacing c slot1 good) s = .next (
      if (s.job j).flag then (if s.sbm.warn then s else s.enabled j c)
      else if good = true ∧ (s.chan c).svc.pwrOn = true then s.modJob j fun b => { b with flag := true }
      else if (s.job j).polls + 1 < 10 then s.modJob j fun b => { b with polls := b.polls + 1 }
      else if s.sbm.warn then s
      else s.givenUp j c slot)) ∧
  (∀ (c : ChanId) (slot1 good : Bool) (s : State),
    ((List.finRange 8).find? fun j => (s.job j).runs 0x13) = none → exec (.pmicEnableSpacing c slot1 good) s = .next s))

/-- A debounced press and a presence change are recorded with their SEQ and meet the wake rules; a fall of presence takes a
prepared or severed sled to EMPTY. Raw presence lost under sled power severs the channel with source 18 while the core runs; in
core reset and SLUMBER the standby monitor releases the field and takes the power off. Sled power rises on the lowest channel
that waits for it. Without the always-on supply, without a change and without sled power the three do nothing. -/
def Obligations.ButtonsAndPresence : Prop :=
  (∀ (c : ChanId) (s : State), s.phase ≠ .off →
    exec (.buttonPress c) s = .next (({ s with sbm := { s.sbm with
      btn := s.sbm.btn ||| chanBit c, press := s.sbm.press ||| chanBit c, pressSeq := nextSeq s.sbm.pressSeq } }).ruleEvent
        3 c.val 0)) ∧
  (∀ (c : ChanId) (s : State), s.phase = .off → exec (.buttonPress c) s = .next s) ∧
  (∀ (c : ChanId) (present : Bool) (s : State), s.phase ≠ .off → (s.chan c).svc.pres ≠ present →
    exec (.presenceChange c present) s = .next (
      (({ s with sbm := { s.sbm with pchg := s.sbm.pchg ||| chanBit c, pchgSeq := nextSeq s.sbm.pchgSeq } }).modChan c fun k =>
        { k with svc := { k.svc with
          pres := present
          st := if !present && (k.svc.st == 4 || k.svc.st == 5) then 0 else k.svc.st } }).ruleEvent 4 c.val 0)) ∧
  (∀ (c : ChanId) (present : Bool) (s : State), s.phase = .off ∨ (s.chan c).svc.pres = present →
    exec (.presenceChange c present) s = .next s) ∧
  (∀ (c : ChanId) (s : State), (s.chan c).svc.pwrOn = true → s.ticking = true →
    exec (.presenceLoss c) s = .next (((s.sever c 1).raiseChan c 18).sweepFails).slumberStep) ∧
  (∀ (c : ChanId) (s : State), (s.chan c).svc.pwrOn = true → s.ticking = false →
    exec (.presenceLoss c) s = .next ((s.modChan c fun k =>
      { k with phy := { k.phy with level := 3, drst := false }
               svc := { k.svc with st := 5, pwrOn := false, fall := 256, why := 1 } }).leds c 0 0 true)) ∧
  (∀ (c : ChanId) (s : State), (s.chan c).svc.pwrOn = false → exec (.presenceLoss c) s = .next s) ∧
  (∀ (c : ChanId) (s : State), s.phase ≠ .off → allChans.find? s.waitsPower = some c →
    exec .sledPowerOn s = .next (s.modChan c fun k =>
      { k with failed := false, gated := false
               phy := { k.phy with level := if k.phy.started then 1 else 0, drst := false }
               svc := { k.svc with st := 1, pwrOn := true, fall := 0, lost := false, why := 0, abandon := false } })) ∧
  (∀ s : State, s.phase = .off ∨ (∀ c, s.waitsPower c = false) → exec .sledPowerOn s = .next s)

/-- The gate of a prepare or of an entry to IDLE is reached at its tide value: the channel drains what came before it, and a
prepared channel, its taken writes accepted and its held lines released first, is lost to its set for what comes after. Sled
power falls at step 6 of a prepare with the keepsake asked for. A request to a channel in IDLE begins its exit; one to a
channel that still enters aborts the entry, or is remembered once an SRE has issued; without a request, on a channel that has
left service and after the strobe nothing wakes it. -/
def Obligations.PrepareAndIdle : Prop :=
  (∀ (c : ChanId) (g : Nat) (s : State), (s.chan c).gate = some g → (s.chan c).svc.st = 3 → s.ticking = true → s.tide < g →
    (∀ d ∈ s.dues, g ≤ d) → exec (.prepareGate c) s = .next (s.launch g [])) ∧
  (∀ (c : ChanId) (g : Nat) (s v : State), (s.chan c).gate = some g → (s.chan c).svc.st = 3 → s.ticking = true → s.tide < g →
    (∀ d ∈ s.dues, g ≤ d) → g % 4096 ≠ 0 → (∀ n, n.val < c.val → (s.chan n).gate = none) →
    (∀ k n, s.cad.next.at k = some n → g + 1024 < n) → (∀ e ∈ s.cad.posted, g < e.at_) → s.regs.posted = [] →
    s.regs.atPend = false → v = s.advance g →
    exec (.prepareGate c) s = .next (
      let t := ((v.acceptTaken c).releaseAll c).modChan c fun k =>
        { k with gate := none, gated := true, drain := .prepare, prepStep := 3 }
      let t := ((t.loseChan c).loseWaiting c false).after c
      ((allChans.drop (c.val + 1)).foldl State.gateDue t).settleAll.sweepFails)) ∧
  (∀ (c : ChanId) (s : State), (s.chan c).svc.st ≠ 3 ∨ (s.chan c).gate = none → exec (.prepareGate c) s = .next s) ∧
  (∀ (c : ChanId) (s : State), (s.chan c).svc.st = 3 → (s.chan c).prepStep = 5 →
    exec (.preparePowerOff c) s = .next (
      let t := s.modChan c fun k =>
        { k with prepStep := 7, forceOff := true, schOn := false, pwrst := 0
                 svc := { k.svc with st := 4, pwrOn := false, req := false } }
      (t.leds c 2 0 true).askKs c .prepare)) ∧
  (∀ (c : ChanId) (s : State), (s.chan c).svc.st ≠ 3 ∨ (s.chan c).prepStep ≠ 5 → exec (.preparePowerOff c) s = .next s) ∧
  (∀ (c : ChanId) (g : Nat) (s : State), (s.chan c).gate = some g → (s.chan c).pwrst = 1 → s.ticking = true → s.tide < g →
    (∀ d ∈ s.dues, g ≤ d) → exec (.idleGate c) s = .next (s.launch g [])) ∧
  (∀ (c : ChanId) (g : Nat) (s v : State), (s.chan c).gate = some g → (s.chan c).pwrst = 1 → (s.chan c).svc.st ≠ 3 →
    s.ticking = true → s.tide < g → (∀ d ∈ s.dues, g ≤ d) → g % 4096 ≠ 0 → (∀ n, n.val < c.val → (s.chan n).gate = none) →
    (∀ k n, s.cad.next.at k = some n → g + 1024 < n) → (∀ e ∈ s.cad.posted, g < e.at_) → s.regs.posted = [] →
    s.regs.atPend = false → v = s.advance g →
    exec (.idleGate c) s = .next (
      let t := v.modChan c fun k => { k with gate := none, drain := .idle }
      ((allChans.drop (c.val + 1)).foldl State.gateDue ((t.releaseAll c).after c)).settleAll.sweepFails)) ∧
  (∀ (c : ChanId) (s : State), (s.chan c).pwrst ≠ 1 ∨ (s.chan c).gate = none → exec (.idleGate c) s = .next s) ∧
  (∀ (c : ChanId) (s : State), (s.chan c).dead = false → s.pers.strobe = false → s.calls c = true → (s.chan c).pwrst = 2 →
    exec (.idleWake c) s = .next (s.modChan c fun k =>
      { k with pwrst := 3, wakeDue := false, phy := { k.phy with started := true, mul := s.phyMul c, lock := false } })) ∧
  (∀ (c : ChanId) (s : State), (s.chan c).dead = false → s.pers.strobe = false → s.calls c = true → (s.chan c).pwrst = 1 →
    (s.chan c).drain = .idle → ((s.chan c).sel.toList.any fun l => l.sreIssued (s.geom c)) = true →
    exec (.idleWake c) s = .next (s.modChan c fun k => { k with wakeDue := true })) ∧
  (∀ (c : ChanId) (s : State), (s.chan c).dead = false → s.pers.strobe = false → s.calls c = true → (s.chan c).pwrst = 1 →
    (s.chan c).drain = .idle → ((s.chan c).sel.toList.any fun l => l.sreIssued (s.geom c)) = false →
    exec (.idleWake c) s = .next ((s.modChan c fun k =>
      { k with pwrst := 0, drain := .none, gate := none
               sel := k.sel.each fun l => { l with plan := l.plan.filter fun p => p.use != .selfRef } }).idleDone 0x31 c false)) ∧
  (∀ (c : ChanId) (s : State), (s.calls c = false ∨ (s.chan c).dead = true ∨ s.pers.strobe = true) →
    exec (.idleWake c) s = .next s)

/-- The commit window ends in SLUMBER: core reset, CORE_PWR_REQ low, the polls forgotten and the standing levels evaluated, the
warn decision as class 7 value 0 and the critical one as value 1; a SLUMBER that has not reached its window only goes on. A
fall of a WAKE_N pin, kept while the window is open, a wake pulse and a poll are events: the rule with the lowest number that
an event matches acts. In SLUMBER its ACT 1 wakes the core at row 2 with its WAKE_CAUSE, ACT 3 does so with the alarm on, ACT 2
raises the alarm alone, with source 566 where it was off, and ACT 0, no rule and rules not evaluated change nothing. A poll in
SLUMBER of a channel in retention is kept; two in a row that read a temperature give class 5 the lower one, two that fail give
class 6, and others nothing. ALARM_CLR drops the alarm. -/
def Obligations.SlumberAndWake : Prop :=
  (∀ s : State, s.phase = .commit →
    exec .slumberCommit s = .next (
      let t := s.coreReset
      let t : State := { t with phase := .slumber, sbm := { t.sbm with
        powerReq := false, corePg := false, rstPend := false, lastPoll := Tab.all 20 none } }
      let t := t.levelEvents
      { t with sbm := { t.sbm with wakeLow := 0 } })) ∧
  (∀ s : State, s.slumberStep.phase ≠ .commit → exec .slumberCommit s = .next s.slumberStep) ∧
  (∀ s : State, s.sbm.wakeLow = 0 →
    s.levelEvents = (
      let t : State := { s with freeIx := s.freeIx + 1 }
      let t := if t.sbm.warn then t.ruleEvent 7 0 0 else t
      if t.sbm.crit then t.ruleEvent 7 0 1 else t)) ∧
  (∀ (n : Fin 2) (s : State), s.phase ≠ .commit → exec (.wakePin n) s = .next (s.ruleEvent 1 n.val 0)) ∧
  (∀ (n : Fin 2) (s : State), s.phase = .commit →
    exec (.wakePin n) s = .next (({ s with sbm := { s.sbm with
      wakeLow := s.sbm.wakeLow ||| BitVec.ofNat 2 (2 ^ n.val) } }).ruleEvent 1 n.val 0)) ∧
  (∀ s : State, exec .wakePulse s = .next (s.ruleEvent 2 0 0)) ∧
  (∀ (n : Fin 2) (s : State), s.sbm.eval = false → s.phase ≠ .commit →
    exec (.wakePin n) s = .next s ∧ exec .wakePulse s = .next s) ∧
  (∀ (k : Nat) (s : State), s.sbm.eval = true → s.phase = .slumber → s.ruleHit 2 0 0 = some (k, 1) →
    exec .wakePulse s = .next { s with
      phase := .bring 2
      sbm := { s.sbm with eval := false, wakeCause := { s.sbm.wakeCause with
        wake := true, por := false, rule := k, cls := 2, ch := 0, seq := nextSeq s.sbm.wakeCause.seq } } }) ∧
  (∀ (cls ch v k : Nat) (s : State), s.sbm.eval = true → s.phase = .slumber → s.ruleHit cls ch v = some (k, 1) →
    s.ruleEvent cls ch v = s.wake k cls ch) ∧
  (∀ (cls ch v k : Nat) (s : State), s.sbm.eval = true → s.phase = .slumber → s.ruleHit cls ch v = some (k, 3) →
    s.ruleEvent cls ch v = s.alarmOn.wake k cls ch) ∧
  (∀ (k cls ch : Nat) (s : State), s.wake k cls ch = { s with
      phase := .bring 2
      sbm := { s.sbm with eval := false, wakeCause := { s.sbm.wakeCause with
        wake := true, por := false, rule := k, cls := cls, ch := if 3 ≤ cls ∧ cls ≤ 6 then ch else 0
        seq := nextSeq s.sbm.wakeCause.seq } } }) ∧
  (∀ (cls ch v k : Nat) (s : State), s.sbm.eval = true → s.ruleHit cls ch v = some (k, 2) →
    s.ruleEvent cls ch v = s.alarmOn) ∧
  (∀ s : State, s.sbm.alarm = false →
    s.alarmOn = ({ s with sbm := { s.sbm with alarm := true } }).raiseOn 566) ∧
  (∀ s : State, s.sbm.alarm = true → s.alarmOn = s) ∧
  (∀ (cls ch v : Nat) (s : State), (s.sbm.eval = false ∨ s.ruleHit cls ch v = none ∨ ∃ k, s.ruleHit cls ch v = some (k, 0)) →
    s.ruleEvent cls ch v = s) ∧
  (∀ (cls ch v k act : Nat) (s : State), s.ruleHit cls ch v = some (k, act) →
    k < 32 ∧ ruleMatches (s.prog (0x6200 + 4 * k)) cls ch v = true ∧ act = field (s.prog (0x6200 + 4 * k)) 18 17 ∧
    ∀ j, j < k → ruleMatches (s.prog (0x6200 + 4 * j)) cls ch v = false) ∧
  (∀ (c : ChanId) (temp last : Nat) (s : State), s.phase = .slumber → (s.chan c).phy.level = 2 →
    s.sbm.lastPoll.at c = some (some last) →
    exec (.sbmTempPoll c true temp) s = .next (({ s with sbm := { s.sbm with
      lastPoll := s.sbm.lastPoll.put c (some (some temp)) } }).ruleEvent 5 c.val (min last temp))) ∧
  (∀ (c : ChanId) (temp : Nat) (s : State), s.phase = .slumber → (s.chan c).phy.level = 2 →
    s.sbm.lastPoll.at c = some none →
    exec (.sbmTempPoll c false temp) s = .next (({ s with sbm := { s.sbm with
      lastPoll := s.sbm.lastPoll.put c (some none) } }).ruleEvent 6 c.val 0)) ∧
  (∀ (c : ChanId) (ack : Bool) (temp : Nat) (s : State), s.phase = .slumber → (s.chan c).phy.level = 2 →
    (s.sbm.lastPoll.at c = none ∨ (ack = true ∧ s.sbm.lastPoll.at c = some none) ∨
      (ack = false ∧ ∃ last, s.sbm.lastPoll.at c = some (some last))) →
    exec (.sbmTempPoll c ack temp) s = .next { s with sbm := { s.sbm with
      lastPoll := s.sbm.lastPoll.put c (some (if ack then some temp else none)) } }) ∧
  (∀ (c : ChanId) (ack : Bool) (temp : Nat) (s : State), s.phase ≠ .slumber ∨ (s.chan c).phy.level ≠ 2 →
    exec (.sbmTempPoll c ack temp) s = .next s) ∧
  (∀ s : State, s.awake = true → exec .alarmClr s = .next { s with sbm := { s.sbm with alarm := false } }) ∧
  (∀ s : State, s.awake = false → exec .alarmClr s = .next s)

/-- The always-on supply: its loss takes the core to OFF and its rise to row 1, and only the queue, the flash, the OTP and the
model's own counters last. The rows of the bring-back table follow in order: row 2 ends with CORE_PWR_REQ high, row 3 waits for
CORE_PG, row 5 releases core reset, row 6 clears Nuinun's memories, row 7 makes the boot state machine READY with the counters
loaded and its record. CORE_PG low at its limit falls back to SLUMBER with FAIL, where the standing levels are evaluated. -/
def Obligations.BringBack : Prop :=
  (∀ s : State, s.phase = .off →
    exec .aonPowerUp s = .next { State.reset with
      pending := s.pending, nextId := s.nextId, freeIx := s.freeIx, otp := s.otp
      flash := { s.flash with ksQ := [], store := none, under := false } }) ∧
  (∀ s : State, s.phase ≠ .off → exec .aonPowerUp s = .next s) ∧
  (∀ s : State,
    exec .aonPowerLoss s = .next { State.reset with
      phase := .off, pending := s.pending, nextId := s.nextId, freeIx := s.freeIx, otp := s.otp
      flash := { s.flash with ksQ := [], store := none, under := false } }) ∧
  (∀ s : State, s.phase = .bring 1 → exec .bringBackRow s = .next { s with phase := .bring 2 }) ∧
  (∀ s : State, s.phase = .bring 2 →
    exec .bringBackRow s = .next { s with phase := .bring 3, sbm := { s.sbm with powerReq := true } }) ∧
  (∀ s : State, s.phase = .bring 3 →
    exec .bringBackRow s = .next (if s.sbm.corePg then { s with phase := .bring 4 } else s)) ∧
  (∀ s : State, s.phase = .bring 4 → exec .bringBackRow s = .next { s with phase := .bring 5 }) ∧
  (∀ s : State, s.phase = .bring 5 →
    exec .bringBackRow s = .next (({ s with phase := .bring 6 }).releaseReset).sweepFails) ∧
  (∀ s : State, s.phase = .bring 6 →
    exec .bringBackRow s = .next { s with phase := .bring 7, cmp := { s.cmp with imem := [], dmem := [] } }) ∧
  (∀ s : State, s.phase = .bring 7 →
    exec .bringBackRow s = .next (
      let t : State := { s with phase := .on, cmp := { s.cmp with boot := { s.cmp.boot with ready := true, st := 1 } } }
      let t := t.loadCounters
      let t := t.note 7 t.sbm.wakeCause.word
      if t.fcol.ehold then t.enterSafe t.fcol.cause else t).sweepFails) ∧
  (∀ s : State, s.phase = .bring 3 → exec .corePg s = .next { s with sbm := { s.sbm with corePg := true } }) ∧
  (∀ s : State, s.phase = .bring 3 → s.sbm.corePg = false →
    exec .corePgTimeout s = .next ({ s with
      phase := .slumber
      sbm := { s.sbm with powerReq := false, eval := true, lastPoll := Tab.all 20 none, wakeCause := { s.sbm.wakeCause with
        fail := true, seq := nextSeq s.sbm.wakeCause.seq } } }).levelEvents)

/-! ### Faults, records and registers (chapters 14 and 15) -/

/-- Sources of the standby monitor and the debug port raise their lines while the FCOL is out of core reset. A line that
reaches the FCOL latches, with the others of its cycle: its bit in FSTAT, the next FSEQ of its word, the record of a 0-to-1
change, EHOLD for class E, and then its reactions; class C sources with no reaction enabled change nothing else. A reserved
source, and a core in reset, latch nothing. Source 556 asserted by the flash itself is also the failure of its next operation,
the model's choice (log entry 67). -/
def Obligations.FaultsLatch : Prop :=
  (∀ s : State, s.ticking = true →
    exec .refclkOutOfRange s = .next (s.raise 563) ∧ exec .debugPortActive s = .next (s.raise 559)) ∧
  (∀ s : State, s.cmp.boot.st = 5 → s.cmp.nuHalt = false → s.ticking = true →
    exec .nuinunWatchdog s = .next (s.raise 539)) ∧
  (∀ (src : Fin 576) (s : State), s.ticking = true → srcClass src.val ≠ 7 → src.val ≠ 556 →
    exec (.faultLatch [src]) s = .next (
      ((s.latch src.val).reactTo [(src.val, s.react src.val)]).settleAll.sweepFails)) ∧
  (∀ (srcs : List (Fin 576)) (s : State), s.ticking = true → ((∀ o ∈ srcs, o.val ≠ 556) ∨ 556 ∈ s.fcol.lines) →
    exec (.faultLatch srcs) s = .next (
      (((latching srcs).foldl State.latch s).reactTo ((latching srcs).map fun n => (n, s.react n))).settleAll.sweepFails)) ∧
  (∀ (srcs : List (Fin 576)) (s : State), s.ticking = true → (∃ o ∈ srcs, o.val = 556) → 556 ∉ s.fcol.lines →
    exec (.faultLatch srcs) s = .next (
      let t : State := { s with flash := { s.flash with failed := true } }
      (((latching srcs).foldl State.latch t).reactTo ((latching srcs).map fun n => (n, s.react n))).settleAll.sweepFails)) ∧
  (∀ (srcs : List (Fin 576)) (n : Nat), n ∈ latching srcs ↔ n < 576 ∧ (∃ o ∈ srcs, o.val = n) ∧ srcClass n ≠ 7) ∧
  (∀ (srcs : List (Fin 576)) (s : State), s.ticking = false → exec (.faultLatch srcs) s = .next s) ∧
  (∀ (src : Nat) (s : State), (s.latchBit src).fcol.fstat = s.fcol.fstat ||| BitVec.ofNat 576 (2 ^ src) ∧
    (s.latchBit src).fcol.fseq = s.fcol.fseq.put ⟨src / 32 % 18, Nat.mod_lt _ (by decide)⟩
      (nextSeq (s.fcol.fseq.at ⟨src / 32 % 18, Nat.mod_lt _ (by decide)⟩))) ∧
  (∀ (src : Nat) (s : State), src ≠ 538 → src ≠ 575 → srcClass src ≠ 4 → s.fcol.fstat.getLsbD src = false →
    (s.react src).testBit 6 = true →
    s.latch src = (s.latchBit src).faultRecord src) ∧
  (∀ (src : Nat) (s : State), src ≠ 538 → src ≠ 575 → srcClass src ≠ 4 →
    (s.fcol.fstat.getLsbD src = true ∨ (s.react src).testBit 6 = false) → s.latch src = s.latchBit src) ∧
  (∀ (src : Nat) (s : State), src ≠ 538 → src ≠ 575 → srcClass src = 4 →
    s.latch src = (
      let t := if s.fcol.fstat.getLsbD src = false ∧ (s.react src).testBit 6 = true then (s.latchBit src).faultRecord src
        else s.latchBit src
      { t with fcol := { t.fcol with ehold := true } })) ∧
  (∀ (srcs : List (Nat × Nat)) (s : State), s.fcol.safe = false → (∀ e ∈ srcs, entersSafe e.1 e.2 = false) →
    s.reactTo srcs = srcs.foldl (fun (u : State) (e : Nat × Nat) => u.unitReactions e.1 e.2) s) ∧
  (∀ (src react : Nat) (s : State), srcClass src ≠ 0 →
    s.unitReactions src react = (
      let used := match chanOfSrc src with | some c => s.severable c | none => false
      let t := if react.testBit 4 = true then s.severReact src else s
      if react.testBit 3 = true then t.unitReact src used else t)) ∧
  (∀ (src : Nat) (c : ChanId) (s : State), chanOfSrc src = some c →
    s.unitReact src true = (s.sever c 4).resetAgent c ∧ s.unitReact src false = s) ∧
  (∀ (src react : Nat) (s : State), srcClass src = 0 → s.unitReactions src react = s) ∧
  (∀ (src react : Nat) (s : State), entersSafe src react = true →
    s.reactTo [(src, react)] =
      if srcClass src ≠ 0 ∧ src ≠ 575 ∧ react.testBit 5 = true then
        ({ s.enterSafe src with fcol := { (s.enterSafe src).fcol with corePend := true } } : State).resetDue
      else s.enterSafe src)

/-- The oldest buffered record is programmed into both areas, or lost where its buffer byte is bad; a program that the flash
failed leaves it; while the warn decision stands only a program that was under way as it rose ends. The keep-forever area takes
records up to 256 and no clear record. The hour counter of a running core counts and is written. EVR_SEL starts a fetch, whose
end serves the record it names, or none, and drops one whose buffer byte is bad. -/
def Obligations.EventRecorder : Prop :=
  (∀ (r : EvRec) (rest : List (EvRec × Option Bad)) (s : State),
    s.evr.buf = (r, none) :: rest → s.flash.failed = false → (s.sbm.warn = false ∨ s.flash.under = true) → s.ticking = true →
    exec .evrRecordProgram s = .next
      ({ s with evr := { s.evr with buf := rest }, flash := ({ s.flash with under := false } : Flash).put r }).slumberStep) ∧
  (∀ (r : EvRec) (b : Bad) (rest : List (EvRec × Option Bad)) (s : State),
    s.evr.buf = (r, some b) :: rest → b.checkOnly = false → s.flash.failed = false → (s.sbm.warn = false ∨ s.flash.under = true) → s.ticking = true →
    exec .evrRecordProgram s = .next (
      let t := ({ s with evr := { s.evr with buf := rest }, flash := { s.flash with under := false } } : State).readG 537 (some b)
      ({ t with evr := { t.evr with lost := satAdd 65535 t.evr.lost 1, lostBefore := true } } : State).slumberStep)) ∧
  (∀ s : State, s.evr.buf ≠ [] → s.flash.failed = true → (s.sbm.warn = false ∨ s.flash.under = true) → s.ticking = true →
    exec .evrRecordProgram s = .next { s with flash := { s.flash with under := false, failed := false } }) ∧
  (∀ s : State, s.sbm.warn = true → s.flash.under = false → exec .evrRecordProgram s = .next s) ∧
  (∀ (r : EvRec) (f : Flash), f.circ.length < 512 → (f.put r).circ = r :: f.circ) ∧
  (∀ (r : EvRec) (f : Flash), f.kf.length < 256 → r.type ≠ 9 → (f.put r).kf = f.kf ++ [r]) ∧
  (∀ (r : EvRec) (f : Flash), 256 ≤ f.kf.length ∨ r.type = 9 → (f.put r).kf = f.kf) ∧
  (∀ s : State, s.phase = .on ∨ s.phase = .commit →
    exec .hourTick s = .next ({ s with evr := { s.evr with hours := (s.evr.hours + 1) % 2 ^ 32 } }).writeCounter) ∧
  (∀ (data : Word) (s : State), s.awake = true →
    exec (.evrFetch data) s = .next (
      let t := s.setProg 0x5008 (data &&& 0x1FF)
      { t with evr := { t.evr with busy := true, valid := false } })) ∧
  (∀ (r : EvRec) (s : State), s.evr.busy = true → s.fetched = some (r, none) →
    exec .evrFetchDone s = .next { s with evr := { s.evr with busy := false, valid := true, rcd := r.bytes } }) ∧
  (∀ (r : EvRec) (b : Bad) (s : State), s.evr.busy = true → s.fetched = some (r, some b) → b.checkOnly = false →
    exec .evrFetchDone s = .next (
      let t := s.readG 537 (some b)
      { t with evr := { t.evr with
        buf := t.evr.buf.filter fun o => o.1.rseq != r.rseq, lost := satAdd 65535 t.evr.lost 1, lostBefore := true
        busy := false, valid := false } })) ∧
  (∀ s : State, s.evr.busy = true → s.fetched = none →
    exec .evrFetchDone s = .next { s with evr := { s.evr with busy := false, valid := false } })

/-- FCLR clears the 32 sources of the word it names where its SEQ is the word's FSEQ, and nothing otherwise. A sequence-number
clear acts where the SEQ written is the record's SEQ: the record returns to its empty value with its SEQ kept; another SEQ
changes nothing. It is so of PORT_PERR, WCU_VSTAT, WCU_WBX, EDDY_PSN, RDUE, MILL_BRK, UPD_AT_STAT, SVC_PRESS, SVC_PCHG and
WAKE_CAUSE. -/
def Obligations.ClearsByWordAndSequence : Prop :=
  ((∀ (data : Word) (s : State) (h : field data 4 0 < 18), s.awake = true → s.fcol.fseq.at ⟨field data 4 0, h⟩ = field data 8 5 →
    exec (.fclr data) s = .next { s with fcol := { s.fcol with
      fstat := s.fcol.fstat &&& ~~~(BitVec.ofNat 576 (0xFFFFFFFF * 2 ^ (32 * field data 4 0))) } }) ∧
  (∀ (data : Word) (s : State), s.awake = true →
    (∀ h : field data 4 0 < 18, s.fcol.fseq.at ⟨field data 4 0, h⟩ ≠ field data 8 5) → exec (.fclr data) s = .next s)) ∧
  ((∀ (p : PortId) (data : Word) (s : State), s.awake = true → field data 31 28 = (s.port p).perr.seq →
    exec (.portPerrClear p data) s = .next (s.modPort p fun q => { q with perr := { seq := q.perr.seq } })) ∧
  (∀ (p : PortId) (data : Word) (s : State), s.awake = true → field data 31 28 = (s.port p).vstat.seq →
    exec (.wcuVstatClear p data) s = .next (s.modPort p fun q => { q with vstat := { seq := q.vstat.seq } })) ∧
  (∀ (p : PortId) (data : Word) (s : State), s.awake = true → field data 31 28 = (s.port p).wbx.seq →
    exec (.wcuWbxClear p data) s = .next (s.modPort p fun q => { q with wbx := { seq := q.wbx.seq } })) ∧
  (∀ (c : ChanId) (data : Word) (s : State), s.awake = true → s.fcol.safe = false →
    field data 31 28 = (s.chan c).psn.seq →
    exec (.eddyPsnClear c data) s = .next (s.modChan c fun k => { k with psn := { seq := k.psn.seq } })) ∧
  (∀ (c : ChanId) (data : Word) (s : State), s.awake = true → s.fcol.safe = false →
    field data 31 28 = (s.chan c).rdue.seq →
    exec (.rdueClear c data) s = .next (s.modChan c fun k => { k with rdue := { seq := k.rdue.seq } })) ∧
  (∀ (data : Word) (s : State), s.awake = true → field data 31 28 = s.regs.atSeq →
    exec (.updAtStatClear data) s = .next { s with regs := { s.regs with atDone := false, atLate := false } }) ∧
  (∀ (data : Word) (s : State), s.awake = true → field data 31 28 = s.mill.brk.seq →
    exec (.millBrkClear data) s = .next { s with mill := { s.mill with brk := { seq := s.mill.brk.seq } } }) ∧
  (∀ (data : Word) (s : State), s.awake = true → field data 31 28 = s.sbm.pressSeq →
    exec (.svcPressClear data) s = .next { s with sbm := { s.sbm with press := 0 } }) ∧
  (∀ (data : Word) (s : State), s.awake = true → field data 31 28 = s.sbm.pchgSeq →
    exec (.svcPchgClear data) s = .next { s with sbm := { s.sbm with pchg := 0 } }) ∧
  (∀ (data : Word) (s : State), s.awake = true → field data 31 28 = s.sbm.wakeCause.seq →
    exec (.wakeCauseClear data) s = .next { s with sbm := { s.sbm with
      wakeCause := { por := false, seq := s.sbm.wakeCause.seq } } }) ∧
  (∀ (data : Word) (p : PortId) (c : ChanId) (s : State),
    (field data 31 28 ≠ (s.port p).perr.seq → exec (.portPerrClear p data) s = .next s) ∧
    (field data 31 28 ≠ (s.port p).vstat.seq → exec (.wcuVstatClear p data) s = .next s) ∧
    (field data 31 28 ≠ (s.port p).wbx.seq → exec (.wcuWbxClear p data) s = .next s) ∧
    (field data 31 28 ≠ (s.chan c).psn.seq → exec (.eddyPsnClear c data) s = .next s) ∧
    (field data 31 28 ≠ (s.chan c).rdue.seq → exec (.rdueClear c data) s = .next s) ∧
    (field data 31 28 ≠ s.regs.atSeq → exec (.updAtStatClear data) s = .next s) ∧
    (field data 31 28 ≠ s.mill.brk.seq → exec (.millBrkClear data) s = .next s) ∧
    (field data 31 28 ≠ s.sbm.pressSeq → exec (.svcPressClear data) s = .next s) ∧
    (field data 31 28 ≠ s.sbm.pchgSeq → exec (.svcPchgClear data) s = .next s) ∧
    (field data 31 28 ≠ s.sbm.wakeCause.seq → exec (.wakeCauseClear data) s = .next s)))

/-- The addresses below 0x10000 whose writes do something of their own. -/
def Sys2Proof.Machine.ownWrites : List Nat :=
  [0x020, 0x030, 0x034, 0x038, 0x03C, 0x040, 0x050, 0x064, 0x070, 0x2800, 0x4100, 0x5008, 0x6008, 0x6010, 0x6014, 0x6018,
   0x9024, 0xA068, 0xB024, 0xB030, 0xB044]

/-- While the registers answer, a write at an address outside the mapped blocks only answers the access error, one at IND_DATA
is the indirect write, and any other goes to its register, a set, clear or toggle view with the register's old value combined;
a register without a write of its own stores its writable bits that the cinch leaves open, at once or, where R462 holds it, as
a held write; CINCH only gains bits. While the registers do not answer nothing is written. While the registers answer, an
IND_DATA write goes to the agent and offset of IND_ADDR, or to every agent with BCAST; IND_STAT.ERR is 1 where no agent is
named and 2 where the agents do not answer; OFF advances by 4 with AINC. A read answers the named agent's register with ERR 0;
inside the PATCH table it reads the entry's SRAM word, and a word whose bad byte acts reads as a free value (the model's
choice, log entry 8). -/
def Obligations.RegisterAndIndirectWrites : Prop :=
  ((∀ (addr : BitVec 22) (data : Word) (s : State), s.awake = true → mappedBlock (addr.toNat / 4 * 4) = false →
    exec (.registerWrite addr data) s = .next { s with regs := { s.regs with cpData := 0, cpErr := true } }) ∧
  (∀ (v : View) (addr : BitVec 22) (data : Word) (s : State), s.awake = true →
    mappedBlock (addr.toNat / 4 * 4) = false →
    exec (.aliasWrite v addr data) s = .next { s with regs := { s.regs with cpData := 0, cpErr := true } }) ∧
  (∀ (addr : BitVec 22) (data : Word) (s : State), s.awake = true → mappedBlock (addr.toNat / 4 * 4) = true →
    addr.toNat / 4 * 4 ≠ 0x014 →
    exec (.registerWrite addr data) s = .next (
      let t : State := { s with regs := { s.regs with cpData := 0, cpErr := false } }
      t.writeGlobal (addr.toNat / 4 * 4) ⟨data, data, some data⟩)) ∧
  (∀ (v : View) (addr : BitVec 22) (data : Word) (s : State), s.awake = true → mappedBlock (addr.toNat / 4 * 4) = true →
    addr.toNat / 4 * 4 ≠ 0x014 →
    exec (.aliasWrite v addr data) s = .next (
      let t : State := { s with regs := { s.regs with cpData := 0, cpErr := false } }
      t.writeGlobal (addr.toNat / 4 * 4) (viewWrite v (t.oldWord (addr.toNat / 4 * 4)) data))) ∧
  (∀ (v : View) (addr : BitVec 22) (data : Word) (s : State), addr.toNat / 4 * 4 = 0x014 →
    exec (.registerWrite addr data) s = exec (.indDataWrite .direct data) s ∧
    exec (.aliasWrite v addr data) s = exec (.indDataWrite v data) s) ∧
  (∀ (v : View) (addr : BitVec 22) (data : Word) (s : State), s.awake = false →
    exec (.registerWrite addr data) s = .next s ∧ exec (.aliasWrite v addr data) s = .next s ∧
    exec (.cinchWrite data) s = .next s ∧ exec (.indDataWrite v data) s = .next s ∧ exec (.indDataRead v) s = .next s) ∧
  (∀ (old data : Word),
    (viewWrite .set old data).val = old ||| data ∧ (viewWrite .clear old data).val = old &&& ~~~data ∧
    (viewWrite .toggle old data).val = old ^^^ data ∧ (viewWrite .direct old data).val = data) ∧
  (∀ (addr : Nat) (w : RegWrite) (s : State), addr < 0x10000 → svcChan addr = none → addr ∉ ownWrites →
    s.writeGlobal addr w = s.store addr w.val) ∧
  (∀ (key : Nat) (val : Word) (s : State), (regInfo key).rws = 0 ∨ s.holds (regInfo key).groups = false →
    s.store key val
      = s.setProg key (blend (((regInfo key).rw ||| (regInfo key).rws ||| (regInfo key).rwc) &&& s.open_ (regInfo key))
          (s.shadow key) val)) ∧
  (∀ (key : Nat) (val : Word) (s : State), (regInfo key).rws ≠ 0 → s.holds (regInfo key).groups = true →
    s.store key val = { s with regs := { s.regs with held := s.regs.held ++
      [{ key := key, until_ := s.holdTime (regInfo key).groups
         val := blend (((regInfo key).rw ||| (regInfo key).rws ||| (regInfo key).rwc) &&& s.open_ (regInfo key))
          (s.shadow key) val }] } }) ∧
  (∀ (data : Word) (s : State), s.awake = true →
    exec (.cinchWrite data) s = .next { s with regs := { s.regs with cinch := s.regs.cinch ||| data.setWidth 6 } })) ∧
  ((∀ (v : View) (data : Word) (c : ChanId) (s : State), s.awake = true → flag (s.prog 0x010) 25 = false →
    s.namedAgent = some c → s.fcol.safe = false →
    exec (.indDataWrite v data) s = .next (
      let t : State := { s with regs := { s.regs with cpData := 0, cpErr := false } }
      ((t.writeAgent v c s.indOff data).setIndErr 0).advanceInd)) ∧
  (∀ (v : View) (data : Word) (s : State), s.awake = true → flag (s.prog 0x010) 25 = false → s.namedAgent = none →
    exec (.indDataWrite v data) s = .next
      (({ s with regs := { s.regs with cpData := 0, cpErr := false, indErr := 1 } }).advanceInd)) ∧
  (∀ (v : View) (data : Word) (s : State), s.awake = true → flag (s.prog 0x010) 25 = true → s.fcol.safe = false →
    exec (.indDataWrite v data) s = .next (
      let t : State := { s with regs := { s.regs with cpData := 0, cpErr := false } }
      ((allChans.foldl (fun (u : State) (c : ChanId) => u.writeAgent v c s.indOff data) t).setIndErr 0).advanceInd)) ∧
  (∀ (v : View) (data : Word) (s : State), s.awake = true → s.fcol.safe = true →
    (flag (s.prog 0x010) 25 = true ∨ s.namedAgent ≠ none) →
    exec (.indDataWrite v data) s = .next
      (({ s with regs := { s.regs with cpData := 0, cpErr := false, indErr := 2 } }).advanceInd)) ∧
  (∀ (v : View) (c : ChanId) (s : State), s.awake = true → s.namedAgent = some c → s.fcol.safe = false →
    s.indOff < 0x400 ∨ 0x600 ≤ s.indOff →
    exec (.indDataRead v) s = .next (({ s with regs := { s.regs with
      cpData := s.readAgent c s.indOff, cpErr := false, indErr := 0 } }).advanceInd.sweepFails)) ∧
  (∀ (v : View) (c : ChanId) (s : State), s.awake = true → s.namedAgent = some c → s.fcol.safe = false →
    0x400 ≤ s.indOff → s.indOff < 0x600 → acts ((s.chan c).patch.entry ((s.indOff - 0x400) / 8)).bad = false →
    exec (.indDataRead v) s = .next ((({ s with regs := { s.regs with
      cpData := s.readAgent c s.indOff, cpErr := false, indErr := 0 } }).readEntry c
        ((s.indOff - 0x400) / 8)).advanceInd.sweepFails)) ∧
  (∀ (v : View) (c : ChanId) (s : State), s.awake = true → s.namedAgent = some c → s.fcol.safe = false →
    0x400 ≤ s.indOff → s.indOff < 0x600 → acts ((s.chan c).patch.entry ((s.indOff - 0x400) / 8)).bad = true →
    exec (.indDataRead v) s = .next (
      let t := ({ s with regs := { s.regs with
        cpData := Config.openWord s.freeIx, cpErr := false, indErr := 0 } }).readEntry c ((s.indOff - 0x400) / 8)
      ({ t with freeIx := s.freeIx + 1 } : State).advanceInd.sweepFails)) ∧
  (∀ (v : View) (s : State), s.awake = true → s.namedAgent = none →
    exec (.indDataRead v) s = .next (({ s with regs := { s.regs with
      cpData := 0, cpErr := false, indErr := 1 } }).advanceInd.sweepFails)) ∧
  (∀ (v : View) (s : State), s.awake = true → s.namedAgent ≠ none → s.fcol.safe = true →
    exec (.indDataRead v) s = .next (({ s with regs := { s.regs with
      cpData := 0, cpErr := false, indErr := 2 } }).advanceInd.sweepFails)) ∧
  (∀ s : State, flag (s.prog 0x010) 24 = false → s.advanceInd = s) ∧
  (∀ s : State, flag (s.prog 0x010) 24 = true →
    s.advanceInd = s.setProg 0x010
      ((s.prog 0x010 &&& 0xFFFFF000) ||| BitVec.ofNat 32 ((field (s.prog 0x010) 11 0 + 4) % 4096))))

/-- STITCH_COMMIT.GO asks for a commit; a sweep counts, and takes the references with nothing posted where a commit is asked
for, or else compares them while armed outside the safe state: a difference of the stitch raises source 551, one of FREACT 575.
SNAP_SEL starts a fetch, whose end gives the item's two words, or ERR. -/
def Obligations.StitchAndMailbox : Prop :=
  (∀ (data : Word) (s : State), s.awake = true →
    exec (.stitchCommit data) s = .next (
      if flag data 0 then { s with regs := { s.regs with stPend := true } } else s)) ∧
  (∀ s : State, s.awake = true → s.regs.stPend = true → s.posted = 0 →
    exec .stitchSweepEnd s = .next (
      let t : State := { s with regs := { s.regs with stSweeps := satAdd 65535 s.regs.stSweeps 1 } }
      { t with regs := { t.regs with stRef := t.stitchCrc, stArmed := true, stPend := false }
               fcol := { t.fcol with ref := t.freactCrc } })) ∧
  (∀ s : State, s.awake = true → s.regs.stPend = false → s.regs.stArmed = true → s.fcol.safe = false →
    exec .stitchSweepEnd s = .next (
      let t : State := { s with regs := { s.regs with stSweeps := satAdd 65535 s.regs.stSweeps 1 } }
      let u := if t.stitchCrc != t.regs.stRef then ({ t with regs := { t.regs with stMism := true } }).raise 551 else t
      if t.freactCrc != t.fcol.ref then u.raise 575 else u)) ∧
  (∀ (data : Word) (s : State), s.awake = true →
    exec (.snapSelWrite data) s = .next (
      let t := s.setProg 0x070 (data &&& 0x3FF)
      { t with regs := { t.regs with
        snapItem := field data 9 0, snapValid := false, snapErr := false, snapBusy := true, snapLo := 0, snapHi := 0 } })) ∧
  (∀ s : State, s.awake = true → s.regs.snapBusy = true →
    exec .snapFetchDone s = .next (
      match s.snapValue s.regs.snapItem with
      | none => { s with regs := { s.regs with snapBusy := false, snapErr := true } }
      | some n => { s with regs := { s.regs with
          snapBusy := false, snapValid := true, snapLo := BitVec.ofNat 32 n, snapHi := BitVec.ofNat 32 (n / 2 ^ 32) } }))

/-! ### The companion and the command ring (chapters 12 and 13) -/

/-- The packet at CI is `k` with opcode `opc`, and nothing that all opcodes share turns it away: its CRC and its SEQ are right;
the boot state, the safe state, a halted Nuinun, the strobe and its parameters let it run; no warn decision defers it; and a long
command finds a free job slot. -/
def Sys2Proof.Machine.Accepts (s : State) (k : Packet) (opc : Nat) : Prop :=
  s.front = some k ∧ k.opc = opc ∧ k.crcOk = true ∧ (s.cmp.seqSet = true → k.seq = (s.cmp.lseq + 1) % 65536) ∧
  (s.cmp.boot.st = 5 ∨ opc ∈ bootOps) ∧ (s.fcol.safe = false ∨ opc ∈ safeOps) ∧ (s.cmp.nuHalt = false ∨ opc ∈ flagC) ∧
  (s.pers.strobe = false ∨ flagD opc = false) ∧ s.breaksParam k = false ∧
  (s.sbm.warn = false ∨ (flagW opc = false ∧ k.asksPpr = false)) ∧ (opc ∉ longOps ∨ ∃ j, (s.job j).st = 0)

/-- A chunk of LEN bytes at OFFSET matches P2, continues what has been received, and lies within the image. -/
def Sys2Proof.Machine.ChunkFits (s : State) (k : Packet) (got total : Nat) : Prop :=
  (k.p 0).toNat = got ∧ (k.p 1).toNat % 64 = 0 ∧ (k.p 1).toNat ≠ 0 ∧ (k.p 1).toNat ≤ 4096 ∧
  got + (k.p 1).toNat ≤ total ∧ k.p 2 = crc32c (s.loadBuf (k.p 1).toNat)

/-- The opcode rows with the commands that carry them out and their own refusals, those that end with housekeeping apart. -/
def Sys2Proof.Machine.packetRows : List (Nat × Instr × (State → Packet → Option Nat)) :=
  [(0x01, .identify, noRefusal), (0x02, .status, noRefusal), (0x03, .loadBegin, loadBeginOwn),
   (0x04, .loadChunk, loadChunkOwn), (0x05, .loadEnd, loadEndOwn), (0x06, .echo, noRefusal),
   (0x07, .jobStatus, jobStatusOwn), (0x08, .jobCancel, jobCancelOwn), (0x10, .spdRead, spdReadOwn),
   (0x11, .spdFetch, spdFetchOwn), (0x12, .i3cRead, i3cReadOwn), (0x13, .pmicEnable, pmicEnableOwn),
   (0x14, .pmicSet, pmicSetOwn), (0x15, .train, trainOwn), (0x16, .mrRead, mrReadOwn), (0x17, .mrWrite, mrWriteOwn),
   (0x18, .patchLoad, patchLoadOwn), (0x20, .scrub, scrubOwn), (0x21, .patchInstall, patchInstallOwn), (0x22, .ppr, pprOwn),
   (0x23, .pprUnstage, pprUnstageOwn), (0x26, .tallyZero, sweepOwn), (0x27, .resweep, sweepOwn), (0x28, .rebuild, rebuildOwn),
   (0x30, .prepare, prepareOwn), (0x31, .idleEnter, noRefusal), (0x32, .idleExit, noRefusal), (0x33, .slumber, slumberOwn),
   (0x38, .millAction, millActionOwn), (0x40, .flashInfo, noRefusal),
   (0x41, .imgStoreBegin, fun s _ => firstOf [(s.storing, 7)]), (0x42, .imgStoreChunk, storeChunkOwn),
   (0x43, .imgStoreEnd, storeEndOwn), (0x48, .evrChallenge, noRefusal)]

/-- A write of CMD_PI moves the producer, or sets the overflow where more than 16 packets would wait. A packet with an opcode
that no row has is taken and answered UNKNOWN, which is all that it does. A reply writes the 16 words of its slot, and the
consumer moves on. -/
def Obligations.RingAndReplies : Prop :=
  (∀ (data : Word) (s : State), s.awake = true → (field data 4 0 + 32 - s.cmp.ci) % 32 ≤ 16 →
    exec (.cmdPiWrite data) s = .next
      (({ s with cmp := { s.cmp with ovf := false } }).setProg 0x2800 (BitVec.ofNat 32 (field data 4 0)))) ∧
  (∀ (data : Word) (s : State), s.awake = true → 16 < (field data 4 0 + 32 - s.cmp.ci) % 32 →
    exec (.cmdPiWrite data) s = .next { s with cmp := { s.cmp with ovf := true } }) ∧
  (∀ (k : Packet) (s : State), s.front = some k → paramBits k.opc = none → k.crcOk = true →
    (s.cmp.seqSet = true → k.seq = (s.cmp.lseq + 1) % 65536) →
    exec .unknownOpcode s = .next { s with cmp := { s.cmp with
      seqSet := true, lseq := k.seq
      rpl := s.cmp.rpl.setAll zeroWord (16 * (s.cmp.ci % 16))
        (replyWords k.opc k.seq stUnknown 0 [] ++ [packetCrc (replyWords k.opc k.seq stUnknown 0 [])])
      ci := (s.cmp.ci + 1) % 32, cur := none } }) ∧
  (∀ (k : Packet) (e : Nat) (s : State), s.front = some k → paramBits k.opc = none → s.badPacket k = some e →
    exec .unknownOpcode s = .next ((s.answer k stBadPacket e []).raise 557)) ∧
  (∀ (k : Packet) (status err : Nat) (res : List Word) (s : State),
    s.answer k status err res = { s with cmp := { s.cmp with
      rpl := s.cmp.rpl.setAll zeroWord (16 * (s.cmp.ci % 16))
        (replyWords k.opc k.seq status err res ++ [packetCrc (replyWords k.opc k.seq status err res)])
      ci := (s.cmp.ci + 1) % 32, cur := none } })

/-- A packet that is not carried out changes nothing but its reply and, once taken, the last SEQ: BAD_PACKET before it is
taken, with source 557; then UNKNOWN's and the shared refusals, DEFERRED while the warn decision stands for an opcode with flag
W, the opcode's own refusal and, for a long one, ERR 8 with no free job, in this order. -/
def Obligations.PacketsTurnedAway : Prop :=
  (∀ (x : Nat × Instr × (State → Packet → Option Nat)) (k : Packet) (e : Nat) (s : State), x ∈ packetRows →
    s.front = some k → k.opc = x.1 → s.badPacket k = some e →
    exec x.2.1 s = .next ((s.answer k stBadPacket e []).raise 557)) ∧
  (∀ (x : Nat × Instr × (State → Packet → Option Nat)) (k : Packet) (e : Nat) (s : State), x ∈ packetRows →
    s.front = some k → k.opc = x.1 → s.badPacket k = none → (s.takePacket k).gate k = some e →
    exec x.2.1 s = .next ((s.takePacket k).answer k stRefused e [])) ∧
  (∀ (x : Nat × Instr × (State → Packet → Option Nat)) (k : Packet) (s : State), x ∈ packetRows →
    s.front = some k → k.opc = x.1 → s.badPacket k = none → (s.takePacket k).gate k = none → s.sbm.warn = true →
    flagW k.opc = true → exec x.2.1 s = .next ((s.takePacket k).answer k stDeferred 0 [])) ∧
  (∀ (x : Nat × Instr × (State → Packet → Option Nat)) (k : Packet) (e : Nat) (s : State), x ∈ packetRows →
    s.front = some k → k.opc = x.1 → s.badPacket k = none → (s.takePacket k).gate k = none →
    (s.sbm.warn = false ∨ flagW k.opc = false) → x.2.2 (s.takePacket k) k = some e →
    exec x.2.1 s = .next ((s.takePacket k).answer k stRefused e [])) ∧
  (∀ (x : Nat × Instr × (State → Packet → Option Nat)) (k : Packet) (s : State), x ∈ packetRows →
    s.front = some k → k.opc = x.1 → s.badPacket k = none → (s.takePacket k).gate k = none →
    (s.sbm.warn = false ∨ flagW k.opc = false) → x.2.2 (s.takePacket k) k = none → k.opc ∈ longOps →
    (∀ j, (s.job j).st ≠ 0) → exec x.2.1 s = .next ((s.takePacket k).answer k stRefused 8 [])) ∧
  (∀ (k : Packet) (s : State), k.crcOk = false → s.badPacket k = some 3) ∧
  (∀ (k : Packet) (s : State), k.crcOk = true → s.cmp.seqSet = true → k.seq ≠ (s.cmp.lseq + 1) % 65536 →
    s.badPacket k = some 2) ∧
  (∀ (k : Packet) (s : State), s.cmp.boot.st ≠ 5 → k.opc ∉ bootOps → s.gate k = some 4) ∧
  (∀ (k : Packet) (s : State), (s.cmp.boot.st = 5 ∨ k.opc ∈ bootOps) → s.fcol.safe = true → k.opc ∉ safeOps →
    s.gate k = some 12) ∧
  (∀ (k : Packet) (s : State), (s.cmp.boot.st = 5 ∨ k.opc ∈ bootOps) → (s.fcol.safe = false ∨ k.opc ∈ safeOps) →
    s.cmp.nuHalt = true → k.opc ∉ flagC → s.gate k = some 5) ∧
  (∀ (k : Packet) (s : State), (s.cmp.boot.st = 5 ∨ k.opc ∈ bootOps) → (s.fcol.safe = false ∨ k.opc ∈ safeOps) →
    (s.cmp.nuHalt = false ∨ k.opc ∈ flagC) → s.pers.strobe = true → flagD k.opc = true → s.gate k = some 11) ∧
  (∀ (k : Packet) (s : State), (s.cmp.boot.st = 5 ∨ k.opc ∈ bootOps) → (s.fcol.safe = false ∨ k.opc ∈ safeOps) →
    (s.cmp.nuHalt = false ∨ k.opc ∈ flagC) → (s.pers.strobe = false ∨ flagD k.opc = false) → s.breaksParam k = true →
    s.gate k = some 1)

/-- The commands that answer at once and change nothing else: IDENTIFY, STATUS, ECHO, SPD_FETCH, FLASH_INFO, which a flash that
failed has refused with ERR 13; JOB_STATUS, which frees a finished job's slot where asked to, shows how far a running job is,
and whose result words of a running job are free; JOB_CANCEL, which marks the job and stops what runs of it; EVR_CHALLENGE,
whose random bytes are free and which the answer keeps outstanding. -/
def Obligations.ImmediateCommands : Prop :=
  (∀ (k : Packet) (s : State), Accepts s k 0x01 →
    exec .identify s = .next (let t := s.takePacket k; t.answer k stOk 0 t.identity)) ∧
  (∀ (k : Packet) (s : State), Accepts s k 0x02 →
    exec .status s = .next (let t := s.takePacket k; t.answer k stOk 0 t.statusWords)) ∧
  (∀ (k : Packet) (s : State), Accepts s k 0x06 →
    exec .echo s = .next ((s.takePacket k).answer k stOk 0 k.params)) ∧
  (∀ (k : Packet) (b : List Byte) (s : State), Accepts s k 0x11 → s.spdOf k = some b →
    exec .spdFetch s = .next ((s.takePacket k).answer k stOk 0 (byteWords (b.drop (k.p 1).toNat) 12))) ∧
  (∀ (k : Packet) (s : State), Accepts s k 0x40 → s.flash.failed = false → s.flash.image = none →
    exec .flashInfo s = .next ((s.takePacket k).answer k stOk 0 [Config.flashId, Config.flashKib, 0])) ∧
  (∀ (k : Packet) (svn : Nat) (bs : List Byte) (s : State), Accepts s k 0x40 → s.flash.failed = false →
    s.flash.image = some (svn, bs) → exec .flashInfo s = .next
      ((s.takePacket k).answer k stOk 0 [Config.flashId, Config.flashKib, word (1 + place svn 8 8)])) ∧
  (∀ (k : Packet) (s : State), Accepts s k 0x40 → s.flash.failed = true →
    exec .flashInfo s = .next ((s.takePacket k).answer k stRefused 13 []).flashTold) ∧
  (∀ (k : Packet) (s : State), Accepts s k 0x07 → (s.job k.job).st ≠ 1 →
    exec .jobStatus s = .next (
      let b := s.job k.job
      let t := (s.takePacket k).answer k stOk 0 ([word b.stat, word b.progWord] ++ b.res)
      if flag (k.p 0) 8 then t.modJob k.job fun _ => {} else t)) ∧
  (∀ (k : Packet) (s : State), Accepts s k 0x07 → (s.job k.job).st = 1 → flag (k.p 0) 8 = false →
    exec .jobStatus s = .next (
      let b := s.job k.job
      let t := (s.takePacket k).answer k stOk 0 ([word b.stat, word ({ b with prog := s.progNow b } : Job).progWord] ++
        (List.range 11).map fun i => Config.openWord (s.freeIx + i))
      { t with freeIx := t.freeIx + 11 })) ∧
  (∀ (k : Packet) (s : State), Accepts s k 0x08 → (s.job k.job).st = 1 → (s.job k.job).opc = 0x15 →
    exec .jobCancel s = .next (((s.takePacket k).modJob k.job fun b => { b with cancel := true }).answer k stOk 0 [])) ∧
  (∀ (k : Packet) (s : State), Accepts s k 0x08 → (s.job k.job).st = 1 → (s.job k.job).opc = 0x20 →
    exec .jobCancel s = .next (
      ((((s.takePacket k).modJob k.job fun b => { b with cancel := true }).cancelScrub
        ⟨(s.job k.job).target % 20, Nat.mod_lt _ (by decide)⟩).answer k stOk 0 []))) ∧
  (∀ (k : Packet) (s : State), Accepts s k 0x08 → (s.job k.job).st = 1 → (s.job k.job).opc = 0x10 →
    exec .jobCancel s = .next (
      let t := (s.takePacket k).modJob k.job fun b => { b with cancel := true }
      let t := allChans.foldl (fun (t : State) (c : ChanId) => t.cancelSpd k.job c) t
      (if (allChans.all fun c => t.spdOver c k.job.val) = true then t.modJob k.job (Job.finish 0) else t).answer k stOk 0 [])) ∧
  (∀ (k : Packet) (s : State), Accepts s k 0x48 →
    exec .evrChallenge s = .next (
      let t := s.takePacket k
      let u := ({ t with evr := { t.evr with chal := some t.challenge } }).answer k stOk 0 (byteWords t.challenge 8)
      { u with freeIx := u.freeIx + 1 }))

/-- An image's load and its store: BEGIN starts with nothing received, a CHUNK appends its bytes of LOAD_BUF, and a load fails
with ERR 15 and source 558 once its first 512 bytes hold a bad header; LOAD_END passes to VERIFYING; a store's BEGIN makes the
stored image invalid, a CHUNK appends to it once the store is open, and one that the flash failed to program fails with ERR 13;
its END starts the check. That a CHUNK or END is carried out while the erase still runs is the model's choice (log entry 82).
The boot state machine: an image that passes every check of R402 loads Nuinun's memories and starts it at its ENTRY, where it
is not held in reset; one that fails has the boot FAILED with the check's ERR and source 558; the stored image's read checks
its header first, and fails with ERR 13 where the flash failed; the firmware's report takes STARTING to RUNNING; without it at
the limit Nuinun halts, its jobs are abandoned and the boot has FAILED with ERR 24. -/
def Obligations.ImagesAndBoot : Prop :=
  ((∀ (k : Packet) (s : State), Accepts s k 0x03 → s.cmp.boot.st ≠ 0 → s.cmp.boot.st ≠ 4 → s.cmp.boot.st ≠ 5 →
    (flag (k.p 1) 0 = true → s.flash.image ≠ none) →
    exec .loadBegin s = .next (
      let src := flag (k.p 1) 0
      ((s.takePacket k).modBoot fun b => { b with st := 2, src := src, total := (k.p 0).toNat, image := [] }).answer k
        (if src then stAccepted else stOk) 0 [])) ∧
  (∀ (k : Packet) (s : State), Accepts s k 0x04 → s.cmp.boot.st = 2 → s.cmp.boot.src = false →
    ChunkFits s k s.cmp.boot.image.length s.cmp.boot.total →
    (512 ≤ s.cmp.boot.image.length ∨ s.cmp.boot.image.length + (s.loadBuf (k.p 1).toNat).length < 512 ∨
      headerOk (s.cmp.boot.image ++ s.loadBuf (k.p 1).toNat) s.cmp.boot.total = true) →
    exec .loadChunk s = .next (((s.takePacket k).modBoot fun b =>
      { b with image := b.image ++ s.loadBuf (k.p 1).toNat }).answer k stOk 0 [])) ∧
  (∀ (k : Packet) (s : State), Accepts s k 0x04 → s.cmp.boot.st = 2 → s.cmp.boot.src = false →
    ChunkFits s k s.cmp.boot.image.length s.cmp.boot.total → s.cmp.boot.image.length < 512 →
    512 ≤ s.cmp.boot.image.length + (s.loadBuf (k.p 1).toNat).length →
    headerOk (s.cmp.boot.image ++ s.loadBuf (k.p 1).toNat) s.cmp.boot.total = false →
    exec .loadChunk s = .next ((((s.takePacket k).modBoot fun b =>
      { b with image := b.image ++ s.loadBuf (k.p 1).toNat, st := 6, err := 15 }).raise 558).answer k stOk 0 [])) ∧
  (∀ (k : Packet) (s : State), Accepts s k 0x05 → s.cmp.boot.st = 2 → s.cmp.boot.total ≤ s.cmp.boot.image.length →
    exec .loadEnd s = .next (((s.takePacket k).modBoot fun b => { b with st := 3 }).answer k stAccepted 0 [])) ∧
  (∀ (k : Packet) (s : State), Accepts s k 0x41 → s.storing = false →
    exec .imgStoreBegin s = .next (
      let t := s.takePacket k
      ({ t with flash := { t.flash with
        desc := none, img := [], store := some { total := (k.p 0).toNat, erased := false } } }).startJob k 0 id)) ∧
  (∀ (k : Packet) (x : Store) (s : State), Accepts s k 0x42 → s.flash.store = some x →
    (x.erased = true ∨ ∃ j, (s.job j).runs 0x41 = true) → (∀ j, (s.job j).runs 0x43 = false) →
    ChunkFits s k s.flash.img.length x.total → s.flash.failed = false →
    exec .imgStoreChunk s = .next (
      let t := s.takePacket k
      ({ t with flash := { t.flash with img := s.flash.img ++ s.loadBuf (k.p 1).toNat } }).answer k stOk 0 [])) ∧
  (∀ (k : Packet) (x : Store) (s : State), Accepts s k 0x42 → s.flash.store = some x →
    (x.erased = true ∨ ∃ j, (s.job j).runs 0x41 = true) → (∀ j, (s.job j).runs 0x43 = false) →
    ChunkFits s k s.flash.img.length x.total → s.flash.failed = true →
    exec .imgStoreChunk s = .next ((s.takePacket k).answer k stFailed 13 []).flashTold) ∧
  (∀ (k : Packet) (x : Store) (s : State), Accepts s k 0x43 → s.flash.store = some x →
    (x.erased = true ∨ ∃ j, (s.job j).runs 0x41 = true) → (∀ j, (s.job j).runs 0x43 = false) →
    x.total ≤ s.flash.img.length → exec .imgStoreEnd s = .next ((s.takePacket k).startJob k 0 id))) ∧
  ((∀ (slot : Bool) (s : State), s.cmp.boot.st = 3 → s.otp.imageErr s.cmp.boot.image = none →
    s.otp.slotFor s.cmp.boot.image = some slot → s.armedG 17 0 = none →
    exec .imageVerified s = .next (
      let bs := s.cmp.boot.image
      let t := s.modBoot fun b => { b with st := 4, keySlot := slot, svn := bytesAt bs 11 8 % 256 }
      { t with cmp := { t.cmp with
        nuRun := !s.cmp.nuHeld, nuHalt := s.cmp.nuHeld, nuEntry := bytesAt bs 23 20, nuBad := none
        imem := (bs.drop 512).take (bytesAt bs 15 12)
        dmem := ((bs.drop 512).drop (bytesAt bs 15 12)).take (bytesAt bs 19 16) } })) ∧
  (∀ (e : Nat) (s : State), s.cmp.boot.st = 3 → s.otp.imageErr s.cmp.boot.image = some e →
    exec .imageVerified s = .next ((s.modBoot fun b => { b with st := 6, err := e }).raise 558)) ∧
  (∀ (bs : List Byte) (o : Otp), o.imageErr bs = none ↔
    (∃ slot, o.slotFor bs = some slot) ∧ o.minSvn ≤ bytesAt bs 11 8 ∧ hash384 (bs.drop 512) = hashAt bs 160 ∧
    ecdsaVerify (pubKey bs) (sha384 (bs.take 208)) ((bs.drop 208).take 96) = true) ∧
  (∀ (svn : Nat) (bytes : List Byte) (s : State), s.flash.image = some (svn, bytes) → s.cmp.boot.st = 2 →
    s.cmp.boot.src = true → headerOk (bytes.take s.cmp.boot.total) s.cmp.boot.total = true →
    s.flash.failed = false →
    exec .flashImageReadDone s = .next (s.modBoot fun b => { b with image := bytes.take b.total, st := 3 })) ∧
  (∀ (svn : Nat) (bytes : List Byte) (s : State), s.flash.image = some (svn, bytes) → s.cmp.boot.st = 2 →
    s.cmp.boot.src = true → headerOk (bytes.take s.cmp.boot.total) s.cmp.boot.total = false →
    s.flash.failed = false →
    exec .flashImageReadDone s = .next
      ((s.modBoot fun b => { b with image := bytes.take b.total, st := 6, err := 15 }).raise 558)) ∧
  (∀ (x : Nat × List Byte) (s : State), s.flash.image = some x → s.cmp.boot.st = 2 → s.cmp.boot.src = true →
    s.flash.failed = true →
    exec .flashImageReadDone s = .next ((s.modBoot fun b => { b with st := 6, err := 13 }).raise 558).flashTold) ∧
  (∀ s : State, s.cmp.boot.st = 4 → s.cmp.nuHalt = false → s.cmp.nuBad = none →
    exec .firmwareReady s = .next (s.modBoot fun b => { b with st := 5 })) ∧
  (∀ s : State, s.cmp.boot.st = 4 →
    exec .startTimeout s = .next (
      let t : State := { s with cmp := { s.cmp with nuHalt := true, nuRun := false } }
      ((t.abandonJobs 5 fun _ => true).modBoot fun b => { b with st := 6, err := 24 }).raise 558)) ∧
  (∀ s : State, s.cmp.boot.st ≠ 4 → exec .startTimeout s = .next s ∧ exec .firmwareReady s = .next s))

/-- A long command that is accepted takes the lowest free job slot, its job RUNNING with its opcode, target and SEQ, and is
answered ACCEPTED with the slot's number; what it starts follows from its rule. -/
def Obligations.LongCommandsStartJobs : Prop :=
  (∀ (k : Packet) (target : Nat) (f : Job → Job) (j : Fin 8) (s : State), s.freeJob = some j →
    s.startJob k target f = (s.modJob j fun _ => f { st := 1, opc := k.opc, target := target, cseq := k.seq }).answer k
      stAccepted 0 [BitVec.ofNat 32 j.val]) ∧
  (∀ (k : Packet) (s : State), Accepts s k 0x15 → (∀ c ∈ k.chans, (s.chan c).phy.cal = true ∧ s.schEn c = false) →
    s.jobMeets k 0x15 = false →
    exec .train s = .next (
      let t := (k.chans.take 10).foldl (fun (t : State) (c : ChanId) => t.modChan c fun q => { q with phy := q.phy.trainStart })
        (s.takePacket k)
      t.startJob k 31 fun b => { b with mask := k.mask, flag := flag (k.p 0) 20 })) ∧
  (∀ p : Phy, (p.level = 1 → p.trainStart = { p with drst := true, quiet := false }) ∧ (p.level ≠ 1 → p.trainStart = p)) ∧
  (∀ (k : Packet) (s : State), Accepts s k 0x18 → (∀ c ∈ k.chans, s.phyEn c = true ∧ s.schEn c = false) →
    exec .patchLoad s = .next ((s.takePacket k).startJob k 31 fun b => { b with mask := k.mask })) ∧
  (∀ (k : Packet) (s : State), Accepts s k 0x26 → s.allClosed = true →
    (∀ m : SetId, k.sets.getLsbD m.val = true → s.spanMode m = true) →
    exec .tallyZero s = .next (
      let t := (s.takePacket k).startJob k 31 fun b => { b with aux := k.sets, fin := if k.sets = 0 then some 0 else none }
      (allSets.filter fun m => k.sets.getLsbD m.val).foldl (fun (u : State) (m : SetId) =>
        u.modSweep m fun _ => { on := true, zeroing := true }) t)) ∧
  (∀ (k : Packet) (s : State), Accepts s k 0x27 → s.allClosed = true →
    (∀ m : SetId, k.sets.getLsbD m.val = true → s.spanMode m = true) →
    exec .resweep s = .next (
      let t := (s.takePacket k).startJob k 31 fun b => { b with aux := k.sets, fin := if k.sets = 0 then some 0 else none }
      (allSets.filter fun m => k.sets.getLsbD m.val).foldl (fun (u : State) (m : SetId) =>
        u.modSweep m fun _ => { on := true, zeroing := false }) t)) ∧
  (∀ (k : Packet) (j : Fin 8) (s : State), Accepts s k 0x10 →
    (∀ c ∈ k.chans, (s.chan c).svc.st = 1 ∨ (s.chan c).svc.st = 2) → s.jobMeets k 0x10 = false → s.jobMeets k 0x15 = false →
    s.freeJob = some j →
    exec .spdRead s = .next (
      let t := k.chans.foldl (fun (t : State) (c : ChanId) => t.askXfers c
        ([0, 1].map fun slot => { slot := slot, target := 0, len := 1024, use := .spd j.val })) (s.takePacket k)
      (t.startJob k 31 fun b => { b with mask := k.mask }).spdStopped j)) ∧
  (∀ (k : Packet) (j : Fin 8) (s : State), Accepts s k 0x13 →
    (∀ c ∈ k.chans, s.phyEn c = false ∧ ((s.chan c).spd0.isSome = true ∨ (s.chan c).spd1.isSome = true)) →
    (∀ i, (s.job i).runs 0x13 = false) → s.freeJob = some j →
    exec .pmicEnable s = .next (((s.takePacket k).startJob k 31 fun b =>
      { b with mask := k.mask, todo := s.modules k }).nextEnable j)) ∧
  (∀ (k : Packet) (s : State), Accepts s k 0x20 → (s.chan k.chan).scrub.st ≠ 1 → s.running k.chan = true →
    k.line + k.count ≤ (s.geom k.chan).reserved →
    exec .scrub s = .next (
      let t := ((s.takePacket k).startJob k k.chan.val id).modScrub k.chan fun x =>
        { st := 1, first := k.line, next := k.line, stop := k.line + k.count, rate := field (k.p 5) 10 0,
          suspect := x.suspect, stage := x.stage, cur := x.cur, dev := x.dev, fromList := x.fromList, stale := x.stale,
          rebuilt := x.rebuilt, proved := x.proved, win := x.win, used := x.used }
      (t.ask k.chan 9).after k.chan)) ∧
  (∀ (k : Packet) (s : State), Accepts s k 0x21 → s.running k.chan = true →
    (∀ e, (s.chan k.chan).patchOf k.line = some e → e.st = 0) → k.line ∉ (s.chan k.chan).patch.wait →
    s.pprLocked k.chan k.line = false → (s.chan k.chan).patch.freeEntry.isSome = true →
    ((s.chan k.chan).patch.freeSpare ((s.geom k.chan).place k.line).sub).isSome = true →
    exec .patchInstall s = .next ((((((s.takePacket k).startJob k k.chan.val fun b => { b with line := k.line }).askPatch
      k.chan k.line).ask k.chan 5).after k.chan))) ∧
  (∀ (k : Packet) (s : State), Accepts s k 0x22 → (s.chan k.chan).ppr.step = 0 → s.rankHeld k.chan k.line = false →
    s.running k.chan = true → (s.spanMode (setOf k.chan) = true → s.lineLost (setOf k.chan) (posOf k.chan) k.line = false) →
    ((s.chan k.chan).patch.staged = none ∨ (s.chan k.chan).patch.staged = some k.line) →
    (flag (k.p 0) 9 = true → flag (k.p 0) 8 = false ∧ k.line ∈ (s.chan k.chan).patch.soft) →
    exec .ppr s = .next (
      let t := ((s.takePacket k).startJob k k.chan.val id).modPpr k.chan fun _ =>
        { step := 1, row := k.line, hard := flag (k.p 0) 8, restore := flag (k.p 0) 9 }
      let t := t.modPatch k.chan fun p =>
        { p with recheck := (p.recheck ++ p.wait.filter fun l => (s.geom k.chan).sameRow k.line l).eraseDups }
      (t.ask k.chan 3).after k.chan)) ∧
  (∀ (k : Packet) (row : Nat) (s : State), Accepts s k 0x23 → (s.chan k.chan).patch.staged = some row →
    (s.chan k.chan).ppr.step = 0 →
    exec .pprUnstage s = .next (
      let t := ((s.takePacket k).startJob k k.chan.val id).modPpr k.chan fun _ =>
        { step := 7, row := row, unstage := true, lock := true }
      (t.ask k.chan 3).after k.chan)) ∧
  (∀ (k : Packet) (row : Nat) (s : State), Accepts s k 0x24 → field (k.p 0) 10 8 = (s.chan k.chan).ladder.want →
    row = (s.geom k.chan).rowOf (s.chan k.chan).ladder.wantLine →
    ((s.chan k.chan).ladder.want = 2 → (s.chan k.chan).ppr.step = 0 ∧ s.rankHeld k.chan row = false ∧
      s.running k.chan = true ∧
      (s.spanMode (setOf k.chan) = true → s.lineLost (setOf k.chan) (posOf k.chan) row = false) ∧
      ((s.chan k.chan).patch.staged = none ∨ (s.chan k.chan).patch.staged = some row)) →
    exec .ladderTake s = .next (
      let l := (s.chan k.chan).ladder
      let line := if l.want = 2 then row else l.wantLine
      (((s.takePacket k).startJob k k.chan.val fun b => { b with line := line }).takeRung
        k.chan l.want).settleAll.sweepFails)) ∧
  (∀ (c : ChanId) (s : State),
    s.takeRung c 1 = (((s.rung c 1 (s.chan c).ladder.wantLine true (s.chan c).ladder.wantDev).askPatch c
      (s.chan c).ladder.wantLine).ask c 5).after c ∧
    s.takeRung c 2 = (s.rung c 2 (s.chan c).ladder.wantLine true (s.chan c).ladder.wantDev).beginPpr c
      ((s.geom c).rowOf (s.chan c).ladder.wantLine)
      ((s.chan c).patch.soft.contains ((s.geom c).rowOf (s.chan c).ladder.wantLine)) false ∧
    s.takeRung c 3 = (s.takeErase c (s.chan c).ladder.wantLine (s.chan c).ladder.wantDev).finishLine 0x24 c.val
      (s.chan c).ladder.wantLine 0 ∧
    s.takeRung c 4 = (s.takeDegrade c (s.chan c).ladder.wantLine).ask c 4 ∧
    s.takeRung c 5 = s.finishLine 0x24 c.val (s.chan c).ladder.wantLine 0) ∧
  (∀ (k : Packet) (s : State), Accepts s k 0x28 → s.spanMode k.set = true → (s.span k.set).st = 1 →
    (s.chan (chanOf k.set (s.span k.set).pos)).phy.trained = true → s.running (chanOf k.set (s.span k.set).pos) = true →
    (s.span k.set).reb.on = false →
    exec .rebuild s = .next (
      let t := (s.takePacket k).startJob k k.set.val id
      let t := if flag (k.p 0) 8 = true then t.newModule (chanOf k.set (s.span k.set).pos) else t
      (setChans k.set).foldl (fun (u : State) (c : ChanId) => (u.ask c 4).after c)
        (t.modReb k.set fun _ => { on := true, isNew := flag (k.p 0) 8 }))) ∧
  (∀ (k : Packet) (s : State), Accepts s k 0x30 → (s.chan k.chan).svc.st = 2 → s.pers.strobe = false →
    (flag (k.p 0) 8 = true ∨
      (s.spanMode (setOf k.chan) = true ∧ (s.span (setOf k.chan)).st ≠ 3 ∧
       ((s.span (setOf k.chan)).st = 0 ∨ (s.span (setOf k.chan)).pos = posOf k.chan) ∧
       ∀ d ∈ setChans (setOf k.chan), d ≠ k.chan → (s.chan d).svc.st ≠ 3)) →
    exec .prepare s = .next (
      let t := ((s.takePacket k).startJob k k.chan.val id).stopMaint k.chan
      let t := if (t.chan k.chan).pwrst = 2 then t.beginExit k.chan
        else if (t.chan k.chan).pwrst = 1 then t.modChan k.chan fun q => { q with wakeDue := true } else t
      (t.modChan k.chan fun q =>
        { q with prepStep := 1, gate := some (t.tide + 1024), svc := { q.svc with st := 3 } }).after k.chan))

/-- The commands that hold the ring until their work is done, with the transfer or the weir request that they make: I3C_READ,
PMIC_SET, MR_READ, MR_WRITE, IDLE_ENTER, IDLE_EXIT, SLUMBER, MILL_ACTION. SLUICE with its key is answered OK and raises the
strobe with CAUSE 4; DEGRADE_RANK has the named rank of its position lost with the next grant that completes, and is answered
OK; an EVR_CLEAR that proves its key clears the circulating area and leaves the challenge used up, and one that does not is
refused with ERR 20, its record and source 561, the challenge used up as well. -/
def Obligations.RingHoldersSluiceDegradeClear : Prop :=
  ((∀ (k : Packet) (mask : BitVec 20) (s : State), s.holdRing k mask = { s with cmp := { s.cmp with
    cur := some { opc := k.opc, seq := k.seq, params := k.params, ch := k.chan, mask := mask } } }) ∧
  (∀ (k : Packet) (s : State), Accepts s k 0x12 → s.phase ≠ .commit → s.phase ≠ .slumber →
    exec .i3cRead s = .next (((s.takePacket k).holdRing k 0).askXfers k.chan
      [{ slot := field (k.p 0) 8 8, target := field (k.p 0) 11 9, reg := field (k.p 1) 7 0
         len := field (k.p 1) 13 8, use := .i3cRead }])) ∧
  (∀ (k : Packet) (s : State), Accepts s k 0x14 → (s.chan k.chan).svc.st = 2 → (s.chan k.chan).ppr.lock = false →
    exec .pmicSet s = .next ((((s.takePacket k).holdRing k 0).ask k.chan 7).after k.chan)) ∧
  (∀ (k : Packet) (s : State), Accepts s k 0x16 → s.schEn k.chan = true →
    exec .mrRead s = .next ((((s.takePacket k).holdRing k 0).ask k.chan 6).after k.chan)) ∧
  (∀ (k : Packet) (s : State), Accepts s k 0x17 → s.schEn k.chan = true → (s.chan k.chan).ppr.lock = false →
    exec .mrWrite s = .next ((((s.takePacket k).holdRing k 0).ask k.chan 6).after k.chan)) ∧
  (∀ (k : Packet) (s : State), Accepts s k 0x31 → (∀ c ∈ k.chans, s.mayIdle c = true ∧ (s.chan c).pwrst = 0) →
    exec .idleEnter s = .next (
      let t := (s.takePacket k).holdRing k k.mask
      (k.chans.foldl State.beginIdle t).finishIdle)) ∧
  (∀ (k : Packet) (s : State), Accepts s k 0x31 →
    exec .idleEnter s = .next (
      let of := fun (p : ChanId → Bool) =>
        k.chans.foldl (fun (b : BitVec 20) (c : ChanId) => if p c = true then b ||| chanBit c else b) 0
      let t := (s.takePacket k).holdRing k k.mask
      let u : Cur := { opc := k.opc, seq := k.seq, params := k.params, ch := k.chan, mask := k.mask
                       ok := of fun c => s.mayIdle c && (s.chan c).pwrst == 2, refused := of fun c => !s.mayIdle c }
      let t : State := { t with cmp := { t.cmp with cur := some u } }
      ((k.chans.filter fun c => s.mayIdle c && (s.chan c).pwrst == 0).foldl State.beginIdle t).finishIdle)) ∧
  (∀ (k : Packet) (s : State), Accepts s k 0x32 → (∀ c ∈ k.chans, (s.chan c).pwrst = 2) →
    exec .idleExit s = .next (
      let t := (s.takePacket k).holdRing k k.mask
      (k.chans.foldl State.beginExit t).finishIdle)) ∧
  (∀ (k : Packet) (s : State), Accepts s k 0x32 →
    exec .idleExit s = .next (
      let out := k.chans.foldl (fun (b : BitVec 20) (c : ChanId) =>
        if (s.chan c).pwrst = 2 ∨ (s.chan c).pwrst = 3 then b else b ||| chanBit c) 0
      let t := (s.takePacket k).holdRing k k.mask
      let u : Cur := { opc := k.opc, seq := k.seq, params := k.params, ch := k.chan, mask := k.mask, bad := out }
      let t : State := { t with cmp := { t.cmp with cur := some u } }
      ((k.chans.filter fun c => (s.chan c).pwrst == 2).foldl State.beginExit t).finishIdle)) ∧
  (∀ (k : Packet) (s : State), Accepts s k 0x33 → s.allClosed = true → s.mill.st = .off → (∀ j, (s.job j).st ≠ 1) →
    (∀ c, (s.chan c).svc.st ≠ 3) →
    exec .slumber s = .next (
      let t := (s.takePacket k).holdRing k 0
      (({ t with sbm := { t.sbm with eval := true } }).levelEvents).slumberStep)) ∧
  (∀ (k : Packet) (s : State), Accepts s k 0x38 → s.actOk (field (k.p 0) 2 0) = true →
    exec .millAction s = .next (
      (((s.takePacket k).holdRing k 0).store 0x9004 (k.p 0 &&& 7)).post (groupBit 27) (s.tide + 64) false))) ∧
  ((∀ (k : Packet) (s : State), Accepts s k 0x34 → k.p 0 = 0x534C5543 →
    exec .sluice s = .next (((s.takePacket k).answer k stOk 0 []).strobe 4).sweepFails) ∧
  (∀ (k : Packet) (s : State), Accepts s k 0x34 → k.p 0 ≠ 0x534C5543 →
    exec .sluice s = .next ((s.takePacket k).answer k stRefused 1 []).sweepFails) ∧
  (∀ (k : Packet) (s : State), Accepts s k 0x25 → s.spanMode (setOf k.chan) = true →
    ((s.span (setOf k.chan)).st ≠ 2 ∧ (s.span (setOf k.chan)).st ≠ 3) →
    ((s.span (setOf k.chan)).st = 1 → (s.span (setOf k.chan)).pos = posOf k.chan) →
    exec .degradeRank s = .next (
      let d : Carried := { ranks := BitVec.ofNat 8 (2 ^ (4 * field (k.p 0) 8 8 + field (k.p 0) 10 9)), line := none }
      ((((s.takePacket k).modChan k.chan fun q =>
        { q with ladder := { q.ladder with carried := q.ladder.carried ++ [d] } }).ask k.chan 4).answer k stOk 0
          []).settleAll)) ∧
  (∀ (k : Packet) (c key : List Byte) (s : State), Accepts s k 0x49 → s.evr.chal = some c → s.evrKey = some key →
    hmacSha256 key ([0x45, 0x56, 0x52, 0x43] ++ c) = ((k.params.take 8).map wordBytes).flatten →
    exec .evrClear s = .next (
      let t := (s.takePacket k).clearRecords.answer k stOk 0 []
      { t with evr := { t.evr with chal := none } })) ∧
  (∀ (k : Packet) (c key : List Byte) (s : State), Accepts s k 0x49 → s.evr.chal = some c → s.evrKey = some key →
    hmacSha256 key ([0x45, 0x56, 0x52, 0x43] ++ c) ≠ ((k.params.take 8).map wordBytes).flatten →
    exec .evrClear s = .next (
      let t := (((s.takePacket k).note 10 s.newestRseq).raise 561).answer k stRefused 20 []
      { t with evr := { t.evr with chal := none } })) ∧
  (∀ (k : Packet) (s : State), Accepts s k 0x49 → s.evr.chal = none →
    exec .evrClear s = .next (
      let t := (s.takePacket k).answer k stRefused 6 []
      { t with evr := { t.evr with chal := none } })))

/-- JOB_END of a running job, whatever it reports: TRAIN and PATCH_LOAD take what the firmware found and end with their masks
or words; a store's erase and its END end as the flash ended, with ERR 13 and source 556 where it failed, and wait while the
warn decision bars the flash; any other job ends once its engine has, or its last SPD transfer, with the engine's ERR, and
stays RUNNING until then. A job that ends is DONE with its progress full where ERR is 0, FAILED with the ERR otherwise, and
CANCELLED with ERR 0 where it was cancelled. JOB_END of a job that does not run does nothing. At 25 ms a command that still
waits for the weir or for an I3C bus withdraws its request or transfer and is answered FAILED with ERR 24; one whose access has
begun goes on. IDLE_ENTER and IDLE_EXIT are answered then too: a channel that has not got there leaves its entry where it may
and counts as failed, the model's choice (log entry 80). Without a command that holds the ring, or with another one, nothing
happens. -/
def Obligations.JobsEnd : Prop :=
  ((∀ (j : Fin 8) (r : JobEnd) (f : Tab TrnFail 20) (s : State), (s.job j).st = 1 →
    exec (.jobEnd j r f) s = .next (s.endJob j r f).settleAll.sweepFails) ∧
  (∀ (j : Fin 8) (r : JobEnd) (f : Tab TrnFail 20) (s : State), (s.job j).st ≠ 1 → exec (.jobEnd j r f) s = .next s) ∧
  (∀ (b : Job) (res : List Word), b.cancel = false → b.close 0 res = { b with st := 2, err := 0, prog := 1024, res := res }) ∧
  (∀ (b : Job) (e : Nat) (res : List Word), e ≠ 0 → b.cancel = false →
    b.close e res = { b with st := 3, err := e, res := res }) ∧
  (∀ (b : Job) (e : Nat) (res : List Word), b.cancel = true → b.close e res = { b with st := 4, err := 0, res := res }) ∧
  (∀ (j : Fin 8) (r : JobEnd) (f : Tab TrnFail 20) (s : State), (s.job j).st = 1 →
    (s.job j).opc ∉ [0x10, 0x15, 0x18, 0x41, 0x43] → (s.job j).fin = none →
    exec (.jobEnd j r f) s = .next s.settleAll.sweepFails) ∧
  (∀ (j : Fin 8) (r : JobEnd) (f : Tab TrnFail 20) (e : Nat) (s : State), (s.job j).st = 1 →
    (s.job j).opc ∉ [0x10, 0x15, 0x18, 0x41, 0x43] → (s.job j).fin = some e →
    exec (.jobEnd j r f) s = .next (s.modJob j fun b => b.close e (s.job j).words).settleAll.sweepFails) ∧
  (∀ (j : Fin 8) (r : JobEnd) (f : Tab TrnFail 20) (s : State), (s.job j).st = 1 → (s.job j).opc = 0x10 →
    (∀ c, ∀ x ∈ (s.chan c).i3c, x.use ≠ .spd j.val) →
    exec (.jobEnd j r f) s = .next (s.modJob j fun b => b.close 0 (s.job j).words).settleAll.sweepFails) ∧
  (∀ (j : Fin 8) (r : JobEnd) (f : Tab TrnFail 20) (c : ChanId) (x : Xfer) (s : State), (s.job j).st = 1 →
    (s.job j).opc = 0x10 → x ∈ (s.chan c).i3c → x.use = .spd j.val → (s.job j).fin = none →
    exec (.jobEnd j r f) s = .next s.settleAll.sweepFails) ∧
  (∀ (j : Fin 8) (r : JobEnd) (f : Tab TrnFail 20) (s : State), (s.job j).st = 1 → (s.job j).opc = 0x15 →
    exec (.jobEnd j r f) s = .next (
      let x := s.endTrain (s.job j) r f
      (x.1.modJob j fun b => b.close 0 [maskWord x.2.1, maskWord x.2.2]).settleAll.sweepFails)) ∧
  (∀ (j : Fin 8) (r : JobEnd) (f : Tab TrnFail 20) (s : State), (s.job j).st = 1 → (s.job j).opc = 0x18 →
    exec (.jobEnd j r f) s = .next (
      let m := (s.job j).mask &&& ~~~(s.job j).bad
      ((s.endPatchLoad m).modJob j fun b => b.close 0 (s.patchLoadWords m)).settleAll.sweepFails)) ∧
  (∀ (j : Fin 8) (r : JobEnd) (f : Tab TrnFail 20) (x : Store) (s : State), (s.job j).st = 1 → (s.job j).opc = 0x41 →
    r.err = 0 → s.sbm.warn = false ∨ s.flash.under = true → s.flash.store = some x →
    exec (.jobEnd j r f) s = .next (
      let t : State := { s with flash := { s.flash with under := false, store := some { x with erased := true } } }
      (t.modJob j fun b => b.close 0 []).settleAll.sweepFails)) ∧
  (∀ (j : Fin 8) (r : JobEnd) (f : Tab TrnFail 20) (x : Store) (s : State), (s.job j).st = 1 → (s.job j).opc = 0x43 →
    r.err = 0 → s.sbm.warn = false ∨ s.flash.under = true → s.flash.store = some x →
    exec (.jobEnd j r f) s = .next (
      let bad := if headerOk s.flash.img x.total then s.otp.imageErr s.flash.img else some 15
      let t : State := { s with flash := { s.flash with
        under := false, store := none
        desc := match bad with
          | none => some (imgDesc x.total (bytesAt s.flash.img 11 8))
          | some _ => none } }
      (t.modJob j fun b => b.close (bad.getD 0) []).settleAll.sweepFails)) ∧
  (∀ (j : Fin 8) (r : JobEnd) (f : Tab TrnFail 20) (s : State), (s.job j).st = 1 →
    (s.job j).opc = 0x41 ∨ (s.job j).opc = 0x43 → r.err ≠ 0 → s.sbm.warn = false ∨ s.flash.under = true →
    exec (.jobEnd j r f) s = .next (
      (({ s with flash := { s.flash with under := false, store := none } } : State).modJob j fun b =>
        b.close 13 []).raise 556).settleAll.sweepFails) ∧
  (∀ (j : Fin 8) (r : JobEnd) (f : Tab TrnFail 20) (s : State), (s.job j).st = 1 →
    (s.job j).opc = 0x41 ∨ (s.job j).opc = 0x43 → s.sbm.warn = true → s.flash.under = false →
    exec (.jobEnd j r f) s = .next s.settleAll.sweepFails)) ∧
  ((∀ (u : Cur) (s : State), s.cmp.cur = some u →
    (u.opc = 0x16 ∨ u.opc = 0x17) ∧ u.begun = false ∨
      u.opc = 0x12 ∧ (∀ x ∈ (s.chan u.ch).i3c, x.sent = true → x.use ≠ .i3cRead) ∨
      u.opc = 0x14 ∧ (∀ x ∈ (s.chan u.ch).i3c, x.sent = true → x.use ≠ .pmicSet) ∧ (s.chan u.ch).settling = false →
    exec .commandTimeout s = .next (
      ((s.modChan u.ch fun k =>
        { k with i3c := k.i3c.filter fun x => !(x.use == .i3cRead || x.use == .pmicSet)
                 weir := { k.weir with want := (k.weir.want.put 6 false).put 7 false } }).replyCur stFailed 24 []).after u.ch)) ∧
  (∀ (u : Cur) (s : State), s.cmp.cur = some u →
    (u.opc = 0x16 ∨ u.opc = 0x17) ∧ u.begun = true ∨
      u.opc = 0x12 ∧ (∃ x ∈ (s.chan u.ch).i3c, x.sent = true ∧ x.use = .i3cRead) ∨
      u.opc = 0x14 ∧ ((∃ x ∈ (s.chan u.ch).i3c, x.sent = true ∧ x.use = .pmicSet) ∨ (s.chan u.ch).settling = true) ∨
      u.opc ∉ [0x12, 0x14, 0x16, 0x17, 0x31, 0x32] →
    exec .commandTimeout s = .next s) ∧
  (∀ (u : Cur) (s : State), s.cmp.cur = some u → u.opc = 0x32 →
    exec .commandTimeout s = .next
      ({ s with cmp := { s.cmp with cur := some { u with bad := u.mask &&& ~~~(u.ok ||| u.refused) } } } : State).finishIdle) ∧
  (∀ (u : Cur) (s : State), s.cmp.cur = some u → u.opc = 0x31 →
    exec .commandTimeout s = .next (
      let left := allChans.filter fun c => u.mask.getLsbD c.val && !(u.ok ||| u.bad ||| u.refused).getLsbD c.val
      let t := left.foldl State.leaveEntry s
      match t.cmp.cur with
      | none => t
      | some v => ({ t with cmp := { t.cmp with
          cur := some { v with bad := v.mask &&& ~~~(v.ok ||| v.refused) } } } : State).finishIdle)) ∧
  (∀ s : State, s.cmp.cur = none → exec .commandTimeout s = .next s))

/-! ### The whole machine -/

/-- Every command answers a next state whatever the state and the operands, and so does every step: the spec stops the core on
no command, and an event that cannot happen leaves the state as it is (log entry 1). -/
def Obligations.CommandsAnswerNext : Prop :=
  (∀ (i : Instr) (s : State), ∃ t, exec i s = .next t) ∧ (∀ s : State, ∃ t, step s = .next t)

/-- Every step keeps the invariant: the register files and the reply RAM stay canonical, and the recorder buffer, the
page-retire list and the keep-forever area stay within their depths. -/
def Obligations.StepKeepsInvariant : Prop :=
  ∀ s t : State, s.Inv → step s = .next t → t.Inv

/-- A step takes the front of the queue and adds nothing to it, leaves the OTP as it is, and leaves every record of the
keep-forever area in its place. -/
def Obligations.StepKeepsStores : Prop :=
  ∀ s t : State, step s = .next t →
    t.pending = s.pending.tail ∧ t.otp = s.otp ∧ s.flash.kf <+: t.flash.kf

/-- Outside core reset nothing is undone: a step that begins and ends outside core reset takes the tide back for nothing,
clears no CINCH bit, and leaves the sluiced state and the safe state where they stand. A step that leaves the sluiced state
ends in core reset or without supply. -/
def Obligations.OnlyResetUndoes : Prop :=
  (∀ s t : State, step s = .next t → s.inReset = false → t.inReset = false →
    s.tide ≤ t.tide ∧ s.regs.cinch &&& t.regs.cinch = s.regs.cinch ∧
    (s.pers.strobe = true → t.pers.strobe = true) ∧ (s.fcol.safe = true → t.fcol.safe = true)) ∧
  (∀ s t : State, step s = .next t → s.inReset = false → s.pers.strobe = true → t.pers.strobe = false → t.inReset = true)

/-- EHOLD is cleared by the rise and the fall of the always-on supply alone. -/
def Obligations.EholdOnlyPowerClears : Prop :=
  ∀ s t : State, s.pending.head? ≠ some .aonPowerUp → s.pending.head? ≠ some .aonPowerLoss → step s = .next t →
    s.fcol.ehold = true → t.fcol.ehold = true

/-- The housekeeping that follows a command leaves the queue, the power phase, the tide, the OTP, the cadence, the values in
force, the latched faults, EPOCH_CUR, the strobe, the millrace state, the fresh map's init and refusal bits, the SBM's samples,
the boot state and the flash's records alone; it may only append to the posted updates and the fault lines, and EPOCH_DUR only
rises. -/
def Obligations.HousekeepingFrame : Prop :=
  ∀ s t : State, (t = s.settleAll ∨ t = s.sweepFails ∨ t = s.miAfter ∨ (∃ c, t = s.after c) ∨ (∃ p, t = s.portAfter p)) →
    t.pending = s.pending ∧ t.phase = s.phase ∧ t.tide = s.tide ∧ t.otp = s.otp ∧ t.cad = s.cad ∧
    t.regs.live = s.regs.live ∧ t.regs.cinch = s.regs.cinch ∧ s.regs.posted <+: t.regs.posted ∧
    t.fcol.fstat = s.fcol.fstat ∧ t.fcol.fseq = s.fcol.fseq ∧ t.fcol.safe = s.fcol.safe ∧ t.fcol.ehold = s.fcol.ehold ∧
    s.fcol.lines <+: t.fcol.lines ∧ t.pers.cur = s.pers.cur ∧ t.pers.strobe = s.pers.strobe ∧ s.pers.dur ≤ t.pers.dur ∧
    t.mill.st = s.mill.st ∧ t.fresh.busy = s.fresh.busy ∧ t.fresh.refused = s.fresh.refused ∧ t.sbm = s.sbm ∧ t.cmp.boot = s.cmp.boot ∧
    t.flash.kf = s.flash.kf ∧ t.flash.circ = s.flash.circ

/-! ### The address map and the windows (chapters 3 and 4) -/

/-- The set of a port address is the exclusive-OR of the 17 pairs of its page number, the set-local page its upper 32 bits, and
the page of a set and a set-local page is recovered. A line of a plain set lies at channel s mod 5 and local address (s ÷ 5) ×
256 + A[7:0]; a line of a span set at position (p + 1 + i) mod 5 and s × 64 + A[5:0], never at the parity position p = s mod 5.
Two addresses with one set and one set-local address are the same, and two with one channel and one channel-local address too.
-/
def Obligations.AddressMap : Prop :=
  (∀ addr < 2 ^ 46,
    (setOfAddr addr).val = (List.range 17).foldl (fun x k => x ^^^ addr / 2 ^ (12 + 2 * k) % 4) 0 ∧
    localAddr addr = addr / 2 ^ 14 * 4096 + addr % 4096 ∧
    pageOf (setOfAddr addr) (addr / 2 ^ 14) = addr / 4096) ∧
  (∀ (span : SetId → Bool) (addr : Nat),
    let t := spotOf span addr
    let s := localAddr addr / 256
    t.set = setOfAddr addr ∧ t.stripe = s ∧ t.idx = addr / 64 % 4 ∧
    (span (setOfAddr addr) = false →
      t.ch.val = 5 * (setOfAddr addr).val + s % 5 ∧
      t.line * 64 + addr % 64 = s / 5 * 256 + localAddr addr % 256) ∧
    (span (setOfAddr addr) = true →
      t.ch.val = 5 * (setOfAddr addr).val + (parPos s + 1 + t.idx) % 5 ∧ t.ch ≠ chanOf (setOfAddr addr) (parPos s) ∧
      t.line * 64 + addr % 64 = s * 64 + localAddr addr % 64)) ∧
  (∀ s, parPos s = s % 5) ∧
  (∀ a b, a < 2 ^ 46 → b < 2 ^ 46 → setOfAddr a = setOfAddr b → localAddr a = localAddr b → a = b) ∧
  (∀ (span : SetId → Bool) (a b : Nat), a < 2 ^ 46 → b < 2 ^ 46 →
    (spotOf span a).ch = (spotOf span b).ch → (spotOf span a).line = (spotOf span b).line → a / 64 = b / 64)

/-- A window matches where EN is set, SIZE lies in 12 to 46 and ADDR and BASE agree in every bit from SIZE up. A request that
matches a window without the permission is refused, privileged or not; the default map is consulted for a privileged request
alone, and only when no enabled window matches. -/
def Obligations.WindowsMatch : Prop :=
  (∀ (a b : Word) (addr : Nat), addr < 2 ^ 46 →
    (winMatch a b addr = true ↔
      flag a 0 = true ∧ 12 ≤ field b 19 14 ∧ field b 19 14 ≤ 46 ∧
      ∀ n, field b 19 14 ≤ n → n ≤ 45 → addr.testBit n = (regionBase a b).testBit n)) ∧
  (∀ (s : State) (p : PortId) (r : Req) (w : Nat) (a b : Word), s.window p r.addr = some (w, a, b) →
    flag a (needBit r.opc).1 = false →
    (s.wcu p r).pass = false ∧ (s.wcu p r).reason = (needBit r.opc).2 ∧ (s.wcu p r).win = w ∧
    s.wcu p { r with priv := !r.priv } = s.wcu p r) ∧
  (∀ (s : State) (p : PortId) (r : Req) (w : Nat) (a b : Word), s.window p r.addr = some (w, a, b) →
    w < 32 ∧ winMatch a b r.addr = true ∧ a = s.live (portKey p.val (8 * w)) ∧ b = s.live (portKey p.val (8 * w + 4)) ∧
    ∀ v < w, winMatch (s.live (portKey p.val (8 * v))) (s.live (portKey p.val (8 * v + 4))) r.addr = false) ∧
  (∀ (s : State) (p : PortId) (r : Req), s.window p r.addr = none →
    ((s.wcu p r).pass = true ↔
      r.priv = true ∧ flag (s.port p).defmap 3 = true ∧ (s.port p).inDefault r.addr = true))

/-! ### Tables, codes and counts -/

/-- A set of ranges with a range added has the members it had and the range's, and with one removed those outside it. -/
def Obligations.RangeSets : Prop :=
  ∀ (t : ISet) (a b x : Nat),
    (t.add a b).mem x = (t.mem x || (decide (a ≤ x) && decide (x < b))) ∧
    (t.del a b).mem x = (t.mem x && !(decide (a ≤ x) && decide (x < b)))

/-- A line encoded and stored decodes as clean, to the same 64 bytes and with no symbol changed, whatever device of its rank is
erased; the poison signature decodes as poison, with the poison pattern as its data. -/
def Obligations.SaddleRoundTrip : Prop :=
  (∀ (d : Line) (er : Option (Nat × Nat)), decodeStored er (encodeLine d) = ⟨.clean, d, 0⟩) ∧
  (∀ er : Option (Nat × Nat), decodeStored er poisonStored = ⟨.poison, poisonLine, 0⟩)

/-- The period of a refresh window or a retraining pause is at least 1,024 and an epoch cut's 3,200 to 102,400, and a PER
within those limits stands; an entry with KIND 0 does not act, and of the entries in use with KIND 3 the lowest-numbered alone.
-/
def Obligations.CadencePeriods : Prop :=
  (∀ kind per : Nat, kind ≠ 3 → cadPeriod kind per = if per < 1024 then 1024 else per) ∧
  (∀ per : Nat, cadPeriod 3 per = if per < 3200 then 3200 else if per > 102400 then 102400 else per) ∧
  (∀ (s : State) (k : Nat), s.cadKind k = 0 → s.cadActs k = false) ∧
  (∀ (s : State) (k : Nat), s.cadKind k = 3 → (s.cadActs k = true ↔ ∀ j < k, s.cadKind j ≠ 3)) ∧
  (∀ (s : State) (k : Nat), s.cadKind k ≠ 0 → s.cadKind k ≠ 3 → s.cadActs k = true) ∧
  (∀ (s : State) (k : Nat), s.cadKind k ≠ 0 ↔
    flag (s.live (0x8000 + 0x20 * k)) 0 = true ∧ field (s.live (0x8000 + 0x20 * k)) 2 1 ≠ 0)

/-- The count that a refresh-management list gives a bank. -/
def Sys2Proof.Machine.rfmOf (l : List (Bank × Nat)) (b : Bank) : Nat := ((l.find? fun e => e.1 == b).map Prod.snd).getD 0

/-- With RFM_CTL.EN set and one count to a bank, an ACT adds one to its bank's count, a refresh that covers a bank subtracts
RAADEC and an RFM RAAIMT, stopping at zero; the counts of the other banks and of the other commands stand, and there is still
one count to a bank. -/
def Obligations.RefreshManagementCount : Prop :=
  ∀ (s : State) (c : ChanId) (x : Sub) (m : Cmd) (b : Bank), flag (s.agent c 0x034) 0 = true →
    ((s.sel c x).rfm.map Prod.fst).Nodup →
    (((s.countCmd c x m).sel c x).rfm.map Prod.fst).Nodup ∧
    rfmOf ((s.countCmd c x m).sel c x).rfm b =
      (match m.kind with
       | .act => if b = m.bank then rfmOf (s.sel c x).rfm b + 1 else rfmOf (s.sel c x).rfm b
       | .refab | .refsb => if m.covers b then rfmOf (s.sel c x).rfm b - s.tim c 34 else rfmOf (s.sel c x).rfm b
       | .rfmab | .rfmsb => if m.covers b then rfmOf (s.sel c x).rfm b - s.tim c 32 else rfmOf (s.sel c x).rfm b
       | _ => rfmOf (s.sel c x).rfm b)

/-- MI's fill for flood is the occupancy of some lane × 16 ÷ 1,024, rounded down, and no lane's is larger. -/
def Obligations.MiFill : Prop :=
  ∀ s : State, (∀ n, (s.mill.mi.at n).buf.length * 16 / 1024 ≤ s.miFill) ∧
    ∃ n, s.miFill = (s.mill.mi.at n).buf.length * 16 / 1024

/-- A write of WCU_VSTAT with the current SEQ clears the record and its two address registers together, and one with another
SEQ clears nothing; a refusal that meets a record leaves the address registers as they are, and counts and advances SEQ alone.
-/
def Obligations.ViolationRecordClears : Prop :=
  (∀ (p : PortId) (data : Word) (s : State), s.awake = true → field data 31 28 = (s.port p).vstat.seq →
    ∃ t, exec (.wcuVstatClear p data) s = .next t ∧ t.port p = { s.port p with vstat := (t.port p).vstat } ∧
      (t.port p).vstat.word % 2 ^ 28 = 0 ∧ (t.port p).vstat.seq = (s.port p).vstat.seq ∧
      (t.port p).vstat.lo = 0 ∧ (t.port p).vstat.hi = 0 ∧ ∀ o, o ≠ p → t.port o = s.port o) ∧
  (∀ (p : PortId) (data : Word) (s : State), s.awake = true → field data 31 28 ≠ (s.port p).vstat.seq →
    exec (.wcuVstatClear p data) s = .next s) ∧
  (∀ (v : Vstat) (r : Req) (d : WcuRes), v.valid = true →
    (v.take r d).lo = v.lo ∧ (v.take r d).hi = v.hi ∧
    v.take r d = { v with count := min 255 (v.count + 1), seq := (v.seq + 1) % 16 })
end

