-- ==== Sys2Proof/Laws/Cells.lean ====
section
/-! SUPPORT. The sparse tables keep their canonical form, and a word reads back as it was written. -/

namespace Sys2Proof.Machine

set_option Elab.async false
set_option linter.all false

theorem Cells.wfFrom_mono {d : Nat → Word} {l : List (Nat × Word)} {a b : Nat} (hab : a ≤ b)
    (h : Cells.wfFrom d b l = true) : Cells.wfFrom d a l = true := by
  cases l with
  | nil => rfl
  | cons x l =>
    simp only [Cells.wfFrom, Bool.and_eq_true, decide_eq_true_eq] at h ⊢
    exact ⟨⟨by omega, h.1.2⟩, h.2⟩

theorem Cells.setIn_wf {d : Nat → Word} {l : List (Nat × Word)} {lo a : Nat} (v : Word) (ha : lo ≤ a)
    (h : Cells.wfFrom d lo l = true) : Cells.wfFrom d lo (Cells.setIn (d a) l a v) = true := by
  induction l generalizing lo with
  | nil =>
    simp only [Cells.setIn]
    split <;> simp [Cells.wfFrom, *]
  | cons x l ih =>
    obtain ⟨k, w⟩ := x
    simp only [Cells.wfFrom, Bool.and_eq_true, decide_eq_true_eq] at h
    obtain ⟨⟨h1, h2⟩, h3⟩ := h
    simp only [Cells.setIn]
    split
    · split
      · simp [Cells.wfFrom, *]
      · simp only [Cells.wfFrom, Bool.and_eq_true, decide_eq_true_eq]
        exact ⟨⟨ha, by assumption⟩, ⟨by omega, h2⟩, h3⟩
    · split
      · subst a
        split
        · exact Cells.wfFrom_mono (by omega) h3
        · simp [Cells.wfFrom, *]
      · simp only [Cells.wfFrom, Bool.and_eq_true, decide_eq_true_eq]
        exact ⟨⟨h1, h2⟩, ih (by omega) h3⟩

theorem Cells.set_wf {d : Nat → Word} {c : Cells} (a : Nat) (v : Word) (h : c.wf d = true) : (c.set d a v).wf d = true :=
  Cells.setIn_wf v (Nat.zero_le a) h

theorem Cells.setAll_wf {d : Nat → Word} {c : Cells} (a : Nat) (ws : List Word) (h : c.wf d = true) :
    (c.setAll d a ws).wf d = true := by
  induction ws generalizing c a with
  | nil => exact h
  | cons w ws ih => exact ih (a + 1) (Cells.set_wf a w h)

theorem Cells.filter_wf {d : Nat → Word} {l : List (Nat × Word)} {lo : Nat} (p : Nat × Word → Bool)
    (h : Cells.wfFrom d lo l = true) : Cells.wfFrom d lo (l.filter p) = true := by
  induction l generalizing lo with
  | nil => rfl
  | cons x l ih =>
    simp only [Cells.wfFrom, Bool.and_eq_true, decide_eq_true_eq] at h
    rw [List.filter_cons]
    split
    · simp only [Cells.wfFrom, Bool.and_eq_true, decide_eq_true_eq]
      exact ⟨h.1, ih h.2⟩
    · exact Cells.wfFrom_mono (by omega) (ih h.2)

theorem Cells.keep_wf {d : Nat → Word} {c : Cells} (p : Nat → Bool) (h : c.wf d = true) : (c.keep p).wf d = true :=
  Cells.filter_wf _ h

theorem Cells.empty_wf (d : Nat → Word) : Cells.wf d {} = true := rfl

/-- In a rising list with every address above `a`, nothing is listed at `a`. -/
theorem Cells.findIn_below {d : Nat → Word} {l : List (Nat × Word)} {lo a : Nat} (h : Cells.wfFrom d lo l = true)
    (ha : a < lo) : Cells.findIn l a = none := by
  induction l generalizing lo with
  | nil => rfl
  | cons x l ih =>
    simp only [Cells.wfFrom, Bool.and_eq_true, decide_eq_true_eq] at h
    simp only [Cells.findIn]
    rw [if_neg (by omega)]
    exact ih h.2 (by omega)

theorem Cells.findIn_setIn_ne (dv : Word) (l : List (Nat × Word)) {a b : Nat} (v : Word) (hab : b ≠ a) :
    Cells.findIn (Cells.setIn dv l a v) b = Cells.findIn l b := by
  induction l with
  | nil => simp only [Cells.setIn]; split <;> simp [Cells.findIn, Ne.symm hab]
  | cons x l ih =>
    simp only [Cells.setIn]
    split
    · split <;> simp [Cells.findIn, Ne.symm hab]
    · split
      · subst a; split <;> simp [Cells.findIn, Ne.symm hab]
      · simp [Cells.findIn, ih]

theorem Cells.findIn_setIn_eq {d : Nat → Word} {l : List (Nat × Word)} {lo : Nat} (a : Nat) (v : Word)
    (h : Cells.wfFrom d lo l = true) : (Cells.findIn (Cells.setIn (d a) l a v) a).getD (d a) = v := by
  induction l generalizing lo with
  | nil => simp only [Cells.setIn]; split <;> simp [Cells.findIn, *]
  | cons x l ih =>
    obtain ⟨k, w⟩ := x
    simp only [Cells.wfFrom, Bool.and_eq_true, decide_eq_true_eq] at h
    simp only [Cells.setIn]
    split
    · split
      · simp only [Cells.findIn]
        rw [if_neg (by omega), Cells.findIn_below h.2 (by omega)]
        simp [*]
      · simp [Cells.findIn]
    · split
      · subst a
        split
        · rw [Cells.findIn_below h.2 (by omega)]
          simp [*]
        · simp [Cells.findIn]
      · simp only [Cells.findIn]
        rw [if_neg (by omega)]
        exact ih h.2

theorem Cells.get_set {d : Nat → Word} {c : Cells} (a : Nat) (v : Word) (h : c.wf d = true) : (c.set d a v).get d a = v :=
  Cells.findIn_setIn_eq a v h

theorem Cells.get_set_ne {d : Nat → Word} {c : Cells} {a b : Nat} (v : Word) (hab : b ≠ a) :
    (c.set d a v).get d b = c.get d b := by
  simp only [Cells.get, Cells.set]
  rw [Cells.findIn_setIn_ne _ _ v hab]

end Sys2Proof.Machine
end

