-- ==== Sys2Proof/Laws/Kept.lean ====
section
/-! SUPPORT. What every operation of the core keeps, as one relation between the state before and the state after. -/

namespace Sys2Proof.Machine

set_option Elab.async false
set_option linter.all false

/-- What every effect on the core keeps: the queue, the OTP contents, the invariant, the keep-forever area but for records
added, a standing EHOLD; core reset is not left, and where it does not hold afterwards the tide has not gone back, no cinch
bit has cleared, and the strobe and the safe state stand where they stood. -/
structure Kept (s t : State) : Prop where
  pending : t.pending = s.pending
  otp : t.otp = s.otp
  inv : s.Inv → t.Inv
  kf : s.flash.kf <+: t.flash.kf
  ehold : s.fcol.ehold = true → t.fcol.ehold = true
  stay : s.inReset = true → t.inReset = true
  mono : t.inReset = false → s.tide ≤ t.tide ∧ s.regs.cinch &&& t.regs.cinch = s.regs.cinch ∧
    (s.pers.strobe = true → t.pers.strobe = true) ∧ (s.fcol.safe = true → t.fcol.safe = true)

/-- What every command keeps, the always-on supply's rise and fall and the end of a bring-back row among them. -/
structure Passed (s t : State) : Prop where
  pending : t.pending = s.pending
  otp : t.otp = s.otp
  inv : s.Inv → t.Inv
  kf : s.flash.kf <+: t.flash.kf

theorem Kept.passed {s t : State} (h : Kept s t) : Passed s t := ⟨h.pending, h.otp, h.inv, h.kf⟩

theorem Kept.refl (s : State) : Kept s s := by
  constructor <;> simp

theorem and_sub_trans {n : Nat} {a b c : BitVec n} (h : a &&& b = a) (k : b &&& c = b) : a &&& c = a := by
  rw [← h, BitVec.and_assoc, k]

theorem Kept.trans {s t u : State} (h : Kept s t) (k : Kept t u) : Kept s u where
  pending := k.pending.trans h.pending
  otp := k.otp.trans h.otp
  inv i := k.inv (h.inv i)
  kf := h.kf.trans k.kf
  ehold i := k.ehold (h.ehold i)
  stay i := k.stay (h.stay i)
  mono i := by
    have j : t.inReset = false := by
      cases e : t.inReset
      · rfl
      · rw [k.stay e] at i; exact i
    obtain ⟨a, b, c, d⟩ := h.mono j
    obtain ⟨a', b', c', d'⟩ := k.mono i
    exact ⟨Nat.le_trans a a', and_sub_trans b b', fun e => c' (c e), fun e => d' (d e)⟩

theorem Kept.after {s t u : State} (k : Kept t u) (h : Kept s t) : Kept s u := h.trans k

/-- A state kept, put where another is built from it. -/
theorem Kept.cut {s t u : State} (h : Kept s t) (k : Kept s t → Kept s u) : Kept s u := k h

/-- An update of the fields that `Kept` does not speak of. -/
theorem Kept.upd {s t : State} {n i : Nat} {r : Regs} {po : Tab Port 24} {xb : Xbar} {fo : List Form} {rc : List Recon}
    {ch : Tab Chan 20} {sp : Tab Span 4} {fr : Fresh} {ga : InjArm} {ca : Cadence} {pe : Pers} {mi : Mill} {re : Retire}
    {fc : Fcol} {ev : Evr} {fl : Flash} {sb : Sbm} {cm : Cmp} (h : Kept s t)
    (hr : r.cinch = t.regs.cinch ∧ r.prog = t.regs.prog ∧ r.live = t.regs.live := by exact ⟨rfl, rfl, rfl⟩)
    (hp : pe.strobe = t.pers.strobe := by rfl) (hre : re.list = t.retire.list := by rfl)
    (hf : fc.safe = t.fcol.safe ∧ fc.ehold = t.fcol.ehold := by exact ⟨rfl, rfl⟩)
    (he : ev.buf = t.evr.buf := by rfl) (hk : fl.kf = t.flash.kf := by rfl) (hc : cm.rpl = t.cmp.rpl := by rfl) :
    Kept s ⟨t.pending, t.phase, t.tide, n, i, r, po, xb, fo, rc, ch, sp, fr, ga, ca, pe, mi, re, fc, ev, fl, sb, t.otp, cm⟩ := by
  refine h.trans ?_
  obtain ⟨h1, h2, h3⟩ := hr
  obtain ⟨h4, h5⟩ := hf
  constructor <;> simp only [State.Inv, State.canonical, State.bounded, State.inReset, State.ticking, *] <;> simp

/-- An update that raises what may only rise. -/
theorem Kept.grow {s t : State} {r : Regs} {pe : Pers} {mi : Mill} {fc : Fcol} (h : Kept s t)
    (hr : r.prog = t.regs.prog ∧ r.live = t.regs.live := by exact ⟨rfl, rfl⟩)
    (hc : t.regs.cinch &&& r.cinch = t.regs.cinch := by exact BitVec.and_self)
    (hp : t.pers.strobe = true → pe.strobe = true := by exact fun h => h)
    (hs : t.fcol.safe = true → fc.safe = true := by exact fun h => h)
    (he : t.fcol.ehold = true → fc.ehold = true := by exact fun h => h) :
    Kept s { t with regs := r, pers := pe, mill := mi, fcol := fc } := by
  refine h.trans ?_
  obtain ⟨h1, h2⟩ := hr
  constructor <;> simp only [State.Inv, State.canonical, State.bounded, State.inReset, State.ticking, h1, h2]
  · exact id
  · exact List.prefix_refl _
  · exact he
  · exact id
  · exact fun _ => ⟨Nat.le_refl _, hc, hp, hs⟩

/-- An effect after which core reset holds. -/
theorem Kept.of_reset {s t : State} (hi : s.Inv → t.Inv) (ht : t.inReset = true) (h1 : t.pending = s.pending := by rfl)
    (h2 : t.otp = s.otp := by rfl) (h3 : t.fcol.ehold = s.fcol.ehold := by rfl) (h4 : t.flash.kf = s.flash.kf := by rfl) :
    Kept s t := by
  constructor <;> first | assumption | simp [*]

theorem Kept.foldl {α : Type} {s t : State} {l : List α} {f : State → α → State} (hf : ∀ t x, Kept t (f t x))
    (h : Kept s t) : Kept s (l.foldl f t) := by
  induction l generalizing t with
  | nil => exact h
  | cons x l ih => exact ih (h.trans (hf t x))

/-- An update of the invariant's parts and nothing else that `Kept` speaks of but the registers' canonical form. -/
theorem Kept.of_inv {s t : State} (hi : s.Inv → t.Inv) (h1 : t.pending = s.pending := by rfl) (h2 : t.otp = s.otp := by rfl)
    (h3 : t.phase = s.phase := by rfl) (h4 : t.tide = s.tide := by rfl) (h5 : t.regs.cinch = s.regs.cinch := by rfl)
    (h6 : t.pers.strobe = s.pers.strobe := by rfl) (h7 : t.fcol.safe = s.fcol.safe := by rfl)
    (h8 : t.fcol.ehold = s.fcol.ehold := by rfl) (h9 : t.flash.kf = s.flash.kf := by rfl) : Kept s t := by
  constructor <;> first | assumption | simp [State.inReset, State.ticking, *]

end Sys2Proof.Machine
end

