-- ==== Sys2Proof/Laws/KeptOps.lean ====
section
/-! SUPPORT. What the operations of Machine/Ops.lean keep. -/

namespace Sys2Proof.Machine

set_option Elab.async false
set_option linter.all false

theorem State.modPort_kept (s : State) (p : PortId) (f : Port → Port) : Kept s (State.modPort s p f) := by
  unfold State.modPort
  repeat' first
    | with_reducible exact Kept.refl _
    | with_reducible refine Kept.upd ?_

theorem State.modChan_kept (s : State) (c : ChanId) (f : Chan → Chan) : Kept s (State.modChan s c f) := by
  unfold State.modChan
  repeat' first
    | with_reducible exact Kept.refl _
    | with_reducible refine Kept.upd ?_

theorem State.modSpan_kept (s : State) (m : SetId) (f : Span → Span) : Kept s (State.modSpan s m f) := by
  unfold State.modSpan
  repeat' first
    | with_reducible exact Kept.refl _
    | with_reducible refine Kept.upd ?_

theorem State.modSel_kept (s : State) (c : ChanId) (x : Sub) (f : Sel → Sel) : Kept s (State.modSel s c x f) := by
  unfold State.modSel
  repeat' first
    | with_reducible exact Kept.refl _
    | with_reducible apply Kept.after (State.modChan_kept ..)
    | dsimp +zetaDelta only

theorem State.eachChan_kept (s : State) (cs : List ChanId) (f : State → ChanId → State) (hf : ∀ t c, Kept t (f t c)) :
    Kept s (State.eachChan s cs f) := Kept.foldl hf (Kept.refl s)

theorem State.stamp_kept (s : State) : Kept s (State.stamp s) := by
  unfold State.stamp
  repeat' first
    | with_reducible exact Kept.refl _
    | with_reducible refine Kept.upd ?_

theorem State.nextCclk_kept (s : State) : Kept s (State.nextCclk s) := by
  unfold State.nextCclk
  repeat' first
    | with_reducible exact Kept.refl _
    | dsimp +zetaDelta only
    | with_reducible refine Kept.upd ?_

theorem State.setProg_kept (s : State) (key : Nat) (w : Word) : Kept s (State.setProg s key w) :=
  Kept.of_inv fun i => ⟨⟨Cells.set_wf key w i.1.1, i.1.2⟩, i.2⟩

theorem State.setLive_kept (s : State) (key : Nat) (w : Word) : Kept s (State.setLive s key w) :=
  Kept.of_inv fun i => ⟨⟨i.1.1, Cells.set_wf key w i.1.2.1, i.1.2.2⟩, i.2⟩

theorem State.raise_kept (s : State) (src : Nat) : Kept s (State.raise s src) := by
  unfold State.raise
  repeat' first
    | with_reducible exact Kept.refl _
    | with_reducible refine Kept.upd ?_

theorem State.raiseChan_kept (s : State) (n : ChanId) (k : Nat) : Kept s (State.raiseChan s n k) := by
  unfold State.raiseChan
  repeat' first
    | with_reducible exact Kept.refl _
    | with_reducible apply Kept.after (State.raise_kept ..)

theorem State.record_kept (s : State) (type source cls : Nat) (detail : Nat) :
    Kept s (State.record s type source cls detail) := by
  simp only [State.record]
  split
  · rename_i hlt
    have key : ∀ (u : State) (e : Evr), Kept s u → e.buf.length ≤ evrDepth → Kept s { u with evr := e } := fun u e hu he =>
      hu.trans (Kept.of_inv fun i => ⟨i.1, he, i.2.2⟩)
    refine key _ _ ?_ (by simp only [List.length_append, List.length_singleton]; exact hlt)
    split
    · exact Kept.upd (Kept.refl s)
    · exact Kept.refl s
  · exact Kept.trans (Kept.upd (Kept.refl s)) (State.raise_kept ..)

theorem State.note_kept (s : State) (type detail : Nat) : Kept s (State.note s type detail) := by
  unfold State.note
  repeat' first
    | with_reducible exact Kept.refl _
    | with_reducible apply Kept.after (State.record_kept ..)

theorem State.askXfers_kept (s : State) (c : ChanId) (xs : List Xfer) : Kept s (State.askXfers s c xs) := by
  unfold State.askXfers
  repeat' first
    | with_reducible assumption
    | with_reducible exact Kept.refl _
    | ((try lift_lets); intro x; first
        | (refine Kept.cut (t := x) ?_ fun h => ?_; rotate_left; clear_value x; rotate_left; (try unfold x))
        | skip)
    | with_reducible apply Kept.after (State.modChan_kept ..)
    | dsimp +zetaDelta only
    | with_reducible refine Kept.upd ?_

end Sys2Proof.Machine
end

