-- ==== Sys2Proof/Laws/KeptEpoch.lean ====
section
/-! SUPPORT. What the operations of Machine/Epoch.lean keep. -/

namespace Sys2Proof.Machine

set_option Elab.async false
set_option linter.all false

theorem State.advanceLoc_kept (s : State) : Kept s (State.advanceLoc s) := by
  unfold State.advanceLoc
  repeat' first
    | with_reducible assumption
    | with_reducible exact Kept.refl _
    | ((try lift_lets); intro x; first
        | (refine Kept.cut (t := x) ?_ fun h => ?_; rotate_left; clear_value x; rotate_left; (try unfold x))
        | skip)
    | split
    | dsimp +zetaDelta only
    | with_reducible refine Kept.upd ?_

theorem State.advanceDur_kept (s : State) : Kept s (State.advanceDur s) := by
  unfold State.advanceDur
  repeat' first
    | with_reducible assumption
    | with_reducible exact Kept.refl _
    | ((try lift_lets); intro x; first
        | (refine Kept.cut (t := x) ?_ fun h => ?_; rotate_left; clear_value x; rotate_left; (try unfold x))
        | skip)
    | split
    | dsimp +zetaDelta only
    | with_reducible refine Kept.upd ?_

theorem State.settle_kept (s : State) : Kept s (State.settle s) := by
  unfold State.settle
  repeat' first
    | with_reducible exact Kept.refl _
    | with_reducible apply Kept.after (State.advanceLoc_kept ..)
    | with_reducible apply Kept.after (State.advanceDur_kept ..)

theorem State.updWithhold_kept (s : State) : Kept s (State.updWithhold s) := by
  unfold State.updWithhold
  repeat' first
    | with_reducible assumption
    | with_reducible exact Kept.refl _
    | ((try lift_lets); intro x; first
        | (refine Kept.cut (t := x) ?_ fun h => ?_; rotate_left; clear_value x; rotate_left; (try unfold x))
        | skip)
    | split
    | dsimp +zetaDelta only
    | with_reducible refine Kept.upd ?_

theorem State.updFlood_kept (s : State) (p : PortId) : Kept s (State.updFlood s p) := by
  unfold State.updFlood
  repeat' first
    | with_reducible exact Kept.refl _
    | with_reducible apply Kept.after (State.modPort_kept ..)
    | dsimp +zetaDelta only
    | with_reducible refine Kept.upd ?_

theorem State.updMiFlood_kept (s : State) : Kept s (State.updMiFlood s) := by
  unfold State.updMiFlood
  repeat' first
    | with_reducible assumption
    | with_reducible exact Kept.refl _
    | ((try lift_lets); intro x; first
        | (refine Kept.cut (t := x) ?_ fun h => ?_; rotate_left; clear_value x; rotate_left; (try unfold x))
        | skip)
    | split
    | dsimp +zetaDelta only
    | with_reducible refine Kept.upd ?_

theorem State.spendG_kept (s : State) (b : Option Bad) : Kept s (State.spendG s b) := by
  unfold State.spendG
  repeat' first
    | with_reducible exact Kept.refl _
    | split
    | with_reducible refine Kept.upd ?_

theorem State.hitG_kept (s : State) : Kept s (State.hitG s) := by
  unfold State.hitG
  repeat' first
    | with_reducible exact Kept.refl _
    | with_reducible refine Kept.upd ?_

theorem State.readG_kept (s : State) (src : Nat) (b : Option Bad) : Kept s (State.readG s src b) := by
  unfold State.readG
  repeat' first
    | with_reducible assumption
    | with_reducible exact Kept.refl _
    | ((try lift_lets); intro x; first
        | (refine Kept.cut (t := x) ?_ fun h => ?_; rotate_left; clear_value x; rotate_left; (try unfold x))
        | skip)
    | with_reducible apply Kept.after (State.hitG_kept ..)
    | with_reducible apply Kept.after (State.raise_kept ..)
    | split
    | dsimp +zetaDelta only
    | with_reducible refine Kept.upd ?_

end Sys2Proof.Machine
end

