-- ==== Sys2Proof/Laws/KeptPort.lean ====
section
/-! SUPPORT. What the operations of Machine/Port.lean keep. -/

namespace Sys2Proof.Machine

set_option Elab.async false
set_option linter.all false

theorem State.portErr_kept (s : State) (p : PortId) (reason : Nat) (tag : BitVec 12) : Kept s (State.portErr s p reason tag) := by
  unfold State.portErr
  repeat' first
    | with_reducible exact Kept.refl _
    | with_reducible apply Kept.after (State.modPort_kept ..)
    | with_reducible apply Kept.after (State.raise_kept ..)
    | dsimp +zetaDelta only

theorem State.safeRequest_kept (s : State) (p : PortId) (w : BitVec 144) : Kept s (State.safeRequest s p w) := by
  unfold State.safeRequest
  repeat' first
    | with_reducible assumption
    | with_reducible exact Kept.refl _
    | ((try lift_lets); intro x; first
        | (refine Kept.cut (t := x) ?_ fun h => ?_; rotate_left; clear_value x; rotate_left; (try unfold x))
        | skip)
    | with_reducible apply Kept.after (State.modPort_kept ..)
    | with_reducible apply Kept.after (State.stamp_kept ..)
    | split
    | dsimp +zetaDelta only
    | with_reducible refine Kept.upd ?_

theorem State.bufferRequest_kept (s : State) (p : PortId) (r : Req) : Kept s (State.bufferRequest s p r) := by
  unfold State.bufferRequest
  repeat' first
    | with_reducible assumption
    | with_reducible exact Kept.refl _
    | ((try lift_lets); intro x; first
        | (refine Kept.cut (t := x) ?_ fun h => ?_; rotate_left; clear_value x; rotate_left; (try unfold x))
        | skip)
    | with_reducible apply Kept.after (State.modPort_kept ..)
    | with_reducible apply Kept.after (State.spendG_kept ..)
    | with_reducible apply Kept.after (State.stamp_kept ..)
    | split
    | dsimp +zetaDelta only
    | with_reducible refine Kept.upd ?_

theorem State.takeRequest_kept (s : State) (p : PortId) (w : BitVec 144) (par : BitVec 18) : Kept s (State.takeRequest s p w par) := by
  unfold State.takeRequest
  repeat' first
    | with_reducible assumption
    | with_reducible exact Kept.refl _
    | ((try lift_lets); intro x; first
        | (refine Kept.cut (t := x) ?_ fun h => ?_; rotate_left; clear_value x; rotate_left; (try unfold x))
        | skip)
    | with_reducible apply Kept.after (State.safeRequest_kept ..)
    | with_reducible apply Kept.after (State.portErr_kept ..)
    | with_reducible apply Kept.after (State.updFlood_kept ..)
    | with_reducible apply Kept.after (State.bufferRequest_kept ..)
    | with_reducible apply Kept.after (State.modPort_kept ..)
    | split
    | dsimp +zetaDelta only
    | with_reducible refine Kept.upd ?_

theorem State.takeBeat_kept (s : State) (p : PortId) (d : Line) (par : BitVec 64) (last : Bool) : Kept s (State.takeBeat s p d par last) := by
  unfold State.takeBeat
  repeat' first
    | with_reducible assumption
    | with_reducible exact Kept.refl _
    | ((try lift_lets); intro x; first
        | (refine Kept.cut (t := x) ?_ fun h => ?_; rotate_left; clear_value x; rotate_left; (try unfold x))
        | skip)
    | with_reducible apply Kept.after (State.modPort_kept ..)
    | with_reducible apply Kept.after (State.portErr_kept ..)
    | with_reducible apply Kept.after (State.spendG_kept ..)
    | with_reducible apply Kept.after (State.updFlood_kept ..)
    | split
    | dsimp +zetaDelta only
    | with_reducible refine Kept.upd ?_

theorem State.takeRspCredit_kept (s : State) (p : PortId) : Kept s (State.takeRspCredit s p) := by
  unfold State.takeRspCredit
  repeat' first
    | with_reducible assumption
    | with_reducible exact Kept.refl _
    | ((try lift_lets); intro x; first
        | (refine Kept.cut (t := x) ?_ fun h => ?_; rotate_left; clear_value x; rotate_left; (try unfold x))
        | skip)
    | with_reducible apply Kept.after (State.portErr_kept ..)
    | with_reducible apply Kept.after (State.modPort_kept ..)
    | split
    | dsimp +zetaDelta only
    | with_reducible refine Kept.upd ?_

theorem State.violate_kept (s : State) (p : PortId) (r : Req) (d : WcuRes) : Kept s (State.violate s p r d) := by
  unfold State.violate
  repeat' first
    | with_reducible assumption
    | with_reducible exact Kept.refl _
    | ((try lift_lets); intro x; first
        | (refine Kept.cut (t := x) ?_ fun h => ?_; rotate_left; clear_value x; rotate_left; (try unfold x))
        | skip)
    | with_reducible apply Kept.after (State.modPort_kept ..)
    | with_reducible apply Kept.after (State.raise_kept ..)
    | split
    | dsimp +zetaDelta only
    | with_reducible refine Kept.upd ?_

theorem State.countWbx_kept (s : State) (p : PortId) (r : Req) (d : WcuRes) : Kept s (State.countWbx s p r d) := by
  unfold State.countWbx
  repeat' first
    | with_reducible exact Kept.refl _
    | with_reducible apply Kept.after (State.modPort_kept ..)
    | split
    | dsimp +zetaDelta only
    | with_reducible refine Kept.upd ?_

end Sys2Proof.Machine
end

