-- ==== Sys2Proof/Laws/KeptGrain.lean ====
section
/-! SUPPORT. What the operations of Machine/Grain.lean keep. -/

namespace Sys2Proof.Machine

set_option Elab.async false
set_option linter.all false

theorem State.lookFresh_kept (s : State) (c : ChanId) (line : Nat) : Kept s (State.lookFresh s c line) := by
  unfold State.lookFresh
  repeat' first
    | with_reducible assumption
    | with_reducible exact Kept.refl _
    | ((try lift_lets); intro x; first
        | (refine Kept.cut (t := x) ?_ fun h => ?_; rotate_left; clear_value x; rotate_left; (try unfold x))
        | skip)
    | with_reducible apply Kept.after (State.readG_kept ..)
    | with_reducible apply Kept.after (State.modChan_kept ..)
    | split
    | dsimp +zetaDelta only
    | with_reducible refine Kept.upd ?_

theorem State.lookLines_kept (s : State) (ls : List (ChanId × Nat)) : Kept s (State.lookLines s ls) := by
  unfold State.lookLines
  repeat' first
    | with_reducible assumption
    | with_reducible exact Kept.refl _
    | ((try lift_lets); intro x; first
        | (refine Kept.cut (t := x) ?_ fun h => ?_; rotate_left; clear_value x; rotate_left; (try unfold x))
        | skip)
    | with_reducible apply Kept.after (State.lookFresh_kept ..)
    | with_reducible refine Kept.foldl (hf := fun _ _ => ?_) (h := ?_)
    | dsimp +zetaDelta only

theorem State.lookStripe_kept (s : State) (m : SetId) (st : Nat) : Kept s (State.lookStripe s m st) := by
  unfold State.lookStripe
  repeat' first
    | with_reducible exact Kept.refl _
    | with_reducible apply Kept.after (State.lookLines_kept ..)
    | dsimp +zetaDelta only

theorem State.writeFresh_kept (s : State) (ix : Nat) : Kept s (State.writeFresh s ix) := by
  unfold State.writeFresh
  repeat' first
    | with_reducible exact Kept.refl _
    | with_reducible apply Kept.after (State.spendG_kept ..)
    | split
    | with_reducible refine Kept.upd ?_

theorem State.touchFresh_kept (s : State) (c : ChanId) (line : Nat) : Kept s (State.touchFresh s c line) := by
  unfold State.touchFresh
  repeat' first
    | with_reducible assumption
    | with_reducible exact Kept.refl _
    | ((try lift_lets); intro x; first
        | (refine Kept.cut (t := x) ?_ fun h => ?_; rotate_left; clear_value x; rotate_left; (try unfold x))
        | skip)
    | with_reducible apply Kept.after (State.lookFresh_kept ..)
    | with_reducible apply Kept.after (State.modChan_kept ..)
    | split
    | dsimp +zetaDelta only
    | with_reducible refine Kept.upd ?_

end Sys2Proof.Machine
end

