-- ==== Sys2Proof/Laws/KeptPath.lean ====
section
/-! SUPPORT. What the operations of Machine/Path.lean keep. -/

namespace Sys2Proof.Machine

set_option Elab.async false
set_option linter.all false

theorem State.readEntry_kept (s : State) (c : ChanId) (i : Nat) : Kept s (State.readEntry s c i) := by
  unfold State.readEntry
  repeat' first
    | with_reducible assumption
    | with_reducible exact Kept.refl _
    | ((try lift_lets); intro x; first
        | (refine Kept.cut (t := x) ?_ fun h => ?_; rotate_left; clear_value x; rotate_left; (try unfold x))
        | skip)
    | with_reducible apply Kept.after (State.modChan_kept ..)
    | with_reducible apply Kept.after (State.raiseChan_kept ..)
    | split
    | dsimp +zetaDelta only
    | with_reducible refine Kept.upd ?_

theorem State.readPatch_kept (s : State) (c : ChanId) (line : Nat) : Kept s (State.readPatch s c line) := by
  unfold State.readPatch
  repeat' first
    | with_reducible exact Kept.refl _
    | with_reducible apply Kept.after (State.readEntry_kept ..)
    | split
    | dsimp +zetaDelta only
    | with_reducible refine Kept.upd ?_

theorem State.readTable_kept (s : State) (c : ChanId) : Kept s (State.readTable s c) := by
  unfold State.readTable
  repeat' first
    | with_reducible assumption
    | with_reducible exact Kept.refl _
    | ((try lift_lets); intro x; first
        | (refine Kept.cut (t := x) ?_ fun h => ?_; rotate_left; clear_value x; rotate_left; (try unfold x))
        | skip)
    | with_reducible apply Kept.after (State.readEntry_kept ..)
    | with_reducible refine Kept.foldl (hf := fun _ _ => ?_) (h := ?_)
    | dsimp +zetaDelta only

theorem State.withEntry_kept (s : State) (c : ChanId) (i : Nat) (f : State → PatchE → State)
    (hf : ∀ t e, Kept t (f t e)) : Kept s (State.withEntry s c i f) := by
  unfold State.withEntry
  split
  · exact State.readEntry_kept ..
  · exact (State.readEntry_kept ..).trans (hf _ _)

theorem State.pushRead_kept (s : State) (c : ChanId) (purp : Purp) (line : Nat) (cls : Cls) (epoch : Nat) (src : Option Src) (orig : Orig) : Kept s (State.pushRead s c purp line cls epoch src orig) := by
  unfold State.pushRead
  repeat' first
    | with_reducible assumption
    | with_reducible exact Kept.refl _
    | ((try lift_lets); intro x; first
        | (refine Kept.cut (t := x) ?_ fun h => ?_; rotate_left; clear_value x; rotate_left; (try unfold x))
        | skip)
    | with_reducible apply Kept.after (State.readPatch_kept ..)
    | with_reducible apply Kept.after (State.modChan_kept ..)
    | with_reducible apply Kept.after (State.stamp_kept ..)
    | dsimp +zetaDelta only
    | with_reducible refine Kept.upd ?_

theorem State.markStale_kept (s : State) (c : ChanId) (line : Nat) : Kept s (State.markStale s c line) := by
  unfold State.markStale
  repeat' first
    | with_reducible assumption
    | with_reducible exact Kept.refl _
    | ((try lift_lets); intro x; first
        | (refine Kept.cut (t := x) ?_ fun h => ?_; rotate_left; clear_value x; rotate_left; (try unfold x))
        | skip)
    | with_reducible apply Kept.after (State.modChan_kept ..)
    | with_reducible apply Kept.after (State.writeBack_kept ..)
    | with_reducible apply Kept.after (State.scrub_kept ..)
    | with_reducible apply Kept.after (State.ppr_kept ..)
    | split
    | dsimp +zetaDelta only
    | with_reducible refine Kept.upd ?_

theorem State.pushWrite_kept (s : State) (c : ChanId) (w : WrE) (born : Option Nat) : Kept s (State.pushWrite s c w born) := by
  unfold State.pushWrite
  repeat' first
    | with_reducible assumption
    | with_reducible exact Kept.refl _
    | ((try lift_lets); intro x; first
        | (refine Kept.cut (t := x) ?_ fun h => ?_; rotate_left; clear_value x; rotate_left; (try unfold x))
        | skip)
    | with_reducible apply Kept.after (State.readPatch_kept ..)
    | with_reducible apply Kept.after (State.modChan_kept ..)
    | with_reducible apply Kept.after (State.stamp_kept ..)
    | dsimp +zetaDelta only
    | with_reducible refine Kept.upd ?_

theorem State.pushRaw_kept (s : State) (c : ChanId) (w : WrE) : Kept s (State.pushRaw s c w) := by
  unfold State.pushRaw
  repeat' first
    | with_reducible assumption
    | with_reducible exact Kept.refl _
    | ((try lift_lets); intro x; first
        | (refine Kept.cut (t := x) ?_ fun h => ?_; rotate_left; clear_value x; rotate_left; (try unfold x))
        | skip)
    | with_reducible apply Kept.after (State.modChan_kept ..)
    | with_reducible apply Kept.after (State.stamp_kept ..)
    | dsimp +zetaDelta only
    | with_reducible refine Kept.upd ?_

theorem State.pushRawRead_kept (s : State) (c : ChanId) (purp : Purp) (line : Nat) (cls : Cls) : Kept s (State.pushRawRead s c purp line cls) := by
  unfold State.pushRawRead
  repeat' first
    | with_reducible assumption
    | with_reducible exact Kept.refl _
    | ((try lift_lets); intro x; first
        | (refine Kept.cut (t := x) ?_ fun h => ?_; rotate_left; clear_value x; rotate_left; (try unfold x))
        | skip)
    | with_reducible apply Kept.after (State.modChan_kept ..)
    | with_reducible apply Kept.after (State.stamp_kept ..)
    | dsimp +zetaDelta only
    | with_reducible refine Kept.upd ?_

theorem State.addForm_kept (s : State) (f : Form) : Kept s (State.addForm s f) := by
  unfold State.addForm
  repeat' first
    | with_reducible exact Kept.refl _
    | with_reducible refine Kept.upd ?_

theorem State.psnEvent_kept (s : State) (c : ChanId) (line : Nat) (par : Bool) : Kept s (State.psnEvent s c line par) := by
  unfold State.psnEvent
  repeat' first
    | with_reducible assumption
    | with_reducible exact Kept.refl _
    | ((try lift_lets); intro x; first
        | (refine Kept.cut (t := x) ?_ fun h => ?_; rotate_left; clear_value x; rotate_left; (try unfold x))
        | skip)
    | with_reducible apply Kept.after (State.modChan_kept ..)
    | with_reducible apply Kept.after (State.raiseChan_kept ..)
    | split
    | dsimp +zetaDelta only
    | with_reducible refine Kept.upd ?_

theorem State.writeForm_kept (s : State) (f : Form) : Kept s (State.writeForm s f) := by
  unfold State.writeForm
  repeat' first
    | with_reducible assumption
    | with_reducible exact Kept.refl _
    | ((try lift_lets); intro x; first
        | (refine Kept.cut (t := x) ?_ fun h => ?_; rotate_left; clear_value x; rotate_left; (try unfold x))
        | skip)
    | with_reducible apply Kept.after (State.psnEvent_kept ..)
    | with_reducible apply Kept.after (State.pushWrite_kept ..)
    | with_reducible refine Kept.foldl (hf := fun _ _ => ?_) (h := ?_)
    | split
    | dsimp +zetaDelta only
    | with_reducible refine Kept.upd ?_

theorem State.stepForm_kept (s : State) (f : Form) : Kept s (State.stepForm s f) := by
  unfold State.stepForm
  repeat' first
    | with_reducible assumption
    | with_reducible exact Kept.refl _
    | ((try lift_lets); intro x; first
        | (refine Kept.cut (t := x) ?_ fun h => ?_; rotate_left; clear_value x; rotate_left; (try unfold x))
        | skip)
    | with_reducible apply Kept.after (State.lookStripe_kept ..)
    | with_reducible apply Kept.after (State.writeForm_kept ..)
    | split
    | dsimp +zetaDelta only
    | with_reducible refine Kept.upd ?_

theorem State.failRead_kept (s : State) (f key : Nat) : Kept s (State.failRead s f key) := by
  unfold State.failRead
  repeat' first
    | with_reducible exact Kept.refl _
    | split
    | dsimp +zetaDelta only
    | with_reducible refine Kept.upd ?_

theorem State.feedForm_kept (s : State) (f : Form) : Kept s (State.feedForm s f) := by
  unfold State.feedForm
  repeat' first
    | with_reducible assumption
    | with_reducible exact Kept.refl _
    | ((try lift_lets); intro x; first
        | (refine Kept.cut (t := x) ?_ fun h => ?_; rotate_left; clear_value x; rotate_left; (try unfold x))
        | skip)
    | with_reducible apply Kept.after (State.failRead_kept ..)
    | with_reducible apply Kept.after (State.pushRead_kept ..)
    | with_reducible refine Kept.foldl (hf := fun _ _ => ?_) (h := ?_)
    | split
    | dsimp +zetaDelta only

theorem State.feedForms_kept (s : State) : Kept s (State.feedForms s) := by
  unfold State.feedForms
  repeat' first
    | with_reducible assumption
    | with_reducible exact Kept.refl _
    | ((try lift_lets); intro x; first
        | (refine Kept.cut (t := x) ?_ fun h => ?_; rotate_left; clear_value x; rotate_left; (try unfold x))
        | skip)
    | with_reducible apply Kept.after (State.stepForm_kept ..)
    | with_reducible apply Kept.after (State.feedForm_kept ..)
    | with_reducible refine Kept.foldl (hf := fun _ _ => ?_) (h := ?_)
    | dsimp +zetaDelta only

theorem State.readEddy_kept (s : State) (c : ChanId) (e : EddyE) : Kept s (State.readEddy s c e).1 := by
  unfold State.readEddy
  repeat' first
    | with_reducible assumption
    | with_reducible exact Kept.refl _
    | ((try lift_lets); intro x; first
        | (refine Kept.cut (t := x) ?_ fun h => ?_; rotate_left; clear_value x; rotate_left; (try unfold x))
        | skip)
    | with_reducible apply Kept.after (State.modChan_kept ..)
    | with_reducible apply Kept.after (State.raiseChan_kept ..)
    | split
    | dsimp +zetaDelta only
    | with_reducible refine Kept.upd ?_

theorem State.readEddies_kept (s : State) (ls : List (ChanId × EddyE)) : Kept s (State.readEddies s ls).1 := by
  induction ls generalizing s with
  | nil => exact Kept.refl s
  | cons x ls ih => exact (State.readEddy_kept s x.1 x.2).trans (ih _)

theorem State.releaseLine_kept (s : State) (c : ChanId) (e : EddyE) : Kept s (State.releaseLine s c e) := by
  unfold State.releaseLine
  repeat' first
    | with_reducible assumption
    | with_reducible exact Kept.refl _
    | ((try lift_lets); intro x; first
        | (refine Kept.cut (t := x) ?_ fun h => ?_; rotate_left; clear_value x; rotate_left; (try unfold x))
        | skip)
    | with_reducible apply Kept.after (State.modChan_kept ..)
    | with_reducible apply Kept.after (State.lookFresh_kept ..)
    | with_reducible apply Kept.after (State.readEddy_kept ..)
    | with_reducible apply Kept.after (State.addForm_kept ..)
    | dsimp +zetaDelta only
    | with_reducible refine Kept.upd ?_

theorem State.setOffline_kept (s : State) (m : SetId) : Kept s (State.setOffline s m) := by
  unfold State.setOffline
  repeat' first
    | with_reducible assumption
    | with_reducible exact Kept.refl _
    | ((try lift_lets); intro x; first
        | (refine Kept.cut (t := x) ?_ fun h => ?_; rotate_left; clear_value x; rotate_left; (try unfold x))
        | skip)
    | with_reducible apply Kept.after (State.modSpan_kept ..)
    | with_reducible apply Kept.after (State.note_kept ..)
    | with_reducible apply Kept.after (State.raise_kept ..)
    | dsimp +zetaDelta only
    | with_reducible refine Kept.upd ?_

theorem State.dropEddy_kept (s : State) (ls : List (ChanId × EddyE)) : Kept s (State.dropEddy s ls) := by
  unfold State.dropEddy
  repeat' first
    | with_reducible assumption
    | with_reducible exact Kept.refl _
    | ((try lift_lets); intro x; first
        | (refine Kept.cut (t := x) ?_ fun h => ?_; rotate_left; clear_value x; rotate_left; (try unfold x))
        | skip)
    | with_reducible apply Kept.after (State.modChan_kept ..)
    | with_reducible refine Kept.foldl (hf := fun _ _ => ?_) (h := ?_)
    | dsimp +zetaDelta only
    | with_reducible refine Kept.upd ?_

theorem State.releaseRec_kept (s : State) (m : SetId) (r : StripeRec) : Kept s (State.releaseRec s m r) := by
  unfold State.releaseRec
  repeat' first
    | with_reducible assumption
    | with_reducible exact Kept.refl _
    | ((try lift_lets); intro x; first
        | (refine Kept.cut (t := x) ?_ fun h => ?_; rotate_left; clear_value x; rotate_left; (try unfold x))
        | skip)
    | with_reducible apply Kept.after (State.modSpan_kept ..)
    | with_reducible apply Kept.after (State.dropEddy_kept ..)
    | with_reducible apply Kept.after (State.lookStripe_kept ..)
    | with_reducible apply Kept.after (State.readEddies_kept ..)
    | with_reducible apply Kept.after (State.hitG_kept ..)
    | with_reducible apply Kept.after (State.raise_kept ..)
    | with_reducible apply Kept.after (State.setOffline_kept ..)
    | with_reducible apply Kept.after (State.addForm_kept ..)
    | split
    | dsimp +zetaDelta only
    | with_reducible refine Kept.upd ?_

theorem State.releaseEntry_kept (s : State) (c : ChanId) (e : EddyE) : Kept s (State.releaseEntry s c e) := by
  unfold State.releaseEntry
  repeat' first
    | with_reducible exact Kept.refl _
    | with_reducible apply Kept.after (State.releaseLine_kept ..)
    | with_reducible apply Kept.after (State.releaseRec_kept ..)
    | split
    | with_reducible refine Kept.upd ?_

theorem State.makeEddyRoom_kept (s : State) (c : ChanId) : Kept s (State.makeEddyRoom s c) := by
  unfold State.makeEddyRoom
  repeat' first
    | with_reducible exact Kept.refl _
    | with_reducible apply Kept.after (State.releaseEntry_kept ..)
    | split
    | with_reducible refine Kept.upd ?_

theorem State.queueFull_kept (s : State) (c : ChanId) (e : XEntry) (x : XLine) : Kept s (State.queueFull s c e x) := by
  unfold State.queueFull
  repeat' first
    | with_reducible exact Kept.refl _
    | with_reducible apply Kept.after (State.pushWrite_kept ..)
    | with_reducible apply Kept.after (State.stamp_kept ..)
    | split

theorem State.newEddy_kept (s : State) (c : ChanId) (e : XEntry) (x : XLine) (stripe : Option (SetId × Nat × Nat)) : Kept s (State.newEddy s c e x stripe) := by
  unfold State.newEddy
  repeat' first
    | with_reducible assumption
    | with_reducible exact Kept.refl _
    | ((try lift_lets); intro x; first
        | (refine Kept.cut (t := x) ?_ fun h => ?_; rotate_left; clear_value x; rotate_left; (try unfold x))
        | skip)
    | with_reducible apply Kept.after (State.makeEddyRoom_kept ..)
    | with_reducible apply Kept.after (State.modChan_kept ..)
    | with_reducible apply Kept.after (State.stamp_kept ..)
    | dsimp +zetaDelta only
    | with_reducible refine Kept.upd ?_

theorem State.acceptPlainLine_kept (s : State) (c : ChanId) (e : XEntry) (x : XLine) : Kept s (State.acceptPlainLine s c e x) := by
  unfold State.acceptPlainLine
  repeat' first
    | with_reducible assumption
    | with_reducible exact Kept.refl _
    | ((try lift_lets); intro x; first
        | (refine Kept.cut (t := x) ?_ fun h => ?_; rotate_left; clear_value x; rotate_left; (try unfold x))
        | skip)
    | with_reducible apply Kept.after (State.modChan_kept ..)
    | with_reducible apply Kept.after (State.releaseLine_kept ..)
    | with_reducible apply Kept.after (State.queueFull_kept ..)
    | with_reducible apply Kept.after (State.newEddy_kept ..)
    | split
    | dsimp +zetaDelta only
    | with_reducible refine Kept.upd ?_

theorem State.acceptPlain_kept (s : State) (c : ChanId) (e : XEntry) : Kept s (State.acceptPlain s c e) := by
  unfold State.acceptPlain
  repeat' first
    | with_reducible assumption
    | with_reducible exact Kept.refl _
    | ((try lift_lets); intro x; first
        | (refine Kept.cut (t := x) ?_ fun h => ?_; rotate_left; clear_value x; rotate_left; (try unfold x))
        | skip)
    | with_reducible apply Kept.after (State.acceptPlainLine_kept ..)
    | with_reducible apply Kept.after (State.releaseLine_kept ..)
    | with_reducible refine Kept.foldl (hf := fun _ _ => ?_) (h := ?_)
    | split
    | dsimp +zetaDelta only

theorem State.absorbRec_kept (s : State) (m : SetId) (e : XEntry) : Kept s (State.absorbRec s m e) := by
  unfold State.absorbRec
  repeat' first
    | with_reducible exact Kept.refl _
    | with_reducible apply Kept.after (State.modSpan_kept ..)
    | with_reducible apply Kept.after (State.dropEddy_kept ..)
    | with_reducible apply Kept.after (State.releaseRec_kept ..)
    | split
    | dsimp +zetaDelta only
    | with_reducible refine Kept.upd ?_

theorem State.acceptStripe_kept (s : State) (m : SetId) (e : XEntry) : Kept s (State.acceptStripe s m e) := by
  unfold State.acceptStripe
  repeat' first
    | with_reducible assumption
    | with_reducible exact Kept.refl _
    | ((try lift_lets); intro x; first
        | (refine Kept.cut (t := x) ?_ fun h => ?_; rotate_left; clear_value x; rotate_left; (try unfold x))
        | skip)
    | with_reducible apply Kept.after (State.absorbRec_kept ..)
    | with_reducible apply Kept.after (State.lookStripe_kept ..)
    | with_reducible apply Kept.after (State.writeForm_kept ..)
    | dsimp +zetaDelta only
    | with_reducible refine Kept.upd ?_

theorem State.addRec_kept (s : State) (m : SetId) (e : XEntry) : Kept s (State.addRec s m e) := by
  unfold State.addRec
  repeat' first
    | with_reducible assumption
    | with_reducible exact Kept.refl _
    | ((try lift_lets); intro x; first
        | (refine Kept.cut (t := x) ?_ fun h => ?_; rotate_left; clear_value x; rotate_left; (try unfold x))
        | skip)
    | with_reducible apply Kept.after (State.releaseRec_kept ..)
    | with_reducible apply Kept.after (State.modSpan_kept ..)
    | with_reducible apply Kept.after (State.stamp_kept ..)
    | split
    | dsimp +zetaDelta only
    | with_reducible refine Kept.upd ?_

theorem State.openRec_kept (s : State) (m : SetId) (e : XEntry) : Kept s (State.openRec s m e) := by
  unfold State.openRec
  repeat' first
    | with_reducible exact Kept.refl _
    | with_reducible apply Kept.after (State.releaseRec_kept ..)
    | with_reducible apply Kept.after (State.addRec_kept ..)
    | split
    | dsimp +zetaDelta only
    | with_reducible refine Kept.upd ?_

theorem State.gatherLine_kept (s : State) (m : SetId) (e : XEntry) (x : XLine) : Kept s (State.gatherLine s m e x) := by
  unfold State.gatherLine
  repeat' first
    | with_reducible assumption
    | with_reducible exact Kept.refl _
    | ((try lift_lets); intro x; first
        | (refine Kept.cut (t := x) ?_ fun h => ?_; rotate_left; clear_value x; rotate_left; (try unfold x))
        | skip)
    | with_reducible apply Kept.after (State.modSpan_kept ..)
    | with_reducible apply Kept.after (State.stamp_kept ..)
    | with_reducible apply Kept.after (State.modChan_kept ..)
    | with_reducible apply Kept.after (State.newEddy_kept ..)
    | split
    | dsimp +zetaDelta only
    | with_reducible refine Kept.upd ?_

theorem State.readRec_kept (s : State) (m : SetId) (r : StripeRec) : Kept s (State.readRec s m r) := by
  unfold State.readRec
  repeat' first
    | with_reducible assumption
    | with_reducible exact Kept.refl _
    | ((try lift_lets); intro x; first
        | (refine Kept.cut (t := x) ?_ fun h => ?_; rotate_left; clear_value x; rotate_left; (try unfold x))
        | skip)
    | with_reducible apply Kept.after (State.releaseRec_kept ..)
    | with_reducible apply Kept.after (State.hitG_kept ..)
    | with_reducible apply Kept.after (State.raise_kept ..)
    | with_reducible apply Kept.after (State.modSpan_kept ..)
    | split
    | dsimp +zetaDelta only
    | with_reducible refine Kept.upd ?_

theorem State.joinRec_kept (s : State) (m : SetId) (e : XEntry) : Kept s (State.joinRec s m e) := by
  unfold State.joinRec
  repeat' first
    | with_reducible assumption
    | with_reducible exact Kept.refl _
    | ((try lift_lets); intro x; first
        | (refine Kept.cut (t := x) ?_ fun h => ?_; rotate_left; clear_value x; rotate_left; (try unfold x))
        | skip)
    | with_reducible apply Kept.after (State.gatherLine_kept ..)
    | with_reducible apply Kept.after (State.modSpan_kept ..)
    | with_reducible apply Kept.after (State.spendG_kept ..)
    | with_reducible apply Kept.after (State.releaseRec_kept ..)
    | with_reducible refine Kept.foldl (hf := fun _ _ => ?_) (h := ?_)
    | split
    | dsimp +zetaDelta only
    | with_reducible refine Kept.upd ?_

theorem State.gatherStripe_kept (s : State) (m : SetId) (e : XEntry) : Kept s (State.gatherStripe s m e) := by
  unfold State.gatherStripe
  repeat' first
    | with_reducible assumption
    | with_reducible exact Kept.refl _
    | ((try lift_lets); intro x; first
        | (refine Kept.cut (t := x) ?_ fun h => ?_; rotate_left; clear_value x; rotate_left; (try unfold x))
        | skip)
    | with_reducible apply Kept.after (State.openRec_kept ..)
    | with_reducible apply Kept.after (State.readRec_kept ..)
    | with_reducible apply Kept.after (State.joinRec_kept ..)
    | split
    | dsimp +zetaDelta only
    | with_reducible refine Kept.upd ?_

theorem State.markWrite_kept (s : State) (e : XEntry) : Kept s (State.markWrite s e) := by
  unfold State.markWrite
  repeat' first
    | with_reducible assumption
    | with_reducible exact Kept.refl _
    | ((try lift_lets); intro x; first
        | (refine Kept.cut (t := x) ?_ fun h => ?_; rotate_left; clear_value x; rotate_left; (try unfold x))
        | skip)
    | with_reducible apply Kept.after (State.markStale_kept ..)
    | with_reducible refine Kept.foldl (hf := fun _ _ => ?_) (h := ?_)
    | dsimp +zetaDelta only

theorem State.placeWrite_kept (s : State) (e : XEntry) : Kept s (State.placeWrite s e) := by
  unfold State.placeWrite
  repeat' first
    | with_reducible assumption
    | with_reducible exact Kept.refl _
    | ((try lift_lets); intro x; first
        | (refine Kept.cut (t := x) ?_ fun h => ?_; rotate_left; clear_value x; rotate_left; (try unfold x))
        | skip)
    | with_reducible apply Kept.after (State.markWrite_kept ..)
    | with_reducible apply Kept.after (State.acceptPlain_kept ..)
    | with_reducible apply Kept.after (State.acceptStripe_kept ..)
    | with_reducible apply Kept.after (State.gatherStripe_kept ..)
    | split
    | dsimp +zetaDelta only
    | with_reducible refine Kept.upd ?_

end Sys2Proof.Machine
end

