-- ==== Sys2Proof/Laws/KeptAdmit.lean ====
section
/-! SUPPORT. What the operations of Machine/Admit.lean keep. -/

namespace Sys2Proof.Machine

set_option Elab.async false
set_option linter.all false

theorem State.leaveBuffer_kept (s : State) (p : PortId) (f : Flight) (beats : Nat) : Kept s (State.leaveBuffer s p f beats) := by
  unfold State.leaveBuffer
  repeat' first
    | with_reducible exact Kept.refl _
    | with_reducible apply Kept.after (State.modPort_kept ..)
    | dsimp +zetaDelta only
    | with_reducible refine Kept.upd ?_

theorem State.countWcu_kept (s : State) (p : PortId) (r : Req) (d : WcuRes) (code : Option Code) : Kept s (State.countWcu s p r d code) := by
  unfold State.countWcu
  repeat' first
    | with_reducible exact Kept.refl _
    | with_reducible apply Kept.after (State.violate_kept ..)
    | with_reducible apply Kept.after (State.countWbx_kept ..)
    | split

theorem State.tellOverrun_kept (s : State) (r : Req) (code : Option Code) : Kept s (State.tellOverrun s r code) := by
  unfold State.tellOverrun
  repeat' first
    | with_reducible exact Kept.refl _
    | with_reducible apply Kept.after (State.raiseChan_kept ..)
    | split
    | with_reducible refine Kept.upd ?_

theorem State.toXbar_kept (s : State) (es : List XEntry) : Kept s (State.toXbar s es) := by
  unfold State.toXbar
  repeat' first
    | with_reducible exact Kept.refl _
    | with_reducible refine Kept.upd ?_

theorem State.admitHead_kept (s : State) (p : PortId) (b : BufReq) : Kept s (State.admitHead s p b) := by
  unfold State.admitHead
  repeat' first
    | with_reducible assumption
    | with_reducible exact Kept.refl _
    | ((try lift_lets); intro x; first
        | (refine Kept.cut (t := x) ?_ fun h => ?_; rotate_left; clear_value x; rotate_left; (try unfold x))
        | skip)
    | with_reducible apply Kept.after (State.readG_kept ..)
    | with_reducible apply Kept.after (State.leaveBuffer_kept ..)
    | with_reducible apply Kept.after (State.countWcu_kept ..)
    | with_reducible apply Kept.after (State.tellOverrun_kept ..)
    | with_reducible apply Kept.after (State.toXbar_kept ..)
    | with_reducible apply Kept.after (State.stamp_kept ..)
    | with_reducible refine Kept.foldl (hf := fun _ _ => ?_) (h := ?_)
    | dsimp +zetaDelta only

theorem State.dropNop_kept (s : State) (p : PortId) : Kept s (State.dropNop s p) := by
  unfold State.dropNop
  repeat' first
    | with_reducible exact Kept.refl _
    | with_reducible apply Kept.after (State.modPort_kept ..)
    | dsimp +zetaDelta only
    | with_reducible refine Kept.upd ?_

theorem State.admitFront_kept (s : State) (p : PortId) : Kept s (State.admitFront s p) := by
  unfold State.admitFront
  repeat' first
    | with_reducible assumption
    | with_reducible exact Kept.refl _
    | ((try lift_lets); intro x; first
        | (refine Kept.cut (t := x) ?_ fun h => ?_; rotate_left; clear_value x; rotate_left; (try unfold x))
        | skip)
    | with_reducible apply Kept.after (State.hitG_kept ..)
    | with_reducible apply Kept.after (State.modPort_kept ..)
    | with_reducible apply Kept.after (State.portErr_kept ..)
    | with_reducible apply Kept.after (State.dropNop_kept ..)
    | with_reducible apply Kept.after (State.admitHead_kept ..)
    | split
    | dsimp +zetaDelta only
    | with_reducible refine Kept.upd ?_

theorem State.rsBack_kept (s : State) (rid : Nat) (b : Rsp) : Kept s (State.rsBack s rid b) := by
  unfold State.rsBack
  repeat' first
    | with_reducible assumption
    | with_reducible exact Kept.refl _
    | ((try lift_lets); intro x; first
        | (refine Kept.cut (t := x) ?_ fun h => ?_; rotate_left; clear_value x; rotate_left; (try unfold x))
        | skip)
    | split
    | dsimp +zetaDelta only
    | with_reducible refine Kept.upd ?_

theorem State.giveBeat_kept (s : State) (src : Src) (rid : Nat) (b : Rsp) : Kept s (State.giveBeat s src rid b) := by
  unfold State.giveBeat
  repeat' first
    | with_reducible assumption
    | with_reducible exact Kept.refl _
    | ((try lift_lets); intro x; first
        | (refine Kept.cut (t := x) ?_ fun h => ?_; rotate_left; clear_value x; rotate_left; (try unfold x))
        | skip)
    | with_reducible apply Kept.after (State.rsBack_kept ..)
    | with_reducible apply Kept.after (State.modPort_kept ..)
    | with_reducible apply Kept.after (State.spendG_kept ..)
    | split
    | dsimp +zetaDelta only
    | with_reducible refine Kept.upd ?_

theorem State.giveDone_kept (s : State) (src : Src) (rid : Nat) (code : Code) : Kept s (State.giveDone s src rid code) := by
  unfold State.giveDone
  repeat' first
    | with_reducible exact Kept.refl _
    | with_reducible apply Kept.after (State.modPort_kept ..)
    | split
    | dsimp +zetaDelta only
    | with_reducible refine Kept.upd ?_

theorem State.undoWrite_kept (s : State) (src : Src) (rid : Nat) : Kept s (State.undoWrite s src rid) := by
  unfold State.undoWrite
  repeat' first
    | with_reducible exact Kept.refl _
    | with_reducible apply Kept.after (State.modPort_kept ..)
    | split
    | dsimp +zetaDelta only
    | with_reducible refine Kept.upd ?_

theorem State.writeBack_kept (s : State) (c : ChanId) (purp : Purp) (line : Nat) (d : Line) (enc : Enc) (cls : Cls) : Kept s (State.writeBack s c purp line d enc cls) := by
  unfold State.writeBack
  repeat' first
    | with_reducible exact Kept.refl _
    | with_reducible apply Kept.after (State.modChan_kept ..)
    | split
    | dsimp +zetaDelta only
    | with_reducible refine Kept.upd ?_

theorem State.feedBack_kept (s : State) (c : ChanId) : Kept s (State.feedBack s c) := by
  unfold State.feedBack
  repeat' first
    | with_reducible assumption
    | with_reducible exact Kept.refl _
    | ((try lift_lets); intro x; first
        | (refine Kept.cut (t := x) ?_ fun h => ?_; rotate_left; clear_value x; rotate_left; (try unfold x))
        | skip)
    | with_reducible apply Kept.after (State.modChan_kept ..)
    | with_reducible apply Kept.after (State.pushRaw_kept ..)
    | with_reducible apply Kept.after (State.pushWrite_kept ..)
    | with_reducible apply Kept.after (State.stamp_kept ..)
    | split
    | dsimp +zetaDelta only
    | with_reducible refine Kept.upd ?_

theorem State.feedBacks_kept (s : State) : Kept s (State.feedBacks s) := by
  unfold State.feedBacks
  repeat' first
    | with_reducible assumption
    | with_reducible exact Kept.refl _
    | ((try lift_lets); intro x; first
        | (refine Kept.cut (t := x) ?_ fun h => ?_; rotate_left; clear_value x; rotate_left; (try unfold x))
        | skip)
    | with_reducible apply Kept.after (State.feedBack_kept ..)
    | with_reducible refine Kept.foldl (hf := fun _ _ => ?_) (h := ?_)
    | dsimp +zetaDelta only

theorem State.markRecon_kept (s : State) (r : Recon) : Kept s (State.markRecon s r) := by
  unfold State.markRecon
  repeat' first
    | with_reducible exact Kept.refl _
    | with_reducible apply Kept.after (State.modChan_kept ..)
    | split
    | dsimp +zetaDelta only
    | with_reducible refine Kept.upd ?_

theorem State.finishBeat_kept (s : State) (r : Recon) (src : Src) (rid lidx : Nat) (wb : Bool) : Kept s (State.finishBeat s r src rid lidx wb) := by
  unfold State.finishBeat
  repeat' first
    | with_reducible assumption
    | with_reducible exact Kept.refl _
    | ((try lift_lets); intro x; first
        | (refine Kept.cut (t := x) ?_ fun h => ?_; rotate_left; clear_value x; rotate_left; (try unfold x))
        | skip)
    | with_reducible apply Kept.after (State.giveBeat_kept ..)
    | with_reducible apply Kept.after (State.markRecon_kept ..)
    | with_reducible apply Kept.after (State.writeBack_kept ..)
    | split
    | dsimp +zetaDelta only
    | with_reducible refine Kept.upd ?_

theorem State.releaseFor_kept (s : State) (c : ChanId) (line : Nat) : Kept s (State.releaseFor s c line) := by
  unfold State.releaseFor
  repeat' first
    | with_reducible exact Kept.refl _
    | with_reducible apply Kept.after (State.releaseEntry_kept ..)
    | split
    | dsimp +zetaDelta only
    | with_reducible refine Kept.upd ?_

theorem State.arrive_kept (s : State) (c : ChanId) (purp : Purp) (line : Nat) (cls : Cls) (epoch : Nat) (src : Option Src) (orig : Orig) : Kept s (State.arrive s c purp line cls epoch src orig) := by
  unfold State.arrive
  repeat' first
    | with_reducible exact Kept.refl _
    | with_reducible apply Kept.after (State.releaseFor_kept ..)
    | with_reducible apply Kept.after (State.pushRead_kept ..)

theorem State.ownRead_kept (s : State) (c : ChanId) (purp : Purp) (line : Nat) (raw : Bool) : Kept s (State.ownRead s c purp line raw) := by
  unfold State.ownRead
  repeat' first
    | with_reducible exact Kept.refl _
    | with_reducible apply Kept.after (State.modChan_kept ..)
    | dsimp +zetaDelta only
    | with_reducible refine Kept.upd ?_

theorem State.feedFetch_kept (s : State) (c : ChanId) : Kept s (State.feedFetch s c) := by
  unfold State.feedFetch
  repeat' first
    | with_reducible assumption
    | with_reducible exact Kept.refl _
    | ((try lift_lets); intro x; first
        | (refine Kept.cut (t := x) ?_ fun h => ?_; rotate_left; clear_value x; rotate_left; (try unfold x))
        | skip)
    | with_reducible apply Kept.after (State.modChan_kept ..)
    | with_reducible apply Kept.after (State.pushRawRead_kept ..)
    | with_reducible apply Kept.after (State.arrive_kept ..)
    | split
    | dsimp +zetaDelta only
    | with_reducible refine Kept.upd ?_

theorem State.feedFetches_kept (s : State) : Kept s (State.feedFetches s) := by
  unfold State.feedFetches
  repeat' first
    | with_reducible assumption
    | with_reducible exact Kept.refl _
    | ((try lift_lets); intro x; first
        | (refine Kept.cut (t := x) ?_ fun h => ?_; rotate_left; clear_value x; rotate_left; (try unfold x))
        | skip)
    | with_reducible apply Kept.after (State.feedFetch_kept ..)
    | with_reducible refine Kept.foldl (hf := fun _ _ => ?_) (h := ?_)
    | dsimp +zetaDelta only

theorem State.releaseStripe_kept (s : State) (m : SetId) (stripe : Nat) : Kept s (State.releaseStripe s m stripe) := by
  unfold State.releaseStripe
  repeat' first
    | with_reducible assumption
    | with_reducible exact Kept.refl _
    | ((try lift_lets); intro x; first
        | (refine Kept.cut (t := x) ?_ fun h => ?_; rotate_left; clear_value x; rotate_left; (try unfold x))
        | skip)
    | with_reducible apply Kept.after (State.releaseRec_kept ..)
    | with_reducible refine Kept.foldl (hf := fun _ _ => ?_) (h := ?_)
    | dsimp +zetaDelta only

theorem State.startRecon_kept (s : State) (ch : ChanId) (line : Nat) (use : RFor) (cls : Cls) (epoch : Nat) (src : Option Src) (orig : Orig) (issued : Bool) : Kept s (State.startRecon s ch line use cls epoch src orig issued) := by
  unfold State.startRecon
  repeat' first
    | with_reducible assumption
    | with_reducible exact Kept.refl _
    | ((try lift_lets); intro x; first
        | (refine Kept.cut (t := x) ?_ fun h => ?_; rotate_left; clear_value x; rotate_left; (try unfold x))
        | skip)
    | with_reducible apply Kept.after (State.releaseStripe_kept ..)
    | with_reducible apply Kept.after (State.stamp_kept ..)
    | with_reducible apply Kept.after (State.lookLines_kept ..)
    | split
    | dsimp +zetaDelta only
    | with_reducible refine Kept.upd ?_

theorem State.loseContrib_kept (s : State) (r : Nat) : Kept s (State.loseContrib s r) := by
  unfold State.loseContrib
  repeat' first
    | with_reducible exact Kept.refl _
    | split
    | dsimp +zetaDelta only
    | with_reducible refine Kept.upd ?_

theorem State.feedContrib_kept (s : State) (r : Recon) (c : ChanId) : Kept s (State.feedContrib s r c) := by
  unfold State.feedContrib
  repeat' first
    | with_reducible assumption
    | with_reducible exact Kept.refl _
    | ((try lift_lets); intro x; first
        | (refine Kept.cut (t := x) ?_ fun h => ?_; rotate_left; clear_value x; rotate_left; (try unfold x))
        | skip)
    | with_reducible apply Kept.after (State.loseContrib_kept ..)
    | with_reducible apply Kept.after (State.arrive_kept ..)
    | split
    | dsimp +zetaDelta only
    | with_reducible refine Kept.upd ?_

theorem State.feedRecons_kept (s : State) : Kept s (State.feedRecons s) := by
  unfold State.feedRecons
  repeat' first
    | with_reducible assumption
    | with_reducible exact Kept.refl _
    | ((try lift_lets); intro x; first
        | (refine Kept.cut (t := x) ?_ fun h => ?_; rotate_left; clear_value x; rotate_left; (try unfold x))
        | skip)
    | with_reducible apply Kept.after (State.feedContrib_kept ..)
    | with_reducible refine Kept.foldl (hf := fun _ _ => ?_) (h := ?_)
    | dsimp +zetaDelta only

theorem State.arriveRead_kept (s : State) (e : XEntry) (c : ChanId) (x : XLine) : Kept s (State.arriveRead s e c x) := by
  unfold State.arriveRead
  repeat' first
    | with_reducible assumption
    | with_reducible exact Kept.refl _
    | ((try lift_lets); intro x; first
        | (refine Kept.cut (t := x) ?_ fun h => ?_; rotate_left; clear_value x; rotate_left; (try unfold x))
        | skip)
    | with_reducible apply Kept.after (State.lookFresh_kept ..)
    | with_reducible apply Kept.after (State.giveBeat_kept ..)
    | with_reducible apply Kept.after (State.pushRead_kept ..)
    | with_reducible apply Kept.after (State.releaseFor_kept ..)
    | split
    | dsimp +zetaDelta only
    | with_reducible refine Kept.upd ?_

theorem State.rsArrive_kept (s : State) (e : XEntry) : Kept s (State.rsArrive s e) := by
  unfold State.rsArrive
  repeat' first
    | with_reducible assumption
    | with_reducible exact Kept.refl _
    | ((try lift_lets); intro x; first
        | (refine Kept.cut (t := x) ?_ fun h => ?_; rotate_left; clear_value x; rotate_left; (try unfold x))
        | skip)
    | with_reducible refine Kept.foldl (hf := fun _ _ => ?_) (h := ?_)
    | split
    | dsimp +zetaDelta only
    | with_reducible refine Kept.upd ?_

theorem State.takeRead_kept (s : State) (e : XEntry) : Kept s (State.takeRead s e) := by
  unfold State.takeRead
  repeat' first
    | with_reducible assumption
    | with_reducible exact Kept.refl _
    | ((try lift_lets); intro x; first
        | (refine Kept.cut (t := x) ?_ fun h => ?_; rotate_left; clear_value x; rotate_left; (try unfold x))
        | skip)
    | with_reducible apply Kept.after (State.rsArrive_kept ..)
    | with_reducible apply Kept.after (State.arriveRead_kept ..)
    | with_reducible apply Kept.after (State.lookFresh_kept ..)
    | with_reducible apply Kept.after (State.giveBeat_kept ..)
    | with_reducible apply Kept.after (State.startRecon_kept ..)
    | with_reducible refine Kept.foldl (hf := fun _ _ => ?_) (h := ?_)
    | split
    | dsimp +zetaDelta only
    | with_reducible refine Kept.upd ?_

theorem State.finishRecons_kept (s : State) : Kept s (State.finishRecons s) := by
  unfold State.finishRecons
  repeat' first
    | with_reducible assumption
    | with_reducible exact Kept.refl _
    | ((try lift_lets); intro x; first
        | (refine Kept.cut (t := x) ?_ fun h => ?_; rotate_left; clear_value x; rotate_left; (try unfold x))
        | skip)
    | with_reducible apply Kept.after (State.finishBeat_kept ..)
    | with_reducible refine Kept.foldl (hf := fun _ _ => ?_) (h := ?_)
    | split
    | dsimp +zetaDelta only
    | with_reducible refine Kept.upd ?_

end Sys2Proof.Machine
end

