-- ==== Sys2Proof/Laws/KeptJobs.lean ====
section
/-! SUPPORT. What the operations of Machine/Jobs.lean keep. -/

namespace Sys2Proof.Machine

set_option Elab.async false
set_option linter.all false

theorem State.reply_kept (s : State) (opc seq status err : Nat) (res : List Word) :
    Kept s (State.reply s opc seq status err res) := by
  simp only [State.reply]
  exact Kept.of_inv fun i => ⟨⟨i.1.1, i.1.2.1, Cells.setAll_wf _ _ i.1.2.2⟩, i.2⟩

theorem State.replyCur_kept (s : State) (status err : Nat) (res : List Word) : Kept s (State.replyCur s status err res) := by
  unfold State.replyCur
  repeat' first
    | with_reducible exact Kept.refl _
    | with_reducible apply Kept.after (State.reply_kept ..)
    | split
    | with_reducible refine Kept.upd ?_

theorem State.modJob_kept (s : State) (j : Fin 8) (f : Job → Job) : Kept s (State.modJob s j f) := by
  unfold State.modJob
  repeat' first
    | with_reducible exact Kept.refl _
    | with_reducible refine Kept.upd ?_

theorem State.modJobs_kept (s : State) (f : Job → Job) : Kept s (State.modJobs s f) := by
  unfold State.modJobs
  repeat' first
    | with_reducible exact Kept.refl _
    | with_reducible refine Kept.upd ?_

theorem State.abandonJobs_kept (s : State) (err : Nat) (p : Job → Bool) : Kept s (State.abandonJobs s err p) := by
  unfold State.abandonJobs
  repeat' first
    | with_reducible exact Kept.refl _
    | with_reducible apply Kept.after (State.modJobs_kept ..)
    | split
    | dsimp +zetaDelta only

theorem State.finishJob_kept (s : State) (opc t err : Nat) : Kept s (State.finishJob s opc t err) := by
  unfold State.finishJob
  repeat' first
    | with_reducible exact Kept.refl _
    | with_reducible apply Kept.after (State.modJobs_kept ..)
    | split
    | dsimp +zetaDelta only

theorem State.finishLine_kept (s : State) (opc t line err : Nat) : Kept s (State.finishLine s opc t line err) := by
  unfold State.finishLine
  repeat' first
    | with_reducible exact Kept.refl _
    | with_reducible apply Kept.after (State.modJobs_kept ..)
    | split
    | dsimp +zetaDelta only

theorem State.severJobs_kept (s : State) (c : ChanId) (reading : Bool) : Kept s (State.severJobs s c reading) := by
  unfold State.severJobs
  repeat' first
    | with_reducible assumption
    | with_reducible exact Kept.refl _
    | ((try lift_lets); intro x; first
        | (refine Kept.cut (t := x) ?_ fun h => ?_; rotate_left; clear_value x; rotate_left; (try unfold x))
        | skip)
    | with_reducible apply Kept.after (State.modJobs_kept ..)
    | with_reducible apply Kept.after (State.lose_kept ..)
    | split
    | dsimp +zetaDelta only
    | with_reducible refine Kept.upd ?_

end Sys2Proof.Machine
end

