-- ==== Sys2Proof/Laws/KeptLoss.lean ====
section
/-! SUPPORT. What the operations of Machine/Loss.lean keep. -/

namespace Sys2Proof.Machine

set_option Elab.async false
set_option linter.all false

theorem State.readMark_kept (s : State) (m : SetId) (e : Mark) : Kept s (State.readMark s m e).1 := by
  unfold State.readMark
  repeat' first
    | with_reducible assumption
    | with_reducible exact Kept.refl _
    | ((try lift_lets); intro x; first
        | (refine Kept.cut (t := x) ?_ fun h => ?_; rotate_left; clear_value x; rotate_left; (try unfold x))
        | skip)
    | with_reducible apply Kept.after (State.readG_kept ..)
    | with_reducible apply Kept.after (State.modSpan_kept ..)
    | split
    | dsimp +zetaDelta only
    | with_reducible refine Kept.upd ?_

theorem State.pushTally_kept (s : State) (m : SetId) (e : Mark) (mark : Bool) (cls : Cls) : Kept s (State.pushTally s m e mark cls) := by
  unfold State.pushTally
  repeat' first
    | with_reducible assumption
    | with_reducible exact Kept.refl _
    | ((try lift_lets); intro x; first
        | (refine Kept.cut (t := x) ?_ fun h => ?_; rotate_left; clear_value x; rotate_left; (try unfold x))
        | skip)
    | with_reducible apply Kept.after (State.modChan_kept ..)
    | with_reducible apply Kept.after (State.pushRaw_kept ..)
    | with_reducible apply Kept.after (State.modSpan_kept ..)
    | split
    | dsimp +zetaDelta only
    | with_reducible refine Kept.upd ?_

theorem State.rehome_kept (s : State) (m : SetId) (j : Nat) : Kept s (State.rehome s m j) := by
  unfold State.rehome
  repeat' first
    | with_reducible assumption
    | with_reducible exact Kept.refl _
    | ((try lift_lets); intro x; first
        | (refine Kept.cut (t := x) ?_ fun h => ?_; rotate_left; clear_value x; rotate_left; (try unfold x))
        | skip)
    | with_reducible apply Kept.after (State.modChan_kept ..)
    | with_reducible apply Kept.after (State.modSpan_kept ..)
    | with_reducible apply Kept.after (State.pushTally_kept ..)
    | with_reducible refine Kept.foldl (hf := fun _ _ => ?_) (h := ?_)
    | split
    | dsimp +zetaDelta only
    | with_reducible refine Kept.upd ?_

theorem State.noteSpan_kept (s : State) (m : SetId) (old : Nat) : Kept s (State.noteSpan s m old) := by
  unfold State.noteSpan
  repeat' first
    | with_reducible assumption
    | with_reducible exact Kept.refl _
    | ((try lift_lets); intro x; first
        | (refine Kept.cut (t := x) ?_ fun h => ?_; rotate_left; clear_value x; rotate_left; (try unfold x))
        | skip)
    | with_reducible apply Kept.after (State.note_kept ..)
    | dsimp +zetaDelta only

theorem State.stopRebuild_kept (s : State) (m : SetId) : Kept s (State.stopRebuild s m) := by
  unfold State.stopRebuild
  repeat' first
    | with_reducible assumption
    | with_reducible exact Kept.refl _
    | ((try lift_lets); intro x; first
        | (refine Kept.cut (t := x) ?_ fun h => ?_; rotate_left; clear_value x; rotate_left; (try unfold x))
        | skip)
    | with_reducible apply Kept.after (State.modSpan_kept ..)
    | with_reducible apply Kept.after (State.modJobs_kept ..)
    | split
    | dsimp +zetaDelta only
    | with_reducible refine Kept.upd ?_

theorem State.losePos_kept (s : State) (m : SetId) (j : Nat) (ranks : BitVec 8) : Kept s (State.losePos s m j ranks) := by
  unfold State.losePos
  repeat' first
    | with_reducible assumption
    | with_reducible exact Kept.refl _
    | ((try lift_lets); intro x; first
        | (refine Kept.cut (t := x) ?_ fun h => ?_; rotate_left; clear_value x; rotate_left; (try unfold x))
        | skip)
    | with_reducible apply Kept.after (State.modSpan_kept ..)
    | with_reducible apply Kept.after (State.noteSpan_kept ..)
    | with_reducible apply Kept.after (State.raise_kept ..)
    | with_reducible apply Kept.after (State.rehome_kept ..)
    | with_reducible apply Kept.after (State.stopRebuild_kept ..)
    | with_reducible apply Kept.after (State.setOffline_kept ..)
    | split
    | dsimp +zetaDelta only
    | with_reducible refine Kept.upd ?_

theorem State.loseChan_kept (s : State) (c : ChanId) : Kept s (State.loseChan s c) := by
  unfold State.loseChan
  repeat' first
    | with_reducible exact Kept.refl _
    | with_reducible apply Kept.after (State.losePos_kept ..)
    | split

theorem State.mirrorLost_kept (s : State) (c : ChanId) (line : Nat) : Kept s (State.mirrorLost s c line) := by
  unfold State.mirrorLost
  repeat' first
    | with_reducible exact Kept.refl _
    | with_reducible apply Kept.after (State.note_kept ..)
    | with_reducible apply Kept.after (State.raiseChan_kept ..)

theorem State.absentEntry_kept (s : State) (e : XEntry) : Kept s (State.absentEntry s e) := by
  unfold State.absentEntry
  repeat' first
    | with_reducible assumption
    | with_reducible exact Kept.refl _
    | ((try lift_lets); intro x; first
        | (refine Kept.cut (t := x) ?_ fun h => ?_; rotate_left; clear_value x; rotate_left; (try unfold x))
        | skip)
    | with_reducible apply Kept.after (State.mirrorLost_kept ..)
    | with_reducible apply Kept.after (State.undoWrite_kept ..)
    | with_reducible apply Kept.after (State.giveDone_kept ..)
    | with_reducible apply Kept.after (State.giveBeat_kept ..)
    | with_reducible refine Kept.foldl (hf := fun _ _ => ?_) (h := ?_)
    | split
    | dsimp +zetaDelta only
    | with_reducible refine Kept.upd ?_

theorem State.loseWaiting_kept (s : State) (c : ChanId) (cut : Bool) : Kept s (State.loseWaiting s c cut) := by
  unfold State.loseWaiting
  repeat' first
    | with_reducible assumption
    | with_reducible exact Kept.refl _
    | ((try lift_lets); intro x; first
        | (refine Kept.cut (t := x) ?_ fun h => ?_; rotate_left; clear_value x; rotate_left; (try unfold x))
        | skip)
    | with_reducible apply Kept.after (State.cut_kept ..)
    | with_reducible apply Kept.after (State.absentEntry_kept ..)
    | with_reducible refine Kept.foldl (hf := fun _ _ => ?_) (h := ?_)
    | split
    | dsimp +zetaDelta only
    | with_reducible refine Kept.upd ?_

theorem State.modSweep_kept (s : State) (m : SetId) (f : Sweep → Sweep) : Kept s (State.modSweep s m f) := by
  unfold State.modSweep
  repeat' first
    | with_reducible exact Kept.refl _
    | with_reducible apply Kept.after (State.modSpan_kept ..)
    | dsimp +zetaDelta only
    | with_reducible refine Kept.upd ?_

theorem State.loseRead_kept (s : State) (c : ChanId) (e : RdE) : Kept s (State.loseRead s c e) := by
  unfold State.loseRead
  repeat' first
    | with_reducible exact Kept.refl _
    | with_reducible apply Kept.after (State.startRecon_kept ..)
    | with_reducible apply Kept.after (State.giveBeat_kept ..)
    | with_reducible apply Kept.after (State.failRead_kept ..)
    | with_reducible apply Kept.after (State.loseContrib_kept ..)
    | with_reducible apply Kept.after (State.modSweep_kept ..)
    | split
    | dsimp +zetaDelta only
    | with_reducible refine Kept.upd ?_

theorem State.cutBeats_kept (s : State) (c : ChanId) : Kept s (State.cutBeats s c) := by
  unfold State.cutBeats
  repeat' first
    | with_reducible assumption
    | with_reducible exact Kept.refl _
    | ((try lift_lets); intro x; first
        | (refine Kept.cut (t := x) ?_ fun h => ?_; rotate_left; clear_value x; rotate_left; (try unfold x))
        | skip)
    | with_reducible apply Kept.after (State.cut_kept ..)
    | split
    | dsimp +zetaDelta only
    | with_reducible refine Kept.upd ?_

theorem State.cutReturns_kept (s : State) (rets : List RetE) : Kept s (State.cutReturns s rets) := by
  unfold State.cutReturns
  repeat' first
    | with_reducible assumption
    | with_reducible exact Kept.refl _
    | ((try lift_lets); intro x; first
        | (refine Kept.cut (t := x) ?_ fun h => ?_; rotate_left; clear_value x; rotate_left; (try unfold x))
        | skip)
    | with_reducible apply Kept.after (State.giveBeat_kept ..)
    | with_reducible refine Kept.foldl (hf := fun _ _ => ?_) (h := ?_)
    | dsimp +zetaDelta only

theorem State.cutSet_kept (s : State) (m : SetId) : Kept s (State.cutSet s m) := by
  unfold State.cutSet
  repeat' first
    | with_reducible assumption
    | with_reducible exact Kept.refl _
    | ((try lift_lets); intro x; first
        | (refine Kept.cut (t := x) ?_ fun h => ?_; rotate_left; clear_value x; rotate_left; (try unfold x))
        | skip)
    | with_reducible apply Kept.after (State.modChan_kept ..)
    | with_reducible apply Kept.after (State.giveBeat_kept ..)
    | with_reducible apply Kept.after (State.cutReturns_kept ..)
    | with_reducible refine Kept.foldl (hf := fun _ _ => ?_) (h := ?_)
    | split
    | dsimp +zetaDelta only
    | with_reducible refine Kept.upd ?_

theorem State.releaseOn_kept (s : State) (c : ChanId) : Kept s (State.releaseOn s c) := by
  unfold State.releaseOn
  repeat' first
    | with_reducible assumption
    | with_reducible exact Kept.refl _
    | ((try lift_lets); intro x; first
        | (refine Kept.cut (t := x) ?_ fun h => ?_; rotate_left; clear_value x; rotate_left; (try unfold x))
        | skip)
    | with_reducible apply Kept.after (State.releaseRec_kept ..)
    | with_reducible refine Kept.foldl (hf := fun _ _ => ?_) (h := ?_)
    | dsimp +zetaDelta only

theorem State.leds_kept (s : State) (c : ChanId) (attn ok : Nat) (clearPwr : Bool) : Kept s (State.leds s c attn ok clearPwr) := by
  unfold State.leds
  repeat' first
    | with_reducible assumption
    | with_reducible exact Kept.refl _
    | ((try lift_lets); intro x; first
        | (refine Kept.cut (t := x) ?_ fun h => ?_; rotate_left; clear_value x; rotate_left; (try unfold x))
        | skip)
    | with_reducible apply Kept.after (State.setProg_kept ..)
    | split
    | dsimp +zetaDelta only

theorem State.finishIdle_kept (s : State) : Kept s (State.finishIdle s) := by
  unfold State.finishIdle
  repeat' first
    | with_reducible assumption
    | with_reducible exact Kept.refl _
    | ((try lift_lets); intro x; first
        | (refine Kept.cut (t := x) ?_ fun h => ?_; rotate_left; clear_value x; rotate_left; (try unfold x))
        | skip)
    | with_reducible apply Kept.after (State.replyCur_kept ..)
    | split
    | dsimp +zetaDelta only
    | with_reducible refine Kept.upd ?_

theorem State.loseCur_kept (s : State) (c : ChanId) : Kept s (State.loseCur s c) := by
  unfold State.loseCur
  repeat' first
    | with_reducible exact Kept.refl _
    | with_reducible apply Kept.after (State.finishIdle_kept ..)
    | with_reducible apply Kept.after (State.replyCur_kept ..)
    | split
    | with_reducible refine Kept.upd ?_

theorem State.loseTraining_kept (s : State) (c : ChanId) : Kept s (State.loseTraining s c) := by
  unfold State.loseTraining
  repeat' first
    | with_reducible assumption
    | with_reducible exact Kept.refl _
    | ((try lift_lets); intro x; first
        | (refine Kept.cut (t := x) ?_ fun h => ?_; rotate_left; clear_value x; rotate_left; (try unfold x))
        | skip)
    | with_reducible apply Kept.after (State.modChan_kept ..)
    | split
    | dsimp +zetaDelta only
    | with_reducible refine Kept.upd ?_

theorem State.dropKeeps_kept (s : State) (c : ChanId) : Kept s (State.dropKeeps s c) := by
  unfold State.dropKeeps
  repeat' first
    | with_reducible exact Kept.refl _
    | with_reducible apply Kept.after (State.modChan_kept ..)
    | dsimp +zetaDelta only
    | with_reducible refine Kept.upd ?_

theorem State.settleAll_kept (s : State) : Kept s (State.settleAll s) := by
  unfold State.settleAll
  repeat' first
    | with_reducible exact Kept.refl _
    | with_reducible apply Kept.after (State.finishRecons_kept ..)
    | with_reducible apply Kept.after (State.feedRecons_kept ..)
    | with_reducible apply Kept.after (State.feedForms_kept ..)
    | with_reducible apply Kept.after (State.feedBacks_kept ..)
    | with_reducible apply Kept.after (State.feedFetches_kept ..)
    | with_reducible apply Kept.after (State.settle_kept ..)
    | with_reducible apply Kept.after (State.updWithhold_kept ..)

theorem State.replanForms_kept (s : State) (c : ChanId) : Kept s (State.replanForms s c) := by
  unfold State.replanForms
  repeat' first
    | with_reducible assumption
    | with_reducible exact Kept.refl _
    | ((try lift_lets); intro x; first
        | (refine Kept.cut (t := x) ?_ fun h => ?_; rotate_left; clear_value x; rotate_left; (try unfold x))
        | skip)
    | with_reducible apply Kept.after (State.lookStripe_kept ..)
    | with_reducible refine Kept.foldl (hf := fun _ _ => ?_) (h := ?_)
    | split
    | dsimp +zetaDelta only
    | with_reducible refine Kept.upd ?_

theorem State.dropForms_kept (s : State) (c : ChanId) : Kept s (State.dropForms s c) := by
  unfold State.dropForms
  repeat' first
    | with_reducible exact Kept.refl _
    | with_reducible apply Kept.after (State.replanForms_kept ..)
    | dsimp +zetaDelta only
    | with_reducible refine Kept.upd ?_

theorem State.dropReturns_kept (s : State) (c : ChanId) (ret : List RetE) : Kept s (State.dropReturns s c ret) := by
  unfold State.dropReturns
  repeat' first
    | with_reducible assumption
    | with_reducible exact Kept.refl _
    | ((try lift_lets); intro x; first
        | (refine Kept.cut (t := x) ?_ fun h => ?_; rotate_left; clear_value x; rotate_left; (try unfold x))
        | skip)
    | with_reducible apply Kept.after (State.modChan_kept ..)
    | with_reducible apply Kept.after (State.cutBeats_kept ..)
    | with_reducible apply Kept.after (State.cutReturns_kept ..)
    | with_reducible apply Kept.after (State.cutSet_kept ..)
    | split
    | dsimp +zetaDelta only
    | with_reducible refine Kept.upd ?_

theorem State.tellLost_kept (s : State) (c : ChanId) (held : Nat) (lost : Bool) : Kept s (State.tellLost s c held lost) := by
  unfold State.tellLost
  repeat' first
    | with_reducible assumption
    | with_reducible exact Kept.refl _
    | ((try lift_lets); intro x; first
        | (refine Kept.cut (t := x) ?_ fun h => ?_; rotate_left; clear_value x; rotate_left; (try unfold x))
        | skip)
    | with_reducible apply Kept.after (State.strobe_kept ..)
    | with_reducible apply Kept.after (State.raise_kept ..)
    | split
    | dsimp +zetaDelta only
    | with_reducible refine Kept.upd ?_

theorem State.sever_kept (s : State) (c : ChanId) (why : Nat) : Kept s (State.sever s c why) := by
  unfold State.sever
  repeat' first
    | with_reducible assumption
    | with_reducible exact Kept.refl _
    | ((try lift_lets); intro x; first
        | (refine Kept.cut (t := x) ?_ fun h => ?_; rotate_left; clear_value x; rotate_left; (try unfold x))
        | skip)
    | with_reducible apply Kept.after (State.loseTraining_kept ..)
    | with_reducible apply Kept.after (State.loseCur_kept ..)
    | with_reducible apply Kept.after (State.loseChan_kept ..)
    | with_reducible apply Kept.after (State.strobe_kept ..)
    | with_reducible apply Kept.after (State.releaseOn_kept ..)
    | with_reducible apply Kept.after (State.modChan_kept ..)
    | with_reducible apply Kept.after (State.cut_kept ..)
    | with_reducible apply Kept.after (State.dropForms_kept ..)
    | with_reducible apply Kept.after (State.loseWaiting_kept ..)
    | with_reducible apply Kept.after (State.loseRead_kept ..)
    | with_reducible apply Kept.after (State.dropReturns_kept ..)
    | with_reducible apply Kept.after (State.modSweep_kept ..)
    | with_reducible apply Kept.after (State.leds_kept ..)
    | with_reducible apply Kept.after (State.severJobs_kept ..)
    | with_reducible apply Kept.after (State.dropKeeps_kept ..)
    | with_reducible apply Kept.after (State.tellLost_kept ..)
    | with_reducible apply Kept.after (State.settleAll_kept ..)
    | with_reducible refine Kept.foldl (hf := fun _ _ => ?_) (h := ?_)
    | split
    | dsimp +zetaDelta only
    | with_reducible refine Kept.upd ?_

theorem State.shedRanks_kept (s : State) (c : ChanId) : Kept s (State.shedRanks s c) := by
  unfold State.shedRanks
  repeat' first
    | with_reducible assumption
    | with_reducible exact Kept.refl _
    | ((try lift_lets); intro x; first
        | (refine Kept.cut (t := x) ?_ fun h => ?_; rotate_left; clear_value x; rotate_left; (try unfold x))
        | skip)
    | with_reducible apply Kept.after (State.modChan_kept ..)
    | with_reducible apply Kept.after (State.loseRead_kept ..)
    | with_reducible apply Kept.after (State.replanForms_kept ..)
    | with_reducible refine Kept.foldl (hf := fun _ _ => ?_) (h := ?_)
    | split
    | dsimp +zetaDelta only
    | with_reducible refine Kept.upd ?_

theorem State.sweepFails_kept (s : State) : Kept s (State.sweepFails s) := by
  unfold State.sweepFails
  refine Kept.foldl (fun t c => ?_) (Kept.refl s)
  dsimp only
  split
  · exact Kept.refl t
  · exact (State.modChan_kept ..).trans (State.sever_kept ..)

end Sys2Proof.Machine
end

