-- ==== Sys2Proof/Laws/KeptMillOps.lean ====
section
/-! SUPPORT. What the operations of Machine/MillOps.lean keep. -/

namespace Sys2Proof.Machine

set_option Elab.async false
set_option linter.all false

theorem State.noteMill_kept (s : State) (old : MillState) (action : Nat) : Kept s (State.noteMill s old action) := by
  unfold State.noteMill
  repeat' first
    | with_reducible assumption
    | with_reducible exact Kept.refl _
    | ((try lift_lets); intro x; first
        | (refine Kept.cut (t := x) ?_ fun h => ?_; rotate_left; clear_value x; rotate_left; (try unfold x))
        | skip)
    | with_reducible apply Kept.after (State.note_kept ..)
    | dsimp +zetaDelta only

theorem State.setMill_kept (s : State) (st : MillState) : Kept s (State.setMill s st) := by
  unfold State.setMill
  repeat' first
    | with_reducible assumption
    | with_reducible exact Kept.refl _
    | ((try lift_lets); intro x; first
        | (refine Kept.cut (t := x) ?_ fun h => ?_; rotate_left; clear_value x; rotate_left; (try unfold x))
        | skip)
    | with_reducible apply Kept.after (State.settle_kept ..)
    | with_reducible apply Kept.after (State.updWithhold_kept ..)
    | dsimp +zetaDelta only
    | with_reducible refine Kept.upd ?_

theorem State.lookDrift_kept (s : State) (g : Nat) : Kept s (State.lookDrift s g) := by
  unfold State.lookDrift
  repeat' first
    | with_reducible assumption
    | with_reducible exact Kept.refl _
    | ((try lift_lets); intro x; first
        | (refine Kept.cut (t := x) ?_ fun h => ?_; rotate_left; clear_value x; rotate_left; (try unfold x))
        | skip)
    | with_reducible apply Kept.after (State.readG_kept ..)
    | split
    | dsimp +zetaDelta only
    | with_reducible refine Kept.upd ?_

theorem State.writeDrift_kept (s : State) (g : Nat) (set : Bool) : Kept s (State.writeDrift s g set) := by
  unfold State.writeDrift
  repeat' first
    | with_reducible assumption
    | with_reducible exact Kept.refl _
    | ((try lift_lets); intro x; first
        | (refine Kept.cut (t := x) ?_ fun h => ?_; rotate_left; clear_value x; rotate_left; (try unfold x))
        | skip)
    | with_reducible apply Kept.after (State.lookDrift_kept ..)
    | with_reducible apply Kept.after (State.spendG_kept ..)
    | split
    | dsimp +zetaDelta only
    | with_reducible refine Kept.upd ?_

theorem State.markDrift_kept (s : State) (g : Nat) : Kept s (State.markDrift s g) := by
  unfold State.markDrift
  repeat' first
    | with_reducible exact Kept.refl _
    | with_reducible apply Kept.after (State.writeDrift_kept ..)

theorem State.spillLog_kept (s : State) : Kept s (State.spillLog s) := by
  unfold State.spillLog
  repeat' first
    | with_reducible assumption
    | with_reducible exact Kept.refl _
    | ((try lift_lets); intro x; first
        | (refine Kept.cut (t := x) ?_ fun h => ?_; rotate_left; clear_value x; rotate_left; (try unfold x))
        | skip)
    | with_reducible apply Kept.after (State.markDrift_kept ..)
    | with_reducible apply Kept.after (State.readG_kept ..)
    | with_reducible refine Kept.foldl (hf := fun _ _ => ?_) (h := ?_)
    | split
    | dsimp +zetaDelta only
    | with_reducible refine Kept.upd ?_

theorem State.spillMo_kept (s : State) : Kept s (State.spillMo s) := by
  unfold State.spillMo
  repeat' first
    | with_reducible assumption
    | with_reducible exact Kept.refl _
    | ((try lift_lets); intro x; first
        | (refine Kept.cut (t := x) ?_ fun h => ?_; rotate_left; clear_value x; rotate_left; (try unfold x))
        | skip)
    | with_reducible apply Kept.after (State.markDrift_kept ..)
    | with_reducible refine Kept.foldl (hf := fun _ _ => ?_) (h := ?_)
    | dsimp +zetaDelta only
    | with_reducible refine Kept.upd ?_

theorem State.markSplit_kept (s : State) : Kept s (State.markSplit s) := by
  unfold State.markSplit
  repeat' first
    | with_reducible assumption
    | with_reducible exact Kept.refl _
    | ((try lift_lets); intro x; first
        | (refine Kept.cut (t := x) ?_ fun h => ?_; rotate_left; clear_value x; rotate_left; (try unfold x))
        | skip)
    | with_reducible apply Kept.after (State.spillLog_kept ..)
    | with_reducible apply Kept.after (State.spillMo_kept ..)
    | dsimp +zetaDelta only
    | with_reducible refine Kept.upd ?_

theorem State.toFrozen_kept (s : State) (why : Nat) : Kept s (State.toFrozen s why) := by
  unfold State.toFrozen
  repeat' first
    | with_reducible assumption
    | with_reducible exact Kept.refl _
    | ((try lift_lets); intro x; first
        | (refine Kept.cut (t := x) ?_ fun h => ?_; rotate_left; clear_value x; rotate_left; (try unfold x))
        | skip)
    | with_reducible apply Kept.after (State.markSplit_kept ..)
    | with_reducible apply Kept.after (State.setMill_kept ..)
    | with_reducible apply Kept.after (State.raise_kept ..)
    | with_reducible apply Kept.after (State.ask_kept ..)
    | with_reducible apply Kept.after (State.strobe_kept ..)
    | with_reducible apply Kept.after (State.noteMill_kept ..)
    | dsimp +zetaDelta only
    | with_reducible refine Kept.upd ?_

theorem State.toSolo_kept (s : State) : Kept s (State.toSolo s) := by
  unfold State.toSolo
  repeat' first
    | with_reducible assumption
    | with_reducible exact Kept.refl _
    | ((try lift_lets); intro x; first
        | (refine Kept.cut (t := x) ?_ fun h => ?_; rotate_left; clear_value x; rotate_left; (try unfold x))
        | skip)
    | with_reducible apply Kept.after (State.spillLog_kept ..)
    | with_reducible apply Kept.after (State.spillMo_kept ..)
    | with_reducible apply Kept.after (State.setMill_kept ..)
    | dsimp +zetaDelta only
    | with_reducible refine Kept.upd ?_

theorem State.toFenced_kept (s : State) : Kept s (State.toFenced s) := by
  unfold State.toFenced
  repeat' first
    | with_reducible assumption
    | with_reducible exact Kept.refl _
    | ((try lift_lets); intro x; first
        | (refine Kept.cut (t := x) ?_ fun h => ?_; rotate_left; clear_value x; rotate_left; (try unfold x))
        | skip)
    | with_reducible apply Kept.after (State.spillLog_kept ..)
    | with_reducible apply Kept.after (State.spillMo_kept ..)
    | with_reducible apply Kept.after (State.setMill_kept ..)
    | dsimp +zetaDelta only
    | with_reducible refine Kept.upd ?_

theorem State.sendSever_kept (s : State) (cause : Nat) : Kept s (State.sendSever s cause) := by
  unfold State.sendSever
  repeat' first
    | with_reducible exact Kept.refl _
    | with_reducible apply Kept.after (State.sever_kept ..)
    | split
    | dsimp +zetaDelta only
    | with_reducible refine Kept.upd ?_

theorem State.millOff_kept (s : State) : Kept s (State.millOff s) := by
  unfold State.millOff
  repeat' first
    | with_reducible assumption
    | with_reducible exact Kept.refl _
    | ((try lift_lets); intro x; first
        | (refine Kept.cut (t := x) ?_ fun h => ?_; rotate_left; clear_value x; rotate_left; (try unfold x))
        | skip)
    | with_reducible apply Kept.after (State.sendSever_kept ..)
    | with_reducible apply Kept.after (State.setMill_kept ..)
    | split
    | dsimp +zetaDelta only
    | with_reducible refine Kept.upd ?_

theorem State.loseLink_kept (s : State) (why : Nat) : Kept s (State.loseLink s why) := by
  unfold State.loseLink
  repeat' first
    | with_reducible exact Kept.refl _
    | with_reducible apply Kept.after (State.toFrozen_kept ..)
    | with_reducible apply Kept.after (State.toSolo_kept ..)
    | with_reducible apply Kept.after (State.toFenced_kept ..)
    | split
    | dsimp +zetaDelta only
    | with_reducible refine Kept.upd ?_

theorem State.streamBreak_kept (s : State) (l : Lane) (reason : Nat) : Kept s (State.streamBreak s l reason) := by
  unfold State.streamBreak
  repeat' first
    | with_reducible assumption
    | with_reducible exact Kept.refl _
    | ((try lift_lets); intro x; first
        | (refine Kept.cut (t := x) ?_ fun h => ?_; rotate_left; clear_value x; rotate_left; (try unfold x))
        | skip)
    | with_reducible apply Kept.after (State.raise_kept ..)
    | with_reducible apply Kept.after (State.loseLink_kept ..)
    | split
    | dsimp +zetaDelta only
    | with_reducible refine Kept.upd ?_

theorem State.supersede_kept (s : State) (e : XEntry) : Kept s (State.supersede s e) := by
  unfold State.supersede
  repeat' first
    | with_reducible assumption
    | with_reducible exact Kept.refl _
    | ((try lift_lets); intro x; first
        | (refine Kept.cut (t := x) ?_ fun h => ?_; rotate_left; clear_value x; rotate_left; (try unfold x))
        | skip)
    | with_reducible refine Kept.foldl (hf := fun _ _ => ?_) (h := ?_)
    | split
    | dsimp +zetaDelta only
    | with_reducible refine Kept.upd ?_

theorem State.mirrorWrite_kept (s : State) (e : XEntry) : Kept s (State.mirrorWrite s e) := by
  unfold State.mirrorWrite
  repeat' first
    | with_reducible assumption
    | with_reducible exact Kept.refl _
    | ((try lift_lets); intro x; first
        | (refine Kept.cut (t := x) ?_ fun h => ?_; rotate_left; clear_value x; rotate_left; (try unfold x))
        | skip)
    | with_reducible apply Kept.after (State.spendG_kept ..)
    | with_reducible apply Kept.after (State.supersede_kept ..)
    | with_reducible apply Kept.after (State.markDrift_kept ..)
    | with_reducible refine Kept.foldl (hf := fun _ _ => ?_) (h := ?_)
    | split
    | dsimp +zetaDelta only
    | with_reducible refine Kept.upd ?_

theorem feedResyncReads_kept (n : Nat) (s : State) : Kept s (feedResyncReads n s) := by
  induction n generalizing s with
  | zero => exact Kept.refl s
  | succ n ih =>
    unfold feedResyncReads
    dsimp only
    repeat' first
      | exact Kept.refl s
      | exact Kept.upd (State.writeDrift_kept s _ _)
      | (refine Kept.trans ?_ (ih _); first
          | exact Kept.upd (Kept.refl s)
          | exact Kept.after (State.stamp_kept _) (Kept.upd (Kept.refl s)))
      | split

theorem State.feedResync_kept (s : State) (n : Nat) : Kept s (State.feedResync s n) := feedResyncReads_kept n s

end Sys2Proof.Machine
end

