-- ==== Sys2Proof/Laws/KeptDrain.lean ====
section
/-! SUPPORT. What the operations of Machine/Drain.lean keep. -/

namespace Sys2Proof.Machine

set_option Elab.async false
set_option linter.all false

theorem State.releaseAll_kept (s : State) (c : ChanId) : Kept s (State.releaseAll s c) := by
  unfold State.releaseAll
  repeat' first
    | with_reducible assumption
    | with_reducible exact Kept.refl _
    | ((try lift_lets); intro x; first
        | (refine Kept.cut (t := x) ?_ fun h => ?_; rotate_left; clear_value x; rotate_left; (try unfold x))
        | skip)
    | with_reducible apply Kept.after (State.releaseRec_kept ..)
    | with_reducible apply Kept.after (State.releaseLine_kept ..)
    | with_reducible refine Kept.foldl (hf := fun _ _ => ?_) (h := ?_)
    | dsimp +zetaDelta only

theorem State.startSelf_kept (s : State) (c : ChanId) : Kept s (State.startSelf s c) := by
  unfold State.startSelf
  repeat' first
    | with_reducible assumption
    | with_reducible exact Kept.refl _
    | ((try lift_lets); intro x; first
        | (refine Kept.cut (t := x) ?_ fun h => ?_; rotate_left; clear_value x; rotate_left; (try unfold x))
        | skip)
    | with_reducible apply Kept.after (State.modChan_kept ..)
    | with_reducible apply Kept.after (State.prepare_kept ..)
    | split
    | dsimp +zetaDelta only
    | with_reducible refine Kept.upd ?_

theorem State.drainTick_kept (s : State) (c : ChanId) : Kept s (State.drainTick s c) := by
  unfold State.drainTick
  repeat' first
    | with_reducible assumption
    | with_reducible exact Kept.refl _
    | ((try lift_lets); intro x; first
        | (refine Kept.cut (t := x) ?_ fun h => ?_; rotate_left; clear_value x; rotate_left; (try unfold x))
        | skip)
    | with_reducible apply Kept.after (State.pushRaw_kept ..)
    | with_reducible apply Kept.after (State.startSelf_kept ..)
    | split
    | dsimp +zetaDelta only
    | with_reducible refine Kept.upd ?_

theorem State.idleDone_kept (s : State) (opc : Nat) (c : ChanId) (ok : Bool) : Kept s (State.idleDone s opc c ok) := by
  unfold State.idleDone
  repeat' first
    | with_reducible assumption
    | with_reducible exact Kept.refl _
    | ((try lift_lets); intro x; first
        | (refine Kept.cut (t := x) ?_ fun h => ?_; rotate_left; clear_value x; rotate_left; (try unfold x))
        | skip)
    | with_reducible apply Kept.after (State.finishIdle_kept ..)
    | split
    | dsimp +zetaDelta only
    | with_reducible refine Kept.upd ?_

theorem State.beginExit_kept (s : State) (c : ChanId) : Kept s (State.beginExit s c) := by
  unfold State.beginExit
  repeat' first
    | with_reducible assumption
    | with_reducible exact Kept.refl _
    | ((try lift_lets); intro x; first
        | (refine Kept.cut (t := x) ?_ fun h => ?_; rotate_left; clear_value x; rotate_left; (try unfold x))
        | skip)
    | with_reducible apply Kept.after (State.modChan_kept ..)
    | dsimp +zetaDelta only
    | with_reducible refine Kept.upd ?_

theorem State.retain_kept (s : State) (c : ChanId) : Kept s (State.retain s c) := by
  unfold State.retain
  repeat' first
    | with_reducible assumption
    | with_reducible exact Kept.refl _
    | ((try lift_lets); intro x; first
        | (refine Kept.cut (t := x) ?_ fun h => ?_; rotate_left; clear_value x; rotate_left; (try unfold x))
        | skip)
    | with_reducible apply Kept.after (State.modChan_kept ..)
    | with_reducible apply Kept.after (State.leds_kept ..)
    | with_reducible apply Kept.after (State.prepare_kept ..)
    | with_reducible apply Kept.after (State.wake_kept ..)
    | with_reducible apply Kept.after (State.idleDone_kept ..)
    | with_reducible apply Kept.after (State.beginExit_kept ..)
    | split
    | dsimp +zetaDelta only
    | with_reducible refine Kept.upd ?_

theorem State.strobeChan_kept (s : State) (c : ChanId) : Kept s (State.strobeChan s c) := by
  unfold State.strobeChan
  repeat' first
    | with_reducible assumption
    | with_reducible exact Kept.refl _
    | ((try lift_lets); intro x; first
        | (refine Kept.cut (t := x) ?_ fun h => ?_; rotate_left; clear_value x; rotate_left; (try unfold x))
        | skip)
    | with_reducible apply Kept.after (State.modChan_kept ..)
    | with_reducible apply Kept.after (State.releaseAll_kept ..)
    | split
    | dsimp +zetaDelta only
    | with_reducible refine Kept.upd ?_

theorem State.endPowerCmd_kept (s : State) : Kept s (State.endPowerCmd s) := by
  unfold State.endPowerCmd
  repeat' first
    | with_reducible exact Kept.refl _
    | with_reducible apply Kept.after (State.finishIdle_kept ..)
    | with_reducible apply Kept.after (State.replyCur_kept ..)
    | split
    | with_reducible refine Kept.upd ?_

theorem State.stopClears_kept (s : State) (m : SetId) : Kept s (State.stopClears s m) := by
  unfold State.stopClears
  repeat' first
    | with_reducible assumption
    | with_reducible exact Kept.refl _
    | ((try lift_lets); intro x; first
        | (refine Kept.cut (t := x) ?_ fun h => ?_; rotate_left; clear_value x; rotate_left; (try unfold x))
        | skip)
    | with_reducible apply Kept.after (State.modChan_kept ..)
    | with_reducible apply Kept.after (State.modSpan_kept ..)
    | with_reducible refine Kept.foldl (hf := fun _ _ => ?_) (h := ?_)
    | split
    | dsimp +zetaDelta only
    | with_reducible refine Kept.upd ?_

theorem State.strobe_kept (s : State) (cause : Nat) : Kept s (State.strobe s cause) := by
  unfold State.strobe
  repeat' first
    | with_reducible assumption
    | with_reducible exact Kept.refl _
    | ((try lift_lets); intro x; first
        | (refine Kept.cut (t := x) ?_ fun h => ?_; rotate_left; clear_value x; rotate_left; (try unfold x))
        | skip)
    | with_reducible apply Kept.after (State.settleAll_kept ..)
    | with_reducible apply Kept.after (State.raise_kept ..)
    | with_reducible apply Kept.after (State.strobeChan_kept ..)
    | with_reducible apply Kept.after (State.modSpan_kept ..)
    | with_reducible apply Kept.after (State.stopRebuild_kept ..)
    | with_reducible apply Kept.after (State.stopClears_kept ..)
    | with_reducible apply Kept.after (State.endPowerCmd_kept ..)
    | with_reducible apply Kept.after (State.abandonJobs_kept ..)
    | with_reducible refine Kept.foldl (hf := fun _ _ => ?_) (h := ?_)
    | split
    | with_reducible refine Kept.upd ?_
    | with_reducible refine Kept.grow ?_ (hp := fun _ => rfl)
    | dsimp +zetaDelta only

theorem State.enterSafe_kept (s : State) (src : Nat) : Kept s (State.enterSafe s src) := by
  unfold State.enterSafe
  repeat' first
    | with_reducible assumption
    | with_reducible exact Kept.refl _
    | ((try lift_lets); intro x; first
        | (refine Kept.cut (t := x) ?_ fun h => ?_; rotate_left; clear_value x; rotate_left; (try unfold x))
        | skip)
    | with_reducible apply Kept.after (State.settleAll_kept ..)
    | with_reducible apply Kept.after (State.note_kept ..)
    | with_reducible apply Kept.after (State.strobe_kept ..)
    | with_reducible apply Kept.after (State.abandonJobs_kept ..)
    | with_reducible apply Kept.after (State.sendSever_kept ..)
    | with_reducible apply Kept.after (State.updFlood_kept ..)
    | with_reducible refine Kept.foldl (hf := fun _ _ => ?_) (h := ?_)
    | split
    | with_reducible refine Kept.upd ?_
    | with_reducible refine Kept.grow ?_ (hs := fun _ => rfl)

end Sys2Proof.Machine
end

