-- ==== Sys2Proof/Laws/KeptCrossbar.lean ====
section
/-! SUPPORT. What the operations of Machine/Crossbar.lean keep. -/

namespace Sys2Proof.Machine

set_option Elab.async false
set_option linter.all false

theorem State.takeEntry_kept (s : State) (d : Dest) (e : XEntry) : Kept s (State.takeEntry s d e) := by
  unfold State.takeEntry
  repeat' first
    | with_reducible assumption
    | with_reducible exact Kept.refl _
    | ((try lift_lets); intro x; first
        | (refine Kept.cut (t := x) ?_ fun h => ?_; rotate_left; clear_value x; rotate_left; (try unfold x))
        | skip)
    | with_reducible apply Kept.after (State.touchFresh_kept ..)
    | with_reducible apply Kept.after (State.takeRead_kept ..)
    | with_reducible refine Kept.foldl (hf := fun _ _ => ?_) (h := ?_)
    | split
    | dsimp +zetaDelta only
    | with_reducible refine Kept.upd ?_

theorem execCrossbarTransfer_kept (d : Dest) (s : State) : ∃ s₁, execCrossbarTransfer d s = .next s₁ ∧ Kept s s₁ := by
  refine ⟨_, rfl, ?_⟩
  repeat' first
    | with_reducible exact Kept.refl _
    | with_reducible apply Kept.after (State.strobe_kept ..)
    | with_reducible apply Kept.after (State.takeEntry_kept ..)
    | with_reducible apply Kept.after (State.feedResync_kept ..)
    | with_reducible apply Kept.after (State.updMiFlood_kept ..)
    | with_reducible apply Kept.after (State.settleAll_kept ..)
    | with_reducible apply Kept.after (State.sweepFails_kept ..)
    | split
    | with_reducible refine Kept.upd ?_

theorem State.countWrites_kept (s : State) (e : XEntry) : Kept s (State.countWrites s e) := by
  unfold State.countWrites
  repeat' first
    | with_reducible exact Kept.refl _
    | with_reducible apply Kept.after (State.modPort_kept ..)
    | split
    | dsimp +zetaDelta only
    | with_reducible refine Kept.upd ?_

theorem State.acceptWrite_kept (s : State) (e : XEntry) : Kept s (State.acceptWrite s e) := by
  unfold State.acceptWrite
  repeat' first
    | with_reducible assumption
    | with_reducible exact Kept.refl _
    | ((try lift_lets); intro x; first
        | (refine Kept.cut (t := x) ?_ fun h => ?_; rotate_left; clear_value x; rotate_left; (try unfold x))
        | skip)
    | with_reducible apply Kept.after (State.placeWrite_kept ..)
    | with_reducible apply Kept.after (State.mirrorWrite_kept ..)
    | with_reducible apply Kept.after (State.countWrites_kept ..)
    | with_reducible apply Kept.after (State.giveDone_kept ..)
    | with_reducible apply Kept.after (State.settleAll_kept ..)
    | with_reducible apply Kept.after (State.sweepFails_kept ..)
    | dsimp +zetaDelta only
    | with_reducible refine Kept.upd ?_

theorem execWriteAccept_kept (d : Dest) (s : State) : ∃ s₁, execWriteAccept d s = .next s₁ ∧ Kept s s₁ := by
  refine ⟨_, rfl, ?_⟩
  repeat' first
    | with_reducible exact Kept.refl _
    | with_reducible apply Kept.after (State.strobe_kept ..)
    | with_reducible apply Kept.after (State.acceptWrite_kept ..)
    | split
    | dsimp +zetaDelta only
    | with_reducible refine Kept.upd ?_

theorem execEddyLwinExpiry_kept (c : ChanId) (line : Nat) (s : State) : ∃ s₁, execEddyLwinExpiry c line s = .next s₁ ∧ Kept s s₁ := by
  refine ⟨_, rfl, ?_⟩
  repeat' first
    | with_reducible exact Kept.refl _
    | with_reducible apply Kept.after (State.releaseLine_kept ..)
    | with_reducible apply Kept.after (State.settleAll_kept ..)
    | with_reducible apply Kept.after (State.sweepFails_kept ..)
    | split
    | dsimp +zetaDelta only
    | with_reducible refine Kept.upd ?_

theorem execStripeSwinExpiry_kept (m : SetId) (stripe : Nat) (s : State) : ∃ s₁, execStripeSwinExpiry m stripe s = .next s₁ ∧ Kept s s₁ := by
  refine ⟨_, rfl, ?_⟩
  repeat' first
    | with_reducible exact Kept.refl _
    | with_reducible apply Kept.after (State.releaseRec_kept ..)
    | with_reducible apply Kept.after (State.settleAll_kept ..)
    | with_reducible apply Kept.after (State.sweepFails_kept ..)
    | split
    | dsimp +zetaDelta only
    | with_reducible refine Kept.upd ?_

theorem State.giveForm_kept (s : State) (f key : Nat) (res : Option Line) : Kept s (State.giveForm s f key res) := by
  unfold State.giveForm
  repeat' first
    | with_reducible exact Kept.refl _
    | split
    | dsimp +zetaDelta only
    | with_reducible refine Kept.upd ?_

theorem execInternalReadReturn_kept (c : ChanId) (s : State) : ∃ s₁, execInternalReadReturn c s = .next s₁ ∧ Kept s s₁ := by
  refine ⟨_, rfl, ?_⟩
  repeat' first
    | with_reducible exact Kept.refl _
    | with_reducible apply Kept.after (State.modChan_kept ..)
    | with_reducible apply Kept.after (State.giveForm_kept ..)
    | with_reducible apply Kept.after (State.settleAll_kept ..)
    | with_reducible apply Kept.after (State.sweepFails_kept ..)
    | split
    | dsimp +zetaDelta only
    | with_reducible refine Kept.upd ?_

theorem State.sendLine_kept (s : State) (c : ChanId) (e : RetE) : Kept s (State.sendLine s c e) := by
  unfold State.sendLine
  repeat' first
    | with_reducible assumption
    | with_reducible exact Kept.refl _
    | ((try lift_lets); intro x; first
        | (refine Kept.cut (t := x) ?_ fun h => ?_; rotate_left; clear_value x; rotate_left; (try unfold x))
        | skip)
    | with_reducible apply Kept.after (State.modChan_kept ..)
    | with_reducible apply Kept.after (State.raiseChan_kept ..)
    | with_reducible apply Kept.after (State.giveBeat_kept ..)
    | split
    | dsimp +zetaDelta only

theorem execReturnLine_kept (c : ChanId) (s : State) : ∃ s₁, execReturnLine c s = .next s₁ ∧ Kept s s₁ := by
  refine ⟨_, rfl, ?_⟩
  repeat' first
    | with_reducible exact Kept.refl _
    | with_reducible apply Kept.after (State.modChan_kept ..)
    | with_reducible apply Kept.after (State.sendLine_kept ..)
    | with_reducible apply Kept.after (State.settleAll_kept ..)
    | split
    | dsimp +zetaDelta only
    | with_reducible refine Kept.upd ?_

theorem execCrossbarHeadWaitLimit_kept (d : Dest) (s : State) : ∃ s₁, execCrossbarHeadWaitLimit d s = .next s₁ ∧ Kept s s₁ := by
  refine ⟨_, rfl, ?_⟩
  repeat' first
    | with_reducible assumption
    | with_reducible exact Kept.refl _
    | ((try lift_lets); intro x; first
        | (refine Kept.cut (t := x) ?_ fun h => ?_; rotate_left; clear_value x; rotate_left; (try unfold x))
        | skip)
    | split
    | dsimp +zetaDelta only
    | with_reducible refine Kept.upd ?_

end Sys2Proof.Machine
end

