-- ==== Sys2Proof/Laws/KeptRegOps.lean ====
section
/-! SUPPORT. What the operations of Machine/RegOps.lean keep. -/

namespace Sys2Proof.Machine

set_option Elab.async false
set_option linter.all false

theorem State.store_kept (s : State) (key : Nat) (val : Word) : Kept s (State.store s key val) := by
  unfold State.store
  repeat' first
    | with_reducible assumption
    | with_reducible exact Kept.refl _
    | ((try lift_lets); intro x; first
        | (refine Kept.cut (t := x) ?_ fun h => ?_; rotate_left; clear_value x; rotate_left; (try unfold x))
        | skip)
    | with_reducible apply Kept.after (State.setProg_kept ..)
    | split
    | dsimp +zetaDelta only
    | with_reducible refine Kept.upd ?_

theorem State.post_kept (s : State) (groups : Word) (at_ : Nat) (armed : Bool) : Kept s (State.post s groups at_ armed) := by
  unfold State.post
  repeat' first
    | with_reducible exact Kept.refl _
    | with_reducible refine Kept.upd ?_

theorem State.postNow_kept (s : State) (groups : Word) : Kept s (State.postNow s groups) := by
  unfold State.postNow
  repeat' first
    | with_reducible exact Kept.refl _
    | with_reducible apply Kept.after (State.post_kept ..)

theorem State.autoCommit_kept (s : State) : Kept s (State.autoCommit s) := by
  unfold State.autoCommit
  repeat' first
    | with_reducible assumption
    | with_reducible exact Kept.refl _
    | ((try lift_lets); intro x; first
        | (refine Kept.cut (t := x) ?_ fun h => ?_; rotate_left; clear_value x; rotate_left; (try unfold x))
        | skip)
    | split
    | dsimp +zetaDelta only
    | with_reducible refine Kept.upd ?_

theorem State.ctl_kept (s : State) (f : State → State) (hf : ∀ t, Kept t (f t)) : Kept s (State.ctl s f) := by
  unfold State.ctl
  split
  · exact hf s
  · exact Kept.refl s

theorem State.agentCtl_kept (s : State) (f : State → State) (hf : ∀ t, Kept t (f t)) : Kept s (State.agentCtl s f) := by
  refine State.ctl_kept s _ fun t => ?_
  split
  · exact hf t
  · exact Kept.refl t

end Sys2Proof.Machine
end

