-- ==== Sys2Proof/Laws/KeptMaint.lean ====
section
/-! SUPPORT. What the operations of Machine/Maint.lean keep. -/

namespace Sys2Proof.Machine

set_option Elab.async false
set_option linter.all false

theorem State.retirePage_kept (s : State) (page : Nat) (c : ChanId) (cause : Nat) :
    Kept s (State.retirePage s page c cause) := by
  unfold State.retirePage
  split
  · exact Kept.refl s
  · split
    · refine Kept.of_inv fun i => ⟨i.1, i.2.1, ?_, i.2.2.2⟩
      simp only [List.length_append, List.length_singleton]
      omega
    · exact Kept.after (State.raise_kept ..) (Kept.upd (Kept.refl s))

theorem State.retireLine_kept (s : State) (c : ChanId) (line cause : Nat) : Kept s (State.retireLine s c line cause) := by
  unfold State.retireLine
  repeat' first
    | with_reducible exact Kept.refl _
    | with_reducible apply Kept.after (State.retirePage_kept ..)

theorem State.askService_kept (s : State) (c : ChanId) : Kept s (State.askService s c) := by
  unfold State.askService
  repeat' first
    | with_reducible assumption
    | with_reducible exact Kept.refl _
    | ((try lift_lets); intro x; first
        | (refine Kept.cut (t := x) ?_ fun h => ?_; rotate_left; clear_value x; rotate_left; (try unfold x))
        | skip)
    | with_reducible apply Kept.after (State.leds_kept ..)
    | with_reducible apply Kept.after (State.modChan_kept ..)
    | split
    | dsimp +zetaDelta only
    | with_reducible refine Kept.upd ?_

theorem State.writeKs_kept (s : State) (c : ChanId) (ok : Bool) : Kept s (State.writeKs s c ok) := by
  unfold State.writeKs
  repeat' first
    | with_reducible assumption
    | with_reducible exact Kept.refl _
    | ((try lift_lets); intro x; first
        | (refine Kept.cut (t := x) ?_ fun h => ?_; rotate_left; clear_value x; rotate_left; (try unfold x))
        | skip)
    | with_reducible apply Kept.after (State.readTable_kept ..)
    | split
    | dsimp +zetaDelta only
    | with_reducible refine Kept.upd ?_

theorem State.askKs_kept (s : State) (c : ChanId) (use : KsFor) : Kept s (State.askKs s c use) := by
  unfold State.askKs
  repeat' first
    | with_reducible assumption
    | with_reducible exact Kept.refl _
    | ((try lift_lets); intro x; first
        | (refine Kept.cut (t := x) ?_ fun h => ?_; rotate_left; clear_value x; rotate_left; (try unfold x))
        | skip)
    | with_reducible apply Kept.after (State.modChan_kept ..)
    | dsimp +zetaDelta only
    | with_reducible refine Kept.upd ?_

theorem State.useFree_kept (s : State) : Kept s (State.useFree s) := by
  unfold State.useFree
  repeat' first
    | with_reducible exact Kept.refl _
    | with_reducible refine Kept.upd ?_

theorem State.finishInstall_kept (s : State) (c : ChanId) (line err : Nat) : Kept s (State.finishInstall s c line err) := by
  unfold State.finishInstall
  repeat' first
    | with_reducible exact Kept.refl _
    | with_reducible apply Kept.after (State.finishLine_kept ..)

theorem State.beginPatch_kept (s : State) (c : ChanId) (line : Nat) : Kept s (State.beginPatch s c line) := by
  unfold State.beginPatch
  repeat' first
    | with_reducible assumption
    | with_reducible exact Kept.refl _
    | ((try lift_lets); intro x; first
        | (refine Kept.cut (t := x) ?_ fun h => ?_; rotate_left; clear_value x; rotate_left; (try unfold x))
        | skip)
    | with_reducible apply Kept.after (State.modChan_kept ..)
    | with_reducible apply Kept.after (State.raiseChan_kept ..)
    | with_reducible apply Kept.after (State.finishInstall_kept ..)
    | split
    | dsimp +zetaDelta only
    | with_reducible refine Kept.upd ?_

theorem State.askPatch_kept (s : State) (c : ChanId) (line : Nat) : Kept s (State.askPatch s c line) := by
  unfold State.askPatch
  repeat' first
    | with_reducible assumption
    | with_reducible exact Kept.refl _
    | ((try lift_lets); intro x; first
        | (refine Kept.cut (t := x) ?_ fun h => ?_; rotate_left; clear_value x; rotate_left; (try unfold x))
        | skip)
    | with_reducible apply Kept.after (State.modChan_kept ..)
    | split
    | dsimp +zetaDelta only
    | with_reducible refine Kept.upd ?_

theorem State.leaveWait_kept (s : State) (c : ChanId) (line : Nat) : Kept s (State.leaveWait s c line) := by
  unfold State.leaveWait
  repeat' first
    | with_reducible exact Kept.refl _
    | with_reducible apply Kept.after (State.modChan_kept ..)
    | dsimp +zetaDelta only
    | with_reducible refine Kept.upd ?_

theorem State.releaseHeld_kept (s : State) (c : ChanId) (line : Nat) : Kept s (State.releaseHeld s c line) := by
  unfold State.releaseHeld
  repeat' first
    | with_reducible assumption
    | with_reducible exact Kept.refl _
    | ((try lift_lets); intro x; first
        | (refine Kept.cut (t := x) ?_ fun h => ?_; rotate_left; clear_value x; rotate_left; (try unfold x))
        | skip)
    | with_reducible apply Kept.after (State.modChan_kept ..)
    | with_reducible apply Kept.after (State.stamp_kept ..)
    | with_reducible refine Kept.foldl (hf := fun _ _ => ?_) (h := ?_)
    | split
    | dsimp +zetaDelta only
    | with_reducible refine Kept.upd ?_

theorem State.rung_kept (s : State) (c : ChanId) (r line : Nat) (taken : Bool) (dev : Nat) : Kept s (State.rung s c r line taken dev) := by
  unfold State.rung
  repeat' first
    | with_reducible assumption
    | with_reducible exact Kept.refl _
    | ((try lift_lets); intro x; first
        | (refine Kept.cut (t := x) ?_ fun h => ?_; rotate_left; clear_value x; rotate_left; (try unfold x))
        | skip)
    | with_reducible apply Kept.after (State.modChan_kept ..)
    | with_reducible apply Kept.after (State.ladder_kept ..)
    | with_reducible apply Kept.after (State.note_kept ..)
    | with_reducible apply Kept.after (State.raiseChan_kept ..)
    | split
    | dsimp +zetaDelta only
    | with_reducible refine Kept.upd ?_

theorem State.takeErase_kept (s : State) (c : ChanId) (line dev : Nat) : Kept s (State.takeErase s c line dev) := by
  unfold State.takeErase
  repeat' first
    | with_reducible assumption
    | with_reducible exact Kept.refl _
    | ((try lift_lets); intro x; first
        | (refine Kept.cut (t := x) ?_ fun h => ?_; rotate_left; clear_value x; rotate_left; (try unfold x))
        | skip)
    | with_reducible apply Kept.after (State.store_kept ..)
    | with_reducible apply Kept.after (State.postNow_kept ..)
    | with_reducible apply Kept.after (State.autoCommit_kept ..)
    | with_reducible apply Kept.after (State.rung_kept ..)
    | dsimp +zetaDelta only

theorem State.degrade_kept (s : State) (c : ChanId) (d : Carried) : Kept s (State.degrade s c d) := by
  unfold State.degrade
  repeat' first
    | with_reducible assumption
    | with_reducible exact Kept.refl _
    | ((try lift_lets); intro x; first
        | (refine Kept.cut (t := x) ?_ fun h => ?_; rotate_left; clear_value x; rotate_left; (try unfold x))
        | skip)
    | with_reducible apply Kept.after (State.stopRebuild_kept ..)
    | with_reducible apply Kept.after (State.setOffline_kept ..)
    | with_reducible apply Kept.after (State.losePos_kept ..)
    | with_reducible apply Kept.after (State.shedRanks_kept ..)
    | with_reducible apply Kept.after (State.askService_kept ..)
    | with_reducible apply Kept.after (State.rung_kept ..)
    | with_reducible apply Kept.after (State.finishLine_kept ..)
    | with_reducible apply Kept.after (State.noteSpan_kept ..)
    | split
    | dsimp +zetaDelta only
    | with_reducible refine Kept.upd ?_

theorem State.carry_kept (s : State) (c : ChanId) : Kept s (State.carry s c) := by
  unfold State.carry
  repeat' first
    | with_reducible assumption
    | with_reducible exact Kept.refl _
    | ((try lift_lets); intro x; first
        | (refine Kept.cut (t := x) ?_ fun h => ?_; rotate_left; clear_value x; rotate_left; (try unfold x))
        | skip)
    | with_reducible apply Kept.after (State.ladder_kept ..)
    | with_reducible apply Kept.after (State.degrade_kept ..)
    | with_reducible apply Kept.after (State.modChan_kept ..)
    | with_reducible refine Kept.foldl (hf := fun _ _ => ?_) (h := ?_)
    | dsimp +zetaDelta only
    | with_reducible refine Kept.upd ?_

theorem State.askDegrade_kept (s : State) (c : ChanId) (d : Carried) : Kept s (State.askDegrade s c d) := by
  unfold State.askDegrade
  repeat' first
    | with_reducible exact Kept.refl _
    | with_reducible apply Kept.after (State.modChan_kept ..)
    | with_reducible apply Kept.after (State.ladder_kept ..)
    | dsimp +zetaDelta only
    | with_reducible refine Kept.upd ?_

theorem State.takeDegrade_kept (s : State) (c : ChanId) (line : Nat) : Kept s (State.takeDegrade s c line) := by
  unfold State.takeDegrade
  repeat' first
    | with_reducible exact Kept.refl _
    | with_reducible apply Kept.after (State.askDegrade_kept ..)

theorem State.takePoison_kept (s : State) (c : ChanId) (line : Nat) (uncorr : Bool) : Kept s (State.takePoison s c line uncorr) := by
  unfold State.takePoison
  repeat' first
    | with_reducible assumption
    | with_reducible exact Kept.refl _
    | ((try lift_lets); intro x; first
        | (refine Kept.cut (t := x) ?_ fun h => ?_; rotate_left; clear_value x; rotate_left; (try unfold x))
        | skip)
    | with_reducible apply Kept.after (State.retireLine_kept ..)
    | with_reducible apply Kept.after (State.askService_kept ..)
    | with_reducible apply Kept.after (State.rung_kept ..)
    | split
    | dsimp +zetaDelta only

theorem State.rung4_kept (s : State) (c : ChanId) (line : Nat) (uncorr : Bool) : Kept s (State.rung4 s c line uncorr) := by
  unfold State.rung4
  repeat' first
    | with_reducible assumption
    | with_reducible exact Kept.refl _
    | ((try lift_lets); intro x; first
        | (refine Kept.cut (t := x) ?_ fun h => ?_; rotate_left; clear_value x; rotate_left; (try unfold x))
        | skip)
    | with_reducible apply Kept.after (State.takePoison_kept ..)
    | with_reducible apply Kept.after (State.askDegrade_kept ..)
    | with_reducible apply Kept.after (State.takeDegrade_kept ..)
    | with_reducible apply Kept.after (State.rung_kept ..)
    | split
    | dsimp +zetaDelta only

theorem State.rung12_kept (s : State) (c : ChanId) (line dev : Nat) : Kept s (State.rung12 s c line dev) := by
  unfold State.rung12
  repeat' first
    | with_reducible assumption
    | with_reducible exact Kept.refl _
    | ((try lift_lets); intro x; first
        | (refine Kept.cut (t := x) ?_ fun h => ?_; rotate_left; clear_value x; rotate_left; (try unfold x))
        | skip)
    | with_reducible apply Kept.after (State.raiseChan_kept ..)
    | with_reducible apply Kept.after (State.rung_kept ..)
    | with_reducible apply Kept.after (State.askPatch_kept ..)
    | split
    | dsimp +zetaDelta only

theorem State.ladder_kept (s : State) (c : ChanId) (line : Nat) (dev : Option Nat) (uncorr recon proved : Bool) : Kept s (State.ladder s c line dev uncorr recon proved) := by
  unfold State.ladder
  repeat' first
    | with_reducible assumption
    | with_reducible exact Kept.refl _
    | ((try lift_lets); intro x; first
        | (refine Kept.cut (t := x) ?_ fun h => ?_; rotate_left; clear_value x; rotate_left; (try unfold x))
        | skip)
    | with_reducible apply Kept.after (State.rung12_kept ..)
    | with_reducible apply Kept.after (State.takePoison_kept ..)
    | with_reducible apply Kept.after (State.modChan_kept ..)
    | with_reducible apply Kept.after (State.takeErase_kept ..)
    | with_reducible apply Kept.after (State.rung_kept ..)
    | with_reducible apply Kept.after (State.rung4_kept ..)
    | split
    | dsimp +zetaDelta only
    | with_reducible refine Kept.upd ?_

theorem State.nextRung_kept (s : State) (c : ChanId) (line : Nat) : Kept s (State.nextRung s c line) := by
  unfold State.nextRung
  repeat' first
    | with_reducible assumption
    | with_reducible exact Kept.refl _
    | ((try lift_lets); intro x; first
        | (refine Kept.cut (t := x) ?_ fun h => ?_; rotate_left; clear_value x; rotate_left; (try unfold x))
        | skip)
    | with_reducible apply Kept.after (State.ladder_kept ..)
    | with_reducible apply Kept.after (State.takeErase_kept ..)
    | with_reducible apply Kept.after (State.rung_kept ..)
    | with_reducible apply Kept.after (State.rung4_kept ..)
    | split
    | dsimp +zetaDelta only
    | with_reducible refine Kept.upd ?_

theorem State.finishPpr_kept (s : State) (c : ChanId) (row err : Nat) : Kept s (State.finishPpr s c row err) := by
  unfold State.finishPpr
  repeat' first
    | with_reducible exact Kept.refl _
    | with_reducible apply Kept.after (State.finishJob_kept ..)
    | with_reducible apply Kept.after (State.finishLine_kept ..)

theorem State.failPpr_kept (s : State) (c : ChanId) (err job : Nat) : Kept s (State.failPpr s c err job) := by
  unfold State.failPpr
  repeat' first
    | with_reducible assumption
    | with_reducible exact Kept.refl _
    | ((try lift_lets); intro x; first
        | (refine Kept.cut (t := x) ?_ fun h => ?_; rotate_left; clear_value x; rotate_left; (try unfold x))
        | skip)
    | with_reducible apply Kept.after (State.ppr_kept ..)
    | with_reducible apply Kept.after (State.modChan_kept ..)
    | with_reducible apply Kept.after (State.raiseChan_kept ..)
    | with_reducible apply Kept.after (State.finishJob_kept ..)
    | with_reducible apply Kept.after (State.finishLine_kept ..)
    | with_reducible apply Kept.after (State.nextRung_kept ..)
    | dsimp +zetaDelta only
    | with_reducible refine Kept.upd ?_

theorem State.endPpr_kept (s : State) (c : ChanId) : Kept s (State.endPpr s c) := by
  unfold State.endPpr
  repeat' first
    | with_reducible assumption
    | with_reducible exact Kept.refl _
    | ((try lift_lets); intro x; first
        | (refine Kept.cut (t := x) ?_ fun h => ?_; rotate_left; clear_value x; rotate_left; (try unfold x))
        | skip)
    | with_reducible apply Kept.after (State.ppr_kept ..)
    | with_reducible apply Kept.after (State.modChan_kept ..)
    | with_reducible apply Kept.after (State.finishPpr_kept ..)
    | dsimp +zetaDelta only
    | with_reducible refine Kept.upd ?_

theorem State.redoStripe_kept (s : State) (m : SetId) : Kept s (State.redoStripe s m) := by
  unfold State.redoStripe
  repeat' first
    | with_reducible assumption
    | with_reducible exact Kept.refl _
    | ((try lift_lets); intro x; first
        | (refine Kept.cut (t := x) ?_ fun h => ?_; rotate_left; clear_value x; rotate_left; (try unfold x))
        | skip)
    | with_reducible apply Kept.after (State.modSpan_kept ..)
    | with_reducible apply Kept.after (State.modChan_kept ..)
    | with_reducible apply Kept.after (State.writeBack_kept ..)
    | with_reducible refine Kept.foldl (hf := fun _ _ => ?_) (h := ?_)
    | split
    | dsimp +zetaDelta only
    | with_reducible refine Kept.upd ?_

theorem State.dropUnit_kept (s : State) (c : ChanId) (r : Nat) : Kept s (State.dropUnit s c r) := by
  unfold State.dropUnit
  repeat' first
    | with_reducible assumption
    | with_reducible exact Kept.refl _
    | ((try lift_lets); intro x; first
        | (refine Kept.cut (t := x) ?_ fun h => ?_; rotate_left; clear_value x; rotate_left; (try unfold x))
        | skip)
    | with_reducible apply Kept.after (State.ppr_kept ..)
    | with_reducible apply Kept.after (State.modChan_kept ..)
    | with_reducible apply Kept.after (State.writeBack_kept ..)
    | with_reducible apply Kept.after (State.pmicSet_kept ..)
    | with_reducible apply Kept.after (State.scrub_kept ..)
    | with_reducible apply Kept.after (State.releaseHeld_kept ..)
    | with_reducible apply Kept.after (State.redoStripe_kept ..)
    | with_reducible refine Kept.foldl (hf := fun _ _ => ?_) (h := ?_)
    | split
    | dsimp +zetaDelta only
    | with_reducible refine Kept.upd ?_

theorem State.modWeir_kept (s : State) (c : ChanId) (f : Weir → Weir) : Kept s (State.modWeir s c f) := by
  unfold State.modWeir
  repeat' first
    | with_reducible exact Kept.refl _
    | with_reducible apply Kept.after (State.modChan_kept ..)
    | dsimp +zetaDelta only
    | with_reducible refine Kept.upd ?_

theorem State.grant_kept (s : State) (c : ChanId) (r : Fin 10) : Kept s (State.grant s c r) := by
  unfold State.grant
  repeat' first
    | with_reducible assumption
    | with_reducible exact Kept.refl _
    | ((try lift_lets); intro x; first
        | (refine Kept.cut (t := x) ?_ fun h => ?_; rotate_left; clear_value x; rotate_left; (try unfold x))
        | skip)
    | with_reducible apply Kept.after (State.modWeir_kept ..)
    | dsimp +zetaDelta only
    | with_reducible refine Kept.upd ?_

theorem State.lose_kept (s : State) (c : ChanId) (r : Fin 10) : Kept s (State.lose s c r) := by
  unfold State.lose
  repeat' first
    | with_reducible assumption
    | with_reducible exact Kept.refl _
    | ((try lift_lets); intro x; first
        | (refine Kept.cut (t := x) ?_ fun h => ?_; rotate_left; clear_value x; rotate_left; (try unfold x))
        | skip)
    | with_reducible apply Kept.after (State.modWeir_kept ..)
    | split
    | dsimp +zetaDelta only
    | with_reducible refine Kept.upd ?_

theorem State.revoke_kept (s : State) (c : ChanId) (h : Nat) : Kept s (State.revoke s c h) := by
  unfold State.revoke
  repeat' first
    | with_reducible assumption
    | with_reducible exact Kept.refl _
    | ((try lift_lets); intro x; first
        | (refine Kept.cut (t := x) ?_ fun h => ?_; rotate_left; clear_value x; rotate_left; (try unfold x))
        | skip)
    | with_reducible apply Kept.after (State.dropUnit_kept ..)
    | with_reducible apply Kept.after (State.modWeir_kept ..)
    | split
    | dsimp +zetaDelta only
    | with_reducible refine Kept.upd ?_

theorem State.lateRevoke_kept (s : State) (c : ChanId) : Kept s (State.lateRevoke s c) := by
  unfold State.lateRevoke
  repeat' first
    | with_reducible assumption
    | with_reducible exact Kept.refl _
    | ((try lift_lets); intro x; first
        | (refine Kept.cut (t := x) ?_ fun h => ?_; rotate_left; clear_value x; rotate_left; (try unfold x))
        | skip)
    | with_reducible apply Kept.after (State.revoke_kept ..)
    | with_reducible apply Kept.after (State.modWeir_kept ..)
    | with_reducible apply Kept.after (State.grant_kept ..)
    | split
    | dsimp +zetaDelta only
    | with_reducible refine Kept.upd ?_

theorem State.request_kept (s : State) (c : ChanId) (r : Fin 10) : Kept s (State.request s c r) := by
  unfold State.request
  repeat' first
    | with_reducible assumption
    | with_reducible exact Kept.refl _
    | ((try lift_lets); intro x; first
        | (refine Kept.cut (t := x) ?_ fun h => ?_; rotate_left; clear_value x; rotate_left; (try unfold x))
        | skip)
    | with_reducible apply Kept.after (State.modWeir_kept ..)
    | with_reducible apply Kept.after (State.grant_kept ..)
    | with_reducible apply Kept.after (State.dropUnit_kept ..)
    | with_reducible apply Kept.after (State.lose_kept ..)
    | with_reducible apply Kept.after (State.revoke_kept ..)
    | split
    | dsimp +zetaDelta only
    | with_reducible refine Kept.upd ?_

theorem State.clearWashed_kept (s : State) (c : ChanId) : Kept s (State.clearWashed s c) := by
  unfold State.clearWashed
  repeat' first
    | with_reducible assumption
    | with_reducible exact Kept.refl _
    | ((try lift_lets); intro x; first
        | (refine Kept.cut (t := x) ?_ fun h => ?_; rotate_left; clear_value x; rotate_left; (try unfold x))
        | skip)
    | with_reducible apply Kept.after (State.writeFresh_kept ..)
    | with_reducible apply Kept.after (State.modChan_kept ..)
    | with_reducible refine Kept.foldl (hf := fun _ _ => ?_) (h := ?_)
    | dsimp +zetaDelta only
    | with_reducible refine Kept.upd ?_

theorem State.endRebuild_kept (s : State) (m : SetId) : Kept s (State.endRebuild s m) := by
  unfold State.endRebuild
  repeat' first
    | with_reducible assumption
    | with_reducible exact Kept.refl _
    | ((try lift_lets); intro x; first
        | (refine Kept.cut (t := x) ?_ fun h => ?_; rotate_left; clear_value x; rotate_left; (try unfold x))
        | skip)
    | with_reducible apply Kept.after (State.modSpan_kept ..)
    | with_reducible apply Kept.after (State.noteSpan_kept ..)
    | with_reducible apply Kept.after (State.note_kept ..)
    | with_reducible apply Kept.after (State.raise_kept ..)
    | with_reducible apply Kept.after (State.finishJob_kept ..)
    | dsimp +zetaDelta only
    | with_reducible refine Kept.upd ?_

theorem State.beginWalk_kept (s : State) (m : SetId) : Kept s (State.beginWalk s m) := by
  unfold State.beginWalk
  repeat' first
    | with_reducible assumption
    | with_reducible exact Kept.refl _
    | ((try lift_lets); intro x; first
        | (refine Kept.cut (t := x) ?_ fun h => ?_; rotate_left; clear_value x; rotate_left; (try unfold x))
        | skip)
    | with_reducible apply Kept.after (State.modSpan_kept ..)
    | with_reducible apply Kept.after (State.noteSpan_kept ..)
    | with_reducible apply Kept.after (State.raise_kept ..)
    | dsimp +zetaDelta only
    | with_reducible refine Kept.upd ?_

theorem State.carryTurn_kept (s : State) (c : ChanId) : Kept s (State.carryTurn s c) := by
  unfold State.carryTurn
  repeat' first
    | with_reducible assumption
    | with_reducible exact Kept.refl _
    | ((try lift_lets); intro x; first
        | (refine Kept.cut (t := x) ?_ fun h => ?_; rotate_left; clear_value x; rotate_left; (try unfold x))
        | skip)
    | with_reducible apply Kept.after (State.modSpan_kept ..)
    | with_reducible apply Kept.after (State.beginWalk_kept ..)
    | with_reducible apply Kept.after (State.endRebuild_kept ..)
    | split
    | dsimp +zetaDelta only
    | with_reducible refine Kept.upd ?_

theorem State.release_kept (s : State) (c : ChanId) : Kept s (State.release s c) := by
  unfold State.release
  repeat' first
    | with_reducible assumption
    | with_reducible exact Kept.refl _
    | ((try lift_lets); intro x; first
        | (refine Kept.cut (t := x) ?_ fun h => ?_; rotate_left; clear_value x; rotate_left; (try unfold x))
        | skip)
    | with_reducible apply Kept.after (State.modWeir_kept ..)
    | with_reducible apply Kept.after (State.clearWashed_kept ..)
    | with_reducible apply Kept.after (State.carryTurn_kept ..)
    | with_reducible apply Kept.after (State.carry_kept ..)
    | with_reducible apply Kept.after (State.grant_kept ..)
    | split
    | dsimp +zetaDelta only
    | with_reducible refine Kept.upd ?_

end Sys2Proof.Machine
end

