-- ==== Sys2Proof/Laws/KeptMill.lean ====
section
/-! SUPPORT. What the operations of Machine/Mill.lean keep. -/

namespace Sys2Proof.Machine

set_option Elab.async false
set_option linter.all false

theorem State.modMo_kept (s : State) (l : Lane) (f : MoLane → MoLane) : Kept s (State.modMo s l f) := by
  unfold State.modMo
  repeat' first
    | with_reducible exact Kept.refl _
    | with_reducible refine Kept.upd ?_

theorem State.modMi_kept (s : State) (l : Lane) (f : MiLane → MiLane) : Kept s (State.modMi s l f) := by
  unfold State.modMi
  repeat' first
    | with_reducible exact Kept.refl _
    | with_reducible refine Kept.upd ?_

theorem State.modMill_kept (s : State) (f : Mill → Mill) : Kept s (State.modMill s f) := by
  unfold State.modMill
  repeat' first
    | with_reducible exact Kept.refl _
    | with_reducible refine Kept.upd ?_

theorem State.startStream_kept (s : State) (st : MillState) : Kept s (State.startStream s st) := by
  unfold State.startStream
  repeat' first
    | with_reducible exact Kept.refl _
    | with_reducible apply Kept.after (State.modMill_kept ..)
    | with_reducible apply Kept.after (State.setMill_kept ..)
    | dsimp +zetaDelta only
    | with_reducible refine Kept.upd ?_

theorem State.startResync_kept (s : State) (full : Bool) : Kept s (State.startResync s full) := by
  unfold State.startResync
  repeat' first
    | with_reducible exact Kept.refl _
    | with_reducible apply Kept.after (State.modMill_kept ..)
    | with_reducible apply Kept.after (State.startStream_kept ..)
    | split
    | dsimp +zetaDelta only
    | with_reducible refine Kept.upd ?_

theorem State.tryPair_kept (s : State) : Kept s (State.tryPair s) := by
  unfold State.tryPair
  repeat' first
    | with_reducible assumption
    | with_reducible exact Kept.refl _
    | ((try lift_lets); intro x; first
        | (refine Kept.cut (t := x) ?_ fun h => ?_; rotate_left; clear_value x; rotate_left; (try unfold x))
        | skip)
    | with_reducible apply Kept.after (State.release_kept ..)
    | with_reducible apply Kept.after (State.modMill_kept ..)
    | with_reducible apply Kept.after (State.startStream_kept ..)
    | with_reducible apply Kept.after (State.noteMill_kept ..)
    | with_reducible apply Kept.after (State.startResync_kept ..)
    | split
    | dsimp +zetaDelta only
    | with_reducible refine Kept.upd ?_

theorem State.tryEnable_kept (s : State) : Kept s (State.tryEnable s) := by
  unfold State.tryEnable
  repeat' first
    | with_reducible assumption
    | with_reducible exact Kept.refl _
    | ((try lift_lets); intro x; first
        | (refine Kept.cut (t := x) ?_ fun h => ?_; rotate_left; clear_value x; rotate_left; (try unfold x))
        | skip)
    | with_reducible apply Kept.after (State.modMill_kept ..)
    | with_reducible apply Kept.after (State.sever_kept ..)
    | with_reducible apply Kept.after (State.setMill_kept ..)
    | with_reducible apply Kept.after (State.noteMill_kept ..)
    | split
    | dsimp +zetaDelta only
    | with_reducible refine Kept.upd ?_

theorem State.logLine_kept (s : State) (k : Lane) (x : MoLine) : Kept s (State.logLine s k x) := by
  unfold State.logLine
  repeat' first
    | with_reducible assumption
    | with_reducible exact Kept.refl _
    | ((try lift_lets); intro x; first
        | (refine Kept.cut (t := x) ?_ fun h => ?_; rotate_left; clear_value x; rotate_left; (try unfold x))
        | skip)
    | with_reducible apply Kept.after (State.modMill_kept ..)
    | with_reducible apply Kept.after (State.spendG_kept ..)
    | with_reducible apply Kept.after (State.modMo_kept ..)
    | split
    | dsimp +zetaDelta only
    | with_reducible refine Kept.upd ?_

theorem State.endCopies_kept (s : State) : Kept s (State.endCopies s) := by
  unfold State.endCopies
  repeat' first
    | with_reducible assumption
    | with_reducible exact Kept.refl _
    | ((try lift_lets); intro x; first
        | (refine Kept.cut (t := x) ?_ fun h => ?_; rotate_left; clear_value x; rotate_left; (try unfold x))
        | skip)
    | with_reducible apply Kept.after (State.modMill_kept ..)
    | split
    | dsimp +zetaDelta only
    | with_reducible refine Kept.upd ?_

theorem State.closeSent_kept (s : State) : Kept s (State.closeSent s) := by
  unfold State.closeSent
  repeat' first
    | with_reducible assumption
    | with_reducible exact Kept.refl _
    | ((try lift_lets); intro x; first
        | (refine Kept.cut (t := x) ?_ fun h => ?_; rotate_left; clear_value x; rotate_left; (try unfold x))
        | skip)
    | with_reducible apply Kept.after (State.modMill_kept ..)
    | with_reducible refine Kept.foldl (hf := fun _ _ => ?_) (h := ?_)
    | split
    | dsimp +zetaDelta only
    | with_reducible refine Kept.upd ?_

theorem State.moSent_kept (s : State) (k : Lane) (n : MoNext) (crc : Word) : Kept s (State.moSent s k n crc) := by
  unfold State.moSent
  repeat' first
    | with_reducible assumption
    | with_reducible exact Kept.refl _
    | ((try lift_lets); intro x; first
        | (refine Kept.cut (t := x) ?_ fun h => ?_; rotate_left; clear_value x; rotate_left; (try unfold x))
        | skip)
    | with_reducible apply Kept.after (State.modMo_kept ..)
    | with_reducible apply Kept.after (State.tryPair_kept ..)
    | with_reducible apply Kept.after (State.sever_kept ..)
    | with_reducible apply Kept.after (State.ack_kept ..)
    | with_reducible apply Kept.after (State.modMill_kept ..)
    | with_reducible apply Kept.after (State.setMill_kept ..)
    | with_reducible apply Kept.after (State.noteMill_kept ..)
    | with_reducible apply Kept.after (State.closeSent_kept ..)
    | with_reducible apply Kept.after (State.startStream_kept ..)
    | with_reducible apply Kept.after (State.logLine_kept ..)
    | with_reducible apply Kept.after (State.endCopies_kept ..)
    | split
    | dsimp +zetaDelta only
    | with_reducible refine Kept.upd ?_

theorem State.lookChunk_kept (s : State) (ch : Nat) : Kept s (State.lookChunk s ch) := by
  unfold State.lookChunk
  repeat' first
    | with_reducible exact Kept.refl _
    | with_reducible apply Kept.after (State.lookDrift_kept ..)
    | split
    | with_reducible refine Kept.upd ?_

theorem State.readFor_kept (s : State) (n : MoNext) : Kept s (State.readFor s n) := by
  unfold State.readFor
  repeat' first
    | with_reducible exact Kept.refl _
    | with_reducible apply Kept.after (State.lookChunk_kept ..)
    | with_reducible apply Kept.after (State.readG_kept ..)
    | split
    | with_reducible refine Kept.upd ?_

theorem State.moBeat_kept (s : State) (l : Lane) (n : MoNext) : Kept s (State.moBeat s l n) := by
  unfold State.moBeat
  repeat' first
    | with_reducible assumption
    | with_reducible exact Kept.refl _
    | ((try lift_lets); intro x; first
        | (refine Kept.cut (t := x) ?_ fun h => ?_; rotate_left; clear_value x; rotate_left; (try unfold x))
        | skip)
    | with_reducible apply Kept.after (State.modMo_kept ..)
    | with_reducible apply Kept.after (State.slot_kept ..)
    | with_reducible apply Kept.after (State.modMi_kept ..)
    | with_reducible apply Kept.after (State.moSent_kept ..)
    | with_reducible apply Kept.after (State.ctl_kept _ _ ?_)
    | split
    | dsimp +zetaDelta only
    | with_reducible refine Kept.upd ?_

theorem execMoBeatSend_kept (l : Lane) (s : State) : ∃ s₁, execMoBeatSend l s = .next s₁ ∧ Kept s s₁ := by
  refine ⟨_, rfl, ?_⟩
  repeat' first
    | with_reducible assumption
    | with_reducible exact Kept.refl _
    | ((try lift_lets); intro x; first
        | (refine Kept.cut (t := x) ?_ fun h => ?_; rotate_left; clear_value x; rotate_left; (try unfold x))
        | skip)
    | with_reducible apply Kept.after (State.modMo_kept ..)
    | with_reducible apply Kept.after (State.endCopies_kept ..)
    | with_reducible apply Kept.after (State.readFor_kept ..)
    | with_reducible apply Kept.after (State.loseLink_kept ..)
    | with_reducible apply Kept.after (State.moBeat_kept ..)
    | with_reducible apply Kept.after (State.settle_kept ..)
    | with_reducible apply Kept.after (State.updWithhold_kept ..)
    | with_reducible apply Kept.after (State.settleAll_kept ..)
    | split
    | dsimp +zetaDelta only
    | with_reducible refine Kept.upd ?_

theorem State.freeMi_kept (s : State) (l : Lane) : Kept s (State.freeMi s l) := by
  unfold State.freeMi
  repeat' first
    | with_reducible exact Kept.refl _
    | with_reducible apply Kept.after (State.modMi_kept ..)
    | with_reducible apply Kept.after (State.modMo_kept ..)
    | dsimp +zetaDelta only
    | with_reducible refine Kept.upd ?_

theorem State.takeCtl_kept (s : State) (l : Lane) (b : MiBeat) (f : Mill → Mill) : Kept s (State.takeCtl s l b f) := by
  unfold State.takeCtl
  repeat' first
    | with_reducible assumption
    | with_reducible exact Kept.refl _
    | ((try lift_lets); intro x; first
        | (refine Kept.cut (t := x) ?_ fun h => ?_; rotate_left; clear_value x; rotate_left; (try unfold x))
        | skip)
    | with_reducible apply Kept.after (State.readG_kept ..)
    | with_reducible apply Kept.after (State.freeMi_kept ..)
    | with_reducible apply Kept.after (State.streamBreak_kept ..)
    | with_reducible apply Kept.after (State.modMill_kept ..)
    | split
    | dsimp +zetaDelta only

theorem State.takeDrift_kept (s : State) (l : Lane) (b : MiBeat) : Kept s (State.takeDrift s l b) := by
  unfold State.takeDrift
  repeat' first
    | with_reducible assumption
    | with_reducible exact Kept.refl _
    | ((try lift_lets); intro x; first
        | (refine Kept.cut (t := x) ?_ fun h => ?_; rotate_left; clear_value x; rotate_left; (try unfold x))
        | skip)
    | with_reducible apply Kept.after (State.readG_kept ..)
    | with_reducible apply Kept.after (State.freeMi_kept ..)
    | with_reducible apply Kept.after (State.streamBreak_kept ..)
    | with_reducible apply Kept.after (State.markDrift_kept ..)
    | with_reducible apply Kept.after (State.modMill_kept ..)
    | with_reducible refine Kept.foldl (hf := fun _ _ => ?_) (h := ?_)
    | split
    | dsimp +zetaDelta only
    | with_reducible refine Kept.upd ?_

theorem State.takeHead_kept (s : State) (l : Lane) (t : State) (h : s.takeHead l = some t) : Kept s t := by
  unfold State.takeHead at h
  repeat' first
    | contradiction
    | (injection h with h; subst h; first
        | with_reducible exact State.takeCtl_kept ..
        | with_reducible exact State.takeDrift_kept ..)
    | split at h
    | dsimp only at h

theorem State.drainMi_kept (n : Nat) (s : State) : Kept s (State.drainMi n s) := by
  induction n generalizing s with
  | zero => exact Kept.refl s
  | succ n ih =>
    unfold State.drainMi
    split
    · rename_i t h
      obtain ⟨l, -, hl⟩ := List.exists_of_findSome?_eq_some h
      exact (State.takeHead_kept s l t hl).trans (ih t)
    · exact Kept.refl s

theorem State.bufferMi_kept (s : State) (l : Lane) (p : Pkt) (e : Nat) : Kept s (State.bufferMi s l p e) := by
  unfold State.bufferMi
  repeat' first
    | with_reducible assumption
    | with_reducible exact Kept.refl _
    | ((try lift_lets); intro x; first
        | (refine Kept.cut (t := x) ?_ fun h => ?_; rotate_left; clear_value x; rotate_left; (try unfold x))
        | skip)
    | with_reducible apply Kept.after (State.modMi_kept ..)
    | with_reducible apply Kept.after (State.spendG_kept ..)
    | dsimp +zetaDelta only
    | with_reducible refine Kept.upd ?_

theorem State.takeAck_kept (s : State) (e : Nat) : Kept s (State.takeAck s e) := by
  unfold State.takeAck
  repeat' first
    | with_reducible assumption
    | with_reducible exact Kept.refl _
    | ((try lift_lets); intro x; first
        | (refine Kept.cut (t := x) ?_ fun h => ?_; rotate_left; clear_value x; rotate_left; (try unfold x))
        | skip)
    | with_reducible apply Kept.after (State.readG_kept ..)
    | with_reducible apply Kept.after (State.modMill_kept ..)
    | with_reducible apply Kept.after (State.settle_kept ..)
    | with_reducible apply Kept.after (State.setMill_kept ..)
    | with_reducible apply Kept.after (State.noteMill_kept ..)
    | split
    | dsimp +zetaDelta only
    | with_reducible refine Kept.upd ?_

theorem State.takeSever_kept (s : State) : Kept s (State.takeSever s) := by
  unfold State.takeSever
  repeat' first
    | with_reducible assumption
    | with_reducible exact Kept.refl _
    | ((try lift_lets); intro x; first
        | (refine Kept.cut (t := x) ?_ fun h => ?_; rotate_left; clear_value x; rotate_left; (try unfold x))
        | skip)
    | with_reducible apply Kept.after (State.modMill_kept ..)
    | with_reducible apply Kept.after (State.markSplit_kept ..)
    | with_reducible apply Kept.after (State.raise_kept ..)
    | with_reducible apply Kept.after (State.toSolo_kept ..)
    | with_reducible apply Kept.after (State.noteMill_kept ..)
    | with_reducible apply Kept.after (State.strobe_kept ..)
    | split
    | dsimp +zetaDelta only
    | with_reducible refine Kept.upd ?_

theorem State.passBeat_kept (s : State) (l : Lane) (p : Pkt) (crc : Word) : Kept s (State.passBeat s l p crc) := by
  unfold State.passBeat
  repeat' first
    | with_reducible exact Kept.refl _
    | with_reducible apply Kept.after (State.modMi_kept ..)
    | with_reducible apply Kept.after (State.modMo_kept ..)
    | split
    | dsimp +zetaDelta only
    | with_reducible refine Kept.upd ?_

theorem State.takePkt_kept (s : State) (l : Lane) (p : Pkt) (crc : Word) : Kept s (State.takePkt s l p crc) := by
  unfold State.takePkt
  repeat' first
    | with_reducible assumption
    | with_reducible exact Kept.refl _
    | ((try lift_lets); intro x; first
        | (refine Kept.cut (t := x) ?_ fun h => ?_; rotate_left; clear_value x; rotate_left; (try unfold x))
        | skip)
    | with_reducible apply Kept.after (State.bufferMi_kept ..)
    | with_reducible apply Kept.after (State.modMi_kept ..)
    | with_reducible apply Kept.after (State.takeAck_kept ..)
    | with_reducible apply Kept.after (State.modMill_kept ..)
    | with_reducible apply Kept.after (State.tryPair_kept ..)
    | with_reducible apply Kept.after (State.takeSever_kept ..)
    | split
    | dsimp +zetaDelta only
    | with_reducible refine Kept.upd ?_

theorem State.goodBeat_kept (s : State) (l : Lane) (p : Pkt) (crc : Word) (taken : Bool) : Kept s (State.goodBeat s l p crc taken) := by
  unfold State.goodBeat
  repeat' first
    | with_reducible assumption
    | with_reducible exact Kept.refl _
    | ((try lift_lets); intro x; first
        | (refine Kept.cut (t := x) ?_ fun h => ?_; rotate_left; clear_value x; rotate_left; (try unfold x))
        | skip)
    | with_reducible apply Kept.after (State.modMo_kept ..)
    | with_reducible apply Kept.after (State.takePkt_kept ..)
    | with_reducible apply Kept.after (State.drainMi_kept ..)
    | with_reducible apply Kept.after (State.passBeat_kept ..)
    | split
    | dsimp +zetaDelta only
    | with_reducible refine Kept.upd ?_

theorem State.checkBeat_kept (s : State) (l : Lane) (p : Pkt) (crc : Word) (okCrc : Bool) : Kept s (State.checkBeat s l p crc okCrc) := by
  unfold State.checkBeat
  repeat' first
    | with_reducible assumption
    | with_reducible exact Kept.refl _
    | ((try lift_lets); intro x; first
        | (refine Kept.cut (t := x) ?_ fun h => ?_; rotate_left; clear_value x; rotate_left; (try unfold x))
        | skip)
    | with_reducible apply Kept.after (State.modMi_kept ..)
    | with_reducible apply Kept.after (State.takePkt_kept ..)
    | with_reducible apply Kept.after (State.streamBreak_kept ..)
    | with_reducible apply Kept.after (State.goodBeat_kept ..)
    | split
    | dsimp +zetaDelta only
    | with_reducible refine Kept.upd ?_

theorem State.miBeat_kept (s : State) (l : Lane) (d : Line) (w : BitVec 192) : Kept s (State.miBeat s l d w) := by
  unfold State.miBeat
  repeat' first
    | with_reducible exact Kept.refl _
    | with_reducible apply Kept.after (State.checkBeat_kept ..)
    | split

theorem State.miAfter_kept (s : State) : Kept s (State.miAfter s) := by
  unfold State.miAfter
  repeat' first
    | with_reducible exact Kept.refl _
    | with_reducible apply Kept.after (State.updMiFlood_kept ..)
    | with_reducible apply Kept.after (State.settleAll_kept ..)
    | with_reducible apply Kept.after (State.sweepFails_kept ..)

theorem execMiData_kept (l : Lane) (d : Line) (ctl : BitVec 192) (s : State) : ∃ s₁, execMiData l d ctl s = .next s₁ ∧ Kept s s₁ := by
  refine ⟨_, rfl, ?_⟩
  repeat' first
    | with_reducible assumption
    | with_reducible exact Kept.refl _
    | ((try lift_lets); intro x; first
        | (refine Kept.cut (t := x) ?_ fun h => ?_; rotate_left; clear_value x; rotate_left; (try unfold x))
        | skip)
    | with_reducible apply Kept.after (State.miBeat_kept ..)
    | with_reducible apply Kept.after (State.ctl_kept _ _ ?_)
    | with_reducible apply Kept.after (State.miAfter_kept ..)

theorem execMiHeader_kept (l : Lane) (d : Line) (ctl : BitVec 192) (s : State) : ∃ s₁, execMiHeader l d ctl s = .next s₁ ∧ Kept s s₁ := by
  refine ⟨_, rfl, ?_⟩
  repeat' first
    | with_reducible assumption
    | with_reducible exact Kept.refl _
    | ((try lift_lets); intro x; first
        | (refine Kept.cut (t := x) ?_ fun h => ?_; rotate_left; clear_value x; rotate_left; (try unfold x))
        | skip)
    | with_reducible apply Kept.after (State.miBeat_kept ..)
    | with_reducible apply Kept.after (State.ctl_kept _ _ ?_)
    | with_reducible apply Kept.after (State.miAfter_kept ..)

theorem execMiTrailer_kept (l : Lane) (d : Line) (ctl : BitVec 192) (s : State) : ∃ s₁, execMiTrailer l d ctl s = .next s₁ ∧ Kept s s₁ := by
  refine ⟨_, rfl, ?_⟩
  repeat' first
    | with_reducible assumption
    | with_reducible exact Kept.refl _
    | ((try lift_lets); intro x; first
        | (refine Kept.cut (t := x) ?_ fun h => ?_; rotate_left; clear_value x; rotate_left; (try unfold x))
        | skip)
    | with_reducible apply Kept.after (State.miBeat_kept ..)
    | with_reducible apply Kept.after (State.ctl_kept _ _ ?_)
    | with_reducible apply Kept.after (State.miAfter_kept ..)

theorem execMiAck_kept (l : Lane) (d : Line) (ctl : BitVec 192) (s : State) : ∃ s₁, execMiAck l d ctl s = .next s₁ ∧ Kept s s₁ := by
  refine ⟨_, rfl, ?_⟩
  repeat' first
    | with_reducible assumption
    | with_reducible exact Kept.refl _
    | ((try lift_lets); intro x; first
        | (refine Kept.cut (t := x) ?_ fun h => ?_; rotate_left; clear_value x; rotate_left; (try unfold x))
        | skip)
    | with_reducible apply Kept.after (State.miBeat_kept ..)
    | with_reducible apply Kept.after (State.ctl_kept _ _ ?_)
    | with_reducible apply Kept.after (State.miAfter_kept ..)

theorem execMiHello_kept (l : Lane) (d : Line) (ctl : BitVec 192) (s : State) : ∃ s₁, execMiHello l d ctl s = .next s₁ ∧ Kept s s₁ := by
  refine ⟨_, rfl, ?_⟩
  repeat' first
    | with_reducible assumption
    | with_reducible exact Kept.refl _
    | ((try lift_lets); intro x; first
        | (refine Kept.cut (t := x) ?_ fun h => ?_; rotate_left; clear_value x; rotate_left; (try unfold x))
        | skip)
    | with_reducible apply Kept.after (State.miBeat_kept ..)
    | with_reducible apply Kept.after (State.ctl_kept _ _ ?_)
    | with_reducible apply Kept.after (State.miAfter_kept ..)

theorem execMiSever_kept (l : Lane) (d : Line) (ctl : BitVec 192) (s : State) : ∃ s₁, execMiSever l d ctl s = .next s₁ ∧ Kept s s₁ := by
  refine ⟨_, rfl, ?_⟩
  repeat' first
    | with_reducible assumption
    | with_reducible exact Kept.refl _
    | ((try lift_lets); intro x; first
        | (refine Kept.cut (t := x) ?_ fun h => ?_; rotate_left; clear_value x; rotate_left; (try unfold x))
        | skip)
    | with_reducible apply Kept.after (State.miBeat_kept ..)
    | with_reducible apply Kept.after (State.ctl_kept _ _ ?_)
    | with_reducible apply Kept.after (State.miAfter_kept ..)

theorem execMiDrift_kept (l : Lane) (d : Line) (ctl : BitVec 192) (s : State) : ∃ s₁, execMiDrift l d ctl s = .next s₁ ∧ Kept s s₁ := by
  refine ⟨_, rfl, ?_⟩
  repeat' first
    | with_reducible assumption
    | with_reducible exact Kept.refl _
    | ((try lift_lets); intro x; first
        | (refine Kept.cut (t := x) ?_ fun h => ?_; rotate_left; clear_value x; rotate_left; (try unfold x))
        | skip)
    | with_reducible apply Kept.after (State.miBeat_kept ..)
    | with_reducible apply Kept.after (State.ctl_kept _ _ ?_)
    | with_reducible apply Kept.after (State.miAfter_kept ..)

theorem execMiRsEnd_kept (l : Lane) (d : Line) (ctl : BitVec 192) (s : State) : ∃ s₁, execMiRsEnd l d ctl s = .next s₁ ∧ Kept s s₁ := by
  refine ⟨_, rfl, ?_⟩
  repeat' first
    | with_reducible assumption
    | with_reducible exact Kept.refl _
    | ((try lift_lets); intro x; first
        | (refine Kept.cut (t := x) ?_ fun h => ?_; rotate_left; clear_value x; rotate_left; (try unfold x))
        | skip)
    | with_reducible apply Kept.after (State.miBeat_kept ..)
    | with_reducible apply Kept.after (State.ctl_kept _ _ ?_)
    | with_reducible apply Kept.after (State.miAfter_kept ..)

theorem execMiIdle_kept (l : Lane) (d : Line) (ctl : BitVec 192) (s : State) : ∃ s₁, execMiIdle l d ctl s = .next s₁ ∧ Kept s s₁ := by
  refine ⟨_, rfl, ?_⟩
  repeat' first
    | with_reducible assumption
    | with_reducible exact Kept.refl _
    | ((try lift_lets); intro x; first
        | (refine Kept.cut (t := x) ?_ fun h => ?_; rotate_left; clear_value x; rotate_left; (try unfold x))
        | skip)
    | with_reducible apply Kept.after (State.miBeat_kept ..)
    | with_reducible apply Kept.after (State.ctl_kept _ _ ?_)
    | with_reducible apply Kept.after (State.miAfter_kept ..)

theorem State.dropMi_kept (s : State) (r : Req) : Kept s (State.dropMi s r) := by
  unfold State.dropMi
  repeat' first
    | with_reducible assumption
    | with_reducible exact Kept.refl _
    | ((try lift_lets); intro x; first
        | (refine Kept.cut (t := x) ?_ fun h => ?_; rotate_left; clear_value x; rotate_left; (try unfold x))
        | skip)
    | with_reducible apply Kept.after (State.mirrorLost_kept ..)
    | with_reducible apply Kept.after (State.raiseChan_kept ..)
    | split
    | dsimp +zetaDelta only
    | with_reducible refine Kept.upd ?_

theorem State.admitMi_kept (s : State) (l : Lane) (b : MiBeat) : Kept s (State.admitMi s l b) := by
  unfold State.admitMi
  repeat' first
    | with_reducible assumption
    | with_reducible exact Kept.refl _
    | ((try lift_lets); intro x; first
        | (refine Kept.cut (t := x) ?_ fun h => ?_; rotate_left; clear_value x; rotate_left; (try unfold x))
        | skip)
    | with_reducible apply Kept.after (State.readG_kept ..)
    | with_reducible apply Kept.after (State.streamBreak_kept ..)
    | with_reducible apply Kept.after (State.freeMi_kept ..)
    | with_reducible apply Kept.after (State.dropMi_kept ..)
    | with_reducible apply Kept.after (State.drainMi_kept ..)
    | with_reducible apply Kept.after (State.stamp_kept ..)
    | split
    | dsimp +zetaDelta only
    | with_reducible refine Kept.upd ?_

theorem execMiLineAdmit_kept (l : Lane) (s : State) : ∃ s₁, execMiLineAdmit l s = .next s₁ ∧ Kept s s₁ := by
  refine ⟨_, rfl, ?_⟩
  repeat' first
    | with_reducible exact Kept.refl _
    | with_reducible apply Kept.after (State.strobe_kept ..)
    | with_reducible apply Kept.after (State.admitMi_kept ..)
    | with_reducible apply Kept.after (State.miAfter_kept ..)
    | split
    | with_reducible refine Kept.upd ?_

theorem execAckDue_kept (s : State) : ∃ s₁, execAckDue s = .next s₁ ∧ Kept s s₁ := by
  refine ⟨_, rfl, ?_⟩
  repeat' first
    | with_reducible assumption
    | with_reducible exact Kept.refl _
    | ((try lift_lets); intro x; first
        | (refine Kept.cut (t := x) ?_ fun h => ?_; rotate_left; clear_value x; rotate_left; (try unfold x))
        | skip)
    | with_reducible apply Kept.after (State.modMill_kept ..)
    | split
    | dsimp +zetaDelta only
    | with_reducible refine Kept.upd ?_

theorem State.linkFall_kept (s : State) (mo mi : Bool) : Kept s (State.linkFall s mo mi) := by
  unfold State.linkFall
  repeat' first
    | with_reducible assumption
    | with_reducible exact Kept.refl _
    | ((try lift_lets); intro x; first
        | (refine Kept.cut (t := x) ?_ fun h => ?_; rotate_left; clear_value x; rotate_left; (try unfold x))
        | skip)
    | with_reducible apply Kept.after (State.modMill_kept ..)
    | with_reducible apply Kept.after (State.sever_kept ..)
    | with_reducible apply Kept.after (State.loseLink_kept ..)
    | with_reducible apply Kept.after (State.settleAll_kept ..)
    | split
    | dsimp +zetaDelta only
    | with_reducible refine Kept.upd ?_

theorem State.linkRise_kept (s : State) (mo mi : Bool) : Kept s (State.linkRise s mo mi) := by
  unfold State.linkRise
  repeat' first
    | with_reducible exact Kept.refl _
    | with_reducible apply Kept.after (State.modMill_kept ..)
    | split
    | dsimp +zetaDelta only
    | with_reducible refine Kept.upd ?_

theorem State.linkLevels_kept (s : State) (mo mi : Bool) : Kept s (State.linkLevels s mo mi) := by
  unfold State.linkLevels
  repeat' first
    | with_reducible assumption
    | with_reducible exact Kept.refl _
    | ((try lift_lets); intro x; first
        | (refine Kept.cut (t := x) ?_ fun h => ?_; rotate_left; clear_value x; rotate_left; (try unfold x))
        | skip)
    | with_reducible apply Kept.after (State.linkFall_kept ..)
    | with_reducible apply Kept.after (State.linkRise_kept ..)
    | with_reducible apply Kept.after (State.tryEnable_kept ..)
    | with_reducible apply Kept.after (State.settleAll_kept ..)
    | split
    | dsimp +zetaDelta only

theorem execLinkUp_kept (s : State) : ∃ s₁, execLinkUp s = .next s₁ ∧ Kept s s₁ := by
  refine ⟨_, rfl, ?_⟩
  repeat' first
    | with_reducible exact Kept.refl _
    | with_reducible apply Kept.after (State.linkLevels_kept ..)

theorem execLinkDown_kept (mo mi : Bool) (s : State) : ∃ s₁, execLinkDown mo mi s = .next s₁ ∧ Kept s s₁ := by
  refine ⟨_, rfl, ?_⟩
  repeat' first
    | with_reducible exact Kept.refl _
    | with_reducible apply Kept.after (State.linkLevels_kept ..)

theorem execLossTimeout_kept (l : Lane) (s : State) : ∃ s₁, execLossTimeout l s = .next s₁ ∧ Kept s s₁ := by
  refine ⟨_, rfl, ?_⟩
  repeat' first
    | with_reducible assumption
    | with_reducible exact Kept.refl _
    | ((try lift_lets); intro x; first
        | (refine Kept.cut (t := x) ?_ fun h => ?_; rotate_left; clear_value x; rotate_left; (try unfold x))
        | skip)
    | with_reducible apply Kept.after (State.loseLink_kept ..)
    | with_reducible apply Kept.after (State.settleAll_kept ..)
    | split
    | dsimp +zetaDelta only

theorem State.settleSplit_kept (s : State) (solo : Bool) (action : Nat) : Kept s (State.settleSplit s solo action) := by
  unfold State.settleSplit
  repeat' first
    | with_reducible exact Kept.refl _
    | with_reducible apply Kept.after (State.strobe_kept ..)
    | with_reducible apply Kept.after (State.toSolo_kept ..)
    | with_reducible apply Kept.after (State.toFenced_kept ..)
    | with_reducible apply Kept.after (State.noteMill_kept ..)
    | with_reducible apply Kept.after (State.settleAll_kept ..)
    | split

theorem execSplitTimeout_kept (s : State) : ∃ s₁, execSplitTimeout s = .next s₁ ∧ Kept s s₁ := by
  refine ⟨_, rfl, ?_⟩
  repeat' first
    | with_reducible exact Kept.refl _
    | with_reducible apply Kept.after (State.settleSplit_kept ..)

theorem execWitnessGrant_kept (high : Bool) (s : State) : ∃ s₁, execWitnessGrant high s = .next s₁ ∧ Kept s s₁ := by
  refine ⟨_, rfl, ?_⟩
  repeat' first
    | with_reducible assumption
    | with_reducible exact Kept.refl _
    | ((try lift_lets); intro x; first
        | (refine Kept.cut (t := x) ?_ fun h => ?_; rotate_left; clear_value x; rotate_left; (try unfold x))
        | skip)
    | with_reducible apply Kept.after (State.modMill_kept ..)
    | with_reducible apply Kept.after (State.settleSplit_kept ..)
    | split
    | dsimp +zetaDelta only
    | with_reducible refine Kept.upd ?_

theorem State.forced_kept (s : State) (old : MillState) (action : Nat) : Kept s (State.forced s old action) := by
  unfold State.forced
  repeat' first
    | with_reducible exact Kept.refl _
    | with_reducible apply Kept.after (State.modMill_kept ..)
    | with_reducible apply Kept.after (State.raise_kept ..)
    | with_reducible apply Kept.after (State.noteMill_kept ..)
    | with_reducible apply Kept.after (State.settleAll_kept ..)
    | dsimp +zetaDelta only
    | with_reducible refine Kept.upd ?_

theorem State.millAct_kept (s : State) (n : Nat) : Kept s (State.millAct s n) := by
  unfold State.millAct
  repeat' first
    | with_reducible assumption
    | with_reducible exact Kept.refl _
    | ((try lift_lets); intro x; first
        | (refine Kept.cut (t := x) ?_ fun h => ?_; rotate_left; clear_value x; rotate_left; (try unfold x))
        | skip)
    | with_reducible apply Kept.after (State.modMill_kept ..)
    | with_reducible apply Kept.after (State.startResync_kept ..)
    | with_reducible apply Kept.after (State.forced_kept ..)
    | with_reducible apply Kept.after (State.toSolo_kept ..)
    | with_reducible apply Kept.after (State.toFenced_kept ..)
    | split
    | dsimp +zetaDelta only
    | with_reducible refine Kept.upd ?_

theorem execMillStartResync_kept (s : State) : ∃ s₁, execMillStartResync s = .next s₁ ∧ Kept s s₁ := by
  refine ⟨_, rfl, ?_⟩
  repeat' first
    | with_reducible exact Kept.refl _
    | with_reducible apply Kept.after (State.millAct_kept ..)

theorem execMillForceSolo_kept (s : State) : ∃ s₁, execMillForceSolo s = .next s₁ ∧ Kept s s₁ := by
  refine ⟨_, rfl, ?_⟩
  repeat' first
    | with_reducible exact Kept.refl _
    | with_reducible apply Kept.after (State.millAct_kept ..)

theorem execMillForceFence_kept (s : State) : ∃ s₁, execMillForceFence s = .next s₁ ∧ Kept s s₁ := by
  refine ⟨_, rfl, ?_⟩
  repeat' first
    | with_reducible exact Kept.refl _
    | with_reducible apply Kept.after (State.millAct_kept ..)

theorem execMillWitnessGrantCmd_kept (s : State) : ∃ s₁, execMillWitnessGrantCmd s = .next s₁ ∧ Kept s s₁ := by
  refine ⟨_, rfl, ?_⟩
  repeat' first
    | with_reducible exact Kept.refl _
    | with_reducible apply Kept.after (State.millAct_kept ..)

theorem execMillWitnessDeny_kept (s : State) : ∃ s₁, execMillWitnessDeny s = .next s₁ ∧ Kept s s₁ := by
  refine ⟨_, rfl, ?_⟩
  repeat' first
    | with_reducible exact Kept.refl _
    | with_reducible apply Kept.after (State.millAct_kept ..)

theorem State.lookWalk_kept (s : State) : Kept s (State.lookWalk s) := by
  unfold State.lookWalk
  repeat' first
    | with_reducible exact Kept.refl _
    | with_reducible apply Kept.after (State.lookDrift_kept ..)
    | split
    | with_reducible refine Kept.upd ?_

theorem execResyncGranule_kept (s : State) : ∃ s₁, execResyncGranule s = .next s₁ ∧ Kept s s₁ := by
  refine ⟨_, rfl, ?_⟩
  repeat' first
    | with_reducible assumption
    | with_reducible exact Kept.refl _
    | ((try lift_lets); intro x; first
        | (refine Kept.cut (t := x) ?_ fun h => ?_; rotate_left; clear_value x; rotate_left; (try unfold x))
        | skip)
    | with_reducible apply Kept.after (State.strobe_kept ..)
    | with_reducible apply Kept.after (State.feedResync_kept ..)
    | with_reducible apply Kept.after (State.lookWalk_kept ..)
    | with_reducible apply Kept.after (State.endCopies_kept ..)
    | with_reducible apply Kept.after (State.modMill_kept ..)
    | split
    | dsimp +zetaDelta only
    | with_reducible refine Kept.upd ?_

theorem execResyncLineReturn_kept (g : Nat) (r : Fin 16384) (i : Fin 4) (s : State) : ∃ s₁, execResyncLineReturn g r i s = .next s₁ ∧ Kept s s₁ := by
  refine ⟨_, rfl, ?_⟩
  repeat' first
    | with_reducible assumption
    | with_reducible exact Kept.refl _
    | ((try lift_lets); intro x; first
        | (refine Kept.cut (t := x) ?_ fun h => ?_; rotate_left; clear_value x; rotate_left; (try unfold x))
        | skip)
    | with_reducible apply Kept.after (State.modMill_kept ..)
    | with_reducible apply Kept.after (State.endCopies_kept ..)
    | split
    | dsimp +zetaDelta only
    | with_reducible refine Kept.upd ?_

end Sys2Proof.Machine
end

