-- ==== Sys2Proof/Laws/KeptUpdate.lean ====
section
/-! SUPPORT. What the operations of Machine/Update.lean keep. -/

namespace Sys2Proof.Machine

set_option Elab.async false
set_option linter.all false

theorem State.install_kept (s : State) (key : Nat) : Kept s (State.install s key) := by
  unfold State.install
  repeat' first
    | with_reducible exact Kept.refl _
    | with_reducible apply Kept.after (State.setLive_kept ..)

theorem State.applyGroups_kept (s : State) (gs : Word) : Kept s (State.applyGroups s gs) := by
  unfold State.applyGroups
  repeat' first
    | with_reducible assumption
    | with_reducible exact Kept.refl _
    | ((try lift_lets); intro x; first
        | (refine Kept.cut (t := x) ?_ fun h => ?_; rotate_left; clear_value x; rotate_left; (try unfold x))
        | skip)
    | with_reducible apply Kept.after (State.install_kept ..)
    | with_reducible refine Kept.foldl (hf := fun _ _ => ?_) (h := ?_)
    | dsimp +zetaDelta only

theorem State.landHeld_kept (s : State) : Kept s (State.landHeld s) := by
  unfold State.landHeld
  repeat' first
    | with_reducible assumption
    | with_reducible exact Kept.refl _
    | ((try lift_lets); intro x; first
        | (refine Kept.cut (t := x) ?_ fun h => ?_; rotate_left; clear_value x; rotate_left; (try unfold x))
        | skip)
    | with_reducible apply Kept.after (State.setProg_kept ..)
    | with_reducible refine Kept.foldl (hf := fun _ _ => ?_) (h := ?_)
    | dsimp +zetaDelta only
    | with_reducible refine Kept.upd ?_

theorem State.portUpdate_kept (s : State) (p : PortId) : Kept s (State.portUpdate s p) := by
  unfold State.portUpdate
  repeat' first
    | with_reducible assumption
    | with_reducible exact Kept.refl _
    | ((try lift_lets); intro x; first
        | (refine Kept.cut (t := x) ?_ fun h => ?_; rotate_left; clear_value x; rotate_left; (try unfold x))
        | skip)
    | with_reducible apply Kept.after (State.install_kept ..)
    | with_reducible apply Kept.after (State.modPort_kept ..)
    | with_reducible apply Kept.after (State.updFlood_kept ..)
    | with_reducible refine Kept.foldl (hf := fun _ _ => ?_) (h := ?_)
    | split
    | dsimp +zetaDelta only
    | with_reducible refine Kept.upd ?_

theorem State.startSch_kept (s : State) (c : ChanId) : Kept s (State.startSch s c) := by
  unfold State.startSch
  repeat' first
    | with_reducible assumption
    | with_reducible exact Kept.refl _
    | ((try lift_lets); intro x; first
        | (refine Kept.cut (t := x) ?_ fun h => ?_; rotate_left; clear_value x; rotate_left; (try unfold x))
        | skip)
    | with_reducible apply Kept.after (State.modChan_kept ..)
    | split
    | dsimp +zetaDelta only
    | with_reducible refine Kept.upd ?_

theorem State.chanUpdate_kept (s : State) (c : ChanId) (phyWas schWas : Bool) : Kept s (State.chanUpdate s c phyWas schWas) := by
  unfold State.chanUpdate
  repeat' first
    | with_reducible assumption
    | with_reducible exact Kept.refl _
    | ((try lift_lets); intro x; first
        | (refine Kept.cut (t := x) ?_ fun h => ?_; rotate_left; clear_value x; rotate_left; (try unfold x))
        | skip)
    | with_reducible apply Kept.after (State.modChan_kept ..)
    | with_reducible apply Kept.after (State.startSch_kept ..)
    | split
    | dsimp +zetaDelta only
    | with_reducible refine Kept.upd ?_

theorem State.enterSpan_kept (s : State) (m : SetId) : Kept s (State.enterSpan s m) := by
  unfold State.enterSpan
  repeat' first
    | with_reducible assumption
    | with_reducible exact Kept.refl _
    | ((try lift_lets); intro x; first
        | (refine Kept.cut (t := x) ?_ fun h => ?_; rotate_left; clear_value x; rotate_left; (try unfold x))
        | skip)
    | with_reducible apply Kept.after (State.loseChan_kept ..)
    | with_reducible apply Kept.after (State.modSpan_kept ..)
    | with_reducible refine Kept.foldl (hf := fun _ _ => ?_) (h := ?_)
    | split
    | dsimp +zetaDelta only

theorem State.mapUpdate_kept (s : State) (was : SetId → Bool) : Kept s (State.mapUpdate s was) := by
  unfold State.mapUpdate
  repeat' first
    | with_reducible assumption
    | with_reducible exact Kept.refl _
    | ((try lift_lets); intro x; first
        | (refine Kept.cut (t := x) ?_ fun h => ?_; rotate_left; clear_value x; rotate_left; (try unfold x))
        | skip)
    | with_reducible apply Kept.after (State.enterSpan_kept ..)
    | with_reducible apply Kept.after (State.modSpan_kept ..)
    | with_reducible apply Kept.after (State.updFlood_kept ..)
    | with_reducible apply Kept.after (State.updMiFlood_kept ..)
    | with_reducible refine Kept.foldl (hf := fun _ _ => ?_) (h := ?_)
    | split
    | dsimp +zetaDelta only

theorem State.cadUpdate_kept (s : State) (u : Nat) : Kept s (State.cadUpdate s u) := by
  unfold State.cadUpdate
  repeat' first
    | with_reducible assumption
    | with_reducible exact Kept.refl _
    | ((try lift_lets); intro x; first
        | (refine Kept.cut (t := x) ?_ fun h => ?_; rotate_left; clear_value x; rotate_left; (try unfold x))
        | skip)
    | split
    | dsimp +zetaDelta only
    | with_reducible refine Kept.upd ?_

theorem State.epochUpdate_kept (s : State) : Kept s (State.epochUpdate s) := by
  unfold State.epochUpdate
  repeat' first
    | with_reducible assumption
    | with_reducible exact Kept.refl _
    | ((try lift_lets); intro x; first
        | (refine Kept.cut (t := x) ?_ fun h => ?_; rotate_left; clear_value x; rotate_left; (try unfold x))
        | skip)
    | with_reducible apply Kept.after (State.install_kept ..)
    | split
    | dsimp +zetaDelta only
    | with_reducible refine Kept.upd ?_

theorem State.replyMill_kept (s : State) : Kept s (State.replyMill s) := by
  unfold State.replyMill
  repeat' first
    | with_reducible exact Kept.refl _
    | with_reducible apply Kept.after (State.replyCur_kept ..)
    | split
    | with_reducible refine Kept.upd ?_

theorem State.millUpdate_kept (s : State) : Kept s (State.millUpdate s) := by
  unfold State.millUpdate
  repeat' first
    | with_reducible assumption
    | with_reducible exact Kept.refl _
    | ((try lift_lets); intro x; first
        | (refine Kept.cut (t := x) ?_ fun h => ?_; rotate_left; clear_value x; rotate_left; (try unfold x))
        | skip)
    | with_reducible apply Kept.after (State.tryEnable_kept ..)
    | with_reducible apply Kept.after (State.tryPair_kept ..)
    | with_reducible apply Kept.after (State.millOff_kept ..)
    | with_reducible apply Kept.after (State.setProg_kept ..)
    | with_reducible apply Kept.after (State.setLive_kept ..)
    | with_reducible apply Kept.after (State.millAct_kept ..)
    | with_reducible apply Kept.after (State.replyMill_kept ..)
    | split
    | dsimp +zetaDelta only
    | with_reducible refine Kept.upd ?_

theorem State.startFill_kept (s : State) : Kept s (State.startFill s) := by
  unfold State.startFill
  repeat' first
    | with_reducible assumption
    | with_reducible exact Kept.refl _
    | ((try lift_lets); intro x; first
        | (refine Kept.cut (t := x) ?_ fun h => ?_; rotate_left; clear_value x; rotate_left; (try unfold x))
        | skip)
    | with_reducible apply Kept.after (State.writeFresh_kept ..)
    | with_reducible refine Kept.foldl (hf := fun _ _ => ?_) (h := ?_)
    | split
    | dsimp +zetaDelta only
    | with_reducible refine Kept.upd ?_

theorem State.strikeArms_kept (s : State) : Kept s (State.strikeArms s) := by
  unfold State.strikeArms
  repeat' first
    | with_reducible exact Kept.refl _
    | dsimp +zetaDelta only
    | with_reducible refine Kept.upd ?_

theorem State.takeGroups_kept (s : State) (gs : Word) : Kept s (State.takeGroups s gs) := by
  unfold State.takeGroups
  repeat' first
    | with_reducible assumption
    | with_reducible exact Kept.refl _
    | ((try lift_lets); intro x; first
        | (refine Kept.cut (t := x) ?_ fun h => ?_; rotate_left; clear_value x; rotate_left; (try unfold x))
        | skip)
    | with_reducible apply Kept.after (State.applyGroups_kept ..)
    | with_reducible apply Kept.after (State.mapUpdate_kept ..)
    | with_reducible apply Kept.after (State.chanUpdate_kept ..)
    | with_reducible apply Kept.after (State.epochUpdate_kept ..)
    | with_reducible apply Kept.after (State.cadUpdate_kept ..)
    | with_reducible apply Kept.after (State.millUpdate_kept ..)
    | with_reducible apply Kept.after (State.portUpdate_kept ..)
    | with_reducible apply Kept.after (State.startFill_kept ..)
    | with_reducible apply Kept.after (State.strikeArms_kept ..)
    | with_reducible refine Kept.foldl (hf := fun _ _ => ?_) (h := ?_)
    | split
    | dsimp +zetaDelta only

theorem State.takeUpdate_kept (s : State) (p : Posting) : Kept s (State.takeUpdate s p) := by
  unfold State.takeUpdate
  repeat' first
    | with_reducible assumption
    | with_reducible exact Kept.refl _
    | ((try lift_lets); intro x; first
        | (refine Kept.cut (t := x) ?_ fun h => ?_; rotate_left; clear_value x; rotate_left; (try unfold x))
        | skip)
    | with_reducible apply Kept.after (State.takeGroups_kept ..)
    | split
    | dsimp +zetaDelta only
    | with_reducible refine Kept.upd ?_

theorem State.takeUpdates_kept (s : State) : Kept s (State.takeUpdates s) := by
  unfold State.takeUpdates
  repeat' first
    | with_reducible assumption
    | with_reducible exact Kept.refl _
    | ((try lift_lets); intro x; first
        | (refine Kept.cut (t := x) ?_ fun h => ?_; rotate_left; clear_value x; rotate_left; (try unfold x))
        | skip)
    | with_reducible apply Kept.after (State.takeUpdate_kept ..)
    | with_reducible refine Kept.foldl (hf := fun _ _ => ?_) (h := ?_)
    | dsimp +zetaDelta only
    | with_reducible refine Kept.upd ?_

end Sys2Proof.Machine
end

