-- ==== Sys2Proof/Laws/KeptResetOps.lean ====
section
/-! SUPPORT. What the operations of Machine/ResetOps.lean keep. -/

namespace Sys2Proof.Machine

set_option Elab.async false
set_option linter.all false

theorem State.enterReset_kept (s : State) : Kept s (State.enterReset s) := by
  simp only [State.enterReset, State.coreReset]
  refine Kept.of_reset (fun i => ⟨⟨Cells.keep_wf _ i.1.1, rfl, rfl⟩, Nat.zero_le _, Nat.zero_le _, i.2.2.2⟩) ?_
  simp only [State.inReset, State.ticking]
  cases s.sbm.rstLow <;> rfl

theorem State.resetDue_kept (s : State) : Kept s (State.resetDue s) := by
  unfold State.resetDue
  repeat' first
    | with_reducible exact Kept.refl _
    | with_reducible apply Kept.after (State.enterReset_kept ..)
    | split

theorem State.raiseOn_kept (s : State) (src : Nat) : Kept s (State.raiseOn s src) := by
  unfold State.raiseOn
  repeat' first
    | with_reducible exact Kept.refl _
    | with_reducible apply Kept.after (State.raise_kept ..)
    | split

theorem State.flashTold_kept (s : State) : Kept s (State.flashTold s) := by
  unfold State.flashTold
  repeat' first
    | with_reducible exact Kept.refl _
    | with_reducible refine Kept.upd ?_

theorem State.programmed_kept (s : State) : Kept s (State.programmed s) := by
  unfold State.programmed
  repeat' first
    | with_reducible exact Kept.refl _
    | with_reducible refine Kept.upd ?_

theorem State.writeCounter_kept (s : State) : Kept s (State.writeCounter s) := by
  unfold State.writeCounter
  repeat' first
    | with_reducible assumption
    | with_reducible exact Kept.refl _
    | ((try lift_lets); intro x; first
        | (refine Kept.cut (t := x) ?_ fun h => ?_; rotate_left; clear_value x; rotate_left; (try unfold x))
        | skip)
    | split
    | dsimp +zetaDelta only
    | with_reducible refine Kept.upd ?_

theorem State.releaseReset_kept (s : State) : Kept s (State.releaseReset s) := by
  unfold State.releaseReset
  repeat' first
    | with_reducible assumption
    | with_reducible exact Kept.refl _
    | ((try lift_lets); intro x; first
        | (refine Kept.cut (t := x) ?_ fun h => ?_; rotate_left; clear_value x; rotate_left; (try unfold x))
        | skip)
    | with_reducible apply Kept.after (State.strobe_kept ..)
    | split
    | dsimp +zetaDelta only
    | with_reducible refine Kept.upd ?_

theorem State.alarmOn_kept (s : State) : Kept s (State.alarmOn s) := by
  unfold State.alarmOn
  repeat' first
    | with_reducible exact Kept.refl _
    | with_reducible apply Kept.after (State.raiseOn_kept ..)
    | split
    | with_reducible refine Kept.upd ?_

theorem State.abortSlumber_kept (s : State) : Kept s (State.abortSlumber s) := by
  unfold State.abortSlumber
  repeat' first
    | with_reducible exact Kept.refl _
    | with_reducible apply Kept.after (State.replyCur_kept ..)
    | split
    | with_reducible refine Kept.upd ?_

theorem State.wake_kept (s : State) (rule cls ch : Nat) : Kept s (State.wake s rule cls ch) :=
  Kept.of_reset id rfl

theorem State.ruleEvent_kept (s : State) (cls ch v : Nat) : Kept s (State.ruleEvent s cls ch v) := by
  unfold State.ruleEvent
  repeat' first
    | with_reducible assumption
    | with_reducible exact Kept.refl _
    | ((try lift_lets); intro x; first
        | (refine Kept.cut (t := x) ?_ fun h => ?_; rotate_left; clear_value x; rotate_left; (try unfold x))
        | skip)
    | with_reducible apply Kept.after (State.alarmOn_kept ..)
    | with_reducible apply Kept.after (State.abortSlumber_kept ..)
    | with_reducible apply Kept.after (State.slumber_kept ..)
    | with_reducible apply Kept.after (State.wake_kept ..)
    | split
    | dsimp +zetaDelta only
    | with_reducible refine Kept.upd ?_

theorem State.levelEvents_kept (s : State) : Kept s (State.levelEvents s) := by
  unfold State.levelEvents
  repeat' first
    | with_reducible assumption
    | with_reducible exact Kept.refl _
    | ((try lift_lets); intro x; first
        | (refine Kept.cut (t := x) ?_ fun h => ?_; rotate_left; clear_value x; rotate_left; (try unfold x))
        | skip)
    | with_reducible apply Kept.after (State.ruleEvent_kept ..)
    | split
    | dsimp +zetaDelta only
    | with_reducible refine Kept.upd ?_

theorem State.sledFalls_kept (s : State) (n : Nat) : Kept s (State.sledFalls s n) := by
  unfold State.sledFalls
  repeat' first
    | with_reducible exact Kept.refl _
    | dsimp +zetaDelta only
    | with_reducible refine Kept.upd ?_

theorem State.powerOn_kept (s : State) (c : ChanId) : Kept s (State.powerOn s c) := by
  unfold State.powerOn
  repeat' first
    | with_reducible exact Kept.refl _
    | with_reducible apply Kept.after (State.modChan_kept ..)
    | split
    | dsimp +zetaDelta only
    | with_reducible refine Kept.upd ?_

theorem State.powerOffPowered_kept (s : State) (c : ChanId) : Kept s (State.powerOffPowered s c) := by
  unfold State.powerOffPowered
  repeat' first
    | with_reducible assumption
    | with_reducible exact Kept.refl _
    | ((try lift_lets); intro x; first
        | (refine Kept.cut (t := x) ?_ fun h => ?_; rotate_left; clear_value x; rotate_left; (try unfold x))
        | skip)
    | with_reducible apply Kept.after (State.modChan_kept ..)
    | with_reducible apply Kept.after (State.leds_kept ..)
    | dsimp +zetaDelta only
    | with_reducible refine Kept.upd ?_

theorem State.sbmSever_kept (s : State) (c : ChanId) : Kept s (State.sbmSever s c) := by
  unfold State.sbmSever
  repeat' first
    | with_reducible assumption
    | with_reducible exact Kept.refl _
    | ((try lift_lets); intro x; first
        | (refine Kept.cut (t := x) ?_ fun h => ?_; rotate_left; clear_value x; rotate_left; (try unfold x))
        | skip)
    | with_reducible apply Kept.after (State.modChan_kept ..)
    | with_reducible apply Kept.after (State.leds_kept ..)
    | dsimp +zetaDelta only
    | with_reducible refine Kept.upd ?_

theorem State.beginIdle_kept (s : State) (c : ChanId) : Kept s (State.beginIdle s c) := by
  unfold State.beginIdle
  repeat' first
    | with_reducible assumption
    | with_reducible exact Kept.refl _
    | ((try lift_lets); intro x; first
        | (refine Kept.cut (t := x) ?_ fun h => ?_; rotate_left; clear_value x; rotate_left; (try unfold x))
        | skip)
    | with_reducible apply Kept.after (State.modChan_kept ..)
    | dsimp +zetaDelta only
    | with_reducible refine Kept.upd ?_

theorem State.slumberChans_kept (s : State) : Kept s (State.slumberChans s) := by
  unfold State.slumberChans
  repeat' first
    | with_reducible assumption
    | with_reducible exact Kept.refl _
    | ((try lift_lets); intro x; first
        | (refine Kept.cut (t := x) ?_ fun h => ?_; rotate_left; clear_value x; rotate_left; (try unfold x))
        | skip)
    | with_reducible apply Kept.after (State.powerOffPowered_kept ..)
    | with_reducible apply Kept.after (State.beginIdle_kept ..)
    | with_reducible refine Kept.foldl (hf := fun _ _ => ?_) (h := ?_)
    | split
    | dsimp +zetaDelta only

theorem State.writeCounter_phase (s : State) : s.writeCounter.phase = s.phase := by
  unfold State.writeCounter
  split <;> rfl

theorem State.slumberChans_phase (s : State) : s.slumberChans.phase = s.phase := by
  unfold State.slumberChans
  generalize allChans = l
  induction l generalizing s with
  | nil => rfl
  | cons c l ih =>
    rw [List.foldl_cons, ih]
    dsimp only
    split
    · rfl
    · split <;> rfl

/-- The last step of an entry to SLUMBER, from a state that is still ON. -/
theorem Kept.commit {s t : State} (h : Kept s t) (ht : t.phase = .on) (st err : Nat) (r : List Word) :
    Kept s (({ t with phase := .commit } : State).replyCur st err r) := by
  refine Kept.after (State.replyCur_kept ..) (h.trans ?_)
  constructor <;> simp [State.inReset, State.ticking, ht, State.Inv, State.canonical, State.bounded]

theorem State.slumberStep_kept (s : State) : Kept s (State.slumberStep s) := by
  have last : ∀ t : State, Kept s t → t.phase = .on →
      Kept s (if t.slumberChans.allIdle then ({ t.slumberChans with phase := .commit } : State).replyCur stOk 0 []
        else t.slumberChans) := by
    intro t h ht
    split
    · exact (h.trans (State.slumberChans_kept t)).commit (by rw [State.slumberChans_phase, ht]) _ _ _
    · exact h.trans (State.slumberChans_kept t)
  unfold State.slumberStep
  split
  · exact Kept.refl s
  · split
    · exact Kept.refl s
    · rename_i hu
      have hp : s.phase = .on := by
        rcases Decidable.em (s.phase = .on) with h | h
        · exact h
        · exact absurd (Or.inr h) hu
      have tail : ∀ t : State, Kept s t → t.phase = .on → Kept s (match t.cmp.cur with
          | some v => if v.begun then
              (if t.slumberChans.allIdle then ({ t.slumberChans with phase := .commit } : State).replyCur stOk 0 []
                else t.slumberChans) else t
          | none => t) := by
        intro t h ht
        split
        · split
          · exact last t h ht
          · exact h
        · exact h
      dsimp only
      refine tail _ ?_ ?_
      · split
        · exact Kept.upd (State.writeCounter_kept ..)
        · exact Kept.refl s
      · split
        · exact (State.writeCounter_phase s).trans hp
        · exact hp

end Sys2Proof.Machine
end

