-- ==== Sys2Proof/Laws/KeptMaintWork.lean ====
section
/-! SUPPORT. What the operations of Machine/MaintWork.lean keep. -/

namespace Sys2Proof.Machine

set_option Elab.async false
set_option linter.all false

theorem State.modScrub_kept (s : State) (c : ChanId) (f : Scrub → Scrub) : Kept s (State.modScrub s c f) := by
  unfold State.modScrub
  repeat' first
    | with_reducible exact Kept.refl _
    | with_reducible apply Kept.after (State.modChan_kept ..)
    | with_reducible apply Kept.after (State.scrub_kept ..)
    | dsimp +zetaDelta only
    | with_reducible refine Kept.upd ?_

theorem State.modPpr_kept (s : State) (c : ChanId) (f : Ppr → Ppr) : Kept s (State.modPpr s c f) := by
  unfold State.modPpr
  repeat' first
    | with_reducible exact Kept.refl _
    | with_reducible apply Kept.after (State.modChan_kept ..)
    | with_reducible apply Kept.after (State.ppr_kept ..)
    | dsimp +zetaDelta only
    | with_reducible refine Kept.upd ?_

theorem State.modPatch_kept (s : State) (c : ChanId) (f : Patch → Patch) : Kept s (State.modPatch s c f) := by
  unfold State.modPatch
  repeat' first
    | with_reducible exact Kept.refl _
    | with_reducible apply Kept.after (State.modChan_kept ..)
    | dsimp +zetaDelta only
    | with_reducible refine Kept.upd ?_

theorem State.modReb_kept (s : State) (m : SetId) (f : Rebuild → Rebuild) : Kept s (State.modReb s m f) := by
  unfold State.modReb
  repeat' first
    | with_reducible exact Kept.refl _
    | with_reducible apply Kept.after (State.modSpan_kept ..)
    | dsimp +zetaDelta only
    | with_reducible refine Kept.upd ?_

theorem State.jobProg_kept (s : State) (opc t prog : Nat) : Kept s (State.jobProg s opc t prog) := by
  unfold State.jobProg
  repeat' first
    | with_reducible exact Kept.refl _
    | with_reducible apply Kept.after (State.modJobs_kept ..)
    | split
    | dsimp +zetaDelta only
    | with_reducible refine Kept.upd ?_

theorem State.endScrub_kept (s : State) (c : ChanId) : Kept s (State.endScrub s c) := by
  unfold State.endScrub
  repeat' first
    | with_reducible exact Kept.refl _
    | with_reducible apply Kept.after (State.modScrub_kept ..)
    | with_reducible apply Kept.after (State.finishJob_kept ..)
    | dsimp +zetaDelta only
    | with_reducible refine Kept.upd ?_

theorem State.endLine_kept (s : State) (c : ChanId) : Kept s (State.endLine s c) := by
  unfold State.endLine
  repeat' first
    | with_reducible assumption
    | with_reducible exact Kept.refl _
    | ((try lift_lets); intro x; first
        | (refine Kept.cut (t := x) ?_ fun h => ?_; rotate_left; clear_value x; rotate_left; (try unfold x))
        | skip)
    | with_reducible apply Kept.after (State.modScrub_kept ..)
    | with_reducible apply Kept.after (State.scrub_kept ..)
    | with_reducible apply Kept.after (State.jobProg_kept ..)
    | with_reducible apply Kept.after (State.endScrub_kept ..)
    | split
    | dsimp +zetaDelta only
    | with_reducible refine Kept.upd ?_

theorem State.beginLine_kept (s : State) (c : ChanId) (line : Nat) (fromList : Bool) : Kept s (State.beginLine s c line fromList) := by
  unfold State.beginLine
  repeat' first
    | with_reducible assumption
    | with_reducible exact Kept.refl _
    | ((try lift_lets); intro x; first
        | (refine Kept.cut (t := x) ?_ fun h => ?_; rotate_left; clear_value x; rotate_left; (try unfold x))
        | skip)
    | with_reducible apply Kept.after (State.modScrub_kept ..)
    | with_reducible apply Kept.after (State.ownRead_kept ..)
    | with_reducible apply Kept.after (State.scrub_kept ..)
    | dsimp +zetaDelta only
    | with_reducible refine Kept.upd ?_

theorem State.waitLock_kept (s : State) (c : ChanId) (r : Fin 10) : Kept s (State.waitLock s c r) := by
  unfold State.waitLock
  repeat' first
    | with_reducible exact Kept.refl _
    | with_reducible apply Kept.after (State.release_kept ..)
    | with_reducible apply Kept.after (State.lose_kept ..)

theorem State.nextLine_kept (s : State) (c : ChanId) : Kept s (State.nextLine s c) := by
  unfold State.nextLine
  repeat' first
    | with_reducible assumption
    | with_reducible exact Kept.refl _
    | ((try lift_lets); intro x; first
        | (refine Kept.cut (t := x) ?_ fun h => ?_; rotate_left; clear_value x; rotate_left; (try unfold x))
        | skip)
    | with_reducible apply Kept.after (State.scrub_kept ..)
    | with_reducible apply Kept.after (State.lookFresh_kept ..)
    | with_reducible apply Kept.after (State.endScrub_kept ..)
    | with_reducible apply Kept.after (State.modScrub_kept ..)
    | with_reducible apply Kept.after (State.waitLock_kept ..)
    | with_reducible apply Kept.after (State.beginLine_kept ..)
    | split
    | dsimp +zetaDelta only
    | with_reducible refine Kept.upd ?_

theorem State.startScrub_kept (s : State) (c : ChanId) : Kept s (State.startScrub s c) := by
  unfold State.startScrub
  repeat' first
    | with_reducible assumption
    | with_reducible exact Kept.refl _
    | ((try lift_lets); intro x; first
        | (refine Kept.cut (t := x) ?_ fun h => ?_; rotate_left; clear_value x; rotate_left; (try unfold x))
        | skip)
    | with_reducible apply Kept.after (State.scrub_kept ..)
    | with_reducible apply Kept.after (State.endLine_kept ..)
    | with_reducible apply Kept.after (State.lookFresh_kept ..)
    | with_reducible apply Kept.after (State.modScrub_kept ..)
    | with_reducible apply Kept.after (State.waitLock_kept ..)
    | with_reducible apply Kept.after (State.beginLine_kept ..)
    | with_reducible apply Kept.after (State.nextLine_kept ..)
    | split
    | dsimp +zetaDelta only
    | with_reducible refine Kept.upd ?_

theorem State.scrubBack_kept (s : State) (c : ChanId) (d : Line) : Kept s (State.scrubBack s c d) := by
  unfold State.scrubBack
  repeat' first
    | with_reducible assumption
    | with_reducible exact Kept.refl _
    | ((try lift_lets); intro x; first
        | (refine Kept.cut (t := x) ?_ fun h => ?_; rotate_left; clear_value x; rotate_left; (try unfold x))
        | skip)
    | with_reducible apply Kept.after (State.scrub_kept ..)
    | with_reducible apply Kept.after (State.endLine_kept ..)
    | with_reducible apply Kept.after (State.writeBack_kept ..)
    | with_reducible apply Kept.after (State.modScrub_kept ..)
    | split
    | dsimp +zetaDelta only
    | with_reducible refine Kept.upd ?_

theorem State.scrubPoison_kept (s : State) (c : ChanId) : Kept s (State.scrubPoison s c) := by
  unfold State.scrubPoison
  repeat' first
    | with_reducible assumption
    | with_reducible exact Kept.refl _
    | ((try lift_lets); intro x; first
        | (refine Kept.cut (t := x) ?_ fun h => ?_; rotate_left; clear_value x; rotate_left; (try unfold x))
        | skip)
    | with_reducible apply Kept.after (State.scrub_kept ..)
    | with_reducible apply Kept.after (State.writeBack_kept ..)
    | with_reducible apply Kept.after (State.note_kept ..)
    | with_reducible apply Kept.after (State.raiseChan_kept ..)
    | with_reducible apply Kept.after (State.retireLine_kept ..)
    | with_reducible apply Kept.after (State.ladder_kept ..)
    | with_reducible apply Kept.after (State.endLine_kept ..)
    | split
    | dsimp +zetaDelta only

theorem State.scrubBad_kept (s : State) (c : ChanId) : Kept s (State.scrubBad s c) := by
  unfold State.scrubBad
  repeat' first
    | with_reducible assumption
    | with_reducible exact Kept.refl _
    | ((try lift_lets); intro x; first
        | (refine Kept.cut (t := x) ?_ fun h => ?_; rotate_left; clear_value x; rotate_left; (try unfold x))
        | skip)
    | with_reducible apply Kept.after (State.scrub_kept ..)
    | with_reducible apply Kept.after (State.modScrub_kept ..)
    | with_reducible apply Kept.after (State.startRecon_kept ..)
    | with_reducible apply Kept.after (State.scrubPoison_kept ..)
    | split
    | dsimp +zetaDelta only
    | with_reducible refine Kept.upd ?_

theorem State.scrubGot_kept (s : State) (c : ChanId) (line : Nat) (g : Got) : Kept s (State.scrubGot s c line g) := by
  unfold State.scrubGot
  repeat' first
    | with_reducible assumption
    | with_reducible exact Kept.refl _
    | ((try lift_lets); intro x; first
        | (refine Kept.cut (t := x) ?_ fun h => ?_; rotate_left; clear_value x; rotate_left; (try unfold x))
        | skip)
    | with_reducible apply Kept.after (State.scrub_kept ..)
    | with_reducible apply Kept.after (State.modScrub_kept ..)
    | with_reducible apply Kept.after (State.endLine_kept ..)
    | with_reducible apply Kept.after (State.scrubBack_kept ..)
    | with_reducible apply Kept.after (State.scrubBad_kept ..)
    | split
    | dsimp +zetaDelta only
    | with_reducible refine Kept.upd ?_

theorem State.verifyGot_kept (s : State) (c : ChanId) (line : Nat) (g : Got) : Kept s (State.verifyGot s c line g) := by
  unfold State.verifyGot
  repeat' first
    | with_reducible assumption
    | with_reducible exact Kept.refl _
    | ((try lift_lets); intro x; first
        | (refine Kept.cut (t := x) ?_ fun h => ?_; rotate_left; clear_value x; rotate_left; (try unfold x))
        | skip)
    | with_reducible apply Kept.after (State.scrub_kept ..)
    | with_reducible apply Kept.after (State.modScrub_kept ..)
    | with_reducible apply Kept.after (State.endLine_kept ..)
    | with_reducible apply Kept.after (State.ladder_kept ..)
    | with_reducible apply Kept.after (State.scrubBad_kept ..)
    | split
    | dsimp +zetaDelta only
    | with_reducible refine Kept.upd ?_

theorem State.scrubAcked_kept (s : State) (c : ChanId) : Kept s (State.scrubAcked s c) := by
  unfold State.scrubAcked
  repeat' first
    | with_reducible assumption
    | with_reducible exact Kept.refl _
    | ((try lift_lets); intro x; first
        | (refine Kept.cut (t := x) ?_ fun h => ?_; rotate_left; clear_value x; rotate_left; (try unfold x))
        | skip)
    | with_reducible apply Kept.after (State.scrub_kept ..)
    | with_reducible apply Kept.after (State.modScrub_kept ..)
    | with_reducible apply Kept.after (State.ownRead_kept ..)
    | with_reducible apply Kept.after (State.endLine_kept ..)
    | split
    | dsimp +zetaDelta only
    | with_reducible refine Kept.upd ?_

theorem State.scrubRecon_kept (s : State) (r : Recon) : Kept s (State.scrubRecon s r) := by
  unfold State.scrubRecon
  repeat' first
    | with_reducible assumption
    | with_reducible exact Kept.refl _
    | ((try lift_lets); intro x; first
        | (refine Kept.cut (t := x) ?_ fun h => ?_; rotate_left; clear_value x; rotate_left; (try unfold x))
        | skip)
    | with_reducible apply Kept.after (State.scrub_kept ..)
    | with_reducible apply Kept.after (State.modScrub_kept ..)
    | with_reducible apply Kept.after (State.markRecon_kept ..)
    | with_reducible apply Kept.after (State.ladder_kept ..)
    | with_reducible apply Kept.after (State.scrubBack_kept ..)
    | with_reducible apply Kept.after (State.scrubPoison_kept ..)
    | split
    | dsimp +zetaDelta only
    | with_reducible refine Kept.upd ?_

theorem State.patchCopy_kept (s : State) (c : ChanId) (d : Option Line) : Kept s (State.patchCopy s c d) := by
  unfold State.patchCopy
  repeat' first
    | with_reducible assumption
    | with_reducible exact Kept.refl _
    | ((try lift_lets); intro x; first
        | (refine Kept.cut (t := x) ?_ fun h => ?_; rotate_left; clear_value x; rotate_left; (try unfold x))
        | skip)
    | with_reducible apply Kept.after (State.withEntry_kept _ _ _ _ ?_)
    | with_reducible apply Kept.after (State.writeBack_kept ..)
    | with_reducible apply Kept.after (State.modPatch_kept ..)
    | split
    | dsimp +zetaDelta only
    | with_reducible refine Kept.upd ?_

theorem State.badSpare_kept (s : State) (c : ChanId) (i : Nat) : Kept s (State.badSpare s c i) := by
  unfold State.badSpare
  repeat' first
    | with_reducible assumption
    | with_reducible exact Kept.refl _
    | ((try lift_lets); intro x; first
        | (refine Kept.cut (t := x) ?_ fun h => ?_; rotate_left; clear_value x; rotate_left; (try unfold x))
        | skip)
    | with_reducible apply Kept.after (State.withEntry_kept _ _ _ _ ?_)
    | with_reducible apply Kept.after (State.modPatch_kept ..)
    | with_reducible apply Kept.after (State.modChan_kept ..)
    | with_reducible apply Kept.after (State.beginPatch_kept ..)
    | with_reducible apply Kept.after (State.askKs_kept ..)
    | split
    | dsimp +zetaDelta only
    | with_reducible refine Kept.upd ?_

theorem State.checked_kept (s : State) (c : ChanId) (line : Nat) (g : Got) : Kept s (State.checked s c line g) := by
  unfold State.checked
  repeat' first
    | with_reducible assumption
    | with_reducible exact Kept.refl _
    | ((try lift_lets); intro x; first
        | (refine Kept.cut (t := x) ?_ fun h => ?_; rotate_left; clear_value x; rotate_left; (try unfold x))
        | skip)
    | with_reducible apply Kept.after (State.leaveWait_kept ..)
    | with_reducible apply Kept.after (State.finishInstall_kept ..)
    | with_reducible apply Kept.after (State.beginPatch_kept ..)
    | split
    | dsimp +zetaDelta only
    | with_reducible refine Kept.upd ?_

theorem State.patchGot_kept (s : State) (c : ChanId) (g : Got) : Kept s (State.patchGot s c g) := by
  unfold State.patchGot
  split
  · split
    · exact State.checked_kept ..
    · exact Kept.refl s
  · refine State.withEntry_kept s c _ _ fun t e => ?_
    split
    · exact State.patchCopy_kept ..
    · exact State.patchCopy_kept ..
    · split
      · exact State.startRecon_kept ..
      · exact State.patchCopy_kept ..
  · cases g with
    | data d o =>
      cases o with
      | clean => exact (State.modPatch_kept ..).trans (State.askKs_kept ..)
      | corrected | erased | poison | uncorrectable => exact State.badSpare_kept ..
    | poison => exact (State.modPatch_kept ..).trans (State.askKs_kept ..)
    | bad => exact State.badSpare_kept ..
  · exact Kept.refl s

theorem State.patchAcked_kept (s : State) (c : ChanId) : Kept s (State.patchAcked s c) := by
  unfold State.patchAcked
  repeat' first
    | with_reducible assumption
    | with_reducible exact Kept.refl _
    | ((try lift_lets); intro x; first
        | (refine Kept.cut (t := x) ?_ fun h => ?_; rotate_left; clear_value x; rotate_left; (try unfold x))
        | skip)
    | with_reducible apply Kept.after (State.withEntry_kept _ _ _ _ ?_)
    | with_reducible apply Kept.after (State.modChan_kept ..)
    | with_reducible apply Kept.after (State.releaseHeld_kept ..)
    | with_reducible apply Kept.after (State.modPatch_kept ..)
    | with_reducible apply Kept.after (State.askKs_kept ..)
    | split
    | dsimp +zetaDelta only
    | with_reducible refine Kept.upd ?_

theorem State.startPatch_kept (s : State) (c : ChanId) : Kept s (State.startPatch s c) := by
  unfold State.startPatch
  repeat' first
    | with_reducible assumption
    | with_reducible exact Kept.refl _
    | ((try lift_lets); intro x; first
        | (refine Kept.cut (t := x) ?_ fun h => ?_; rotate_left; clear_value x; rotate_left; (try unfold x))
        | skip)
    | with_reducible apply Kept.after (State.withEntry_kept _ _ _ _ ?_)
    | with_reducible apply Kept.after (State.releaseFor_kept ..)
    | with_reducible apply Kept.after (State.ownRead_kept ..)
    | with_reducible apply Kept.after (State.modChan_kept ..)
    | with_reducible apply Kept.after (State.modPatch_kept ..)
    | with_reducible apply Kept.after (State.finishInstall_kept ..)
    | with_reducible apply Kept.after (State.leaveWait_kept ..)
    | with_reducible apply Kept.after (State.beginPatch_kept ..)
    | split
    | dsimp +zetaDelta only
    | with_reducible refine Kept.upd ?_

theorem State.setHold_kept (s : State) (c : ChanId) (x : Sub) (l : List Cmd) : Kept s (State.setHold s c x l) := by
  unfold State.setHold
  repeat' first
    | with_reducible exact Kept.refl _
    | with_reducible apply Kept.after (State.modSel_kept ..)
    | dsimp +zetaDelta only
    | with_reducible refine Kept.upd ?_

theorem State.placeMrr_kept (s : State) (c : ChanId) (x : Sub) (b : Bank) (mr line : Nat) : Kept s (State.placeMrr s c x b mr line) := by
  unfold State.placeMrr
  repeat' first
    | with_reducible assumption
    | with_reducible exact Kept.refl _
    | ((try lift_lets); intro x; first
        | (refine Kept.cut (t := x) ?_ fun h => ?_; rotate_left; clear_value x; rotate_left; (try unfold x))
        | skip)
    | with_reducible apply Kept.after (State.setHold_kept ..)
    | with_reducible apply Kept.after (State.modChan_kept ..)
    | with_reducible apply Kept.after (State.stamp_kept ..)
    | dsimp +zetaDelta only
    | with_reducible refine Kept.upd ?_

theorem State.afterCopies_kept (s : State) (c : ChanId) : Kept s (State.afterCopies s c) := by
  unfold State.afterCopies
  repeat' first
    | with_reducible assumption
    | with_reducible exact Kept.refl _
    | ((try lift_lets); intro x; first
        | (refine Kept.cut (t := x) ?_ fun h => ?_; rotate_left; clear_value x; rotate_left; (try unfold x))
        | skip)
    | with_reducible apply Kept.after (State.ppr_kept ..)
    | with_reducible apply Kept.after (State.modPpr_kept ..)
    | with_reducible apply Kept.after (State.modChan_kept ..)
    | with_reducible apply Kept.after (State.endPpr_kept ..)
    | with_reducible apply Kept.after (State.askKs_kept ..)
    | split
    | dsimp +zetaDelta only
    | with_reducible refine Kept.upd ?_

theorem State.copyOver_kept (s : State) (c : ChanId) : Kept s (State.copyOver s c) := by
  unfold State.copyOver
  repeat' first
    | with_reducible assumption
    | with_reducible exact Kept.refl _
    | ((try lift_lets); intro x; first
        | (refine Kept.cut (t := x) ?_ fun h => ?_; rotate_left; clear_value x; rotate_left; (try unfold x))
        | skip)
    | with_reducible apply Kept.after (State.modPpr_kept ..)
    | with_reducible apply Kept.after (State.ppr_kept ..)
    | with_reducible apply Kept.after (State.afterCopies_kept ..)
    | split
    | dsimp +zetaDelta only
    | with_reducible refine Kept.upd ?_

theorem State.copyDone_kept (s : State) (c : ChanId) : Kept s (State.copyDone s c) := by
  unfold State.copyDone
  repeat' first
    | with_reducible assumption
    | with_reducible exact Kept.refl _
    | ((try lift_lets); intro x; first
        | (refine Kept.cut (t := x) ?_ fun h => ?_; rotate_left; clear_value x; rotate_left; (try unfold x))
        | skip)
    | with_reducible apply Kept.after (State.ppr_kept ..)
    | with_reducible apply Kept.after (State.modChan_kept ..)
    | with_reducible apply Kept.after (State.readPatch_kept ..)
    | with_reducible apply Kept.after (State.releaseHeld_kept ..)
    | with_reducible apply Kept.after (State.jobProg_kept ..)
    | with_reducible apply Kept.after (State.copyOver_kept ..)
    | split
    | dsimp +zetaDelta only
    | with_reducible refine Kept.upd ?_

theorem State.startCopy_kept (s : State) (c : ChanId) : Kept s (State.startCopy s c) := by
  unfold State.startCopy
  repeat' first
    | with_reducible assumption
    | with_reducible exact Kept.refl _
    | ((try lift_lets); intro x; first
        | (refine Kept.cut (t := x) ?_ fun h => ?_; rotate_left; clear_value x; rotate_left; (try unfold x))
        | skip)
    | with_reducible apply Kept.after (State.ppr_kept ..)
    | with_reducible apply Kept.after (State.copyOver_kept ..)
    | with_reducible apply Kept.after (State.readPatch_kept ..)
    | with_reducible apply Kept.after (State.releaseFor_kept ..)
    | with_reducible apply Kept.after (State.modChan_kept ..)
    | with_reducible apply Kept.after (State.ownRead_kept ..)
    | split
    | dsimp +zetaDelta only
    | with_reducible refine Kept.upd ?_

theorem State.startPpr_kept (s : State) (c : ChanId) : Kept s (State.startPpr s c) := by
  unfold State.startPpr
  repeat' first
    | with_reducible assumption
    | with_reducible exact Kept.refl _
    | ((try lift_lets); intro x; first
        | (refine Kept.cut (t := x) ?_ fun h => ?_; rotate_left; clear_value x; rotate_left; (try unfold x))
        | skip)
    | with_reducible apply Kept.after (State.ppr_kept ..)
    | with_reducible apply Kept.after (State.modPpr_kept ..)
    | with_reducible apply Kept.after (State.placeMrr_kept ..)
    | with_reducible apply Kept.after (State.startCopy_kept ..)
    | with_reducible apply Kept.after (State.setHold_kept ..)
    | with_reducible apply Kept.after (State.writeBack_kept ..)
    | with_reducible apply Kept.after (State.ownRead_kept ..)
    | split
    | dsimp +zetaDelta only
    | with_reducible refine Kept.upd ?_

theorem State.pprGot_kept (s : State) (c : ChanId) (g : Got) : Kept s (State.pprGot s c g) := by
  unfold State.pprGot
  repeat' first
    | with_reducible assumption
    | with_reducible exact Kept.refl _
    | ((try lift_lets); intro x; first
        | (refine Kept.cut (t := x) ?_ fun h => ?_; rotate_left; clear_value x; rotate_left; (try unfold x))
        | skip)
    | with_reducible apply Kept.after (State.ppr_kept ..)
    | with_reducible apply Kept.after (State.failPpr_kept ..)
    | with_reducible apply Kept.after (State.useFree_kept ..)
    | with_reducible apply Kept.after (State.modPpr_kept ..)
    | with_reducible apply Kept.after (State.copyDone_kept ..)
    | with_reducible apply Kept.after (State.writeBack_kept ..)
    | split
    | dsimp +zetaDelta only
    | with_reducible refine Kept.upd ?_

theorem State.pprAcked_kept (s : State) (c : ChanId) : Kept s (State.pprAcked s c) := by
  unfold State.pprAcked
  repeat' first
    | with_reducible exact Kept.refl _
    | with_reducible apply Kept.after (State.ppr_kept ..)
    | with_reducible apply Kept.after (State.modPpr_kept ..)
    | with_reducible apply Kept.after (State.copyDone_kept ..)
    | split
    | dsimp +zetaDelta only
    | with_reducible refine Kept.upd ?_

theorem State.pprResource_kept (s : State) (c : ChanId) (raw : Stored) : Kept s (State.pprResource s c raw) := by
  unfold State.pprResource
  repeat' first
    | with_reducible assumption
    | with_reducible exact Kept.refl _
    | ((try lift_lets); intro x; first
        | (refine Kept.cut (t := x) ?_ fun h => ?_; rotate_left; clear_value x; rotate_left; (try unfold x))
        | skip)
    | with_reducible apply Kept.after (State.failPpr_kept ..)
    | with_reducible apply Kept.after (State.ppr_kept ..)
    | with_reducible apply Kept.after (State.modPpr_kept ..)
    | with_reducible apply Kept.after (State.modChan_kept ..)
    | with_reducible apply Kept.after (State.askKs_kept ..)
    | split
    | dsimp +zetaDelta only
    | with_reducible refine Kept.upd ?_

theorem State.turnSet_kept (s : State) (m : SetId) (turn : Nat) : Kept s (State.turnSet s m turn) := by
  unfold State.turnSet
  repeat' first
    | with_reducible exact Kept.refl _
    | with_reducible apply Kept.after (State.modReb_kept ..)
    | dsimp +zetaDelta only
    | with_reducible refine Kept.upd ?_

theorem State.rebuildAcked_kept (s : State) (m : SetId) : Kept s (State.rebuildAcked s m) := by
  unfold State.rebuildAcked
  repeat' first
    | with_reducible assumption
    | with_reducible exact Kept.refl _
    | ((try lift_lets); intro x; first
        | (refine Kept.cut (t := x) ?_ fun h => ?_; rotate_left; clear_value x; rotate_left; (try unfold x))
        | skip)
    | with_reducible apply Kept.after (State.modReb_kept ..)
    | with_reducible apply Kept.after (State.jobProg_kept ..)
    | with_reducible apply Kept.after (State.turnSet_kept ..)
    | split
    | dsimp +zetaDelta only
    | with_reducible refine Kept.upd ?_

theorem State.writeStripe_kept (s : State) (m : SetId) : Kept s (State.writeStripe s m) := by
  unfold State.writeStripe
  repeat' first
    | with_reducible assumption
    | with_reducible exact Kept.refl _
    | ((try lift_lets); intro x; first
        | (refine Kept.cut (t := x) ?_ fun h => ?_; rotate_left; clear_value x; rotate_left; (try unfold x))
        | skip)
    | with_reducible apply Kept.after (State.writeBack_kept ..)
    | with_reducible apply Kept.after (State.note_kept ..)
    | with_reducible apply Kept.after (State.retirePage_kept ..)
    | split
    | dsimp +zetaDelta only

theorem State.beginStripe_kept (s : State) (m : SetId) : Kept s (State.beginStripe s m) := by
  unfold State.beginStripe
  repeat' first
    | with_reducible assumption
    | with_reducible exact Kept.refl _
    | ((try lift_lets); intro x; first
        | (refine Kept.cut (t := x) ?_ fun h => ?_; rotate_left; clear_value x; rotate_left; (try unfold x))
        | skip)
    | with_reducible apply Kept.after (State.lookFresh_kept ..)
    | with_reducible apply Kept.after (State.turnSet_kept ..)
    | with_reducible apply Kept.after (State.modReb_kept ..)
    | with_reducible apply Kept.after (State.releaseStripe_kept ..)
    | with_reducible apply Kept.after (State.lookStripe_kept ..)
    | with_reducible apply Kept.after (State.stamp_kept ..)
    | with_reducible apply Kept.after (State.ownRead_kept ..)
    | with_reducible refine Kept.foldl (hf := fun _ _ => ?_) (h := ?_)
    | split
    | dsimp +zetaDelta only
    | with_reducible refine Kept.upd ?_

theorem State.rebuildGot_kept (s : State) (m : SetId) (g : Got) : Kept s (State.rebuildGot s m g) := by
  unfold State.rebuildGot
  repeat' first
    | with_reducible exact Kept.refl _
    | with_reducible apply Kept.after (State.modReb_kept ..)
    | split
    | dsimp +zetaDelta only
    | with_reducible refine Kept.upd ?_

theorem State.startRebuild_kept (s : State) (c : ChanId) : Kept s (State.startRebuild s c) := by
  unfold State.startRebuild
  repeat' first
    | with_reducible assumption
    | with_reducible exact Kept.refl _
    | ((try lift_lets); intro x; first
        | (refine Kept.cut (t := x) ?_ fun h => ?_; rotate_left; clear_value x; rotate_left; (try unfold x))
        | skip)
    | with_reducible apply Kept.after (State.writeBack_kept ..)
    | with_reducible apply Kept.after (State.modReb_kept ..)
    | with_reducible apply Kept.after (State.waitLock_kept ..)
    | with_reducible apply Kept.after (State.beginStripe_kept ..)
    | with_reducible apply Kept.after (State.writeStripe_kept ..)
    | split
    | dsimp +zetaDelta only
    | with_reducible refine Kept.upd ?_

theorem State.startMr_kept (s : State) (c : ChanId) : Kept s (State.startMr s c) := by
  unfold State.startMr
  repeat' first
    | with_reducible assumption
    | with_reducible exact Kept.refl _
    | ((try lift_lets); intro x; first
        | (refine Kept.cut (t := x) ?_ fun h => ?_; rotate_left; clear_value x; rotate_left; (try unfold x))
        | skip)
    | with_reducible apply Kept.after (State.waitLock_kept ..)
    | with_reducible apply Kept.after (State.placeMrr_kept ..)
    | with_reducible apply Kept.after (State.setHold_kept ..)
    | split
    | dsimp +zetaDelta only
    | with_reducible refine Kept.upd ?_

theorem State.startPmic_kept (s : State) (c : ChanId) : Kept s (State.startPmic s c) := by
  unfold State.startPmic
  repeat' first
    | with_reducible assumption
    | with_reducible exact Kept.refl _
    | ((try lift_lets); intro x; first
        | (refine Kept.cut (t := x) ?_ fun h => ?_; rotate_left; clear_value x; rotate_left; (try unfold x))
        | skip)
    | with_reducible apply Kept.after (State.ppr_kept ..)
    | with_reducible apply Kept.after (State.waitLock_kept ..)
    | with_reducible apply Kept.after (State.slot_kept ..)
    | with_reducible apply Kept.after (State.pmicSet_kept ..)
    | with_reducible apply Kept.after (State.askXfers_kept ..)
    | split
    | dsimp +zetaDelta only
    | with_reducible refine Kept.upd ?_

theorem State.startRaw_kept (s : State) (c : ChanId) : Kept s (State.startRaw s c) := by
  unfold State.startRaw
  repeat' first
    | with_reducible assumption
    | with_reducible exact Kept.refl _
    | ((try lift_lets); intro x; first
        | (refine Kept.cut (t := x) ?_ fun h => ?_; rotate_left; clear_value x; rotate_left; (try unfold x))
        | skip)
    | with_reducible apply Kept.after (State.modChan_kept ..)
    | with_reducible apply Kept.after (State.writeBack_kept ..)
    | with_reducible apply Kept.after (State.ownRead_kept ..)
    | split
    | dsimp +zetaDelta only
    | with_reducible refine Kept.upd ?_

theorem State.ask_kept (s : State) (c : ChanId) (r : Fin 10) : Kept s (State.ask s c r) := by
  unfold State.ask
  repeat' first
    | with_reducible assumption
    | with_reducible exact Kept.refl _
    | ((try lift_lets); intro x; first
        | (refine Kept.cut (t := x) ?_ fun h => ?_; rotate_left; clear_value x; rotate_left; (try unfold x))
        | skip)
    | with_reducible apply Kept.after (State.request_kept ..)
    | split
    | dsimp +zetaDelta only

theorem State.endMr_kept (s : State) (c : ChanId) : Kept s (State.endMr s c) := by
  unfold State.endMr
  repeat' first
    | with_reducible exact Kept.refl _
    | with_reducible apply Kept.after (State.replyCur_kept ..)
    | split
    | with_reducible refine Kept.upd ?_

theorem State.feedHolder_kept (s : State) (c : ChanId) : Kept s (State.feedHolder s c) := by
  unfold State.feedHolder
  repeat' first
    | with_reducible assumption
    | with_reducible exact Kept.refl _
    | ((try lift_lets); intro x; first
        | (refine Kept.cut (t := x) ?_ fun h => ?_; rotate_left; clear_value x; rotate_left; (try unfold x))
        | skip)
    | with_reducible apply Kept.after (State.strobe_kept ..)
    | with_reducible apply Kept.after (State.startRebuild_kept ..)
    | with_reducible apply Kept.after (State.startRaw_kept ..)
    | with_reducible apply Kept.after (State.startPpr_kept ..)
    | with_reducible apply Kept.after (State.startPatch_kept ..)
    | with_reducible apply Kept.after (State.startMr_kept ..)
    | with_reducible apply Kept.after (State.endMr_kept ..)
    | with_reducible apply Kept.after (State.startPmic_kept ..)
    | with_reducible apply Kept.after (State.startScrub_kept ..)
    | split
    | dsimp +zetaDelta only
    | with_reducible refine Kept.upd ?_

theorem State.finishMaint_kept (s : State) : Kept s (State.finishMaint s) := by
  unfold State.finishMaint
  repeat' first
    | with_reducible assumption
    | with_reducible exact Kept.refl _
    | ((try lift_lets); intro x; first
        | (refine Kept.cut (t := x) ?_ fun h => ?_; rotate_left; clear_value x; rotate_left; (try unfold x))
        | skip)
    | with_reducible apply Kept.after (State.scrub_kept ..)
    | with_reducible apply Kept.after (State.scrubRecon_kept ..)
    | with_reducible apply Kept.after (State.markRecon_kept ..)
    | with_reducible apply Kept.after (State.patchCopy_kept ..)
    | with_reducible refine Kept.foldl (hf := fun _ _ => ?_) (h := ?_)
    | split
    | dsimp +zetaDelta only
    | with_reducible refine Kept.upd ?_

theorem State.afterKs_kept (s : State) (o : KsOp) (ok : Bool) : Kept s (State.afterKs s o ok) := by
  unfold State.afterKs
  repeat' first
    | with_reducible assumption
    | with_reducible exact Kept.refl _
    | ((try lift_lets); intro x; first
        | (refine Kept.cut (t := x) ?_ fun h => ?_; rotate_left; clear_value x; rotate_left; (try unfold x))
        | skip)
    | with_reducible apply Kept.after (State.modPatch_kept ..)
    | with_reducible apply Kept.after (State.ask_kept ..)
    | with_reducible apply Kept.after (State.finishInstall_kept ..)
    | with_reducible apply Kept.after (State.ppr_kept ..)
    | with_reducible apply Kept.after (State.modPpr_kept ..)
    | with_reducible apply Kept.after (State.failPpr_kept ..)
    | with_reducible apply Kept.after (State.endPpr_kept ..)
    | with_reducible apply Kept.after (State.finishPpr_kept ..)
    | with_reducible apply Kept.after (State.prepare_kept ..)
    | with_reducible apply Kept.after (State.modChan_kept ..)
    | with_reducible apply Kept.after (State.finishJob_kept ..)
    | split
    | dsimp +zetaDelta only
    | with_reducible refine Kept.upd ?_

theorem State.ksDone_kept (s : State) (ok : Bool) : Kept s (State.ksDone s ok) := by
  unfold State.ksDone
  repeat' first
    | with_reducible assumption
    | with_reducible exact Kept.refl _
    | ((try lift_lets); intro x; first
        | (refine Kept.cut (t := x) ?_ fun h => ?_; rotate_left; clear_value x; rotate_left; (try unfold x))
        | skip)
    | with_reducible apply Kept.after (State.writeKs_kept ..)
    | with_reducible apply Kept.after (State.modPatch_kept ..)
    | with_reducible apply Kept.after (State.afterKs_kept ..)
    | with_reducible apply Kept.after (State.raise_kept ..)
    | split
    | dsimp +zetaDelta only
    | with_reducible refine Kept.upd ?_

end Sys2Proof.Machine
end

