-- ==== Sys2Proof/Laws/KeptSweep.lean ====
section
/-! SUPPORT. What the operations of Machine/Sweep.lean keep. -/

namespace Sys2Proof.Machine

set_option Elab.async false
set_option linter.all false

theorem State.sweepPut_kept (s : State) (c : ChanId) (line : Nat) (d : Option Line) : Kept s (State.sweepPut s c line d) := by
  unfold State.sweepPut
  repeat' first
    | with_reducible exact Kept.refl _
    | with_reducible apply Kept.after (State.writeBack_kept ..)
    | split

theorem State.holePage_kept (s : State) (m : SetId) (q : Nat) : Kept s (State.holePage s m q) := by
  unfold State.holePage
  repeat' first
    | with_reducible assumption
    | with_reducible exact Kept.refl _
    | ((try lift_lets); intro x; first
        | (refine Kept.cut (t := x) ?_ fun h => ?_; rotate_left; clear_value x; rotate_left; (try unfold x))
        | skip)
    | with_reducible apply Kept.after (State.retirePage_kept ..)
    | with_reducible apply Kept.after (State.modSpan_kept ..)
    | with_reducible apply Kept.after (State.sweepPut_kept ..)
    | split
    | dsimp +zetaDelta only
    | with_reducible refine Kept.upd ?_

theorem State.sweepStripe_kept (s : State) (m : SetId) (st : Nat) : Kept s (State.sweepStripe s m st) := by
  unfold State.sweepStripe
  repeat' first
    | with_reducible assumption
    | with_reducible exact Kept.refl _
    | ((try lift_lets); intro x; first
        | (refine Kept.cut (t := x) ?_ fun h => ?_; rotate_left; clear_value x; rotate_left; (try unfold x))
        | skip)
    | with_reducible apply Kept.after (State.modSweep_kept ..)
    | with_reducible apply Kept.after (State.ownRead_kept ..)
    | with_reducible refine Kept.foldl (hf := fun _ _ => ?_) (h := ?_)
    | dsimp +zetaDelta only
    | with_reducible refine Kept.upd ?_

theorem State.endSweep_kept (s : State) (m : SetId) : Kept s (State.endSweep s m) := by
  unfold State.endSweep
  repeat' first
    | with_reducible assumption
    | with_reducible exact Kept.refl _
    | ((try lift_lets); intro x; first
        | (refine Kept.cut (t := x) ?_ fun h => ?_; rotate_left; clear_value x; rotate_left; (try unfold x))
        | skip)
    | with_reducible apply Kept.after (State.modSweep_kept ..)
    | with_reducible apply Kept.after (State.modJobs_kept ..)
    | split
    | dsimp +zetaDelta only
    | with_reducible refine Kept.upd ?_

theorem State.sweepStep_kept (s : State) (m : SetId) : Kept s (State.sweepStep s m) := by
  unfold State.sweepStep
  repeat' first
    | with_reducible assumption
    | with_reducible exact Kept.refl _
    | ((try lift_lets); intro x; first
        | (refine Kept.cut (t := x) ?_ fun h => ?_; rotate_left; clear_value x; rotate_left; (try unfold x))
        | skip)
    | with_reducible apply Kept.after (State.endSweep_kept ..)
    | with_reducible apply Kept.after (State.modSweep_kept ..)
    | with_reducible apply Kept.after (State.sweepPut_kept ..)
    | with_reducible apply Kept.after (State.ownRead_kept ..)
    | with_reducible apply Kept.after (State.holePage_kept ..)
    | with_reducible apply Kept.after (State.sweepStripe_kept ..)
    | split
    | dsimp +zetaDelta only
    | with_reducible refine Kept.upd ?_

end Sys2Proof.Machine
end

