-- ==== Sys2Proof/Laws/KeptWindows.lean ====
section
/-! SUPPORT. What the operations of Machine/Windows.lean keep. -/

namespace Sys2Proof.Machine

set_option Elab.async false
set_option linter.all false

theorem State.owe_kept (s : State) (c : ChanId) (x : Sub) (cs ba : Nat) (sb : Bool) : Kept s (State.owe s c x cs ba sb) := by
  unfold State.owe
  repeat' first
    | with_reducible assumption
    | with_reducible exact Kept.refl _
    | ((try lift_lets); intro x; first
        | (refine Kept.cut (t := x) ?_ fun h => ?_; rotate_left; clear_value x; rotate_left; (try unfold x))
        | skip)
    | with_reducible apply Kept.after (State.modSel_kept ..)
    | with_reducible apply Kept.after (State.modWeir_kept ..)
    | with_reducible apply Kept.after (State.raiseChan_kept ..)
    | split
    | dsimp +zetaDelta only
    | with_reducible refine Kept.upd ?_

theorem State.suspend_kept (s : State) (c : ChanId) : Kept s (State.suspend s c) := by
  unfold State.suspend
  repeat' first
    | with_reducible exact Kept.refl _
    | with_reducible apply Kept.after (State.dropUnit_kept ..)
    | with_reducible apply Kept.after (State.modWeir_kept ..)
    | split
    | dsimp +zetaDelta only
    | with_reducible refine Kept.upd ?_

theorem State.window__kept (s : State) (c : ChanId) (x : Sub) : Kept s (State.window_ s c x) := by
  unfold State.window_
  repeat' first
    | with_reducible assumption
    | with_reducible exact Kept.refl _
    | ((try lift_lets); intro x; first
        | (refine Kept.cut (t := x) ?_ fun h => ?_; rotate_left; clear_value x; rotate_left; (try unfold x))
        | skip)
    | with_reducible apply Kept.after (State.owe_kept ..)
    | with_reducible apply Kept.after (State.modSel_kept ..)
    | with_reducible apply Kept.after (State.suspend_kept ..)
    | with_reducible refine Kept.foldl (hf := fun _ _ => ?_) (h := ?_)
    | split
    | dsimp +zetaDelta only
    | with_reducible refine Kept.upd ?_

theorem State.rtrTrial_kept (s : State) (c : ChanId) (x : Sub) (step : Nat) (t : Trial) : Kept s (State.rtrTrial s c x step t) := by
  unfold State.rtrTrial
  repeat' first
    | with_reducible assumption
    | with_reducible exact Kept.refl _
    | ((try lift_lets); intro x; first
        | (refine Kept.cut (t := x) ?_ fun h => ?_; rotate_left; clear_value x; rotate_left; (try unfold x))
        | skip)
    | with_reducible apply Kept.after (State.modSel_kept ..)
    | with_reducible apply Kept.after (State.modChan_kept ..)
    | with_reducible apply Kept.after (State.raiseChan_kept ..)
    | split
    | dsimp +zetaDelta only
    | with_reducible refine Kept.upd ?_

theorem State.rtrOutcome_kept (s : State) (c : ChanId) (x : Sub) (t : Trial) : Kept s (State.rtrOutcome s c x t) := by
  unfold State.rtrOutcome
  repeat' first
    | with_reducible exact Kept.refl _
    | with_reducible apply Kept.after (State.modSel_kept ..)
    | split
    | dsimp +zetaDelta only
    | with_reducible refine Kept.upd ?_

theorem State.endPause_kept (s : State) (c : ChanId) (x : Sub) : Kept s (State.endPause s c x) := by
  unfold State.endPause
  repeat' first
    | with_reducible assumption
    | with_reducible exact Kept.refl _
    | ((try lift_lets); intro x; first
        | (refine Kept.cut (t := x) ?_ fun h => ?_; rotate_left; clear_value x; rotate_left; (try unfold x))
        | skip)
    | with_reducible apply Kept.after (State.modSel_kept ..)
    | with_reducible apply Kept.after (State.rtrTrial_kept ..)
    | split
    | dsimp +zetaDelta only
    | with_reducible refine Kept.upd ?_

theorem State.pauseGrant_kept (s : State) (c : ChanId) : Kept s (State.pauseGrant s c) := by
  unfold State.pauseGrant
  repeat' first
    | with_reducible exact Kept.refl _
    | with_reducible apply Kept.after (State.modWeir_kept ..)
    | with_reducible apply Kept.after (State.suspend_kept ..)
    | split
    | dsimp +zetaDelta only
    | with_reducible refine Kept.upd ?_

theorem State.beginPause_kept (s : State) (c : ChanId) (x : Sub) : Kept s (State.beginPause s c x) := by
  unfold State.beginPause
  repeat' first
    | with_reducible assumption
    | with_reducible exact Kept.refl _
    | ((try lift_lets); intro x; first
        | (refine Kept.cut (t := x) ?_ fun h => ?_; rotate_left; clear_value x; rotate_left; (try unfold x))
        | skip)
    | with_reducible apply Kept.after (State.pause_kept ..)
    | with_reducible apply Kept.after (State.modSel_kept ..)
    | with_reducible apply Kept.after (State.pauseGrant_kept ..)
    | split
    | dsimp +zetaDelta only
    | with_reducible refine Kept.upd ?_

theorem State.pause_kept (s : State) (c : ChanId) (x : Sub) (windowToo : Bool) : Kept s (State.pause s c x windowToo) := by
  unfold State.pause
  repeat' first
    | with_reducible assumption
    | with_reducible exact Kept.refl _
    | ((try lift_lets); intro x; first
        | (refine Kept.cut (t := x) ?_ fun h => ?_; rotate_left; clear_value x; rotate_left; (try unfold x))
        | skip)
    | with_reducible apply Kept.after (State.strobe_kept ..)
    | with_reducible apply Kept.after (State.modSel_kept ..)
    | with_reducible apply Kept.after (State.beginPause_kept ..)
    | split
    | dsimp +zetaDelta only
    | with_reducible refine Kept.upd ?_

theorem State.latePause_kept (s : State) (c : ChanId) (x : Sub) : Kept s (State.latePause s c x) := by
  unfold State.latePause
  repeat' first
    | with_reducible assumption
    | with_reducible exact Kept.refl _
    | ((try lift_lets); intro x; first
        | (refine Kept.cut (t := x) ?_ fun h => ?_; rotate_left; clear_value x; rotate_left; (try unfold x))
        | skip)
    | with_reducible apply Kept.after (State.modSel_kept ..)
    | with_reducible apply Kept.after (State.modChan_kept ..)
    | with_reducible apply Kept.after (State.beginPause_kept ..)
    | split
    | dsimp +zetaDelta only
    | with_reducible refine Kept.upd ?_

end Sys2Proof.Machine
end

