-- ==== Sys2Proof/Laws/KeptSlotOps.lean ====
section
/-! SUPPORT. What the operations of Machine/SlotOps.lean keep. -/

namespace Sys2Proof.Machine

set_option Elab.async false
set_option linter.all false

theorem State.recordRdue_kept (s : State) (c : ChanId) (line : Nat) : Kept s (State.recordRdue s c line) := by
  unfold State.recordRdue
  repeat' first
    | with_reducible assumption
    | with_reducible exact Kept.refl _
    | ((try lift_lets); intro x; first
        | (refine Kept.cut (t := x) ?_ fun h => ?_; rotate_left; clear_value x; rotate_left; (try unfold x))
        | skip)
    | with_reducible apply Kept.after (State.modChan_kept ..)
    | with_reducible apply Kept.after (State.raiseChan_kept ..)
    | with_reducible apply Kept.after (State.stamp_kept ..)
    | split
    | dsimp +zetaDelta only
    | with_reducible refine Kept.upd ?_

theorem State.tieRecon_kept (s : State) (c : ChanId) (line id : Nat) : Kept s (State.tieRecon s c line id) := by
  unfold State.tieRecon
  repeat' first
    | with_reducible exact Kept.refl _
    | split
    | dsimp +zetaDelta only
    | with_reducible refine Kept.upd ?_

theorem State.contribGot_kept (s : State) (r : Nat) (g : Got) : Kept s (State.contribGot s r g) := by
  unfold State.contribGot
  repeat' first
    | with_reducible exact Kept.refl _
    | with_reducible apply Kept.after (State.loseContrib_kept ..)
    | split
    | dsimp +zetaDelta only
    | with_reducible refine Kept.upd ?_

theorem State.dropRead_kept (s : State) (c : ChanId) (id : Nat) : Kept s (State.dropRead s c id) := by
  unfold State.dropRead
  repeat' first
    | with_reducible exact Kept.refl _
    | with_reducible apply Kept.after (State.modChan_kept ..)
    | dsimp +zetaDelta only
    | with_reducible refine Kept.upd ?_

theorem State.noteCaptured_kept (s : State) (c : ChanId) (x : Sub) (id : Nat) : Kept s (State.noteCaptured s c x id) := by
  unfold State.noteCaptured
  repeat' first
    | with_reducible exact Kept.refl _
    | with_reducible apply Kept.after (State.modSel_kept ..)
    | split
    | dsimp +zetaDelta only
    | with_reducible refine Kept.upd ?_

theorem State.pushRet_kept (s : State) (c : ChanId) (e : RetE) : Kept s (State.pushRet s c e) := by
  unfold State.pushRet
  repeat' first
    | with_reducible assumption
    | with_reducible exact Kept.refl _
    | ((try lift_lets); intro x; first
        | (refine Kept.cut (t := x) ?_ fun h => ?_; rotate_left; clear_value x; rotate_left; (try unfold x))
        | skip)
    | with_reducible apply Kept.after (State.modChan_kept ..)
    | dsimp +zetaDelta only
    | with_reducible refine Kept.upd ?_

theorem State.hostGot_kept (s : State) (c : ChanId) (e : RdE) (src : Src) (rid lidx : Nat) (g : Got) : Kept s (State.hostGot s c e src rid lidx g) := by
  unfold State.hostGot
  repeat' first
    | with_reducible assumption
    | with_reducible exact Kept.refl _
    | ((try lift_lets); intro x; first
        | (refine Kept.cut (t := x) ?_ fun h => ?_; rotate_left; clear_value x; rotate_left; (try unfold x))
        | skip)
    | with_reducible apply Kept.after (State.pushRet_kept ..)
    | with_reducible apply Kept.after (State.modChan_kept ..)
    | with_reducible apply Kept.after (State.startRecon_kept ..)
    | split
    | dsimp +zetaDelta only
    | with_reducible refine Kept.upd ?_

theorem State.cleanGot_kept (s : State) (c : ChanId) (g : Got) : Kept s (State.cleanGot s c g) := by
  unfold State.cleanGot
  repeat' first
    | with_reducible assumption
    | with_reducible exact Kept.refl _
    | ((try lift_lets); intro x; first
        | (refine Kept.cut (t := x) ?_ fun h => ?_; rotate_left; clear_value x; rotate_left; (try unfold x))
        | skip)
    | with_reducible apply Kept.after (State.modChan_kept ..)
    | with_reducible apply Kept.after (State.pushRaw_kept ..)
    | split
    | dsimp +zetaDelta only
    | with_reducible refine Kept.upd ?_

theorem State.deliver_kept (s : State) (c : ChanId) (e : RdE) (g : Got) : Kept s (State.deliver s c e g) := by
  unfold State.deliver
  repeat' first
    | with_reducible exact Kept.refl _
    | with_reducible apply Kept.after (State.hostGot_kept ..)
    | with_reducible apply Kept.after (State.modChan_kept ..)
    | with_reducible apply Kept.after (State.contribGot_kept ..)
    | with_reducible apply Kept.after (State.cleanGot_kept ..)
    | with_reducible apply Kept.after (State.scrub_kept ..)
    | with_reducible apply Kept.after (State.scrubGot_kept ..)
    | with_reducible apply Kept.after (State.verifyGot_kept ..)
    | with_reducible apply Kept.after (State.patchGot_kept ..)
    | with_reducible apply Kept.after (State.pprGot_kept ..)
    | with_reducible apply Kept.after (State.rebuildGot_kept ..)
    | with_reducible apply Kept.after (State.modSweep_kept ..)
    | split
    | dsimp +zetaDelta only
    | with_reducible refine Kept.upd ?_

theorem State.readRq_kept (s : State) (c : ChanId) (e : RdE) : Kept s (State.readRq s c e) := by
  unfold State.readRq
  repeat' first
    | with_reducible assumption
    | with_reducible exact Kept.refl _
    | ((try lift_lets); intro x; first
        | (refine Kept.cut (t := x) ?_ fun h => ?_; rotate_left; clear_value x; rotate_left; (try unfold x))
        | skip)
    | with_reducible apply Kept.after (State.modChan_kept ..)
    | with_reducible apply Kept.after (State.raiseChan_kept ..)
    | split
    | dsimp +zetaDelta only
    | with_reducible refine Kept.upd ?_

theorem State.zeroReads_kept (s : State) (c : ChanId) : Kept s (State.zeroReads s c) := by
  unfold State.zeroReads
  repeat' first
    | with_reducible assumption
    | with_reducible exact Kept.refl _
    | ((try lift_lets); intro x; first
        | (refine Kept.cut (t := x) ?_ fun h => ?_; rotate_left; clear_value x; rotate_left; (try unfold x))
        | skip)
    | with_reducible apply Kept.after (State.readRq_kept ..)
    | with_reducible apply Kept.after (State.dropRead_kept ..)
    | with_reducible apply Kept.after (State.deliver_kept ..)
    | with_reducible refine Kept.foldl (hf := fun _ _ => ?_) (h := ?_)
    | split
    | dsimp +zetaDelta only
    | with_reducible refine Kept.upd ?_

theorem State.startWash_kept (s : State) (c : ChanId) : Kept s (State.startWash s c) := by
  unfold State.startWash
  repeat' first
    | with_reducible assumption
    | with_reducible exact Kept.refl _
    | ((try lift_lets); intro x; first
        | (refine Kept.cut (t := x) ?_ fun h => ?_; rotate_left; clear_value x; rotate_left; (try unfold x))
        | skip)
    | with_reducible apply Kept.after (State.lookFresh_kept ..)
    | with_reducible apply Kept.after (State.modChan_kept ..)
    | split
    | dsimp +zetaDelta only
    | with_reducible refine Kept.upd ?_

theorem State.feedWash_kept (s : State) (c : ChanId) (g : WashG) : Kept s (State.feedWash s c g) := by
  unfold State.feedWash
  repeat' first
    | with_reducible assumption
    | with_reducible exact Kept.refl _
    | ((try lift_lets); intro x; first
        | (refine Kept.cut (t := x) ?_ fun h => ?_; rotate_left; clear_value x; rotate_left; (try unfold x))
        | skip)
    | with_reducible apply Kept.after (State.strobe_kept ..)
    | with_reducible apply Kept.after (State.modChan_kept ..)
    | with_reducible apply Kept.after (State.readPatch_kept ..)
    | with_reducible apply Kept.after (State.pushRaw_kept ..)
    | with_reducible refine Kept.foldl (hf := fun _ _ => ?_) (h := ?_)
    | split
    | dsimp +zetaDelta only
    | with_reducible refine Kept.upd ?_

theorem State.feedWashes_kept (s : State) (c : ChanId) : Kept s (State.feedWashes s c) := by
  unfold State.feedWashes
  repeat' first
    | with_reducible assumption
    | with_reducible exact Kept.refl _
    | ((try lift_lets); intro x; first
        | (refine Kept.cut (t := x) ?_ fun h => ?_; rotate_left; clear_value x; rotate_left; (try unfold x))
        | skip)
    | with_reducible apply Kept.after (State.startWash_kept ..)
    | with_reducible apply Kept.after (State.feedWash_kept ..)
    | with_reducible refine Kept.foldl (hf := fun _ _ => ?_) (h := ?_)
    | split
    | dsimp +zetaDelta only

theorem State.touchQueued_kept (s : State) (c : ChanId) : Kept s (State.touchQueued s c) := by
  unfold State.touchQueued
  repeat' first
    | with_reducible assumption
    | with_reducible exact Kept.refl _
    | ((try lift_lets); intro x; first
        | (refine Kept.cut (t := x) ?_ fun h => ?_; rotate_left; clear_value x; rotate_left; (try unfold x))
        | skip)
    | with_reducible apply Kept.after (State.touchFresh_kept ..)
    | with_reducible refine Kept.foldl (hf := fun _ _ => ?_) (h := ?_)
    | split
    | dsimp +zetaDelta only
    | with_reducible refine Kept.upd ?_

theorem State.freeMark_kept (s : State) (m : SetId) : Kept s (State.freeMark s m) := by
  unfold State.freeMark
  repeat' first
    | with_reducible exact Kept.refl _
    | with_reducible apply Kept.after (State.strobe_kept ..)
    | with_reducible apply Kept.after (State.modSpan_kept ..)
    | split
    | dsimp +zetaDelta only
    | with_reducible refine Kept.upd ?_

theorem State.askMark_kept (s : State) (m : SetId) (q : Nat) (epoch : Nat) (cls : Cls) : Kept s (State.askMark s m q epoch cls) := by
  unfold State.askMark
  repeat' first
    | with_reducible assumption
    | with_reducible exact Kept.refl _
    | ((try lift_lets); intro x; first
        | (refine Kept.cut (t := x) ?_ fun h => ?_; rotate_left; clear_value x; rotate_left; (try unfold x))
        | skip)
    | with_reducible apply Kept.after (State.readMark_kept ..)
    | with_reducible apply Kept.after (State.modChan_kept ..)
    | with_reducible apply Kept.after (State.modSpan_kept ..)
    | with_reducible apply Kept.after (State.pushTally_kept ..)
    | with_reducible apply Kept.after (State.freeMark_kept ..)
    | with_reducible apply Kept.after (State.spendG_kept ..)
    | with_reducible refine Kept.foldl (hf := fun _ _ => ?_) (h := ?_)
    | split
    | dsimp +zetaDelta only
    | with_reducible refine Kept.upd ?_

theorem State.markChan_kept (s : State) (m : SetId) (c : ChanId) : Kept s (State.markChan s m c) := by
  unfold State.markChan
  repeat' first
    | with_reducible assumption
    | with_reducible exact Kept.refl _
    | ((try lift_lets); intro x; first
        | (refine Kept.cut (t := x) ?_ fun h => ?_; rotate_left; clear_value x; rotate_left; (try unfold x))
        | skip)
    | with_reducible apply Kept.after (State.askMark_kept ..)
    | with_reducible refine Kept.foldl (hf := fun _ _ => ?_) (h := ?_)
    | split
    | dsimp +zetaDelta only
    | with_reducible refine Kept.upd ?_

theorem State.markQueued_kept (s : State) (m : SetId) : Kept s (State.markQueued s m) := by
  unfold State.markQueued
  repeat' first
    | with_reducible assumption
    | with_reducible exact Kept.refl _
    | ((try lift_lets); intro x; first
        | (refine Kept.cut (t := x) ?_ fun h => ?_; rotate_left; clear_value x; rotate_left; (try unfold x))
        | skip)
    | with_reducible apply Kept.after (State.markChan_kept ..)
    | with_reducible apply Kept.after (State.modSpan_kept ..)
    | with_reducible refine Kept.foldl (hf := fun _ _ => ?_) (h := ?_)
    | split
    | dsimp +zetaDelta only
    | with_reducible refine Kept.upd ?_

theorem State.updMode_kept (s : State) (c : ChanId) (x : Sub) : Kept s (State.updMode s c x) := by
  unfold State.updMode
  repeat' first
    | with_reducible assumption
    | with_reducible exact Kept.refl _
    | ((try lift_lets); intro x; first
        | (refine Kept.cut (t := x) ?_ fun h => ?_; rotate_left; clear_value x; rotate_left; (try unfold x))
        | skip)
    | with_reducible apply Kept.after (State.strobe_kept ..)
    | with_reducible apply Kept.after (State.modSel_kept ..)
    | split
    | dsimp +zetaDelta only
    | with_reducible refine Kept.upd ?_

theorem State.resumeHolder_kept (s : State) (c : ChanId) : Kept s (State.resumeHolder s c) := by
  unfold State.resumeHolder
  repeat' first
    | with_reducible exact Kept.refl _
    | with_reducible apply Kept.after (State.modWeir_kept ..)
    | split
    | dsimp +zetaDelta only
    | with_reducible refine Kept.upd ?_

theorem State.askClean_kept (s : State) (c : ChanId) : Kept s (State.askClean s c) := by
  unfold State.askClean
  repeat' first
    | with_reducible assumption
    | with_reducible exact Kept.refl _
    | ((try lift_lets); intro x; first
        | (refine Kept.cut (t := x) ?_ fun h => ?_; rotate_left; clear_value x; rotate_left; (try unfold x))
        | skip)
    | with_reducible apply Kept.after (State.pushRawRead_kept ..)
    | split
    | dsimp +zetaDelta only

theorem State.freePause_kept (s : State) (c : ChanId) : Kept s (State.freePause s c) := by
  unfold State.freePause
  repeat' first
    | with_reducible exact Kept.refl _
    | with_reducible apply Kept.after (State.release_kept ..)
    | split
    | dsimp +zetaDelta only

theorem State.prepSlot_kept (s : State) (c : ChanId) : Kept s (State.prepSlot s c) := by
  unfold State.prepSlot
  repeat' first
    | with_reducible assumption
    | with_reducible exact Kept.refl _
    | ((try lift_lets); intro x; first
        | (refine Kept.cut (t := x) ?_ fun h => ?_; rotate_left; clear_value x; rotate_left; (try unfold x))
        | skip)
    | with_reducible apply Kept.after (State.endPause_kept ..)
    | with_reducible apply Kept.after (State.modChan_kept ..)
    | with_reducible apply Kept.after (State.latePause_kept ..)
    | with_reducible apply Kept.after (State.freePause_kept ..)
    | with_reducible apply Kept.after (State.resumeHolder_kept ..)
    | with_reducible apply Kept.after (State.askClean_kept ..)
    | with_reducible apply Kept.after (State.feedWashes_kept ..)
    | with_reducible apply Kept.after (State.touchQueued_kept ..)
    | with_reducible apply Kept.after (State.lookLines_kept ..)
    | with_reducible apply Kept.after (State.feedHolder_kept ..)
    | with_reducible apply Kept.after (State.sweepStep_kept ..)
    | with_reducible apply Kept.after (State.markQueued_kept ..)
    | with_reducible apply Kept.after (State.zeroReads_kept ..)
    | with_reducible apply Kept.after (State.finishMaint_kept ..)
    | with_reducible apply Kept.after (State.settleAll_kept ..)
    | with_reducible apply Kept.after (State.drainTick_kept ..)
    | dsimp +zetaDelta only
    | with_reducible refine Kept.upd ?_

theorem State.drawNbr_kept (s : State) (c : ChanId) (x : Sub) (m : Cmd) : Kept s (State.drawNbr s c x m) := by
  unfold State.drawNbr
  repeat' first
    | with_reducible assumption
    | with_reducible exact Kept.refl _
    | ((try lift_lets); intro x; first
        | (refine Kept.cut (t := x) ?_ fun h => ?_; rotate_left; clear_value x; rotate_left; (try unfold x))
        | skip)
    | with_reducible apply Kept.after (State.modSel_kept ..)
    | split
    | dsimp +zetaDelta only
    | with_reducible refine Kept.upd ?_

theorem State.countCmd_kept (s : State) (c : ChanId) (x : Sub) (m : Cmd) : Kept s (State.countCmd s c x m) := by
  unfold State.countCmd
  repeat' first
    | with_reducible assumption
    | with_reducible exact Kept.refl _
    | ((try lift_lets); intro x; first
        | (refine Kept.cut (t := x) ?_ fun h => ?_; rotate_left; clear_value x; rotate_left; (try unfold x))
        | skip)
    | with_reducible apply Kept.after (State.modSel_kept ..)
    | split
    | dsimp +zetaDelta only
    | with_reducible refine Kept.upd ?_

theorem State.endNbr_kept (s : State) (c : ChanId) (x : Sub) : Kept s (State.endNbr s c x) := by
  unfold State.endNbr
  repeat' first
    | with_reducible assumption
    | with_reducible exact Kept.refl _
    | ((try lift_lets); intro x; first
        | (refine Kept.cut (t := x) ?_ fun h => ?_; rotate_left; clear_value x; rotate_left; (try unfold x))
        | skip)
    | with_reducible apply Kept.after (State.modSel_kept ..)
    | with_reducible apply Kept.after (State.modChan_kept ..)
    | split
    | dsimp +zetaDelta only
    | with_reducible refine Kept.upd ?_

theorem State.readWq_kept (s : State) (c : ChanId) (w : WrE) : Kept s (State.readWq s c w) := by
  unfold State.readWq
  repeat' first
    | with_reducible assumption
    | with_reducible exact Kept.refl _
    | ((try lift_lets); intro x; first
        | (refine Kept.cut (t := x) ?_ fun h => ?_; rotate_left; clear_value x; rotate_left; (try unfold x))
        | skip)
    | with_reducible apply Kept.after (State.modChan_kept ..)
    | with_reducible apply Kept.after (State.raiseChan_kept ..)
    | split
    | dsimp +zetaDelta only
    | with_reducible refine Kept.upd ?_

theorem State.issueRd_kept (s : State) (c : ChanId) (x : Sub) (id : Nat) : Kept s (State.issueRd s c x id) := by
  unfold State.issueRd
  repeat' first
    | with_reducible assumption
    | with_reducible exact Kept.refl _
    | ((try lift_lets); intro x; first
        | (refine Kept.cut (t := x) ?_ fun h => ?_; rotate_left; clear_value x; rotate_left; (try unfold x))
        | skip)
    | with_reducible apply Kept.after (State.readRq_kept ..)
    | with_reducible apply Kept.after (State.modChan_kept ..)
    | split
    | dsimp +zetaDelta only
    | with_reducible refine Kept.upd ?_

theorem State.wrIssued_kept (s : State) (c : ChanId) (w : WrE) : Kept s (State.wrIssued s c w) := by
  unfold State.wrIssued
  repeat' first
    | with_reducible exact Kept.refl _
    | with_reducible apply Kept.after (State.modChan_kept ..)
    | with_reducible apply Kept.after (State.modSpan_kept ..)
    | split
    | dsimp +zetaDelta only
    | with_reducible refine Kept.upd ?_

theorem State.issueWr_kept (s : State) (c : ChanId) (x : Sub) (m : Cmd) (id : Nat) : Kept s (State.issueWr s c x m id) := by
  unfold State.issueWr
  repeat' first
    | with_reducible assumption
    | with_reducible exact Kept.refl _
    | ((try lift_lets); intro x; first
        | (refine Kept.cut (t := x) ?_ fun h => ?_; rotate_left; clear_value x; rotate_left; (try unfold x))
        | skip)
    | with_reducible apply Kept.after (State.readWq_kept ..)
    | with_reducible apply Kept.after (State.modChan_kept ..)
    | with_reducible apply Kept.after (State.modSel_kept ..)
    | with_reducible apply Kept.after (State.wrIssued_kept ..)
    | split
    | dsimp +zetaDelta only
    | with_reducible refine Kept.upd ?_

theorem State.spend_kept (s : State) (c : ChanId) (x : Sub) (d : Cand) (refill : Bool) : Kept s (State.spend s c x d refill) := by
  unfold State.spend
  repeat' first
    | with_reducible assumption
    | with_reducible exact Kept.refl _
    | ((try lift_lets); intro x; first
        | (refine Kept.cut (t := x) ?_ fun h => ?_; rotate_left; clear_value x; rotate_left; (try unfold x))
        | skip)
    | with_reducible apply Kept.after (State.modSel_kept ..)
    | split
    | dsimp +zetaDelta only
    | with_reducible refine Kept.upd ?_

theorem State.issueCand_kept (s : State) (c : ChanId) (x : Sub) (m : Cmd) (d : Cand) (refill : Bool) : Kept s (State.issueCand s c x m d refill) := by
  unfold State.issueCand
  repeat' first
    | with_reducible assumption
    | with_reducible exact Kept.refl _
    | ((try lift_lets); intro x; first
        | (refine Kept.cut (t := x) ?_ fun h => ?_; rotate_left; clear_value x; rotate_left; (try unfold x))
        | skip)
    | with_reducible apply Kept.after (State.spend_kept ..)
    | with_reducible apply Kept.after (State.modSel_kept ..)
    | with_reducible apply Kept.after (State.issueRd_kept ..)
    | with_reducible apply Kept.after (State.issueWr_kept ..)
    | split
    | dsimp +zetaDelta only
    | with_reducible refine Kept.upd ?_

theorem State.endExit_kept (s : State) (c : ChanId) : Kept s (State.endExit s c) := by
  unfold State.endExit
  repeat' first
    | with_reducible assumption
    | with_reducible exact Kept.refl _
    | ((try lift_lets); intro x; first
        | (refine Kept.cut (t := x) ?_ fun h => ?_; rotate_left; clear_value x; rotate_left; (try unfold x))
        | skip)
    | with_reducible apply Kept.after (State.modChan_kept ..)
    | with_reducible apply Kept.after (State.idleDone_kept ..)
    | split
    | dsimp +zetaDelta only
    | with_reducible refine Kept.upd ?_

theorem State.issueDue_kept (s : State) (c : ChanId) (x : Sub) (m : Cmd) (now : Nat) : Kept s (State.issueDue s c x m now) := by
  unfold State.issueDue
  repeat' first
    | with_reducible assumption
    | with_reducible exact Kept.refl _
    | ((try lift_lets); intro x; first
        | (refine Kept.cut (t := x) ?_ fun h => ?_; rotate_left; clear_value x; rotate_left; (try unfold x))
        | skip)
    | with_reducible apply Kept.after (State.modSel_kept ..)
    | with_reducible apply Kept.after (State.pause_kept ..)
    | with_reducible apply Kept.after (State.issueRd_kept ..)
    | with_reducible apply Kept.after (State.endExit_kept ..)
    | split
    | dsimp +zetaDelta only
    | with_reducible refine Kept.upd ?_

theorem State.issueRedo_kept (s : State) (c : ChanId) (x : Sub) (m : Cmd) : Kept s (State.issueRedo s c x m) := by
  unfold State.issueRedo
  repeat' first
    | with_reducible assumption
    | with_reducible exact Kept.refl _
    | ((try lift_lets); intro x; first
        | (refine Kept.cut (t := x) ?_ fun h => ?_; rotate_left; clear_value x; rotate_left; (try unfold x))
        | skip)
    | with_reducible apply Kept.after (State.modSel_kept ..)
    | with_reducible apply Kept.after (State.modChan_kept ..)
    | split
    | dsimp +zetaDelta only
    | with_reducible refine Kept.upd ?_

theorem State.pushOx_kept (s : State) (c : ChanId) (x : Sub) (m : Cmd) (again reissue : Bool) : Kept s (State.pushOx s c x m again reissue) := by
  unfold State.pushOx
  repeat' first
    | with_reducible assumption
    | with_reducible exact Kept.refl _
    | ((try lift_lets); intro x; first
        | (refine Kept.cut (t := x) ?_ fun h => ?_; rotate_left; clear_value x; rotate_left; (try unfold x))
        | skip)
    | with_reducible apply Kept.after (State.modChan_kept ..)
    | with_reducible apply Kept.after (State.modSel_kept ..)
    | split
    | dsimp +zetaDelta only
    | with_reducible refine Kept.upd ?_

theorem State.issue_kept (s : State) (c : ChanId) (x : Sub) (ch : Choice) : Kept s (State.issue s c x ch) := by
  unfold State.issue
  repeat' first
    | with_reducible assumption
    | with_reducible exact Kept.refl _
    | ((try lift_lets); intro x; first
        | (refine Kept.cut (t := x) ?_ fun h => ?_; rotate_left; clear_value x; rotate_left; (try unfold x))
        | skip)
    | with_reducible apply Kept.after (State.modSel_kept ..)
    | with_reducible apply Kept.after (State.pushOx_kept ..)
    | with_reducible apply Kept.after (State.countCmd_kept ..)
    | with_reducible apply Kept.after (State.modChan_kept ..)
    | with_reducible apply Kept.after (State.drawNbr_kept ..)
    | with_reducible apply Kept.after (State.issueRedo_kept ..)
    | with_reducible apply Kept.after (State.issueCand_kept ..)
    | with_reducible apply Kept.after (State.issueDue_kept ..)
    | with_reducible apply Kept.after (State.endNbr_kept ..)
    | split
    | dsimp +zetaDelta only
    | with_reducible refine Kept.upd ?_

theorem State.markAcked_kept (s : State) (m : SetId) (t : Nat) (c : ChanId) (line : Nat) (d : Line) : Kept s (State.markAcked s m t c line d) := by
  unfold State.markAcked
  repeat' first
    | with_reducible assumption
    | with_reducible exact Kept.refl _
    | ((try lift_lets); intro x; first
        | (refine Kept.cut (t := x) ?_ fun h => ?_; rotate_left; clear_value x; rotate_left; (try unfold x))
        | skip)
    | with_reducible apply Kept.after (State.modSpan_kept ..)
    | split
    | dsimp +zetaDelta only
    | with_reducible refine Kept.upd ?_

theorem State.wrAcked_kept (s : State) (c : ChanId) (w : WrE) : Kept s (State.wrAcked s c w) := by
  unfold State.wrAcked
  repeat' first
    | with_reducible exact Kept.refl _
    | with_reducible apply Kept.after (State.markAcked_kept ..)
    | with_reducible apply Kept.after (State.scrubAcked_kept ..)
    | with_reducible apply Kept.after (State.patchAcked_kept ..)
    | with_reducible apply Kept.after (State.pprAcked_kept ..)
    | with_reducible apply Kept.after (State.rebuildAcked_kept ..)
    | split
    | with_reducible refine Kept.upd ?_

theorem State.mrrGot_kept (s : State) (c : ChanId) (raw : Stored) : Kept s (State.mrrGot s c raw) := by
  unfold State.mrrGot
  repeat' first
    | with_reducible exact Kept.refl _
    | with_reducible apply Kept.after (State.pprResource_kept ..)
    | with_reducible apply Kept.after (State.replyCur_kept ..)
    | split
    | with_reducible refine Kept.upd ?_

theorem State.endMrr_kept (s : State) (c : ChanId) (x : Sub) (id : Nat) : Kept s (State.endMrr s c x id) := by
  unfold State.endMrr
  repeat' first
    | with_reducible exact Kept.refl _
    | with_reducible apply Kept.after (State.dropRead_kept ..)
    | with_reducible apply Kept.after (State.mrrGot_kept ..)
    | split
    | dsimp +zetaDelta only
    | with_reducible refine Kept.upd ?_

theorem State.ack_kept (s : State) (c : ChanId) (x : Sub) : Kept s (State.ack s c x) := by
  unfold State.ack
  repeat' first
    | with_reducible assumption
    | with_reducible exact Kept.refl _
    | ((try lift_lets); intro x; first
        | (refine Kept.cut (t := x) ?_ fun h => ?_; rotate_left; clear_value x; rotate_left; (try unfold x))
        | skip)
    | with_reducible apply Kept.after (State.modSel_kept ..)
    | with_reducible apply Kept.after (State.modChan_kept ..)
    | with_reducible apply Kept.after (State.wrAcked_kept ..)
    | with_reducible apply Kept.after (State.endMr_kept ..)
    | with_reducible apply Kept.after (State.endMrr_kept ..)
    | with_reducible apply Kept.after (State.retain_kept ..)
    | split
    | dsimp +zetaDelta only
    | with_reducible refine Kept.upd ?_

theorem State.stopSub_kept (s : State) (c : ChanId) (x : Sub) : Kept s (State.stopSub s c x) := by
  unfold State.stopSub
  repeat' first
    | with_reducible exact Kept.refl _
    | with_reducible apply Kept.after (State.modSel_kept ..)
    | with_reducible apply Kept.after (State.raiseChan_kept ..)
    | with_reducible apply Kept.after (State.modChan_kept ..)
    | dsimp +zetaDelta only
    | with_reducible refine Kept.upd ?_

theorem State.alert_kept (s : State) (c : ChanId) (x : Sub) : Kept s (State.alert s c x) := by
  unfold State.alert
  repeat' first
    | with_reducible assumption
    | with_reducible exact Kept.refl _
    | ((try lift_lets); intro x; first
        | (refine Kept.cut (t := x) ?_ fun h => ?_; rotate_left; clear_value x; rotate_left; (try unfold x))
        | skip)
    | with_reducible apply Kept.after (State.modChan_kept ..)
    | with_reducible apply Kept.after (State.raiseChan_kept ..)
    | with_reducible apply Kept.after (State.modSel_kept ..)
    | with_reducible apply Kept.after (State.stopSub_kept ..)
    | split
    | dsimp +zetaDelta only
    | with_reducible refine Kept.upd ?_

theorem State.beginReplay_kept (s : State) (c : ChanId) (x : Sub) : Kept s (State.beginReplay s c x) := by
  unfold State.beginReplay
  repeat' first
    | with_reducible assumption
    | with_reducible exact Kept.refl _
    | ((try lift_lets); intro x; first
        | (refine Kept.cut (t := x) ?_ fun h => ?_; rotate_left; clear_value x; rotate_left; (try unfold x))
        | skip)
    | with_reducible apply Kept.after (State.modChan_kept ..)
    | with_reducible apply Kept.after (State.raiseChan_kept ..)
    | with_reducible apply Kept.after (State.modSel_kept ..)
    | with_reducible refine Kept.foldl (hf := fun _ _ => ?_) (h := ?_)
    | split
    | dsimp +zetaDelta only
    | with_reducible refine Kept.upd ?_

end Sys2Proof.Machine
end

