-- ==== Sys2Proof/Laws/KeptSlot.lean ====
section
/-! SUPPORT. What the operations of Machine/Slot.lean keep. -/

namespace Sys2Proof.Machine

set_option Elab.async false
set_option linter.all false

theorem State.after_kept (s : State) (c : ChanId) : Kept s (State.after s c) := by
  unfold State.after
  repeat' first
    | with_reducible exact Kept.refl _
    | with_reducible apply Kept.after (State.finishMaint_kept ..)
    | with_reducible apply Kept.after (State.settleAll_kept ..)
    | with_reducible apply Kept.after (State.drainTick_kept ..)
    | with_reducible apply Kept.after (State.sweepFails_kept ..)

theorem State.slot_kept (s : State) (c : ChanId) (x : Sub) : Kept s (State.slot s c x) := by
  unfold State.slot
  repeat' first
    | with_reducible assumption
    | with_reducible exact Kept.refl _
    | ((try lift_lets); intro x; first
        | (refine Kept.cut (t := x) ?_ fun h => ?_; rotate_left; clear_value x; rotate_left; (try unfold x))
        | skip)
    | with_reducible apply Kept.after (State.prepSlot_kept ..)
    | with_reducible apply Kept.after (State.updMode_kept ..)
    | with_reducible apply Kept.after (State.issue_kept ..)
    | with_reducible apply Kept.after (State.after_kept ..)
    | dsimp +zetaDelta only

theorem execCommandSlot_kept (c : ChanId) (x : Sub) (s : State) : ∃ s₁, execCommandSlot c x s = .next s₁ ∧ Kept s s₁ := by
  refine ⟨_, rfl, ?_⟩
  repeat' first
    | with_reducible exact Kept.refl _
    | with_reducible apply Kept.after (State.slot_kept ..)
    | split

theorem execCandidateAged_kept (c : ChanId) (id : Nat) (s : State) : ∃ s₁, execCandidateAged c id s = .next s₁ ∧ Kept s s₁ := by
  refine ⟨_, rfl, ?_⟩
  repeat' first
    | with_reducible exact Kept.refl _
    | with_reducible apply Kept.after (State.modChan_kept ..)
    | split
    | dsimp +zetaDelta only
    | with_reducible refine Kept.upd ?_

theorem execMshareWindowEnd_kept (c : ChanId) (x : Sub) (s : State) : ∃ s₁, execMshareWindowEnd c x s = .next s₁ ∧ Kept s s₁ := by
  refine ⟨_, rfl, ?_⟩
  repeat' first
    | with_reducible exact Kept.refl _
    | with_reducible apply Kept.after (State.modSel_kept ..)
    | dsimp +zetaDelta only
    | with_reducible refine Kept.upd ?_

theorem execPageIdleExpiry_kept (c : ChanId) (x : Sub) (b : Bank) (s : State) : ∃ s₁, execPageIdleExpiry c x b s = .next s₁ ∧ Kept s s₁ := by
  refine ⟨_, rfl, ?_⟩
  repeat' first
    | with_reducible exact Kept.refl _
    | with_reducible apply Kept.after (State.modSel_kept ..)
    | split
    | dsimp +zetaDelta only
    | with_reducible refine Kept.upd ?_

theorem execCommandAck_kept (c : ChanId) (x : Sub) (s : State) : ∃ s₁, execCommandAck c x s = .next s₁ ∧ Kept s s₁ := by
  refine ⟨_, rfl, ?_⟩
  repeat' first
    | with_reducible exact Kept.refl _
    | with_reducible apply Kept.after (State.ack_kept ..)
    | with_reducible apply Kept.after (State.after_kept ..)
    | with_reducible apply Kept.after (State.slumberStep_kept ..)
    | split

theorem execCaParityAlert_kept (c : ChanId) (x : Sub) (s : State) : ∃ s₁, execCaParityAlert c x s = .next s₁ ∧ Kept s s₁ := by
  refine ⟨_, rfl, ?_⟩
  repeat' first
    | with_reducible exact Kept.refl _
    | with_reducible apply Kept.after (State.alert_kept ..)
    | with_reducible apply Kept.after (State.sweepFails_kept ..)
    | split

theorem execAlertRelease_kept (c : ChanId) (x : Sub) (s : State) : ∃ s₁, execAlertRelease c x s = .next s₁ ∧ Kept s s₁ := by
  refine ⟨_, rfl, ?_⟩
  repeat' first
    | with_reducible exact Kept.refl _
    | with_reducible apply Kept.after (State.modSel_kept ..)
    | split
    | dsimp +zetaDelta only
    | with_reducible refine Kept.upd ?_

theorem execAlertRcvrExpiry_kept (c : ChanId) (x : Sub) (s : State) : ∃ s₁, execAlertRcvrExpiry c x s = .next s₁ ∧ Kept s s₁ := by
  refine ⟨_, rfl, ?_⟩
  repeat' first
    | with_reducible exact Kept.refl _
    | with_reducible apply Kept.after (State.beginReplay_kept ..)
    | with_reducible apply Kept.after (State.sweepFails_kept ..)
    | split

theorem execAlertStuckTimeout_kept (c : ChanId) (x : Sub) (s : State) : ∃ s₁, execAlertStuckTimeout c x s = .next s₁ ∧ Kept s s₁ := by
  refine ⟨_, rfl, ?_⟩
  repeat' first
    | with_reducible exact Kept.refl _
    | with_reducible apply Kept.after (State.stopSub_kept ..)
    | with_reducible apply Kept.after (State.sweepFails_kept ..)
    | split

theorem State.countEcc_kept (s : State) (c : ChanId) (x : Sub) (out : Decoded) : Kept s (State.countEcc s c x out) := by
  unfold State.countEcc
  repeat' first
    | with_reducible assumption
    | with_reducible exact Kept.refl _
    | ((try lift_lets); intro x; first
        | (refine Kept.cut (t := x) ?_ fun h => ?_; rotate_left; clear_value x; rotate_left; (try unfold x))
        | skip)
    | with_reducible apply Kept.after (State.modChan_kept ..)
    | with_reducible apply Kept.after (State.raiseChan_kept ..)
    | split
    | dsimp +zetaDelta only
    | with_reducible refine Kept.upd ?_

theorem State.decodeRead_kept (s : State) (c : ChanId) (x : Sub) (e : RdE) (raw : Stored) : Kept s (State.decodeRead s c x e raw) := by
  unfold State.decodeRead
  repeat' first
    | with_reducible assumption
    | with_reducible exact Kept.refl _
    | ((try lift_lets); intro x; first
        | (refine Kept.cut (t := x) ?_ fun h => ?_; rotate_left; clear_value x; rotate_left; (try unfold x))
        | skip)
    | with_reducible apply Kept.after (State.countEcc_kept ..)
    | with_reducible apply Kept.after (State.modChan_kept ..)
    | with_reducible apply Kept.after (State.recordRdue_kept ..)
    | with_reducible apply Kept.after (State.dropRead_kept ..)
    | with_reducible apply Kept.after (State.deliver_kept ..)
    | with_reducible apply Kept.after (State.tieRecon_kept ..)
    | split
    | dsimp +zetaDelta only
    | with_reducible refine Kept.upd ?_

theorem State.capture_kept (s : State) (c : ChanId) (x : Sub) (raw : Stored) : Kept s (State.capture s c x raw) := by
  unfold State.capture
  repeat' first
    | with_reducible assumption
    | with_reducible exact Kept.refl _
    | ((try lift_lets); intro x; first
        | (refine Kept.cut (t := x) ?_ fun h => ?_; rotate_left; clear_value x; rotate_left; (try unfold x))
        | skip)
    | with_reducible apply Kept.after (State.noteCaptured_kept ..)
    | with_reducible apply Kept.after (State.dropRead_kept ..)
    | with_reducible apply Kept.after (State.modChan_kept ..)
    | with_reducible apply Kept.after (State.endMrr_kept ..)
    | with_reducible apply Kept.after (State.decodeRead_kept ..)
    | split
    | dsimp +zetaDelta only
    | with_reducible refine Kept.upd ?_

theorem execReadDataDecode_kept (c : ChanId) (x : Sub) (raw : Stored) (s : State) : ∃ s₁, execReadDataDecode c x raw s = .next s₁ ∧ Kept s s₁ := by
  refine ⟨_, rfl, ?_⟩
  repeat' first
    | with_reducible exact Kept.refl _
    | with_reducible apply Kept.after (State.capture_kept ..)
    | with_reducible apply Kept.after (State.after_kept ..)

end Sys2Proof.Machine
end

