-- ==== Sys2Proof/Laws/KeptPower.lean ====
section
/-! SUPPORT. What the operations of Machine/Power.lean keep. -/

namespace Sys2Proof.Machine

set_option Elab.async false
set_option linter.all false

theorem execPwrFail_kept (s : State) : ∃ s₁, execPwrFail s = .next s₁ ∧ Kept s s₁ := by
  refine ⟨_, rfl, ?_⟩
  repeat' first
    | with_reducible assumption
    | with_reducible exact Kept.refl _
    | ((try lift_lets); intro x; first
        | (refine Kept.cut (t := x) ?_ fun h => ?_; rotate_left; clear_value x; rotate_left; (try unfold x))
        | skip)
    | with_reducible apply Kept.after (State.strobe_kept ..)
    | with_reducible apply Kept.after (State.sweepFails_kept ..)
    | split
    | dsimp +zetaDelta only
    | with_reducible refine Kept.upd ?_

theorem execSluiceDone_kept (s : State) : ∃ s₁, execSluiceDone s = .next s₁ ∧ Kept s s₁ := by
  refine ⟨_, rfl, ?_⟩
  repeat' first
    | with_reducible exact Kept.refl _
    | with_reducible apply Kept.after (State.resetDue_kept ..)
    | split
    | with_reducible refine Kept.upd ?_

theorem execSagWarn_kept (pinLow : Bool) (droop : BitVec 6) (s : State) : ∃ s₁, execSagWarn pinLow droop s = .next s₁ ∧ Kept s s₁ := by
  refine ⟨_, rfl, ?_⟩
  repeat' first
    | with_reducible assumption
    | with_reducible exact Kept.refl _
    | ((try lift_lets); intro x; first
        | (refine Kept.cut (t := x) ?_ fun h => ?_; rotate_left; clear_value x; rotate_left; (try unfold x))
        | skip)
    | with_reducible apply Kept.after (State.raiseOn_kept ..)
    | with_reducible apply Kept.after (State.ruleEvent_kept ..)
    | split
    | dsimp +zetaDelta only
    | with_reducible refine Kept.upd ?_

theorem execSagCrit_kept (pinLow : Bool) (droop : BitVec 6) (s : State) : ∃ s₁, execSagCrit pinLow droop s = .next s₁ ∧ Kept s s₁ := by
  refine ⟨_, rfl, ?_⟩
  repeat' first
    | with_reducible assumption
    | with_reducible exact Kept.refl _
    | ((try lift_lets); intro x; first
        | (refine Kept.cut (t := x) ?_ fun h => ?_; rotate_left; clear_value x; rotate_left; (try unfold x))
        | skip)
    | with_reducible apply Kept.after (State.raiseOn_kept ..)
    | with_reducible apply Kept.after (State.strobe_kept ..)
    | with_reducible apply Kept.after (State.sweepFails_kept ..)
    | with_reducible apply Kept.after (State.ruleEvent_kept ..)
    | split
    | dsimp +zetaDelta only
    | with_reducible refine Kept.upd ?_

theorem execWarnClearTimeout_kept (s : State) : ∃ s₁, execWarnClearTimeout s = .next s₁ ∧ Kept s s₁ := by
  refine ⟨_, rfl, ?_⟩
  repeat' first
    | with_reducible assumption
    | with_reducible exact Kept.refl _
    | ((try lift_lets); intro x; first
        | (refine Kept.cut (t := x) ?_ fun h => ?_; rotate_left; clear_value x; rotate_left; (try unfold x))
        | skip)
    | with_reducible apply Kept.after (State.writeCounter_kept ..)
    | with_reducible apply Kept.after (State.askXfers_kept ..)
    | with_reducible apply Kept.after (State.slumberStep_kept ..)
    | with_reducible refine Kept.foldl (hf := fun _ _ => ?_) (h := ?_)
    | split
    | dsimp +zetaDelta only
    | with_reducible refine Kept.upd ?_

theorem execTallyClear_kept (m : SetId) (t : Nat) (s : State) : ∃ s₁, execTallyClear m t s = .next s₁ ∧ Kept s s₁ := by
  refine ⟨_, rfl, ?_⟩
  repeat' first
    | with_reducible assumption
    | with_reducible exact Kept.refl _
    | ((try lift_lets); intro x; first
        | (refine Kept.cut (t := x) ?_ fun h => ?_; rotate_left; clear_value x; rotate_left; (try unfold x))
        | skip)
    | with_reducible apply Kept.after (State.markQueued_kept ..)
    | with_reducible apply Kept.after (State.strobe_kept ..)
    | with_reducible apply Kept.after (State.readMark_kept ..)
    | with_reducible apply Kept.after (State.pushTally_kept ..)
    | with_reducible apply Kept.after (State.modSpan_kept ..)
    | split
    | dsimp +zetaDelta only
    | with_reducible refine Kept.upd ?_

theorem execButtonPress_kept (c : ChanId) (s : State) : ∃ s₁, execButtonPress c s = .next s₁ ∧ Kept s s₁ := by
  refine ⟨_, rfl, ?_⟩
  repeat' first
    | with_reducible assumption
    | with_reducible exact Kept.refl _
    | ((try lift_lets); intro x; first
        | (refine Kept.cut (t := x) ?_ fun h => ?_; rotate_left; clear_value x; rotate_left; (try unfold x))
        | skip)
    | with_reducible apply Kept.after (State.ruleEvent_kept ..)
    | split
    | dsimp +zetaDelta only
    | with_reducible refine Kept.upd ?_

theorem execPresenceChange_kept (c : ChanId) (present : Bool) (s : State) : ∃ s₁, execPresenceChange c present s = .next s₁ ∧ Kept s s₁ := by
  refine ⟨_, rfl, ?_⟩
  repeat' first
    | with_reducible assumption
    | with_reducible exact Kept.refl _
    | ((try lift_lets); intro x; first
        | (refine Kept.cut (t := x) ?_ fun h => ?_; rotate_left; clear_value x; rotate_left; (try unfold x))
        | skip)
    | with_reducible apply Kept.after (State.modChan_kept ..)
    | with_reducible apply Kept.after (State.ruleEvent_kept ..)
    | split
    | dsimp +zetaDelta only
    | with_reducible refine Kept.upd ?_

theorem execPresenceLoss_kept (c : ChanId) (s : State) : ∃ s₁, execPresenceLoss c s = .next s₁ ∧ Kept s s₁ := by
  refine ⟨_, rfl, ?_⟩
  repeat' first
    | with_reducible exact Kept.refl _
    | with_reducible apply Kept.after (State.sever_kept ..)
    | with_reducible apply Kept.after (State.raiseChan_kept ..)
    | with_reducible apply Kept.after (State.sweepFails_kept ..)
    | with_reducible apply Kept.after (State.slumberStep_kept ..)
    | with_reducible apply Kept.after (State.sbmSever_kept ..)
    | split

theorem execSledPowerOn_kept (s : State) : ∃ s₁, execSledPowerOn s = .next s₁ ∧ Kept s s₁ := by
  refine ⟨_, rfl, ?_⟩
  repeat' first
    | with_reducible exact Kept.refl _
    | with_reducible apply Kept.after (State.powerOn_kept ..)
    | split
    | with_reducible refine Kept.upd ?_

theorem State.acceptTaken_kept (s : State) (c : ChanId) : Kept s (State.acceptTaken s c) := by
  unfold State.acceptTaken
  repeat' first
    | with_reducible assumption
    | with_reducible exact Kept.refl _
    | ((try lift_lets); intro x; first
        | (refine Kept.cut (t := x) ?_ fun h => ?_; rotate_left; clear_value x; rotate_left; (try unfold x))
        | skip)
    | with_reducible apply Kept.after (State.strobe_kept ..)
    | with_reducible apply Kept.after (State.acceptWrite_kept ..)
    | with_reducible refine Kept.foldl (hf := fun _ _ => ?_) (h := ?_)
    | split
    | dsimp +zetaDelta only

theorem State.prepareGate_kept (s : State) (c : ChanId) : Kept s (State.prepareGate s c) := by
  unfold State.prepareGate
  repeat' first
    | with_reducible assumption
    | with_reducible exact Kept.refl _
    | ((try lift_lets); intro x; first
        | (refine Kept.cut (t := x) ?_ fun h => ?_; rotate_left; clear_value x; rotate_left; (try unfold x))
        | skip)
    | with_reducible apply Kept.after (State.acceptTaken_kept ..)
    | with_reducible apply Kept.after (State.releaseAll_kept ..)
    | with_reducible apply Kept.after (State.modChan_kept ..)
    | with_reducible apply Kept.after (State.prepare_kept ..)
    | with_reducible apply Kept.after (State.loseChan_kept ..)
    | with_reducible apply Kept.after (State.loseWaiting_kept ..)
    | with_reducible apply Kept.after (State.after_kept ..)
    | dsimp +zetaDelta only
    | with_reducible refine Kept.upd ?_

theorem execPreparePowerOff_kept (c : ChanId) (s : State) : ∃ s₁, execPreparePowerOff c s = .next s₁ ∧ Kept s s₁ := by
  refine ⟨_, rfl, ?_⟩
  repeat' first
    | with_reducible assumption
    | with_reducible exact Kept.refl _
    | ((try lift_lets); intro x; first
        | (refine Kept.cut (t := x) ?_ fun h => ?_; rotate_left; clear_value x; rotate_left; (try unfold x))
        | skip)
    | with_reducible apply Kept.after (State.modChan_kept ..)
    | with_reducible apply Kept.after (State.leds_kept ..)
    | with_reducible apply Kept.after (State.askKs_kept ..)
    | with_reducible apply Kept.after (State.prepare_kept ..)
    | split
    | dsimp +zetaDelta only
    | with_reducible refine Kept.upd ?_

theorem State.idleGate_kept (s : State) (c : ChanId) : Kept s (State.idleGate s c) := by
  unfold State.idleGate
  repeat' first
    | with_reducible exact Kept.refl _
    | with_reducible apply Kept.after (State.modChan_kept ..)
    | with_reducible apply Kept.after (State.releaseAll_kept ..)
    | with_reducible apply Kept.after (State.after_kept ..)
    | dsimp +zetaDelta only
    | with_reducible refine Kept.upd ?_

theorem State.passGate_kept (s : State) (c : ChanId) : Kept s (State.passGate s c) := by
  unfold State.passGate
  repeat' first
    | with_reducible exact Kept.refl _
    | with_reducible apply Kept.after (State.prepareGate_kept ..)
    | with_reducible apply Kept.after (State.idleGate_kept ..)
    | with_reducible apply Kept.after (State.modChan_kept ..)
    | split
    | dsimp +zetaDelta only
    | with_reducible refine Kept.upd ?_

theorem State.leaveEntry_kept (s : State) (c : ChanId) : Kept s (State.leaveEntry s c) := by
  unfold State.leaveEntry
  repeat' first
    | with_reducible assumption
    | with_reducible exact Kept.refl _
    | ((try lift_lets); intro x; first
        | (refine Kept.cut (t := x) ?_ fun h => ?_; rotate_left; clear_value x; rotate_left; (try unfold x))
        | skip)
    | with_reducible apply Kept.after (State.modChan_kept ..)
    | with_reducible apply Kept.after (State.idleDone_kept ..)
    | split
    | dsimp +zetaDelta only
    | with_reducible refine Kept.upd ?_

theorem execIdleWake_kept (c : ChanId) (s : State) : ∃ s₁, execIdleWake c s = .next s₁ ∧ Kept s s₁ := by
  refine ⟨_, rfl, ?_⟩
  repeat' first
    | with_reducible assumption
    | with_reducible exact Kept.refl _
    | ((try lift_lets); intro x; first
        | (refine Kept.cut (t := x) ?_ fun h => ?_; rotate_left; clear_value x; rotate_left; (try unfold x))
        | skip)
    | with_reducible apply Kept.after (State.strobe_kept ..)
    | with_reducible apply Kept.after (State.beginExit_kept ..)
    | with_reducible apply Kept.after (State.leaveEntry_kept ..)
    | split
    | dsimp +zetaDelta only

theorem execSlumberCommit_kept (s : State) : ∃ s', execSlumberCommit s = .next s' ∧ Kept s s' := by
  have h : ∀ (t : State) (b : Sbm), Kept t { t.coreReset with phase := .slumber, sbm := b } := fun t b =>
    Kept.of_reset (fun i => ⟨⟨Cells.keep_wf _ i.1.1, rfl, rfl⟩, Nat.zero_le _, Nat.zero_le _, i.2.2.2⟩) rfl
  refine ⟨_, rfl, ?_⟩
  dsimp only
  split
  · exact State.slumberStep_kept s
  · exact Kept.upd (Kept.after (State.levelEvents_kept ..) (Kept.after (h ..) (State.slumberStep_kept s)))

theorem execWakePin_kept (i : Fin 2) (s : State) : ∃ s₁, execWakePin i s = .next s₁ ∧ Kept s s₁ := by
  refine ⟨_, rfl, ?_⟩
  repeat' first
    | with_reducible assumption
    | with_reducible exact Kept.refl _
    | ((try lift_lets); intro x; first
        | (refine Kept.cut (t := x) ?_ fun h => ?_; rotate_left; clear_value x; rotate_left; (try unfold x))
        | skip)
    | with_reducible apply Kept.after (State.ruleEvent_kept ..)
    | split
    | dsimp +zetaDelta only
    | with_reducible refine Kept.upd ?_

theorem execWakePulse_kept (s : State) : ∃ s₁, execWakePulse s = .next s₁ ∧ Kept s s₁ := by
  refine ⟨_, rfl, ?_⟩
  repeat' first
    | with_reducible exact Kept.refl _
    | with_reducible apply Kept.after (State.ruleEvent_kept ..)

theorem execSbmTempPoll_kept (c : ChanId) (ack : Bool) (temp : Nat) (s : State) : ∃ s₁, execSbmTempPoll c ack temp s = .next s₁ ∧ Kept s s₁ := by
  refine ⟨_, rfl, ?_⟩
  repeat' first
    | with_reducible assumption
    | with_reducible exact Kept.refl _
    | ((try lift_lets); intro x; first
        | (refine Kept.cut (t := x) ?_ fun h => ?_; rotate_left; clear_value x; rotate_left; (try unfold x))
        | skip)
    | with_reducible apply Kept.after (State.slumber_kept ..)
    | with_reducible apply Kept.after (State.ack_kept ..)
    | with_reducible apply Kept.after (State.ruleEvent_kept ..)
    | split
    | dsimp +zetaDelta only
    | with_reducible refine Kept.upd ?_

theorem State.dropAlarm_kept (s : State) : Kept s (State.dropAlarm s) := by
  unfold State.dropAlarm
  repeat' first
    | with_reducible exact Kept.refl _
    | with_reducible refine Kept.upd ?_

theorem execAlarmClr_kept (s : State) : ∃ s₁, execAlarmClr s = .next s₁ ∧ Kept s s₁ := by
  refine ⟨_, rfl, ?_⟩
  repeat' first
    | with_reducible assumption
    | with_reducible exact Kept.refl _
    | ((try lift_lets); intro x; first
        | (refine Kept.cut (t := x) ?_ fun h => ?_; rotate_left; clear_value x; rotate_left; (try unfold x))
        | skip)
    | with_reducible apply Kept.after (State.ctl_kept _ _ ?_)
    | with_reducible apply Kept.after (State.dropAlarm_kept ..)

/-- What the rise of the always-on supply leaves (R382, R392). -/
theorem State.powerUp_passed (s : State) : Passed s (State.powerUp s) where
  pending := rfl
  otp := rfl
  inv i := ⟨⟨rfl, rfl, rfl⟩, Nat.zero_le _, Nat.zero_le _, i.2.2.2⟩
  kf := List.prefix_refl _

theorem execAonPowerUp_passed (s : State) :
    ∃ s', execAonPowerUp s = .next s' ∧ Passed s s' ∧ (s' = s ∨ s'.inReset = true) := by
  refine ⟨_, rfl, ?_⟩
  split
  · exact ⟨s.powerUp_passed, .inr rfl⟩
  · exact ⟨(Kept.refl s).passed, .inl rfl⟩

theorem execAonPowerLoss_passed (s : State) :
    ∃ s', execAonPowerLoss s = .next s' ∧ Passed s s' ∧ s'.inReset = true :=
  ⟨_, rfl, ⟨rfl, rfl, fun i => (s.powerUp_passed.inv i), List.prefix_refl _⟩, rfl⟩

theorem State.loadCounters_kept (s : State) : Kept s (State.loadCounters s) := by
  unfold State.loadCounters
  repeat' first
    | with_reducible assumption
    | with_reducible exact Kept.refl _
    | ((try lift_lets); intro x; first
        | (refine Kept.cut (t := x) ?_ fun h => ?_; rotate_left; clear_value x; rotate_left; (try unfold x))
        | skip)
    | with_reducible apply Kept.after (State.writeCounter_kept ..)
    | split
    | dsimp +zetaDelta only
    | with_reducible refine Kept.upd ?_

theorem State.bringDone_kept (s : State) (h : s.inReset = false) : Kept s (State.bringDone s) := by
  have h0 : Kept s { s with phase := .on, cmp := { s.cmp with boot := { s.cmp.boot with ready := true, st := 1 } } } := by
    constructor <;> simp [State.Inv, State.canonical, State.bounded, h]
  have h1 := Kept.after (State.note_kept _ 7 (({ s with
    phase := .on, cmp := { s.cmp with boot := { s.cmp.boot with ready := true, st := 1 } } } : State).loadCounters.sbm.wakeCause.word))
    (Kept.after (State.loadCounters_kept _) h0)
  simp only [State.bringDone]
  split
  · exact Kept.after (State.enterSafe_kept ..) h1
  · exact h1

/-- Rows 1 to 5 begin in core reset; the others keep what every effect keeps. -/
theorem execBringBackRow_passed (s : State) :
    ∃ s', execBringBackRow s = .next s' ∧ Passed s s' ∧ (s.fcol.ehold = true → s'.fcol.ehold = true) ∧
      (s.inReset = true ∨ Kept s s') := by
  have hr : ∀ n, s.phase = .bring n → n < 6 → s.inReset = true := by
    intro n h hn
    simp only [State.inReset, State.ticking, h, Bool.not_eq_true', decide_eq_false_iff_not]
    omega
  have hn : ∀ n, s.phase = .bring n → 6 ≤ n → s.inReset = false := by
    intro n h hn
    simp only [State.inReset, State.ticking, h, Bool.not_eq_false', decide_eq_true_eq]
    exact hn
  have ok : ∀ t : State, Kept s t → Passed s t ∧ (s.fcol.ehold = true → t.fcol.ehold = true) ∧
      (s.inReset = true ∨ Kept s t) := fun t h => ⟨h.passed, h.ehold, .inr h⟩
  refine ⟨_, rfl, ?_⟩
  split
  · rename_i h
    exact ⟨⟨rfl, rfl, id, List.prefix_refl _⟩, id, .inl (hr 1 h (by omega))⟩
  · rename_i h
    exact ⟨⟨rfl, rfl, id, List.prefix_refl _⟩, id, .inl (hr 2 h (by omega))⟩
  · rename_i h
    split
    · exact ⟨⟨rfl, rfl, id, List.prefix_refl _⟩, id, .inl (hr 3 h (by omega))⟩
    · exact ok _ (Kept.refl s)
  · rename_i h
    exact ⟨⟨rfl, rfl, id, List.prefix_refl _⟩, id, .inl (hr 4 h (by omega))⟩
  · rename_i h
    have k := Kept.after (State.sweepFails_kept _) (State.releaseReset_kept { s with phase := .bring 6 })
    exact ⟨⟨k.pending, k.otp, k.inv, k.kf⟩, k.ehold, .inl (hr 5 h (by omega))⟩
  · rename_i h
    refine ok _ ?_
    constructor <;> simp [State.Inv, State.canonical, State.bounded, State.inReset, State.ticking, h]
  · rename_i h
    exact ok _ (Kept.after (State.sweepFails_kept _) (State.bringDone_kept s (hn 7 h (by omega))))
  · exact ok _ (Kept.refl s)

theorem execCorePg_kept (s : State) : ∃ s₁, execCorePg s = .next s₁ ∧ Kept s s₁ := by
  refine ⟨_, rfl, ?_⟩
  repeat' first
    | with_reducible exact Kept.refl _
    | split
    | with_reducible refine Kept.upd ?_

theorem execCorePgTimeout_kept (s : State) : ∃ s', execCorePgTimeout s = .next s' ∧ Kept s s' := by
  refine ⟨_, rfl, ?_⟩
  split
  · exact Kept.after (State.levelEvents_kept ..) (Kept.of_reset id rfl)
  · exact Kept.refl s

theorem execCoreRst_kept (s : State) : ∃ s₁, execCoreRst s = .next s₁ ∧ Kept s s₁ := by
  refine ⟨_, rfl, ?_⟩
  repeat' first
    | with_reducible assumption
    | with_reducible exact Kept.refl _
    | ((try lift_lets); intro x; first
        | (refine Kept.cut (t := x) ?_ fun h => ?_; rotate_left; clear_value x; rotate_left; (try unfold x))
        | skip)
    | with_reducible apply Kept.after (State.strobe_kept ..)
    | with_reducible apply Kept.after (State.enterReset_kept ..)
    | split
    | dsimp +zetaDelta only
    | with_reducible refine Kept.upd ?_

theorem execCoreRstRelease_kept (s : State) : ∃ s', execCoreRstRelease s = .next s' ∧ Kept s s' := by
  refine ⟨_, rfl, ?_⟩
  dsimp only
  split
  · exact Kept.of_reset id rfl
  · exact Kept.upd (Kept.refl s)

theorem execCoreResetTimeout_kept (s : State) : ∃ s₁, execCoreResetTimeout s = .next s₁ ∧ Kept s s₁ := by
  refine ⟨_, rfl, ?_⟩
  repeat' first
    | with_reducible exact Kept.refl _
    | with_reducible apply Kept.after (State.strobe_kept ..)
    | with_reducible apply Kept.after (State.enterReset_kept ..)
    | split

theorem execRefclkOutOfRange_kept (s : State) : ∃ s₁, execRefclkOutOfRange s = .next s₁ ∧ Kept s s₁ := by
  refine ⟨_, rfl, ?_⟩
  repeat' first
    | with_reducible exact Kept.refl _
    | with_reducible apply Kept.after (State.raiseOn_kept ..)

theorem execDebugPortActive_kept (s : State) : ∃ s₁, execDebugPortActive s = .next s₁ ∧ Kept s s₁ := by
  refine ⟨_, rfl, ?_⟩
  repeat' first
    | with_reducible exact Kept.refl _
    | with_reducible apply Kept.after (State.raiseOn_kept ..)

end Sys2Proof.Machine
end

