-- ==== Sys2Proof/Laws/KeptPhy.lean ====
section
/-! SUPPORT. What the operations of Machine/Phy.lean keep. -/

namespace Sys2Proof.Machine

set_option Elab.async false
set_option linter.all false

theorem execChannelPllLock_kept (c : ChanId) (s : State) : ∃ s₁, execChannelPllLock c s = .next s₁ ∧ Kept s s₁ := by
  refine ⟨_, rfl, ?_⟩
  repeat' first
    | with_reducible assumption
    | with_reducible exact Kept.refl _
    | ((try lift_lets); intro x; first
        | (refine Kept.cut (t := x) ?_ fun h => ?_; rotate_left; clear_value x; rotate_left; (try unfold x))
        | skip)
    | with_reducible apply Kept.after (State.modChan_kept ..)
    | split
    | dsimp +zetaDelta only
    | with_reducible refine Kept.upd ?_

theorem execPhyCalDone_kept (c : ChanId) (s : State) : ∃ s₁, execPhyCalDone c s = .next s₁ ∧ Kept s s₁ := by
  refine ⟨_, rfl, ?_⟩
  repeat' first
    | with_reducible assumption
    | with_reducible exact Kept.refl _
    | ((try lift_lets); intro x; first
        | (refine Kept.cut (t := x) ?_ fun h => ?_; rotate_left; clear_value x; rotate_left; (try unfold x))
        | skip)
    | with_reducible apply Kept.after (State.modChan_kept ..)
    | split
    | dsimp +zetaDelta only
    | with_reducible refine Kept.upd ?_

theorem execPllLockTimeout_kept (q : Pll) (s : State) : ∃ s₁, execPllLockTimeout q s = .next s₁ ∧ Kept s s₁ := by
  refine ⟨_, rfl, ?_⟩
  repeat' first
    | with_reducible exact Kept.refl _
    | with_reducible apply Kept.after (State.raiseOn_kept ..)
    | split
    | with_reducible refine Kept.upd ?_

theorem execPllUnlock_kept (q : Pll) (s : State) : ∃ s₁, execPllUnlock q s = .next s₁ ∧ Kept s s₁ := by
  refine ⟨_, rfl, ?_⟩
  repeat' first
    | with_reducible assumption
    | with_reducible exact Kept.refl _
    | ((try lift_lets); intro x; first
        | (refine Kept.cut (t := x) ?_ fun h => ?_; rotate_left; clear_value x; rotate_left; (try unfold x))
        | skip)
    | with_reducible apply Kept.after (State.raiseOn_kept ..)
    | with_reducible apply Kept.after (State.modChan_kept ..)
    | with_reducible apply Kept.after (State.raiseChan_kept ..)
    | with_reducible apply Kept.after (State.sweepFails_kept ..)
    | split
    | dsimp +zetaDelta only
    | with_reducible refine Kept.upd ?_

theorem execMirrorInPllLock_kept (s : State) : ∃ s₁, execMirrorInPllLock s = .next s₁ ∧ Kept s s₁ := by
  refine ⟨_, rfl, ?_⟩
  repeat' first
    | with_reducible exact Kept.refl _
    | split
    | with_reducible refine Kept.upd ?_

theorem execTempPoll_kept (c : ChanId) (s : State) : ∃ s₁, execTempPoll c s = .next s₁ ∧ Kept s s₁ := by
  refine ⟨_, rfl, ?_⟩
  repeat' first
    | with_reducible assumption
    | with_reducible exact Kept.refl _
    | ((try lift_lets); intro x; first
        | (refine Kept.cut (t := x) ?_ fun h => ?_; rotate_left; clear_value x; rotate_left; (try unfold x))
        | skip)
    | with_reducible apply Kept.after (State.slot_kept ..)
    | with_reducible apply Kept.after (State.askXfers_kept ..)
    | split
    | dsimp +zetaDelta only

theorem State.readTemp_kept (s : State) (c : ChanId) (x : Fin 2) (t : Nat) : Kept s (State.readTemp s c x t) := by
  unfold State.readTemp
  repeat' first
    | with_reducible assumption
    | with_reducible exact Kept.refl _
    | ((try lift_lets); intro x; first
        | (refine Kept.cut (t := x) ?_ fun h => ?_; rotate_left; clear_value x; rotate_left; (try unfold x))
        | skip)
    | with_reducible apply Kept.after (State.modChan_kept ..)
    | with_reducible apply Kept.after (State.raiseChan_kept ..)
    | split
    | dsimp +zetaDelta only
    | with_reducible refine Kept.upd ?_

theorem State.tempDone_kept (s : State) (c : ChanId) (x : Xfer) (ack : Bool) (bytes : List Byte) : Kept s (State.tempDone s c x ack bytes) := by
  unfold State.tempDone
  repeat' first
    | with_reducible assumption
    | with_reducible exact Kept.refl _
    | ((try lift_lets); intro x; first
        | (refine Kept.cut (t := x) ?_ fun h => ?_; rotate_left; clear_value x; rotate_left; (try unfold x))
        | skip)
    | with_reducible apply Kept.after (State.slot_kept ..)
    | with_reducible apply Kept.after (State.ack_kept ..)
    | with_reducible apply Kept.after (State.modChan_kept ..)
    | with_reducible apply Kept.after (State.readTemp_kept ..)
    | split
    | dsimp +zetaDelta only
    | with_reducible refine Kept.upd ?_

theorem State.spdDone_kept (s : State) (c : ChanId) (j : Nat) (slot : Nat) (ack : Bool) (bytes : List Byte) : Kept s (State.spdDone s c j slot ack bytes) := by
  unfold State.spdDone
  repeat' first
    | with_reducible assumption
    | with_reducible exact Kept.refl _
    | ((try lift_lets); intro x; first
        | (refine Kept.cut (t := x) ?_ fun h => ?_; rotate_left; clear_value x; rotate_left; (try unfold x))
        | skip)
    | with_reducible apply Kept.after (State.ack_kept ..)
    | with_reducible apply Kept.after (State.modChan_kept ..)
    | with_reducible apply Kept.after (State.slot_kept ..)
    | with_reducible apply Kept.after (State.modJob_kept ..)
    | split
    | dsimp +zetaDelta only
    | with_reducible refine Kept.upd ?_

theorem State.xferDone_kept (s : State) (c : ChanId) (x : Xfer) (ack : Bool) (bytes : List Byte) : Kept s (State.xferDone s c x ack bytes) := by
  unfold State.xferDone
  repeat' first
    | with_reducible exact Kept.refl _
    | with_reducible apply Kept.after (State.tempDone_kept ..)
    | with_reducible apply Kept.after (State.ack_kept ..)
    | with_reducible apply Kept.after (State.spdDone_kept ..)
    | with_reducible apply Kept.after (State.slot_kept ..)
    | with_reducible apply Kept.after (State.i3cRead_kept ..)
    | with_reducible apply Kept.after (State.replyCur_kept ..)
    | with_reducible apply Kept.after (State.pmicSet_kept ..)
    | with_reducible apply Kept.after (State.modChan_kept ..)
    | with_reducible apply Kept.after (State.lateRevoke_kept ..)
    | with_reducible apply Kept.after (State.pmicEnable_kept ..)
    | split
    | dsimp +zetaDelta only
    | with_reducible refine Kept.upd ?_

theorem execI3cTransferDone_kept (c : ChanId) (ack : Bool) (bytes : List Byte) (s : State) : ∃ s₁, execI3cTransferDone c ack bytes s = .next s₁ ∧ Kept s s₁ := by
  refine ⟨_, rfl, ?_⟩
  repeat' first
    | with_reducible assumption
    | with_reducible exact Kept.refl _
    | ((try lift_lets); intro x; first
        | (refine Kept.cut (t := x) ?_ fun h => ?_; rotate_left; clear_value x; rotate_left; (try unfold x))
        | skip)
    | with_reducible apply Kept.after (State.modChan_kept ..)
    | with_reducible apply Kept.after (State.ack_kept ..)
    | with_reducible apply Kept.after (State.raiseChan_kept ..)
    | with_reducible apply Kept.after (State.xferDone_kept ..)
    | with_reducible apply Kept.after (State.askXfers_kept ..)
    | with_reducible apply Kept.after (State.after_kept ..)
    | with_reducible apply Kept.after (State.slumberStep_kept ..)
    | split
    | dsimp +zetaDelta only
    | with_reducible refine Kept.upd ?_

theorem State.pmicWrite_kept (s : State) (c : ChanId) (slot : Nat) (use : XferFor) : Kept s (State.pmicWrite s c slot use) := by
  unfold State.pmicWrite
  repeat' first
    | with_reducible exact Kept.refl _
    | with_reducible apply Kept.after (State.askXfers_kept ..)
    | with_reducible apply Kept.after (State.slot_kept ..)
    | split

theorem State.nextEnable_kept (s : State) (j : Fin 8) : Kept s (State.nextEnable s j) := by
  unfold State.nextEnable
  repeat' first
    | with_reducible exact Kept.refl _
    | with_reducible apply Kept.after (State.modJob_kept ..)
    | with_reducible apply Kept.after (State.slot_kept ..)
    | with_reducible apply Kept.after (State.pmicWrite_kept ..)
    | with_reducible apply Kept.after (State.pmicEnable_kept ..)
    | split
    | dsimp +zetaDelta only
    | with_reducible refine Kept.upd ?_

theorem State.enabled_kept (s : State) (j : Fin 8) (c : ChanId) : Kept s (State.enabled s j c) := by
  unfold State.enabled
  repeat' first
    | with_reducible assumption
    | with_reducible exact Kept.refl _
    | ((try lift_lets); intro x; first
        | (refine Kept.cut (t := x) ?_ fun h => ?_; rotate_left; clear_value x; rotate_left; (try unfold x))
        | skip)
    | with_reducible apply Kept.after (State.modJob_kept ..)
    | with_reducible apply Kept.after (State.nextEnable_kept ..)
    | split
    | dsimp +zetaDelta only
    | with_reducible refine Kept.upd ?_

theorem State.givenUp_kept (s : State) (j : Fin 8) (c : ChanId) (slot : Nat) : Kept s (State.givenUp s j c slot) := by
  unfold State.givenUp
  repeat' first
    | with_reducible assumption
    | with_reducible exact Kept.refl _
    | ((try lift_lets); intro x; first
        | (refine Kept.cut (t := x) ?_ fun h => ?_; rotate_left; clear_value x; rotate_left; (try unfold x))
        | skip)
    | with_reducible apply Kept.after (State.slot_kept ..)
    | with_reducible apply Kept.after (State.pmicWrite_kept ..)
    | with_reducible apply Kept.after (State.modJob_kept ..)
    | with_reducible apply Kept.after (State.nextEnable_kept ..)
    | with_reducible refine Kept.foldl (hf := fun _ _ => ?_) (h := ?_)
    | dsimp +zetaDelta only
    | with_reducible refine Kept.upd ?_

theorem State.enableStep_kept (s : State) (j : Fin 8) (c : ChanId) (slot1 good : Bool) : Kept s (State.enableStep s j c slot1 good) := by
  unfold State.enableStep
  repeat' first
    | with_reducible assumption
    | with_reducible exact Kept.refl _
    | ((try lift_lets); intro x; first
        | (refine Kept.cut (t := x) ?_ fun h => ?_; rotate_left; clear_value x; rotate_left; (try unfold x))
        | skip)
    | with_reducible apply Kept.after (State.slot_kept ..)
    | with_reducible apply Kept.after (State.enabled_kept ..)
    | with_reducible apply Kept.after (State.modJob_kept ..)
    | with_reducible apply Kept.after (State.givenUp_kept ..)
    | split
    | dsimp +zetaDelta only
    | with_reducible refine Kept.upd ?_

theorem execPmicEnableSpacing_kept (c : ChanId) (slot1 good : Bool) (s : State) : ∃ s₁, execPmicEnableSpacing c slot1 good s = .next s₁ ∧ Kept s s₁ := by
  refine ⟨_, rfl, ?_⟩
  repeat' first
    | with_reducible exact Kept.refl _
    | with_reducible apply Kept.after (State.enableStep_kept ..)
    | split
    | dsimp +zetaDelta only
    | with_reducible refine Kept.upd ?_

end Sys2Proof.Machine
end

