-- ==== Sys2Proof/Laws/KeptInject.lean ====
section
/-! SUPPORT. What the operations of Machine/Inject.lean keep. -/

namespace Sys2Proof.Machine

set_option Elab.async false
set_option linter.all false

theorem State.setInjBuf_kept (s : State) (c : ChanId) (w : Stored) : Kept s (State.setInjBuf s c w) := by
  unfold State.setInjBuf
  repeat' first
    | with_reducible assumption
    | with_reducible exact Kept.refl _
    | ((try lift_lets); intro x; first
        | (refine Kept.cut (t := x) ?_ fun h => ?_; rotate_left; clear_value x; rotate_left; (try unfold x))
        | skip)
    | with_reducible apply Kept.after (State.setProg_kept ..)
    | with_reducible refine Kept.foldl (hf := fun _ _ => ?_) (h := ?_)
    | dsimp +zetaDelta only

theorem State.injEncode_kept (s : State) (c : ChanId) : Kept s (State.injEncode s c) := by
  unfold State.injEncode
  repeat' first
    | with_reducible exact Kept.refl _
    | with_reducible apply Kept.after (State.setInjBuf_kept ..)
    | with_reducible apply Kept.after (State.modChan_kept ..)
    | dsimp +zetaDelta only
    | with_reducible refine Kept.upd ?_

theorem State.injDecode_kept (s : State) (c : ChanId) : Kept s (State.injDecode s c) := by
  unfold State.injDecode
  repeat' first
    | with_reducible assumption
    | with_reducible exact Kept.refl _
    | ((try lift_lets); intro x; first
        | (refine Kept.cut (t := x) ?_ fun h => ?_; rotate_left; clear_value x; rotate_left; (try unfold x))
        | skip)
    | with_reducible apply Kept.after (State.modChan_kept ..)
    | dsimp +zetaDelta only
    | with_reducible refine Kept.upd ?_

theorem State.injRaw_kept (s : State) (c : ChanId) (op : Nat) : Kept s (State.injRaw s c op) := by
  unfold State.injRaw
  repeat' first
    | with_reducible assumption
    | with_reducible exact Kept.refl _
    | ((try lift_lets); intro x; first
        | (refine Kept.cut (t := x) ?_ fun h => ?_; rotate_left; clear_value x; rotate_left; (try unfold x))
        | skip)
    | with_reducible apply Kept.after (State.lookFresh_kept ..)
    | with_reducible apply Kept.after (State.modChan_kept ..)
    | with_reducible apply Kept.after (State.ask_kept ..)
    | split
    | dsimp +zetaDelta only
    | with_reducible refine Kept.upd ?_

theorem State.injGo_kept (s : State) (c : ChanId) (op : Nat) : Kept s (State.injGo s c op) := by
  unfold State.injGo
  repeat' first
    | with_reducible assumption
    | with_reducible exact Kept.refl _
    | ((try lift_lets); intro x; first
        | (refine Kept.cut (t := x) ?_ fun h => ?_; rotate_left; clear_value x; rotate_left; (try unfold x))
        | skip)
    | with_reducible apply Kept.after (State.setProg_kept ..)
    | with_reducible apply Kept.after (State.injEncode_kept ..)
    | with_reducible apply Kept.after (State.injRaw_kept ..)
    | with_reducible apply Kept.after (State.injDecode_kept ..)
    | split
    | dsimp +zetaDelta only
    | with_reducible refine Kept.upd ?_

theorem execInjEncode_kept (c : ChanId) (s : State) : ∃ s₁, execInjEncode c s = .next s₁ ∧ Kept s s₁ := by
  refine ⟨_, rfl, ?_⟩
  repeat' first
    | with_reducible assumption
    | with_reducible exact Kept.refl _
    | ((try lift_lets); intro x; first
        | (refine Kept.cut (t := x) ?_ fun h => ?_; rotate_left; clear_value x; rotate_left; (try unfold x))
        | skip)
    | with_reducible apply Kept.after (State.agentCtl_kept _ _ ?_)
    | with_reducible apply Kept.after (State.injGo_kept ..)
    | dsimp +zetaDelta only

theorem execInjWriteRaw_kept (c : ChanId) (s : State) : ∃ s₁, execInjWriteRaw c s = .next s₁ ∧ Kept s s₁ := by
  refine ⟨_, rfl, ?_⟩
  repeat' first
    | with_reducible assumption
    | with_reducible exact Kept.refl _
    | ((try lift_lets); intro x; first
        | (refine Kept.cut (t := x) ?_ fun h => ?_; rotate_left; clear_value x; rotate_left; (try unfold x))
        | skip)
    | with_reducible apply Kept.after (State.agentCtl_kept _ _ ?_)
    | with_reducible apply Kept.after (State.injGo_kept ..)
    | dsimp +zetaDelta only

theorem execInjReadRaw_kept (c : ChanId) (s : State) : ∃ s₁, execInjReadRaw c s = .next s₁ ∧ Kept s s₁ := by
  refine ⟨_, rfl, ?_⟩
  repeat' first
    | with_reducible assumption
    | with_reducible exact Kept.refl _
    | ((try lift_lets); intro x; first
        | (refine Kept.cut (t := x) ?_ fun h => ?_; rotate_left; clear_value x; rotate_left; (try unfold x))
        | skip)
    | with_reducible apply Kept.after (State.agentCtl_kept _ _ ?_)
    | with_reducible apply Kept.after (State.injGo_kept ..)
    | dsimp +zetaDelta only

theorem execInjDecode_kept (c : ChanId) (s : State) : ∃ s₁, execInjDecode c s = .next s₁ ∧ Kept s s₁ := by
  refine ⟨_, rfl, ?_⟩
  repeat' first
    | with_reducible assumption
    | with_reducible exact Kept.refl _
    | ((try lift_lets); intro x; first
        | (refine Kept.cut (t := x) ?_ fun h => ?_; rotate_left; clear_value x; rotate_left; (try unfold x))
        | skip)
    | with_reducible apply Kept.after (State.agentCtl_kept _ _ ?_)
    | with_reducible apply Kept.after (State.injGo_kept ..)
    | dsimp +zetaDelta only

theorem execInjRawComplete_kept (c : ChanId) (raw : Stored) (s : State) : ∃ s₁, execInjRawComplete c raw s = .next s₁ ∧ Kept s s₁ := by
  refine ⟨_, rfl, ?_⟩
  repeat' first
    | with_reducible assumption
    | with_reducible exact Kept.refl _
    | ((try lift_lets); intro x; first
        | (refine Kept.cut (t := x) ?_ fun h => ?_; rotate_left; clear_value x; rotate_left; (try unfold x))
        | skip)
    | with_reducible apply Kept.after (State.modChan_kept ..)
    | with_reducible apply Kept.after (State.setInjBuf_kept ..)
    | split
    | dsimp +zetaDelta only
    | with_reducible refine Kept.upd ?_

theorem State.armChan_kept (s : State) (c : ChanId) : Kept s (State.armChan s c) := by
  unfold State.armChan
  repeat' first
    | with_reducible assumption
    | with_reducible exact Kept.refl _
    | ((try lift_lets); intro x; first
        | (refine Kept.cut (t := x) ?_ fun h => ?_; rotate_left; clear_value x; rotate_left; (try unfold x))
        | skip)
    | with_reducible apply Kept.after (State.modChan_kept ..)
    | with_reducible apply Kept.after (State.postNow_kept ..)
    | dsimp +zetaDelta only
    | with_reducible refine Kept.upd ?_

theorem execInjArm_kept (c : ChanId) (s : State) : ∃ s₁, execInjArm c s = .next s₁ ∧ Kept s s₁ := by
  refine ⟨_, rfl, ?_⟩
  repeat' first
    | with_reducible assumption
    | with_reducible exact Kept.refl _
    | ((try lift_lets); intro x; first
        | (refine Kept.cut (t := x) ?_ fun h => ?_; rotate_left; clear_value x; rotate_left; (try unfold x))
        | skip)
    | with_reducible apply Kept.after (State.agentCtl_kept _ _ ?_)
    | with_reducible apply Kept.after (State.armChan_kept ..)
    | dsimp +zetaDelta only

theorem State.armGlobal_kept (s : State) : Kept s (State.armGlobal s) := by
  unfold State.armGlobal
  repeat' first
    | with_reducible assumption
    | with_reducible exact Kept.refl _
    | ((try lift_lets); intro x; first
        | (refine Kept.cut (t := x) ?_ fun h => ?_; rotate_left; clear_value x; rotate_left; (try unfold x))
        | skip)
    | with_reducible apply Kept.after (State.postNow_kept ..)
    | split
    | dsimp +zetaDelta only
    | with_reducible refine Kept.upd ?_

theorem execInjGarm_kept (s : State) : ∃ s₁, execInjGarm s = .next s₁ ∧ Kept s s₁ := by
  refine ⟨_, rfl, ?_⟩
  repeat' first
    | with_reducible assumption
    | with_reducible exact Kept.refl _
    | ((try lift_lets); intro x; first
        | (refine Kept.cut (t := x) ?_ fun h => ?_; rotate_left; clear_value x; rotate_left; (try unfold x))
        | skip)
    | with_reducible apply Kept.after (State.ctl_kept _ _ ?_)
    | with_reducible apply Kept.after (State.armGlobal_kept ..)
    | dsimp +zetaDelta only

theorem State.clearEcc_kept (s : State) (c : ChanId) : Kept s (State.clearEcc s c) := by
  unfold State.clearEcc
  repeat' first
    | with_reducible exact Kept.refl _
    | with_reducible apply Kept.after (State.modChan_kept ..)
    | dsimp +zetaDelta only
    | with_reducible refine Kept.upd ?_

theorem execEccClr_kept (c : ChanId) (s : State) : ∃ s₁, execEccClr c s = .next s₁ ∧ Kept s s₁ := by
  refine ⟨_, rfl, ?_⟩
  repeat' first
    | with_reducible assumption
    | with_reducible exact Kept.refl _
    | ((try lift_lets); intro x; first
        | (refine Kept.cut (t := x) ?_ fun h => ?_; rotate_left; clear_value x; rotate_left; (try unfold x))
        | skip)
    | with_reducible apply Kept.after (State.agentCtl_kept _ _ ?_)
    | with_reducible apply Kept.after (State.clearEcc_kept ..)
    | dsimp +zetaDelta only

theorem State.freshGo_kept (s : State) : Kept s (State.freshGo s) := by
  unfold State.freshGo
  repeat' first
    | with_reducible exact Kept.refl _
    | with_reducible apply Kept.after (State.postNow_kept ..)
    | split
    | with_reducible refine Kept.upd ?_

theorem execFreshFillGo_kept (s : State) : ∃ s₁, execFreshFillGo s = .next s₁ ∧ Kept s s₁ := by
  refine ⟨_, rfl, ?_⟩
  repeat' first
    | with_reducible assumption
    | with_reducible exact Kept.refl _
    | ((try lift_lets); intro x; first
        | (refine Kept.cut (t := x) ?_ fun h => ?_; rotate_left; clear_value x; rotate_left; (try unfold x))
        | skip)
    | with_reducible apply Kept.after (State.ctl_kept _ _ ?_)
    | with_reducible apply Kept.after (State.freshGo_kept ..)
    | dsimp +zetaDelta only

theorem execFreshFillDone_kept (s : State) : ∃ s₁, execFreshFillDone s = .next s₁ ∧ Kept s s₁ := by
  refine ⟨_, rfl, ?_⟩
  repeat' first
    | with_reducible exact Kept.refl _
    | with_reducible refine Kept.upd ?_

end Sys2Proof.Machine
end

