-- ==== Sys2Proof/Laws/KeptFaults.lean ====
section
/-! SUPPORT. What the operations of Machine/Faults.lean keep. -/

namespace Sys2Proof.Machine

set_option Elab.async false
set_option linter.all false

theorem State.resetAgent_kept (s : State) (c : ChanId) : Kept s (State.resetAgent s c) :=
  Kept.after (State.autoCommit_kept ..) (Kept.after (State.modChan_kept ..)
    (Kept.of_inv fun i => ⟨⟨Cells.keep_wf _ i.1.1, Cells.keep_wf _ i.1.2.1, i.1.2.2⟩, i.2⟩))

theorem State.stopNuinun_kept (s : State) : Kept s (State.stopNuinun s) := by
  unfold State.stopNuinun
  repeat' first
    | with_reducible exact Kept.refl _
    | with_reducible apply Kept.after (State.abandonJobs_kept ..)
    | dsimp +zetaDelta only
    | with_reducible refine Kept.upd ?_

theorem State.haltNuinun_kept (s : State) : Kept s (State.haltNuinun s) := by
  unfold State.haltNuinun
  repeat' first
    | with_reducible exact Kept.refl _
    | with_reducible apply Kept.after (State.stopNuinun_kept ..)
    | with_reducible refine Kept.upd ?_

theorem State.severReact_kept (s : State) (src : Nat) : Kept s (State.severReact s src) := by
  unfold State.severReact
  repeat' first
    | with_reducible exact Kept.refl _
    | with_reducible apply Kept.after (State.sever_kept ..)
    | split
    | with_reducible refine Kept.upd ?_

theorem State.shutPort_kept (s : State) (p : PortId) : Kept s (State.shutPort s p) := by
  unfold State.shutPort
  repeat' first
    | with_reducible exact Kept.refl _
    | with_reducible apply Kept.after (State.modPort_kept ..)
    | with_reducible apply Kept.after (State.updFlood_kept ..)
    | dsimp +zetaDelta only
    | with_reducible refine Kept.upd ?_

theorem State.unitReact_kept (s : State) (src : Nat) (used : Bool) : Kept s (State.unitReact s src used) := by
  unfold State.unitReact
  repeat' first
    | with_reducible exact Kept.refl _
    | with_reducible apply Kept.after (State.sever_kept ..)
    | with_reducible apply Kept.after (State.resetAgent_kept ..)
    | with_reducible apply Kept.after (State.shutPort_kept ..)
    | with_reducible apply Kept.after (State.millOff_kept ..)
    | with_reducible apply Kept.after (State.haltNuinun_kept ..)
    | split
    | with_reducible refine Kept.upd ?_

theorem State.latchBit_kept (s : State) (src : Nat) : Kept s (State.latchBit s src) := by
  unfold State.latchBit
  repeat' first
    | with_reducible assumption
    | with_reducible exact Kept.refl _
    | ((try lift_lets); intro x; first
        | (refine Kept.cut (t := x) ?_ fun h => ?_; rotate_left; clear_value x; rotate_left; (try unfold x))
        | skip)
    | dsimp +zetaDelta only
    | with_reducible refine Kept.upd ?_

theorem State.faultRecord_kept (s : State) (src : Nat) : Kept s (State.faultRecord s src) := by
  unfold State.faultRecord
  repeat' first
    | with_reducible exact Kept.refl _
    | with_reducible apply Kept.after (State.record_kept ..)

theorem State.unitReactions_kept (s : State) (src : Nat) (react : Nat) : Kept s (State.unitReactions s src react) := by
  unfold State.unitReactions
  repeat' first
    | with_reducible assumption
    | with_reducible exact Kept.refl _
    | ((try lift_lets); intro x; first
        | (refine Kept.cut (t := x) ?_ fun h => ?_; rotate_left; clear_value x; rotate_left; (try unfold x))
        | skip)
    | with_reducible apply Kept.after (State.severReact_kept ..)
    | with_reducible apply Kept.after (State.unitReact_kept ..)
    | split
    | dsimp +zetaDelta only
    | with_reducible refine Kept.upd ?_

theorem State.reactTo_kept (s : State) (srcs : List (Nat × Nat)) : Kept s (State.reactTo s srcs) := by
  unfold State.reactTo
  repeat' first
    | with_reducible assumption
    | with_reducible exact Kept.refl _
    | ((try lift_lets); intro x; first
        | (refine Kept.cut (t := x) ?_ fun h => ?_; rotate_left; clear_value x; rotate_left; (try unfold x))
        | skip)
    | with_reducible apply Kept.after (State.enterSafe_kept ..)
    | with_reducible apply Kept.after (State.resetDue_kept ..)
    | with_reducible apply Kept.after (State.unitReactions_kept ..)
    | with_reducible refine Kept.foldl (hf := fun _ _ => ?_) (h := ?_)
    | split
    | dsimp +zetaDelta only
    | with_reducible refine Kept.upd ?_

theorem State.latch_kept (s : State) (src : Nat) : Kept s (State.latch s src) := by
  unfold State.latch
  repeat' first
    | with_reducible assumption
    | with_reducible exact Kept.refl _
    | ((try lift_lets); intro x; first
        | (refine Kept.cut (t := x) ?_ fun h => ?_; rotate_left; clear_value x; rotate_left; (try unfold x))
        | skip)
    | with_reducible apply Kept.after (State.latchBit_kept ..)
    | with_reducible apply Kept.after (State.haltNuinun_kept ..)
    | with_reducible apply Kept.after (State.faultRecord_kept ..)
    | split
    | with_reducible refine Kept.upd ?_
    | with_reducible refine Kept.grow ?_ (he := fun _ => rfl)

theorem State.latchAll_kept (s : State) (srcs : List Nat) : Kept s (State.latchAll s srcs) := by
  unfold State.latchAll
  repeat' first
    | with_reducible assumption
    | with_reducible exact Kept.refl _
    | ((try lift_lets); intro x; first
        | (refine Kept.cut (t := x) ?_ fun h => ?_; rotate_left; clear_value x; rotate_left; (try unfold x))
        | skip)
    | with_reducible apply Kept.after (State.latch_kept ..)
    | with_reducible apply Kept.after (State.reactTo_kept ..)
    | with_reducible refine Kept.foldl (hf := fun _ _ => ?_) (h := ?_)
    | dsimp +zetaDelta only

theorem State.flashFault_kept (s : State) (srcs : List Nat) : Kept s (State.flashFault s srcs) := by
  unfold State.flashFault
  repeat' first
    | with_reducible exact Kept.refl _
    | split
    | with_reducible refine Kept.upd ?_

theorem execFaultLatch_kept (srcs : List (Fin 576)) (s : State) : ∃ s₁, execFaultLatch srcs s = .next s₁ ∧ Kept s s₁ := by
  refine ⟨_, rfl, ?_⟩
  repeat' first
    | with_reducible exact Kept.refl _
    | with_reducible apply Kept.after (State.flashFault_kept ..)
    | with_reducible apply Kept.after (State.latchAll_kept ..)
    | with_reducible apply Kept.after (State.settleAll_kept ..)
    | with_reducible apply Kept.after (State.sweepFails_kept ..)
    | split

theorem State.clearFault_kept (s : State) (data : Word) : Kept s (State.clearFault s data) := by
  unfold State.clearFault
  repeat' first
    | with_reducible assumption
    | with_reducible exact Kept.refl _
    | ((try lift_lets); intro x; first
        | (refine Kept.cut (t := x) ?_ fun h => ?_; rotate_left; clear_value x; rotate_left; (try unfold x))
        | skip)
    | split
    | dsimp +zetaDelta only
    | with_reducible refine Kept.upd ?_

theorem execFclr_kept (data : Word) (s : State) : ∃ s₁, execFclr data s = .next s₁ ∧ Kept s s₁ := by
  refine ⟨_, rfl, ?_⟩
  repeat' first
    | with_reducible assumption
    | with_reducible exact Kept.refl _
    | ((try lift_lets); intro x; first
        | (refine Kept.cut (t := x) ?_ fun h => ?_; rotate_left; clear_value x; rotate_left; (try unfold x))
        | skip)
    | with_reducible apply Kept.after (State.ctl_kept _ _ ?_)
    | with_reducible apply Kept.after (State.clearFault_kept ..)
    | dsimp +zetaDelta only

theorem execNuinunWatchdog_kept (s : State) : ∃ s₁, execNuinunWatchdog s = .next s₁ ∧ Kept s s₁ := by
  refine ⟨_, rfl, ?_⟩
  repeat' first
    | with_reducible exact Kept.refl _
    | with_reducible apply Kept.after (State.raise_kept ..)
    | split

/-- A record written to the flash is added to the keep-forever area or leaves it. -/
theorem Flash.put_kf (f : Flash) (r : EvRec) (h : f.kf.length ≤ 256) :
    f.kf <+: (f.put r).kf ∧ (f.put r).kf.length ≤ 256 := by
  simp only [Flash.put]
  split
  · refine ⟨List.prefix_append _ _, ?_⟩
    simp only [List.length_append, List.length_singleton]
    omega
  · exact ⟨List.prefix_refl _, h⟩

theorem State.putRecord_kept (s : State) (r : EvRec) : Kept s { s with flash := s.flash.put r } where
  pending := rfl
  otp := rfl
  inv i := ⟨i.1, i.2.1, i.2.2.1, (Flash.put_kf _ r i.2.2.2).2⟩
  kf := by
    simp only [Flash.put]
    split
    · exact List.prefix_append _ _
    · exact List.prefix_refl _
  ehold := id
  stay := id
  mono _ := ⟨Nat.le_refl _, BitVec.and_self, id, id⟩

theorem State.programRecord_kept (s : State) : Kept s (State.programRecord s) := by
  have key : ∀ (r : EvRec) (bad : Option Bad) (rest : List (EvRec × Option Bad)), s.evr.buf = (r, bad) :: rest →
      Kept s { s with evr := { s.evr with buf := rest } } := by
    intro r bad rest h
    refine Kept.of_inv fun i => ⟨i.1, ?_, i.2.2⟩
    have := i.2.1
    rw [h, List.length_cons] at this
    dsimp only
    omega
  unfold State.programRecord
  split
  · exact Kept.refl s
  · rename_i r bad rest h
    have h1 := Kept.after (State.readG_kept _ 537 bad) (key r bad rest h)
    dsimp only
    split
    · exact Kept.upd h1
    · exact Kept.after (State.putRecord_kept ..) h1

theorem execEvrRecordProgram_kept (s : State) : ∃ s₁, execEvrRecordProgram s = .next s₁ ∧ Kept s s₁ := by
  refine ⟨_, rfl, ?_⟩
  repeat' first
    | with_reducible exact Kept.refl _
    | with_reducible apply Kept.after (State.slumberStep_kept ..)
    | with_reducible apply Kept.after (State.programmed_kept ..)
    | with_reducible apply Kept.after (State.flashTold_kept ..)
    | with_reducible apply Kept.after (State.programRecord_kept ..)
    | split

theorem execHourTick_kept (s : State) : ∃ s₁, execHourTick s = .next s₁ ∧ Kept s s₁ := by
  refine ⟨_, rfl, ?_⟩
  repeat' first
    | with_reducible exact Kept.refl _
    | with_reducible apply Kept.after (State.writeCounter_kept ..)
    | split
    | with_reducible refine Kept.upd ?_

theorem State.selRecord_kept (s : State) (data : Word) : Kept s (State.selRecord s data) := by
  unfold State.selRecord
  repeat' first
    | with_reducible assumption
    | with_reducible exact Kept.refl _
    | ((try lift_lets); intro x; first
        | (refine Kept.cut (t := x) ?_ fun h => ?_; rotate_left; clear_value x; rotate_left; (try unfold x))
        | skip)
    | with_reducible apply Kept.after (State.setProg_kept ..)
    | dsimp +zetaDelta only
    | with_reducible refine Kept.upd ?_

theorem execEvrFetch_kept (data : Word) (s : State) : ∃ s₁, execEvrFetch data s = .next s₁ ∧ Kept s s₁ := by
  refine ⟨_, rfl, ?_⟩
  repeat' first
    | with_reducible assumption
    | with_reducible exact Kept.refl _
    | ((try lift_lets); intro x; first
        | (refine Kept.cut (t := x) ?_ fun h => ?_; rotate_left; clear_value x; rotate_left; (try unfold x))
        | skip)
    | with_reducible apply Kept.after (State.ctl_kept _ _ ?_)
    | with_reducible apply Kept.after (State.selRecord_kept ..)
    | dsimp +zetaDelta only

theorem execEvrFetchDone_kept (s : State) : ∃ s₁, execEvrFetchDone s = .next s₁ ∧ Kept s s₁ := by
  have key : ∀ (t : State) (e : Evr), Kept s t → e.buf.length ≤ t.evr.buf.length → Kept s { t with evr := e } := by
    intro t e h k
    refine h.trans (Kept.of_inv fun i => ⟨i.1, ?_, i.2.2⟩)
    have := i.2.1
    dsimp only
    omega
  refine ⟨_, rfl, ?_⟩
  repeat' first
    | exact Kept.refl _
    | exact Kept.upd (Kept.refl _)
    | exact Kept.upd (State.readG_kept ..)
    | exact key _ _ (State.readG_kept ..) (List.length_filter_le _ _)
    | split
    | dsimp only

theorem State.clearPerr_kept (s : State) (p : PortId) (data : Word) : Kept s (State.clearPerr s p data) := by
  unfold State.clearPerr
  repeat' first
    | with_reducible exact Kept.refl _
    | with_reducible apply Kept.after (State.modPort_kept ..)
    | dsimp +zetaDelta only
    | with_reducible refine Kept.upd ?_

theorem State.clearVstat_kept (s : State) (p : PortId) (data : Word) : Kept s (State.clearVstat s p data) := by
  unfold State.clearVstat
  repeat' first
    | with_reducible exact Kept.refl _
    | with_reducible apply Kept.after (State.modPort_kept ..)
    | dsimp +zetaDelta only
    | with_reducible refine Kept.upd ?_

theorem State.clearWbx_kept (s : State) (p : PortId) (data : Word) : Kept s (State.clearWbx s p data) := by
  unfold State.clearWbx
  repeat' first
    | with_reducible exact Kept.refl _
    | with_reducible apply Kept.after (State.modPort_kept ..)
    | dsimp +zetaDelta only
    | with_reducible refine Kept.upd ?_

theorem State.clearPsn_kept (s : State) (c : ChanId) (data : Word) : Kept s (State.clearPsn s c data) := by
  unfold State.clearPsn
  repeat' first
    | with_reducible exact Kept.refl _
    | with_reducible apply Kept.after (State.modChan_kept ..)
    | dsimp +zetaDelta only
    | with_reducible refine Kept.upd ?_

theorem State.clearRdue_kept (s : State) (c : ChanId) (data : Word) : Kept s (State.clearRdue s c data) := by
  unfold State.clearRdue
  repeat' first
    | with_reducible exact Kept.refl _
    | with_reducible apply Kept.after (State.modChan_kept ..)
    | dsimp +zetaDelta only
    | with_reducible refine Kept.upd ?_

theorem execPortPerrClear_kept (p : PortId) (data : Word) (s : State) : ∃ s₁, execPortPerrClear p data s = .next s₁ ∧ Kept s s₁ := by
  refine ⟨_, rfl, ?_⟩
  repeat' first
    | with_reducible assumption
    | with_reducible exact Kept.refl _
    | ((try lift_lets); intro x; first
        | (refine Kept.cut (t := x) ?_ fun h => ?_; rotate_left; clear_value x; rotate_left; (try unfold x))
        | skip)
    | with_reducible apply Kept.after (State.ctl_kept _ _ ?_)
    | with_reducible apply Kept.after (State.clearPerr_kept ..)
    | dsimp +zetaDelta only

theorem execWcuVstatClear_kept (p : PortId) (data : Word) (s : State) : ∃ s₁, execWcuVstatClear p data s = .next s₁ ∧ Kept s s₁ := by
  refine ⟨_, rfl, ?_⟩
  repeat' first
    | with_reducible assumption
    | with_reducible exact Kept.refl _
    | ((try lift_lets); intro x; first
        | (refine Kept.cut (t := x) ?_ fun h => ?_; rotate_left; clear_value x; rotate_left; (try unfold x))
        | skip)
    | with_reducible apply Kept.after (State.ctl_kept _ _ ?_)
    | with_reducible apply Kept.after (State.clearVstat_kept ..)
    | dsimp +zetaDelta only

theorem execWcuWbxClear_kept (p : PortId) (data : Word) (s : State) : ∃ s₁, execWcuWbxClear p data s = .next s₁ ∧ Kept s s₁ := by
  refine ⟨_, rfl, ?_⟩
  repeat' first
    | with_reducible assumption
    | with_reducible exact Kept.refl _
    | ((try lift_lets); intro x; first
        | (refine Kept.cut (t := x) ?_ fun h => ?_; rotate_left; clear_value x; rotate_left; (try unfold x))
        | skip)
    | with_reducible apply Kept.after (State.ctl_kept _ _ ?_)
    | with_reducible apply Kept.after (State.clearWbx_kept ..)
    | dsimp +zetaDelta only

theorem execEddyPsnClear_kept (c : ChanId) (data : Word) (s : State) : ∃ s₁, execEddyPsnClear c data s = .next s₁ ∧ Kept s s₁ := by
  refine ⟨_, rfl, ?_⟩
  repeat' first
    | with_reducible assumption
    | with_reducible exact Kept.refl _
    | ((try lift_lets); intro x; first
        | (refine Kept.cut (t := x) ?_ fun h => ?_; rotate_left; clear_value x; rotate_left; (try unfold x))
        | skip)
    | with_reducible apply Kept.after (State.agentCtl_kept _ _ ?_)
    | with_reducible apply Kept.after (State.clearPsn_kept ..)
    | dsimp +zetaDelta only

theorem execRdueClear_kept (c : ChanId) (data : Word) (s : State) : ∃ s₁, execRdueClear c data s = .next s₁ ∧ Kept s s₁ := by
  refine ⟨_, rfl, ?_⟩
  repeat' first
    | with_reducible assumption
    | with_reducible exact Kept.refl _
    | ((try lift_lets); intro x; first
        | (refine Kept.cut (t := x) ?_ fun h => ?_; rotate_left; clear_value x; rotate_left; (try unfold x))
        | skip)
    | with_reducible apply Kept.after (State.agentCtl_kept _ _ ?_)
    | with_reducible apply Kept.after (State.clearRdue_kept ..)
    | dsimp +zetaDelta only

theorem State.clearUpdAt_kept (s : State) (data : Word) : Kept s (State.clearUpdAt s data) := by
  unfold State.clearUpdAt
  repeat' first
    | with_reducible exact Kept.refl _
    | split
    | with_reducible refine Kept.upd ?_

theorem execUpdAtStatClear_kept (data : Word) (s : State) : ∃ s₁, execUpdAtStatClear data s = .next s₁ ∧ Kept s s₁ := by
  refine ⟨_, rfl, ?_⟩
  repeat' first
    | with_reducible assumption
    | with_reducible exact Kept.refl _
    | ((try lift_lets); intro x; first
        | (refine Kept.cut (t := x) ?_ fun h => ?_; rotate_left; clear_value x; rotate_left; (try unfold x))
        | skip)
    | with_reducible apply Kept.after (State.ctl_kept _ _ ?_)
    | with_reducible apply Kept.after (State.clearUpdAt_kept ..)
    | dsimp +zetaDelta only

theorem State.clearBrk_kept (s : State) (data : Word) : Kept s (State.clearBrk s data) := by
  unfold State.clearBrk
  repeat' first
    | with_reducible exact Kept.refl _
    | with_reducible refine Kept.upd ?_

theorem execMillBrkClear_kept (data : Word) (s : State) : ∃ s₁, execMillBrkClear data s = .next s₁ ∧ Kept s s₁ := by
  refine ⟨_, rfl, ?_⟩
  repeat' first
    | with_reducible assumption
    | with_reducible exact Kept.refl _
    | ((try lift_lets); intro x; first
        | (refine Kept.cut (t := x) ?_ fun h => ?_; rotate_left; clear_value x; rotate_left; (try unfold x))
        | skip)
    | with_reducible apply Kept.after (State.ctl_kept _ _ ?_)
    | with_reducible apply Kept.after (State.clearBrk_kept ..)
    | dsimp +zetaDelta only

theorem State.clearPress_kept (s : State) (data : Word) : Kept s (State.clearPress s data) := by
  unfold State.clearPress
  repeat' first
    | with_reducible exact Kept.refl _
    | split
    | with_reducible refine Kept.upd ?_

theorem State.clearPchg_kept (s : State) (data : Word) : Kept s (State.clearPchg s data) := by
  unfold State.clearPchg
  repeat' first
    | with_reducible exact Kept.refl _
    | split
    | with_reducible refine Kept.upd ?_

theorem execSvcPressClear_kept (data : Word) (s : State) : ∃ s₁, execSvcPressClear data s = .next s₁ ∧ Kept s s₁ := by
  refine ⟨_, rfl, ?_⟩
  repeat' first
    | with_reducible assumption
    | with_reducible exact Kept.refl _
    | ((try lift_lets); intro x; first
        | (refine Kept.cut (t := x) ?_ fun h => ?_; rotate_left; clear_value x; rotate_left; (try unfold x))
        | skip)
    | with_reducible apply Kept.after (State.ctl_kept _ _ ?_)
    | with_reducible apply Kept.after (State.clearPress_kept ..)
    | dsimp +zetaDelta only

theorem execSvcPchgClear_kept (data : Word) (s : State) : ∃ s₁, execSvcPchgClear data s = .next s₁ ∧ Kept s s₁ := by
  refine ⟨_, rfl, ?_⟩
  repeat' first
    | with_reducible assumption
    | with_reducible exact Kept.refl _
    | ((try lift_lets); intro x; first
        | (refine Kept.cut (t := x) ?_ fun h => ?_; rotate_left; clear_value x; rotate_left; (try unfold x))
        | skip)
    | with_reducible apply Kept.after (State.ctl_kept _ _ ?_)
    | with_reducible apply Kept.after (State.clearPchg_kept ..)
    | dsimp +zetaDelta only

theorem State.clearWake_kept (s : State) (data : Word) : Kept s (State.clearWake s data) := by
  unfold State.clearWake
  repeat' first
    | with_reducible exact Kept.refl _
    | with_reducible refine Kept.upd ?_

theorem execWakeCauseClear_kept (data : Word) (s : State) : ∃ s₁, execWakeCauseClear data s = .next s₁ ∧ Kept s s₁ := by
  refine ⟨_, rfl, ?_⟩
  repeat' first
    | with_reducible assumption
    | with_reducible exact Kept.refl _
    | ((try lift_lets); intro x; first
        | (refine Kept.cut (t := x) ?_ fun h => ?_; rotate_left; clear_value x; rotate_left; (try unfold x))
        | skip)
    | with_reducible apply Kept.after (State.ctl_kept _ _ ?_)
    | with_reducible apply Kept.after (State.clearWake_kept ..)
    | dsimp +zetaDelta only

end Sys2Proof.Machine
end

