-- ==== Sys2Proof/Laws/KeptPacket.lean ====
section
/-! SUPPORT. What the operations of Machine/Packet.lean keep. -/

namespace Sys2Proof.Machine

set_option Elab.async false
set_option linter.all false

theorem State.answer_kept (s : State) (k : Packet) (status err : Nat) (res : List Word) : Kept s (State.answer s k status err res) := by
  unfold State.answer
  repeat' first
    | with_reducible exact Kept.refl _
    | with_reducible apply Kept.after (State.reply_kept ..)

theorem State.takePacket_kept (s : State) (k : Packet) : Kept s (State.takePacket s k) := by
  unfold State.takePacket
  repeat' first
    | with_reducible exact Kept.refl _
    | with_reducible refine Kept.upd ?_

theorem State.decidePacket_kept (s : State) (k : Packet) (own : State → Packet → Option Nat) (act : State → Packet → State)
    (hf : ∀ t k, Kept t (act t k)) : Kept s (State.decidePacket s k own act) := by
  unfold State.decidePacket
  split
  · exact Kept.after (State.raise_kept ..) (State.answer_kept ..)
  · refine Kept.trans (State.takePacket_kept s k) ?_
    dsimp only
    repeat' first
      | exact hf _ _
      | exact State.answer_kept ..
      | split

theorem State.serve_kept (s : State) (opc : Nat) (own : State → Packet → Option Nat) (act : State → Packet → State)
    (hf : ∀ t k, Kept t (act t k)) : Kept s (State.serve s opc own act) := by
  unfold State.serve
  repeat' first
    | exact State.decidePacket_kept _ _ _ _ hf
    | exact Kept.refl s
    | split

theorem State.holdRing_kept (s : State) (k : Packet) (mask : BitVec 20) : Kept s (State.holdRing s k mask) := by
  unfold State.holdRing
  repeat' first
    | with_reducible exact Kept.refl _
    | with_reducible refine Kept.upd ?_

theorem State.startJob_kept (s : State) (k : Packet) (target : Nat) (f : Job → Job) : Kept s (State.startJob s k target f) := by
  unfold State.startJob
  repeat' first
    | with_reducible exact Kept.refl _
    | with_reducible apply Kept.after (State.modJob_kept ..)
    | with_reducible apply Kept.after (State.answer_kept ..)
    | split
    | dsimp +zetaDelta only
    | with_reducible refine Kept.upd ?_

theorem State.writePi_kept (s : State) (data : Word) : Kept s (State.writePi s data) := by
  unfold State.writePi
  repeat' first
    | with_reducible assumption
    | with_reducible exact Kept.refl _
    | ((try lift_lets); intro x; first
        | (refine Kept.cut (t := x) ?_ fun h => ?_; rotate_left; clear_value x; rotate_left; (try unfold x))
        | skip)
    | with_reducible apply Kept.after (State.setProg_kept ..)
    | split
    | dsimp +zetaDelta only
    | with_reducible refine Kept.upd ?_

theorem execCmdPiWrite_kept (data : Word) (s : State) : ∃ s₁, execCmdPiWrite data s = .next s₁ ∧ Kept s s₁ := by
  refine ⟨_, rfl, ?_⟩
  repeat' first
    | with_reducible assumption
    | with_reducible exact Kept.refl _
    | ((try lift_lets); intro x; first
        | (refine Kept.cut (t := x) ?_ fun h => ?_; rotate_left; clear_value x; rotate_left; (try unfold x))
        | skip)
    | with_reducible apply Kept.after (State.ctl_kept _ _ ?_)
    | with_reducible apply Kept.after (State.writePi_kept ..)
    | dsimp +zetaDelta only

theorem execUnknownOpcode_kept (s : State) : ∃ s₁, execUnknownOpcode s = .next s₁ ∧ Kept s s₁ := by
  refine ⟨_, rfl, ?_⟩
  repeat' first
    | with_reducible assumption
    | with_reducible exact Kept.refl _
    | ((try lift_lets); intro x; first
        | (refine Kept.cut (t := x) ?_ fun h => ?_; rotate_left; clear_value x; rotate_left; (try unfold x))
        | skip)
    | with_reducible apply Kept.after (State.decidePacket_kept _ _ _ _ ?_)
    | split
    | dsimp +zetaDelta only
    | with_reducible refine Kept.upd ?_

end Sys2Proof.Machine
end

