-- ==== Sys2Proof/Laws/KeptBoot.lean ====
section
/-! SUPPORT. What the operations of Machine/Boot.lean keep. -/

namespace Sys2Proof.Machine

set_option Elab.async false
set_option linter.all false

theorem execIdentify_kept (s : State) : ∃ s₁, execIdentify s = .next s₁ ∧ Kept s s₁ := by
  refine ⟨_, rfl, ?_⟩
  repeat' first
    | with_reducible assumption
    | with_reducible exact Kept.refl _
    | ((try lift_lets); intro x; first
        | (refine Kept.cut (t := x) ?_ fun h => ?_; rotate_left; clear_value x; rotate_left; (try unfold x))
        | skip)
    | with_reducible apply Kept.after (State.serve_kept _ _ _ _ ?_)
    | with_reducible apply Kept.after (State.answer_kept ..)
    | dsimp +zetaDelta only

theorem execStatus_kept (s : State) : ∃ s₁, execStatus s = .next s₁ ∧ Kept s s₁ := by
  refine ⟨_, rfl, ?_⟩
  repeat' first
    | with_reducible assumption
    | with_reducible exact Kept.refl _
    | ((try lift_lets); intro x; first
        | (refine Kept.cut (t := x) ?_ fun h => ?_; rotate_left; clear_value x; rotate_left; (try unfold x))
        | skip)
    | with_reducible apply Kept.after (State.serve_kept _ _ _ _ ?_)
    | with_reducible apply Kept.after (State.answer_kept ..)
    | dsimp +zetaDelta only

theorem execEcho_kept (s : State) : ∃ s₁, execEcho s = .next s₁ ∧ Kept s s₁ := by
  refine ⟨_, rfl, ?_⟩
  repeat' first
    | with_reducible assumption
    | with_reducible exact Kept.refl _
    | ((try lift_lets); intro x; first
        | (refine Kept.cut (t := x) ?_ fun h => ?_; rotate_left; clear_value x; rotate_left; (try unfold x))
        | skip)
    | with_reducible apply Kept.after (State.serve_kept _ _ _ _ ?_)
    | with_reducible apply Kept.after (State.answer_kept ..)
    | dsimp +zetaDelta only

theorem State.modBoot_kept (s : State) (f : Boot → Boot) : Kept s (State.modBoot s f) := by
  unfold State.modBoot
  repeat' first
    | with_reducible exact Kept.refl _
    | with_reducible refine Kept.upd ?_

theorem State.loadBegin_kept (s : State) (k : Packet) : Kept s (State.loadBegin s k) := by
  unfold State.loadBegin
  repeat' first
    | with_reducible assumption
    | with_reducible exact Kept.refl _
    | ((try lift_lets); intro x; first
        | (refine Kept.cut (t := x) ?_ fun h => ?_; rotate_left; clear_value x; rotate_left; (try unfold x))
        | skip)
    | with_reducible apply Kept.after (State.modBoot_kept ..)
    | with_reducible apply Kept.after (State.answer_kept ..)
    | split
    | dsimp +zetaDelta only
    | with_reducible refine Kept.upd ?_

theorem execLoadBegin_kept (s : State) : ∃ s₁, execLoadBegin s = .next s₁ ∧ Kept s s₁ := by
  refine ⟨_, rfl, ?_⟩
  repeat' first
    | with_reducible assumption
    | with_reducible exact Kept.refl _
    | ((try lift_lets); intro x; first
        | (refine Kept.cut (t := x) ?_ fun h => ?_; rotate_left; clear_value x; rotate_left; (try unfold x))
        | skip)
    | with_reducible apply Kept.after (State.serve_kept _ _ _ _ ?_)
    | with_reducible apply Kept.after (State.loadBegin_kept ..)

theorem State.tellBoot_kept (s t : State) : Kept t (State.tellBoot s t) := by
  unfold State.tellBoot
  split
  · exact State.raise_kept ..
  · exact Kept.refl t

theorem State.loadChunk_kept (s : State) (k : Packet) : Kept s (State.loadChunk s k) := by
  unfold State.loadChunk
  repeat' first
    | with_reducible assumption
    | with_reducible exact Kept.refl _
    | ((try lift_lets); intro x; first
        | (refine Kept.cut (t := x) ?_ fun h => ?_; rotate_left; clear_value x; rotate_left; (try unfold x))
        | skip)
    | with_reducible apply Kept.after (State.modBoot_kept ..)
    | with_reducible apply Kept.after (State.tellBoot_kept ..)
    | with_reducible apply Kept.after (State.answer_kept ..)
    | dsimp +zetaDelta only
    | with_reducible refine Kept.upd ?_

theorem execLoadChunk_kept (s : State) : ∃ s₁, execLoadChunk s = .next s₁ ∧ Kept s s₁ := by
  refine ⟨_, rfl, ?_⟩
  repeat' first
    | with_reducible assumption
    | with_reducible exact Kept.refl _
    | ((try lift_lets); intro x; first
        | (refine Kept.cut (t := x) ?_ fun h => ?_; rotate_left; clear_value x; rotate_left; (try unfold x))
        | skip)
    | with_reducible apply Kept.after (State.serve_kept _ _ _ _ ?_)
    | with_reducible apply Kept.after (State.loadChunk_kept ..)

theorem State.loadEnd_kept (s : State) (k : Packet) : Kept s (State.loadEnd s k) := by
  unfold State.loadEnd
  repeat' first
    | with_reducible exact Kept.refl _
    | with_reducible apply Kept.after (State.modBoot_kept ..)
    | with_reducible apply Kept.after (State.answer_kept ..)
    | dsimp +zetaDelta only
    | with_reducible refine Kept.upd ?_

theorem execLoadEnd_kept (s : State) : ∃ s₁, execLoadEnd s = .next s₁ ∧ Kept s s₁ := by
  refine ⟨_, rfl, ?_⟩
  repeat' first
    | with_reducible assumption
    | with_reducible exact Kept.refl _
    | ((try lift_lets); intro x; first
        | (refine Kept.cut (t := x) ?_ fun h => ?_; rotate_left; clear_value x; rotate_left; (try unfold x))
        | skip)
    | with_reducible apply Kept.after (State.serve_kept _ _ _ _ ?_)
    | with_reducible apply Kept.after (State.loadEnd_kept ..)

theorem execFlashImageReadDone_kept (s : State) : ∃ s₁, execFlashImageReadDone s = .next s₁ ∧ Kept s s₁ := by
  refine ⟨_, rfl, ?_⟩
  repeat' first
    | with_reducible assumption
    | with_reducible exact Kept.refl _
    | ((try lift_lets); intro x; first
        | (refine Kept.cut (t := x) ?_ fun h => ?_; rotate_left; clear_value x; rotate_left; (try unfold x))
        | skip)
    | with_reducible apply Kept.after (State.tellBoot_kept ..)
    | with_reducible apply Kept.after (State.modBoot_kept ..)
    | with_reducible apply Kept.after (State.flashTold_kept ..)
    | split
    | dsimp +zetaDelta only
    | with_reducible refine Kept.upd ?_

theorem State.startNuinun_kept (s : State) (bs : List Byte) (slot : Bool) : Kept s (State.startNuinun s bs slot) := by
  unfold State.startNuinun
  repeat' first
    | with_reducible assumption
    | with_reducible exact Kept.refl _
    | ((try lift_lets); intro x; first
        | (refine Kept.cut (t := x) ?_ fun h => ?_; rotate_left; clear_value x; rotate_left; (try unfold x))
        | skip)
    | with_reducible apply Kept.after (State.spendG_kept ..)
    | with_reducible apply Kept.after (State.modBoot_kept ..)
    | with_reducible apply Kept.after (State.slot_kept ..)
    | dsimp +zetaDelta only
    | with_reducible refine Kept.upd ?_

theorem execImageVerified_kept (s : State) : ∃ s₁, execImageVerified s = .next s₁ ∧ Kept s s₁ := by
  refine ⟨_, rfl, ?_⟩
  repeat' first
    | with_reducible assumption
    | with_reducible exact Kept.refl _
    | ((try lift_lets); intro x; first
        | (refine Kept.cut (t := x) ?_ fun h => ?_; rotate_left; clear_value x; rotate_left; (try unfold x))
        | skip)
    | with_reducible apply Kept.after (State.slot_kept ..)
    | with_reducible apply Kept.after (State.startNuinun_kept ..)
    | with_reducible apply Kept.after (State.tellBoot_kept ..)
    | with_reducible apply Kept.after (State.modBoot_kept ..)
    | split
    | dsimp +zetaDelta only
    | with_reducible refine Kept.upd ?_

theorem execFirmwareReady_kept (s : State) : ∃ s₁, execFirmwareReady s = .next s₁ ∧ Kept s s₁ := by
  refine ⟨_, rfl, ?_⟩
  repeat' first
    | with_reducible assumption
    | with_reducible exact Kept.refl _
    | ((try lift_lets); intro x; first
        | (refine Kept.cut (t := x) ?_ fun h => ?_; rotate_left; clear_value x; rotate_left; (try unfold x))
        | skip)
    | with_reducible apply Kept.after (State.readG_kept ..)
    | with_reducible apply Kept.after (State.haltNuinun_kept ..)
    | with_reducible apply Kept.after (State.modBoot_kept ..)
    | split
    | dsimp +zetaDelta only
    | with_reducible refine Kept.upd ?_

theorem execStartTimeout_kept (s : State) : ∃ s₁, execStartTimeout s = .next s₁ ∧ Kept s s₁ := by
  refine ⟨_, rfl, ?_⟩
  repeat' first
    | with_reducible exact Kept.refl _
    | with_reducible apply Kept.after (State.tellBoot_kept ..)
    | with_reducible apply Kept.after (State.stopNuinun_kept ..)
    | with_reducible apply Kept.after (State.modBoot_kept ..)
    | split
    | dsimp +zetaDelta only

theorem execFlashInfo_kept (s : State) : ∃ s₁, execFlashInfo s = .next s₁ ∧ Kept s s₁ := by
  refine ⟨_, rfl, ?_⟩
  repeat' first
    | with_reducible assumption
    | with_reducible exact Kept.refl _
    | ((try lift_lets); intro x; first
        | (refine Kept.cut (t := x) ?_ fun h => ?_; rotate_left; clear_value x; rotate_left; (try unfold x))
        | skip)
    | with_reducible apply Kept.after (State.serve_kept _ _ _ _ ?_)
    | with_reducible apply Kept.after (State.answer_kept ..)
    | with_reducible apply Kept.after (State.flashTold_kept ..)
    | split
    | dsimp +zetaDelta only
    | with_reducible refine Kept.upd ?_

theorem State.storeBegin_kept (s : State) (k : Packet) : Kept s (State.storeBegin s k) := by
  unfold State.storeBegin
  repeat' first
    | with_reducible exact Kept.refl _
    | with_reducible apply Kept.after (State.store_kept ..)
    | with_reducible apply Kept.after (State.startJob_kept ..)
    | with_reducible refine Kept.upd ?_

theorem execImgStoreBegin_kept (s : State) : ∃ s₁, execImgStoreBegin s = .next s₁ ∧ Kept s s₁ := by
  refine ⟨_, rfl, ?_⟩
  repeat' first
    | with_reducible assumption
    | with_reducible exact Kept.refl _
    | ((try lift_lets); intro x; first
        | (refine Kept.cut (t := x) ?_ fun h => ?_; rotate_left; clear_value x; rotate_left; (try unfold x))
        | skip)
    | with_reducible apply Kept.after (State.serve_kept _ _ _ _ ?_)
    | with_reducible apply Kept.after (State.storeBegin_kept ..)
    | dsimp +zetaDelta only

theorem State.storeChunk_kept (s : State) (k : Packet) : Kept s (State.storeChunk s k) := by
  unfold State.storeChunk
  repeat' first
    | with_reducible assumption
    | with_reducible exact Kept.refl _
    | ((try lift_lets); intro x; first
        | (refine Kept.cut (t := x) ?_ fun h => ?_; rotate_left; clear_value x; rotate_left; (try unfold x))
        | skip)
    | with_reducible apply Kept.after (State.answer_kept ..)
    | dsimp +zetaDelta only
    | with_reducible refine Kept.upd ?_

theorem execImgStoreChunk_kept (s : State) : ∃ s₁, execImgStoreChunk s = .next s₁ ∧ Kept s s₁ := by
  refine ⟨_, rfl, ?_⟩
  repeat' first
    | with_reducible assumption
    | with_reducible exact Kept.refl _
    | ((try lift_lets); intro x; first
        | (refine Kept.cut (t := x) ?_ fun h => ?_; rotate_left; clear_value x; rotate_left; (try unfold x))
        | skip)
    | with_reducible apply Kept.after (State.serve_kept _ _ _ _ ?_)
    | with_reducible apply Kept.after (State.answer_kept ..)
    | with_reducible apply Kept.after (State.flashTold_kept ..)
    | with_reducible apply Kept.after (State.storeChunk_kept ..)
    | split
    | dsimp +zetaDelta only

theorem execImgStoreEnd_kept (s : State) : ∃ s₁, execImgStoreEnd s = .next s₁ ∧ Kept s s₁ := by
  refine ⟨_, rfl, ?_⟩
  repeat' first
    | with_reducible assumption
    | with_reducible exact Kept.refl _
    | ((try lift_lets); intro x; first
        | (refine Kept.cut (t := x) ?_ fun h => ?_; rotate_left; clear_value x; rotate_left; (try unfold x))
        | skip)
    | with_reducible apply Kept.after (State.serve_kept _ _ _ _ ?_)
    | with_reducible apply Kept.after (State.startJob_kept ..)
    | dsimp +zetaDelta only

theorem State.endStore_kept (s : State) : Kept s (State.endStore s).1 := by
  unfold State.endStore
  repeat' first
    | with_reducible assumption
    | with_reducible exact Kept.refl _
    | ((try lift_lets); intro x; first
        | (refine Kept.cut (t := x) ?_ fun h => ?_; rotate_left; clear_value x; rotate_left; (try unfold x))
        | skip)
    | with_reducible apply Kept.after (State.store_kept ..)
    | split
    | dsimp +zetaDelta only
    | with_reducible refine Kept.upd ?_

end Sys2Proof.Machine
end

