-- ==== Sys2Proof/Laws/KeptJobOps.lean ====
section
/-! SUPPORT. What the operations of Machine/JobOps.lean keep. -/

namespace Sys2Proof.Machine

set_option Elab.async false
set_option linter.all false

theorem State.passTrain_kept (s : State) (c : ChanId) : Kept s (State.passTrain s c) := by
  unfold State.passTrain
  repeat' first
    | with_reducible assumption
    | with_reducible exact Kept.refl _
    | ((try lift_lets); intro x; first
        | (refine Kept.cut (t := x) ?_ fun h => ?_; rotate_left; clear_value x; rotate_left; (try unfold x))
        | skip)
    | with_reducible apply Kept.after (State.modChan_kept ..)
    | dsimp +zetaDelta only
    | with_reducible refine Kept.upd ?_

theorem State.failTrain_kept (s : State) (c : ChanId) (f : TrnFail) (sever : Bool) : Kept s (State.failTrain s c f sever) := by
  unfold State.failTrain
  repeat' first
    | with_reducible assumption
    | with_reducible exact Kept.refl _
    | ((try lift_lets); intro x; first
        | (refine Kept.cut (t := x) ?_ fun h => ?_; rotate_left; clear_value x; rotate_left; (try unfold x))
        | skip)
    | with_reducible apply Kept.after (State.modChan_kept ..)
    | with_reducible apply Kept.after (State.raiseChan_kept ..)
    | with_reducible apply Kept.after (State.sever_kept ..)
    | split
    | dsimp +zetaDelta only
    | with_reducible refine Kept.upd ?_

theorem State.endTrain_kept (s : State) (b : Job) (r : JobEnd) (f : Tab TrnFail 20) : Kept s (State.endTrain s b r f).1 := by
  unfold State.endTrain
  repeat' first
    | with_reducible assumption
    | with_reducible exact Kept.refl _
    | ((try lift_lets); intro x; first
        | (refine Kept.cut (t := x) ?_ fun h => ?_; rotate_left; clear_value x; rotate_left; (try unfold x))
        | skip)
    | with_reducible apply Kept.after (State.passTrain_kept ..)
    | with_reducible apply Kept.after (State.failTrain_kept ..)
    | with_reducible refine Kept.foldl (hf := fun _ _ => ?_) (h := ?_)
    | split
    | dsimp +zetaDelta only

theorem State.loadPatch_kept (s : State) (c : ChanId) : Kept s (State.loadPatch s c) := by
  unfold State.loadPatch
  repeat' first
    | with_reducible assumption
    | with_reducible exact Kept.refl _
    | ((try lift_lets); intro x; first
        | (refine Kept.cut (t := x) ?_ fun h => ?_; rotate_left; clear_value x; rotate_left; (try unfold x))
        | skip)
    | with_reducible apply Kept.after (State.modPatch_kept ..)
    | split
    | dsimp +zetaDelta only
    | with_reducible refine Kept.upd ?_

theorem State.endPatchLoad_kept (s : State) (m : BitVec 20) : Kept s (State.endPatchLoad s m) := by
  unfold State.endPatchLoad
  repeat' first
    | with_reducible assumption
    | with_reducible exact Kept.refl _
    | ((try lift_lets); intro x; first
        | (refine Kept.cut (t := x) ?_ fun h => ?_; rotate_left; clear_value x; rotate_left; (try unfold x))
        | skip)
    | with_reducible apply Kept.after (State.loadPatch_kept ..)
    | with_reducible refine Kept.foldl (hf := fun _ _ => ?_) (h := ?_)
    | split
    | dsimp +zetaDelta only

theorem State.closeJob_kept (s : State) (j : Fin 8) (err : Nat) (res : List Word) : Kept s (State.closeJob s j err res) := by
  unfold State.closeJob
  repeat' first
    | with_reducible exact Kept.refl _
    | with_reducible apply Kept.after (State.modJob_kept ..)
    | dsimp +zetaDelta only

theorem State.flashFail_kept (s : State) (j : Fin 8) : Kept s (State.flashFail s j) := by
  unfold State.flashFail
  repeat' first
    | with_reducible exact Kept.refl _
    | with_reducible apply Kept.after (State.closeJob_kept ..)
    | with_reducible apply Kept.after (State.raise_kept ..)

theorem State.endJob_kept (s : State) (j : Fin 8) (r : JobEnd) (f : Tab TrnFail 20) : Kept s (State.endJob s j r f) := by
  unfold State.endJob
  repeat' first
    | with_reducible assumption
    | with_reducible exact Kept.refl _
    | ((try lift_lets); intro x; first
        | (refine Kept.cut (t := x) ?_ fun h => ?_; rotate_left; clear_value x; rotate_left; (try unfold x))
        | skip)
    | with_reducible apply Kept.after (State.endTrain_kept ..)
    | with_reducible apply Kept.after (State.closeJob_kept ..)
    | with_reducible apply Kept.after (State.endPatchLoad_kept ..)
    | with_reducible apply Kept.after (State.programmed_kept ..)
    | with_reducible apply Kept.after (State.store_kept ..)
    | with_reducible apply Kept.after (State.flashFail_kept ..)
    | with_reducible apply Kept.after (State.endStore_kept ..)
    | split
    | dsimp +zetaDelta only
    | with_reducible refine Kept.upd ?_

theorem execJobEnd_kept (j : Fin 8) (r : JobEnd) (trn : Tab TrnFail 20) (s : State) : ∃ s₁, execJobEnd j r trn s = .next s₁ ∧ Kept s s₁ := by
  refine ⟨_, rfl, ?_⟩
  repeat' first
    | with_reducible exact Kept.refl _
    | with_reducible apply Kept.after (State.endJob_kept ..)
    | with_reducible apply Kept.after (State.settleAll_kept ..)
    | with_reducible apply Kept.after (State.sweepFails_kept ..)
    | split

end Sys2Proof.Machine
end

