-- ==== Sys2Proof/Laws/KeptCommands.lean ====
section
/-! SUPPORT. What the operations of Machine/Commands.lean keep. -/

namespace Sys2Proof.Machine

set_option Elab.async false
set_option linter.all false

theorem State.jobStatus_kept (s : State) (k : Packet) : Kept s (State.jobStatus s k) := by
  unfold State.jobStatus
  repeat' first
    | with_reducible assumption
    | with_reducible exact Kept.refl _
    | ((try lift_lets); intro x; first
        | (refine Kept.cut (t := x) ?_ fun h => ?_; rotate_left; clear_value x; rotate_left; (try unfold x))
        | skip)
    | with_reducible apply Kept.after (State.answer_kept ..)
    | with_reducible apply Kept.after (State.modJob_kept ..)
    | split
    | dsimp +zetaDelta only
    | with_reducible refine Kept.upd ?_

theorem execJobStatus_kept (s : State) : ∃ s₁, execJobStatus s = .next s₁ ∧ Kept s s₁ := by
  refine ⟨_, rfl, ?_⟩
  repeat' first
    | with_reducible assumption
    | with_reducible exact Kept.refl _
    | ((try lift_lets); intro x; first
        | (refine Kept.cut (t := x) ?_ fun h => ?_; rotate_left; clear_value x; rotate_left; (try unfold x))
        | skip)
    | with_reducible apply Kept.after (State.serve_kept _ _ _ _ ?_)
    | with_reducible apply Kept.after (State.jobStatus_kept ..)

theorem State.cancelScrub_kept (s : State) (c : ChanId) : Kept s (State.cancelScrub s c) := by
  unfold State.cancelScrub
  repeat' first
    | with_reducible assumption
    | with_reducible exact Kept.refl _
    | ((try lift_lets); intro x; first
        | (refine Kept.cut (t := x) ?_ fun h => ?_; rotate_left; clear_value x; rotate_left; (try unfold x))
        | skip)
    | with_reducible apply Kept.after (State.scrub_kept ..)
    | with_reducible apply Kept.after (State.endScrub_kept ..)
    | with_reducible apply Kept.after (State.modScrub_kept ..)
    | split
    | dsimp +zetaDelta only
    | with_reducible refine Kept.upd ?_

theorem State.cancelSpd_kept (s : State) (j : Fin 8) (c : ChanId) : Kept s (State.cancelSpd s j c) := by
  unfold State.cancelSpd
  repeat' first
    | with_reducible assumption
    | with_reducible exact Kept.refl _
    | ((try lift_lets); intro x; first
        | (refine Kept.cut (t := x) ?_ fun h => ?_; rotate_left; clear_value x; rotate_left; (try unfold x))
        | skip)
    | with_reducible apply Kept.after (State.modChan_kept ..)
    | with_reducible apply Kept.after (State.modJob_kept ..)
    | split
    | dsimp +zetaDelta only
    | with_reducible refine Kept.upd ?_

theorem State.spdStopped_kept (s : State) (j : Fin 8) : Kept s (State.spdStopped s j) := by
  unfold State.spdStopped
  repeat' first
    | with_reducible exact Kept.refl _
    | with_reducible apply Kept.after (State.modJob_kept ..)
    | split
    | dsimp +zetaDelta only

theorem State.jobCancel_kept (s : State) (k : Packet) : Kept s (State.jobCancel s k) := by
  unfold State.jobCancel
  repeat' first
    | with_reducible assumption
    | with_reducible exact Kept.refl _
    | ((try lift_lets); intro x; first
        | (refine Kept.cut (t := x) ?_ fun h => ?_; rotate_left; clear_value x; rotate_left; (try unfold x))
        | skip)
    | with_reducible apply Kept.after (State.modJob_kept ..)
    | with_reducible apply Kept.after (State.cancelScrub_kept ..)
    | with_reducible apply Kept.after (State.cancelSpd_kept ..)
    | with_reducible apply Kept.after (State.spdStopped_kept ..)
    | with_reducible apply Kept.after (State.answer_kept ..)
    | with_reducible refine Kept.foldl (hf := fun _ _ => ?_) (h := ?_)
    | split
    | dsimp +zetaDelta only
    | with_reducible refine Kept.upd ?_

theorem execJobCancel_kept (s : State) : ∃ s₁, execJobCancel s = .next s₁ ∧ Kept s s₁ := by
  refine ⟨_, rfl, ?_⟩
  repeat' first
    | with_reducible assumption
    | with_reducible exact Kept.refl _
    | ((try lift_lets); intro x; first
        | (refine Kept.cut (t := x) ?_ fun h => ?_; rotate_left; clear_value x; rotate_left; (try unfold x))
        | skip)
    | with_reducible apply Kept.after (State.serve_kept _ _ _ _ ?_)
    | with_reducible apply Kept.after (State.jobCancel_kept ..)

theorem State.spdRead_kept (s : State) (k : Packet) : Kept s (State.spdRead s k) := by
  unfold State.spdRead
  repeat' first
    | with_reducible assumption
    | with_reducible exact Kept.refl _
    | ((try lift_lets); intro x; first
        | (refine Kept.cut (t := x) ?_ fun h => ?_; rotate_left; clear_value x; rotate_left; (try unfold x))
        | skip)
    | with_reducible apply Kept.after (State.askXfers_kept ..)
    | with_reducible apply Kept.after (State.startJob_kept ..)
    | with_reducible apply Kept.after (State.spdStopped_kept ..)
    | with_reducible refine Kept.foldl (hf := fun _ _ => ?_) (h := ?_)
    | split
    | dsimp +zetaDelta only
    | with_reducible refine Kept.upd ?_

theorem execSpdRead_kept (s : State) : ∃ s₁, execSpdRead s = .next s₁ ∧ Kept s s₁ := by
  refine ⟨_, rfl, ?_⟩
  repeat' first
    | with_reducible assumption
    | with_reducible exact Kept.refl _
    | ((try lift_lets); intro x; first
        | (refine Kept.cut (t := x) ?_ fun h => ?_; rotate_left; clear_value x; rotate_left; (try unfold x))
        | skip)
    | with_reducible apply Kept.after (State.serve_kept _ _ _ _ ?_)
    | with_reducible apply Kept.after (State.spdRead_kept ..)

theorem State.spdFetch_kept (s : State) (k : Packet) : Kept s (State.spdFetch s k) := by
  unfold State.spdFetch
  repeat' first
    | with_reducible exact Kept.refl _
    | with_reducible apply Kept.after (State.answer_kept ..)

theorem execSpdFetch_kept (s : State) : ∃ s₁, execSpdFetch s = .next s₁ ∧ Kept s s₁ := by
  refine ⟨_, rfl, ?_⟩
  repeat' first
    | with_reducible assumption
    | with_reducible exact Kept.refl _
    | ((try lift_lets); intro x; first
        | (refine Kept.cut (t := x) ?_ fun h => ?_; rotate_left; clear_value x; rotate_left; (try unfold x))
        | skip)
    | with_reducible apply Kept.after (State.serve_kept _ _ _ _ ?_)
    | with_reducible apply Kept.after (State.spdFetch_kept ..)

theorem State.i3cRead_kept (s : State) (k : Packet) : Kept s (State.i3cRead s k) := by
  unfold State.i3cRead
  repeat' first
    | with_reducible assumption
    | with_reducible exact Kept.refl _
    | ((try lift_lets); intro x; first
        | (refine Kept.cut (t := x) ?_ fun h => ?_; rotate_left; clear_value x; rotate_left; (try unfold x))
        | skip)
    | with_reducible apply Kept.after (State.slot_kept ..)
    | with_reducible apply Kept.after (State.holdRing_kept ..)
    | with_reducible apply Kept.after (State.askXfers_kept ..)
    | dsimp +zetaDelta only

theorem execI3cRead_kept (s : State) : ∃ s₁, execI3cRead s = .next s₁ ∧ Kept s s₁ := by
  refine ⟨_, rfl, ?_⟩
  repeat' first
    | with_reducible assumption
    | with_reducible exact Kept.refl _
    | ((try lift_lets); intro x; first
        | (refine Kept.cut (t := x) ?_ fun h => ?_; rotate_left; clear_value x; rotate_left; (try unfold x))
        | skip)
    | with_reducible apply Kept.after (State.serve_kept _ _ _ _ ?_)
    | with_reducible apply Kept.after (State.i3cRead_kept ..)

theorem State.pmicEnable_kept (s : State) (k : Packet) : Kept s (State.pmicEnable s k) := by
  unfold State.pmicEnable
  repeat' first
    | with_reducible exact Kept.refl _
    | with_reducible apply Kept.after (State.startJob_kept ..)
    | with_reducible apply Kept.after (State.nextEnable_kept ..)
    | split
    | dsimp +zetaDelta only
    | with_reducible refine Kept.upd ?_

theorem execPmicEnable_kept (s : State) : ∃ s₁, execPmicEnable s = .next s₁ ∧ Kept s s₁ := by
  refine ⟨_, rfl, ?_⟩
  repeat' first
    | with_reducible assumption
    | with_reducible exact Kept.refl _
    | ((try lift_lets); intro x; first
        | (refine Kept.cut (t := x) ?_ fun h => ?_; rotate_left; clear_value x; rotate_left; (try unfold x))
        | skip)
    | with_reducible apply Kept.after (State.serve_kept _ _ _ _ ?_)
    | with_reducible apply Kept.after (State.pmicEnable_kept ..)

theorem State.askWeir_kept (s : State) (k : Packet) (r : Fin 10) : Kept s (State.askWeir s k r) := by
  unfold State.askWeir
  repeat' first
    | with_reducible exact Kept.refl _
    | with_reducible apply Kept.after (State.holdRing_kept ..)
    | with_reducible apply Kept.after (State.ask_kept ..)
    | with_reducible apply Kept.after (State.after_kept ..)

theorem State.pmicSet_kept (s : State) (k : Packet) : Kept s (State.pmicSet s k) := by
  unfold State.pmicSet
  repeat' first
    | with_reducible exact Kept.refl _
    | with_reducible apply Kept.after (State.askWeir_kept ..)

theorem execPmicSet_kept (s : State) : ∃ s₁, execPmicSet s = .next s₁ ∧ Kept s s₁ := by
  refine ⟨_, rfl, ?_⟩
  repeat' first
    | with_reducible assumption
    | with_reducible exact Kept.refl _
    | ((try lift_lets); intro x; first
        | (refine Kept.cut (t := x) ?_ fun h => ?_; rotate_left; clear_value x; rotate_left; (try unfold x))
        | skip)
    | with_reducible apply Kept.after (State.serve_kept _ _ _ _ ?_)
    | with_reducible apply Kept.after (State.pmicSet_kept ..)

theorem State.train_kept (s : State) (k : Packet) : Kept s (State.train s k) := by
  unfold State.train
  repeat' first
    | with_reducible assumption
    | with_reducible exact Kept.refl _
    | ((try lift_lets); intro x; first
        | (refine Kept.cut (t := x) ?_ fun h => ?_; rotate_left; clear_value x; rotate_left; (try unfold x))
        | skip)
    | with_reducible apply Kept.after (State.modChan_kept ..)
    | with_reducible apply Kept.after (State.startJob_kept ..)
    | with_reducible refine Kept.foldl (hf := fun _ _ => ?_) (h := ?_)
    | dsimp +zetaDelta only
    | with_reducible refine Kept.upd ?_

theorem execTrain_kept (s : State) : ∃ s₁, execTrain s = .next s₁ ∧ Kept s s₁ := by
  refine ⟨_, rfl, ?_⟩
  repeat' first
    | with_reducible assumption
    | with_reducible exact Kept.refl _
    | ((try lift_lets); intro x; first
        | (refine Kept.cut (t := x) ?_ fun h => ?_; rotate_left; clear_value x; rotate_left; (try unfold x))
        | skip)
    | with_reducible apply Kept.after (State.serve_kept _ _ _ _ ?_)
    | with_reducible apply Kept.after (State.train_kept ..)

theorem State.mrRead_kept (s : State) (k : Packet) : Kept s (State.mrRead s k) := by
  unfold State.mrRead
  repeat' first
    | with_reducible exact Kept.refl _
    | with_reducible apply Kept.after (State.askWeir_kept ..)

theorem execMrRead_kept (s : State) : ∃ s₁, execMrRead s = .next s₁ ∧ Kept s s₁ := by
  refine ⟨_, rfl, ?_⟩
  repeat' first
    | with_reducible assumption
    | with_reducible exact Kept.refl _
    | ((try lift_lets); intro x; first
        | (refine Kept.cut (t := x) ?_ fun h => ?_; rotate_left; clear_value x; rotate_left; (try unfold x))
        | skip)
    | with_reducible apply Kept.after (State.serve_kept _ _ _ _ ?_)
    | with_reducible apply Kept.after (State.mrRead_kept ..)

theorem State.mrWrite_kept (s : State) (k : Packet) : Kept s (State.mrWrite s k) := by
  unfold State.mrWrite
  repeat' first
    | with_reducible exact Kept.refl _
    | with_reducible apply Kept.after (State.askWeir_kept ..)

theorem execMrWrite_kept (s : State) : ∃ s₁, execMrWrite s = .next s₁ ∧ Kept s s₁ := by
  refine ⟨_, rfl, ?_⟩
  repeat' first
    | with_reducible assumption
    | with_reducible exact Kept.refl _
    | ((try lift_lets); intro x; first
        | (refine Kept.cut (t := x) ?_ fun h => ?_; rotate_left; clear_value x; rotate_left; (try unfold x))
        | skip)
    | with_reducible apply Kept.after (State.serve_kept _ _ _ _ ?_)
    | with_reducible apply Kept.after (State.mrWrite_kept ..)

theorem State.patchLoad_kept (s : State) (k : Packet) : Kept s (State.patchLoad s k) := by
  unfold State.patchLoad
  repeat' first
    | with_reducible exact Kept.refl _
    | with_reducible apply Kept.after (State.startJob_kept ..)
    | dsimp +zetaDelta only
    | with_reducible refine Kept.upd ?_

theorem execPatchLoad_kept (s : State) : ∃ s₁, execPatchLoad s = .next s₁ ∧ Kept s s₁ := by
  refine ⟨_, rfl, ?_⟩
  repeat' first
    | with_reducible assumption
    | with_reducible exact Kept.refl _
    | ((try lift_lets); intro x; first
        | (refine Kept.cut (t := x) ?_ fun h => ?_; rotate_left; clear_value x; rotate_left; (try unfold x))
        | skip)
    | with_reducible apply Kept.after (State.serve_kept _ _ _ _ ?_)
    | with_reducible apply Kept.after (State.patchLoad_kept ..)

theorem State.scrub_kept (s : State) (k : Packet) : Kept s (State.scrub s k) := by
  unfold State.scrub
  repeat' first
    | with_reducible assumption
    | with_reducible exact Kept.refl _
    | ((try lift_lets); intro x; first
        | (refine Kept.cut (t := x) ?_ fun h => ?_; rotate_left; clear_value x; rotate_left; (try unfold x))
        | skip)
    | with_reducible apply Kept.after (State.startJob_kept ..)
    | with_reducible apply Kept.after (State.modScrub_kept ..)
    | with_reducible apply Kept.after (State.ask_kept ..)
    | with_reducible apply Kept.after (State.after_kept ..)
    | dsimp +zetaDelta only

theorem execScrub_kept (s : State) : ∃ s₁, execScrub s = .next s₁ ∧ Kept s s₁ := by
  refine ⟨_, rfl, ?_⟩
  repeat' first
    | with_reducible assumption
    | with_reducible exact Kept.refl _
    | ((try lift_lets); intro x; first
        | (refine Kept.cut (t := x) ?_ fun h => ?_; rotate_left; clear_value x; rotate_left; (try unfold x))
        | skip)
    | with_reducible apply Kept.after (State.serve_kept _ _ _ _ ?_)
    | with_reducible apply Kept.after (State.scrub_kept ..)

theorem State.patchInstall_kept (s : State) (k : Packet) : Kept s (State.patchInstall s k) := by
  unfold State.patchInstall
  repeat' first
    | with_reducible assumption
    | with_reducible exact Kept.refl _
    | ((try lift_lets); intro x; first
        | (refine Kept.cut (t := x) ?_ fun h => ?_; rotate_left; clear_value x; rotate_left; (try unfold x))
        | skip)
    | with_reducible apply Kept.after (State.startJob_kept ..)
    | with_reducible apply Kept.after (State.askPatch_kept ..)
    | with_reducible apply Kept.after (State.ask_kept ..)
    | with_reducible apply Kept.after (State.after_kept ..)
    | dsimp +zetaDelta only
    | with_reducible refine Kept.upd ?_

theorem execPatchInstall_kept (s : State) : ∃ s₁, execPatchInstall s = .next s₁ ∧ Kept s s₁ := by
  refine ⟨_, rfl, ?_⟩
  repeat' first
    | with_reducible assumption
    | with_reducible exact Kept.refl _
    | ((try lift_lets); intro x; first
        | (refine Kept.cut (t := x) ?_ fun h => ?_; rotate_left; clear_value x; rotate_left; (try unfold x))
        | skip)
    | with_reducible apply Kept.after (State.serve_kept _ _ _ _ ?_)
    | with_reducible apply Kept.after (State.patchInstall_kept ..)

theorem State.beginPpr_kept (s : State) (c : ChanId) (row : Nat) (hard restore : Bool) : Kept s (State.beginPpr s c row hard restore) := by
  unfold State.beginPpr
  repeat' first
    | with_reducible assumption
    | with_reducible exact Kept.refl _
    | ((try lift_lets); intro x; first
        | (refine Kept.cut (t := x) ?_ fun h => ?_; rotate_left; clear_value x; rotate_left; (try unfold x))
        | skip)
    | with_reducible apply Kept.after (State.modPpr_kept ..)
    | with_reducible apply Kept.after (State.modPatch_kept ..)
    | with_reducible apply Kept.after (State.ask_kept ..)
    | with_reducible apply Kept.after (State.after_kept ..)
    | dsimp +zetaDelta only
    | with_reducible refine Kept.upd ?_

theorem State.ppr_kept (s : State) (k : Packet) : Kept s (State.ppr s k) := by
  unfold State.ppr
  repeat' first
    | with_reducible exact Kept.refl _
    | with_reducible apply Kept.after (State.startJob_kept ..)
    | with_reducible apply Kept.after (State.beginPpr_kept ..)

theorem execPpr_kept (s : State) : ∃ s₁, execPpr s = .next s₁ ∧ Kept s s₁ := by
  refine ⟨_, rfl, ?_⟩
  repeat' first
    | with_reducible assumption
    | with_reducible exact Kept.refl _
    | ((try lift_lets); intro x; first
        | (refine Kept.cut (t := x) ?_ fun h => ?_; rotate_left; clear_value x; rotate_left; (try unfold x))
        | skip)
    | with_reducible apply Kept.after (State.serve_kept _ _ _ _ ?_)
    | with_reducible apply Kept.after (State.ppr_kept ..)

theorem State.pprUnstage_kept (s : State) (k : Packet) : Kept s (State.pprUnstage s k) := by
  unfold State.pprUnstage
  repeat' first
    | with_reducible assumption
    | with_reducible exact Kept.refl _
    | ((try lift_lets); intro x; first
        | (refine Kept.cut (t := x) ?_ fun h => ?_; rotate_left; clear_value x; rotate_left; (try unfold x))
        | skip)
    | with_reducible apply Kept.after (State.startJob_kept ..)
    | with_reducible apply Kept.after (State.modPpr_kept ..)
    | with_reducible apply Kept.after (State.ask_kept ..)
    | with_reducible apply Kept.after (State.after_kept ..)
    | dsimp +zetaDelta only

theorem execPprUnstage_kept (s : State) : ∃ s₁, execPprUnstage s = .next s₁ ∧ Kept s s₁ := by
  refine ⟨_, rfl, ?_⟩
  repeat' first
    | with_reducible assumption
    | with_reducible exact Kept.refl _
    | ((try lift_lets); intro x; first
        | (refine Kept.cut (t := x) ?_ fun h => ?_; rotate_left; clear_value x; rotate_left; (try unfold x))
        | skip)
    | with_reducible apply Kept.after (State.serve_kept _ _ _ _ ?_)
    | with_reducible apply Kept.after (State.pprUnstage_kept ..)

theorem State.takeRung_kept (s : State) (c : ChanId) (rung : Nat) : Kept s (State.takeRung s c rung) := by
  unfold State.takeRung
  repeat' first
    | with_reducible assumption
    | with_reducible exact Kept.refl _
    | ((try lift_lets); intro x; first
        | (refine Kept.cut (t := x) ?_ fun h => ?_; rotate_left; clear_value x; rotate_left; (try unfold x))
        | skip)
    | with_reducible apply Kept.after (State.ladder_kept ..)
    | with_reducible apply Kept.after (State.finishLine_kept ..)
    | with_reducible apply Kept.after (State.rung_kept ..)
    | with_reducible apply Kept.after (State.askPatch_kept ..)
    | with_reducible apply Kept.after (State.ask_kept ..)
    | with_reducible apply Kept.after (State.after_kept ..)
    | with_reducible apply Kept.after (State.beginPpr_kept ..)
    | with_reducible apply Kept.after (State.takeErase_kept ..)
    | with_reducible apply Kept.after (State.takeDegrade_kept ..)
    | split
    | dsimp +zetaDelta only
    | with_reducible refine Kept.upd ?_

theorem State.ladderTake_kept (s : State) (k : Packet) : Kept s (State.ladderTake s k) := by
  unfold State.ladderTake
  repeat' first
    | with_reducible assumption
    | with_reducible exact Kept.refl _
    | ((try lift_lets); intro x; first
        | (refine Kept.cut (t := x) ?_ fun h => ?_; rotate_left; clear_value x; rotate_left; (try unfold x))
        | skip)
    | with_reducible apply Kept.after (State.ladder_kept ..)
    | with_reducible apply Kept.after (State.rung_kept ..)
    | with_reducible apply Kept.after (State.startJob_kept ..)
    | with_reducible apply Kept.after (State.takeRung_kept ..)
    | split
    | dsimp +zetaDelta only
    | with_reducible refine Kept.upd ?_

theorem execLadderTake_kept (s : State) : ∃ s₁, execLadderTake s = .next s₁ ∧ Kept s s₁ := by
  refine ⟨_, rfl, ?_⟩
  repeat' first
    | with_reducible assumption
    | with_reducible exact Kept.refl _
    | ((try lift_lets); intro x; first
        | (refine Kept.cut (t := x) ?_ fun h => ?_; rotate_left; clear_value x; rotate_left; (try unfold x))
        | skip)
    | with_reducible apply Kept.after (State.serve_kept _ _ _ _ ?_)
    | with_reducible apply Kept.after (State.ladderTake_kept ..)
    | with_reducible apply Kept.after (State.settleAll_kept ..)
    | with_reducible apply Kept.after (State.sweepFails_kept ..)

theorem State.degradeRank_kept (s : State) (k : Packet) : Kept s (State.degradeRank s k) := by
  unfold State.degradeRank
  repeat' first
    | with_reducible assumption
    | with_reducible exact Kept.refl _
    | ((try lift_lets); intro x; first
        | (refine Kept.cut (t := x) ?_ fun h => ?_; rotate_left; clear_value x; rotate_left; (try unfold x))
        | skip)
    | with_reducible apply Kept.after (State.askDegrade_kept ..)
    | with_reducible apply Kept.after (State.ask_kept ..)
    | with_reducible apply Kept.after (State.answer_kept ..)
    | dsimp +zetaDelta only

theorem execDegradeRank_kept (s : State) : ∃ s₁, execDegradeRank s = .next s₁ ∧ Kept s s₁ := by
  refine ⟨_, rfl, ?_⟩
  repeat' first
    | with_reducible assumption
    | with_reducible exact Kept.refl _
    | ((try lift_lets); intro x; first
        | (refine Kept.cut (t := x) ?_ fun h => ?_; rotate_left; clear_value x; rotate_left; (try unfold x))
        | skip)
    | with_reducible apply Kept.after (State.serve_kept _ _ _ _ ?_)
    | with_reducible apply Kept.after (State.degradeRank_kept ..)
    | with_reducible apply Kept.after (State.settleAll_kept ..)

theorem State.startSweep_kept (s : State) (k : Packet) : Kept s (State.startSweep s k) := by
  unfold State.startSweep
  repeat' first
    | with_reducible assumption
    | with_reducible exact Kept.refl _
    | ((try lift_lets); intro x; first
        | (refine Kept.cut (t := x) ?_ fun h => ?_; rotate_left; clear_value x; rotate_left; (try unfold x))
        | skip)
    | with_reducible apply Kept.after (State.startJob_kept ..)
    | with_reducible apply Kept.after (State.modSweep_kept ..)
    | with_reducible refine Kept.foldl (hf := fun _ _ => ?_) (h := ?_)
    | split
    | dsimp +zetaDelta only
    | with_reducible refine Kept.upd ?_

theorem execTallyZero_kept (s : State) : ∃ s₁, execTallyZero s = .next s₁ ∧ Kept s s₁ := by
  refine ⟨_, rfl, ?_⟩
  repeat' first
    | with_reducible assumption
    | with_reducible exact Kept.refl _
    | ((try lift_lets); intro x; first
        | (refine Kept.cut (t := x) ?_ fun h => ?_; rotate_left; clear_value x; rotate_left; (try unfold x))
        | skip)
    | with_reducible apply Kept.after (State.serve_kept _ _ _ _ ?_)
    | with_reducible apply Kept.after (State.startSweep_kept ..)

theorem execResweep_kept (s : State) : ∃ s₁, execResweep s = .next s₁ ∧ Kept s s₁ := by
  refine ⟨_, rfl, ?_⟩
  repeat' first
    | with_reducible assumption
    | with_reducible exact Kept.refl _
    | ((try lift_lets); intro x; first
        | (refine Kept.cut (t := x) ?_ fun h => ?_; rotate_left; clear_value x; rotate_left; (try unfold x))
        | skip)
    | with_reducible apply Kept.after (State.serve_kept _ _ _ _ ?_)
    | with_reducible apply Kept.after (State.startSweep_kept ..)

theorem State.newModule_kept (s : State) (c : ChanId) : Kept s (State.newModule s c) := by
  unfold State.newModule
  repeat' first
    | with_reducible assumption
    | with_reducible exact Kept.refl _
    | ((try lift_lets); intro x; first
        | (refine Kept.cut (t := x) ?_ fun h => ?_; rotate_left; clear_value x; rotate_left; (try unfold x))
        | skip)
    | with_reducible apply Kept.after (State.modPatch_kept ..)
    | dsimp +zetaDelta only
    | with_reducible refine Kept.upd ?_

theorem State.rebuild_kept (s : State) (k : Packet) : Kept s (State.rebuild s k) := by
  unfold State.rebuild
  repeat' first
    | with_reducible assumption
    | with_reducible exact Kept.refl _
    | ((try lift_lets); intro x; first
        | (refine Kept.cut (t := x) ?_ fun h => ?_; rotate_left; clear_value x; rotate_left; (try unfold x))
        | skip)
    | with_reducible apply Kept.after (State.startJob_kept ..)
    | with_reducible apply Kept.after (State.newModule_kept ..)
    | with_reducible apply Kept.after (State.modReb_kept ..)
    | with_reducible apply Kept.after (State.ask_kept ..)
    | with_reducible apply Kept.after (State.after_kept ..)
    | with_reducible refine Kept.foldl (hf := fun _ _ => ?_) (h := ?_)
    | split
    | dsimp +zetaDelta only

theorem execRebuild_kept (s : State) : ∃ s₁, execRebuild s = .next s₁ ∧ Kept s s₁ := by
  refine ⟨_, rfl, ?_⟩
  repeat' first
    | with_reducible assumption
    | with_reducible exact Kept.refl _
    | ((try lift_lets); intro x; first
        | (refine Kept.cut (t := x) ?_ fun h => ?_; rotate_left; clear_value x; rotate_left; (try unfold x))
        | skip)
    | with_reducible apply Kept.after (State.serve_kept _ _ _ _ ?_)
    | with_reducible apply Kept.after (State.rebuild_kept ..)

theorem State.stopMaint_kept (s : State) (c : ChanId) : Kept s (State.stopMaint s c) := by
  unfold State.stopMaint
  repeat' first
    | with_reducible assumption
    | with_reducible exact Kept.refl _
    | ((try lift_lets); intro x; first
        | (refine Kept.cut (t := x) ?_ fun h => ?_; rotate_left; clear_value x; rotate_left; (try unfold x))
        | skip)
    | with_reducible apply Kept.after (State.ppr_kept ..)
    | with_reducible apply Kept.after (State.modChan_kept ..)
    | with_reducible apply Kept.after (State.scrub_kept ..)
    | with_reducible apply Kept.after (State.releaseHeld_kept ..)
    | with_reducible apply Kept.after (State.modJobs_kept ..)
    | with_reducible apply Kept.after (State.useFree_kept ..)
    | with_reducible refine Kept.foldl (hf := fun _ _ => ?_) (h := ?_)
    | split
    | dsimp +zetaDelta only
    | with_reducible refine Kept.upd ?_

theorem State.prepare_kept (s : State) (k : Packet) : Kept s (State.prepare s k) := by
  unfold State.prepare
  repeat' first
    | with_reducible assumption
    | with_reducible exact Kept.refl _
    | ((try lift_lets); intro x; first
        | (refine Kept.cut (t := x) ?_ fun h => ?_; rotate_left; clear_value x; rotate_left; (try unfold x))
        | skip)
    | with_reducible apply Kept.after (State.startJob_kept ..)
    | with_reducible apply Kept.after (State.stopMaint_kept ..)
    | with_reducible apply Kept.after (State.beginExit_kept ..)
    | with_reducible apply Kept.after (State.modChan_kept ..)
    | with_reducible apply Kept.after (State.after_kept ..)
    | split
    | dsimp +zetaDelta only
    | with_reducible refine Kept.upd ?_

theorem execPrepare_kept (s : State) : ∃ s₁, execPrepare s = .next s₁ ∧ Kept s s₁ := by
  refine ⟨_, rfl, ?_⟩
  repeat' first
    | with_reducible assumption
    | with_reducible exact Kept.refl _
    | ((try lift_lets); intro x; first
        | (refine Kept.cut (t := x) ?_ fun h => ?_; rotate_left; clear_value x; rotate_left; (try unfold x))
        | skip)
    | with_reducible apply Kept.after (State.serve_kept _ _ _ _ ?_)
    | with_reducible apply Kept.after (State.prepare_kept ..)

theorem State.idleEnter_kept (s : State) (k : Packet) : Kept s (State.idleEnter s k) := by
  unfold State.idleEnter
  repeat' first
    | with_reducible assumption
    | with_reducible exact Kept.refl _
    | ((try lift_lets); intro x; first
        | (refine Kept.cut (t := x) ?_ fun h => ?_; rotate_left; clear_value x; rotate_left; (try unfold x))
        | skip)
    | with_reducible apply Kept.after (State.holdRing_kept ..)
    | with_reducible apply Kept.after (State.beginIdle_kept ..)
    | with_reducible apply Kept.after (State.finishIdle_kept ..)
    | with_reducible refine Kept.foldl (hf := fun _ _ => ?_) (h := ?_)
    | split
    | dsimp +zetaDelta only
    | with_reducible refine Kept.upd ?_

theorem execIdleEnter_kept (s : State) : ∃ s₁, execIdleEnter s = .next s₁ ∧ Kept s s₁ := by
  refine ⟨_, rfl, ?_⟩
  repeat' first
    | with_reducible assumption
    | with_reducible exact Kept.refl _
    | ((try lift_lets); intro x; first
        | (refine Kept.cut (t := x) ?_ fun h => ?_; rotate_left; clear_value x; rotate_left; (try unfold x))
        | skip)
    | with_reducible apply Kept.after (State.serve_kept _ _ _ _ ?_)
    | with_reducible apply Kept.after (State.idleEnter_kept ..)

theorem State.idleExit_kept (s : State) (k : Packet) : Kept s (State.idleExit s k) := by
  unfold State.idleExit
  repeat' first
    | with_reducible assumption
    | with_reducible exact Kept.refl _
    | ((try lift_lets); intro x; first
        | (refine Kept.cut (t := x) ?_ fun h => ?_; rotate_left; clear_value x; rotate_left; (try unfold x))
        | skip)
    | with_reducible apply Kept.after (State.holdRing_kept ..)
    | with_reducible apply Kept.after (State.beginExit_kept ..)
    | with_reducible apply Kept.after (State.finishIdle_kept ..)
    | with_reducible refine Kept.foldl (hf := fun _ _ => ?_) (h := ?_)
    | split
    | dsimp +zetaDelta only
    | with_reducible refine Kept.upd ?_

theorem execIdleExit_kept (s : State) : ∃ s₁, execIdleExit s = .next s₁ ∧ Kept s s₁ := by
  refine ⟨_, rfl, ?_⟩
  repeat' first
    | with_reducible assumption
    | with_reducible exact Kept.refl _
    | ((try lift_lets); intro x; first
        | (refine Kept.cut (t := x) ?_ fun h => ?_; rotate_left; clear_value x; rotate_left; (try unfold x))
        | skip)
    | with_reducible apply Kept.after (State.serve_kept _ _ _ _ ?_)
    | with_reducible apply Kept.after (State.idleExit_kept ..)

theorem State.slumber_kept (s : State) (k : Packet) : Kept s (State.slumber s k) := by
  unfold State.slumber
  repeat' first
    | with_reducible assumption
    | with_reducible exact Kept.refl _
    | ((try lift_lets); intro x; first
        | (refine Kept.cut (t := x) ?_ fun h => ?_; rotate_left; clear_value x; rotate_left; (try unfold x))
        | skip)
    | with_reducible apply Kept.after (State.holdRing_kept ..)
    | with_reducible apply Kept.after (State.levelEvents_kept ..)
    | with_reducible apply Kept.after (State.slumberStep_kept ..)
    | dsimp +zetaDelta only
    | with_reducible refine Kept.upd ?_

theorem execSlumber_kept (s : State) : ∃ s₁, execSlumber s = .next s₁ ∧ Kept s s₁ := by
  refine ⟨_, rfl, ?_⟩
  repeat' first
    | with_reducible assumption
    | with_reducible exact Kept.refl _
    | ((try lift_lets); intro x; first
        | (refine Kept.cut (t := x) ?_ fun h => ?_; rotate_left; clear_value x; rotate_left; (try unfold x))
        | skip)
    | with_reducible apply Kept.after (State.serve_kept _ _ _ _ ?_)
    | with_reducible apply Kept.after (State.slumber_kept ..)

theorem State.sluiceCmd_kept (s : State) (k : Packet) : Kept s (State.sluiceCmd s k) := by
  unfold State.sluiceCmd
  repeat' first
    | with_reducible exact Kept.refl _
    | with_reducible apply Kept.after (State.answer_kept ..)
    | with_reducible apply Kept.after (State.strobe_kept ..)

theorem execSluice_kept (s : State) : ∃ s₁, execSluice s = .next s₁ ∧ Kept s s₁ := by
  refine ⟨_, rfl, ?_⟩
  repeat' first
    | with_reducible assumption
    | with_reducible exact Kept.refl _
    | ((try lift_lets); intro x; first
        | (refine Kept.cut (t := x) ?_ fun h => ?_; rotate_left; clear_value x; rotate_left; (try unfold x))
        | skip)
    | with_reducible apply Kept.after (State.serve_kept _ _ _ _ ?_)
    | with_reducible apply Kept.after (State.sluiceCmd_kept ..)
    | with_reducible apply Kept.after (State.sweepFails_kept ..)

theorem State.millAction_kept (s : State) (k : Packet) : Kept s (State.millAction s k) := by
  unfold State.millAction
  repeat' first
    | with_reducible exact Kept.refl _
    | with_reducible apply Kept.after (State.holdRing_kept ..)
    | with_reducible apply Kept.after (State.store_kept ..)
    | with_reducible apply Kept.after (State.postNow_kept ..)

theorem execMillAction_kept (s : State) : ∃ s₁, execMillAction s = .next s₁ ∧ Kept s s₁ := by
  refine ⟨_, rfl, ?_⟩
  repeat' first
    | with_reducible assumption
    | with_reducible exact Kept.refl _
    | ((try lift_lets); intro x; first
        | (refine Kept.cut (t := x) ?_ fun h => ?_; rotate_left; clear_value x; rotate_left; (try unfold x))
        | skip)
    | with_reducible apply Kept.after (State.serve_kept _ _ _ _ ?_)
    | with_reducible apply Kept.after (State.millAction_kept ..)

theorem State.evrChallenge_kept (s : State) (k : Packet) : Kept s (State.evrChallenge s k) := by
  unfold State.evrChallenge
  repeat' first
    | with_reducible assumption
    | with_reducible exact Kept.refl _
    | ((try lift_lets); intro x; first
        | (refine Kept.cut (t := x) ?_ fun h => ?_; rotate_left; clear_value x; rotate_left; (try unfold x))
        | skip)
    | with_reducible apply Kept.after (State.answer_kept ..)
    | with_reducible apply Kept.after (State.useFree_kept ..)
    | dsimp +zetaDelta only
    | with_reducible refine Kept.upd ?_

theorem execEvrChallenge_kept (s : State) : ∃ s₁, execEvrChallenge s = .next s₁ ∧ Kept s s₁ := by
  refine ⟨_, rfl, ?_⟩
  repeat' first
    | with_reducible assumption
    | with_reducible exact Kept.refl _
    | ((try lift_lets); intro x; first
        | (refine Kept.cut (t := x) ?_ fun h => ?_; rotate_left; clear_value x; rotate_left; (try unfold x))
        | skip)
    | with_reducible apply Kept.after (State.serve_kept _ _ _ _ ?_)
    | with_reducible apply Kept.after (State.evrChallenge_kept ..)

theorem State.clearRecords_kept (s : State) : Kept s (State.clearRecords s) := by
  unfold State.clearRecords
  repeat' first
    | with_reducible assumption
    | with_reducible exact Kept.refl _
    | ((try lift_lets); intro x; first
        | (refine Kept.cut (t := x) ?_ fun h => ?_; rotate_left; clear_value x; rotate_left; (try unfold x))
        | skip)
    | with_reducible apply Kept.after (State.writeCounter_kept ..)
    | with_reducible apply Kept.after (State.raise_kept ..)
    | dsimp +zetaDelta only
    | with_reducible refine Kept.upd ?_

theorem State.evrClear_kept (s : State) (k : Packet) : Kept s (State.evrClear s k) := by
  unfold State.evrClear
  repeat' first
    | with_reducible assumption
    | with_reducible exact Kept.refl _
    | ((try lift_lets); intro x; first
        | (refine Kept.cut (t := x) ?_ fun h => ?_; rotate_left; clear_value x; rotate_left; (try unfold x))
        | skip)
    | with_reducible apply Kept.after (State.clearRecords_kept ..)
    | with_reducible apply Kept.after (State.answer_kept ..)
    | with_reducible apply Kept.after (State.note_kept ..)
    | with_reducible apply Kept.after (State.raise_kept ..)
    | split
    | dsimp +zetaDelta only

theorem State.consumed_kept (s t : State) (h : Kept s t) : Kept s (State.consumed s t) := by
  unfold State.consumed
  repeat' first
    | exact h
    | exact Kept.upd h
    | split

theorem execEvrClear_kept (s : State) : ∃ s₁, execEvrClear s = .next s₁ ∧ Kept s s₁ :=
  ⟨_, rfl, State.consumed_kept _ _ (State.serve_kept _ _ _ _ State.evrClear_kept)⟩

theorem State.withdraw_kept (s : State) (u : Cur) : Kept s (State.withdraw s u) := by
  unfold State.withdraw
  repeat' first
    | with_reducible assumption
    | with_reducible exact Kept.refl _
    | ((try lift_lets); intro x; first
        | (refine Kept.cut (t := x) ?_ fun h => ?_; rotate_left; clear_value x; rotate_left; (try unfold x))
        | skip)
    | with_reducible apply Kept.after (State.i3cRead_kept ..)
    | with_reducible apply Kept.after (State.pmicSet_kept ..)
    | with_reducible apply Kept.after (State.modChan_kept ..)
    | with_reducible apply Kept.after (State.replyCur_kept ..)
    | with_reducible apply Kept.after (State.after_kept ..)
    | dsimp +zetaDelta only
    | with_reducible refine Kept.upd ?_

theorem State.endIdle_kept (s : State) (u : Cur) : Kept s (State.endIdle s u) := by
  unfold State.endIdle
  repeat' first
    | with_reducible assumption
    | with_reducible exact Kept.refl _
    | ((try lift_lets); intro x; first
        | (refine Kept.cut (t := x) ?_ fun h => ?_; rotate_left; clear_value x; rotate_left; (try unfold x))
        | skip)
    | with_reducible apply Kept.after (State.leaveEntry_kept ..)
    | with_reducible apply Kept.after (State.finishIdle_kept ..)
    | with_reducible refine Kept.foldl (hf := fun _ _ => ?_) (h := ?_)
    | split
    | dsimp +zetaDelta only
    | with_reducible refine Kept.upd ?_

theorem execCommandTimeout_kept (s : State) : ∃ s₁, execCommandTimeout s = .next s₁ ∧ Kept s s₁ := by
  refine ⟨_, rfl, ?_⟩
  repeat' first
    | with_reducible exact Kept.refl _
    | with_reducible apply Kept.after (State.withdraw_kept ..)
    | with_reducible apply Kept.after (State.endIdle_kept ..)
    | split
    | with_reducible refine Kept.upd ?_

end Sys2Proof.Machine
end

