-- ==== Sys2Proof/Laws/KeptHostPort.lean ====
section
/-! SUPPORT. What the operations of Machine/HostPort.lean keep. -/

namespace Sys2Proof.Machine

set_option Elab.async false
set_option linter.all false

theorem State.portAfter_kept (s : State) (p : PortId) : Kept s (State.portAfter s p) := by
  unfold State.portAfter
  repeat' first
    | with_reducible exact Kept.refl _
    | with_reducible apply Kept.after (State.updFlood_kept ..)
    | with_reducible apply Kept.after (State.settleAll_kept ..)

theorem execNop_kept (p : PortId) (w : BitVec 144) (par : BitVec 18) (s : State) : ∃ s₁, execNop p w par s = .next s₁ ∧ Kept s s₁ := by
  refine ⟨_, rfl, ?_⟩
  repeat' first
    | with_reducible exact Kept.refl _
    | with_reducible apply Kept.after (State.takeRequest_kept ..)
    | with_reducible apply Kept.after (State.portAfter_kept ..)

theorem execRd_kept (p : PortId) (w : BitVec 144) (par : BitVec 18) (s : State) : ∃ s₁, execRd p w par s = .next s₁ ∧ Kept s s₁ := by
  refine ⟨_, rfl, ?_⟩
  repeat' first
    | with_reducible exact Kept.refl _
    | with_reducible apply Kept.after (State.takeRequest_kept ..)
    | with_reducible apply Kept.after (State.portAfter_kept ..)

theorem execRds_kept (p : PortId) (w : BitVec 144) (par : BitVec 18) (s : State) : ∃ s₁, execRds p w par s = .next s₁ ∧ Kept s s₁ := by
  refine ⟨_, rfl, ?_⟩
  repeat' first
    | with_reducible exact Kept.refl _
    | with_reducible apply Kept.after (State.takeRequest_kept ..)
    | with_reducible apply Kept.after (State.portAfter_kept ..)

theorem execWr_kept (p : PortId) (w : BitVec 144) (par : BitVec 18) (s : State) : ∃ s₁, execWr p w par s = .next s₁ ∧ Kept s s₁ := by
  refine ⟨_, rfl, ?_⟩
  repeat' first
    | with_reducible exact Kept.refl _
    | with_reducible apply Kept.after (State.takeRequest_kept ..)
    | with_reducible apply Kept.after (State.portAfter_kept ..)

theorem execWrp_kept (p : PortId) (w : BitVec 144) (par : BitVec 18) (s : State) : ∃ s₁, execWrp p w par s = .next s₁ ∧ Kept s s₁ := by
  refine ⟨_, rfl, ?_⟩
  repeat' first
    | with_reducible exact Kept.refl _
    | with_reducible apply Kept.after (State.takeRequest_kept ..)
    | with_reducible apply Kept.after (State.portAfter_kept ..)

theorem execWrs_kept (p : PortId) (w : BitVec 144) (par : BitVec 18) (s : State) : ∃ s₁, execWrs p w par s = .next s₁ ∧ Kept s s₁ := by
  refine ⟨_, rfl, ?_⟩
  repeat' first
    | with_reducible exact Kept.refl _
    | with_reducible apply Kept.after (State.takeRequest_kept ..)
    | with_reducible apply Kept.after (State.portAfter_kept ..)

theorem execEfence_kept (p : PortId) (w : BitVec 144) (par : BitVec 18) (s : State) : ∃ s₁, execEfence p w par s = .next s₁ ∧ Kept s s₁ := by
  refine ⟨_, rfl, ?_⟩
  repeat' first
    | with_reducible exact Kept.refl _
    | with_reducible apply Kept.after (State.takeRequest_kept ..)
    | with_reducible apply Kept.after (State.portAfter_kept ..)

theorem execPfence_kept (p : PortId) (w : BitVec 144) (par : BitVec 18) (s : State) : ∃ s₁, execPfence p w par s = .next s₁ ∧ Kept s s₁ := by
  refine ⟨_, rfl, ?_⟩
  repeat' first
    | with_reducible exact Kept.refl _
    | with_reducible apply Kept.after (State.takeRequest_kept ..)
    | with_reducible apply Kept.after (State.portAfter_kept ..)

theorem execWriteDataBeat_kept (p : PortId) (d : Line) (par : BitVec 64) (last : Bool) (s : State) : ∃ s₁, execWriteDataBeat p d par last s = .next s₁ ∧ Kept s s₁ := by
  refine ⟨_, rfl, ?_⟩
  repeat' first
    | with_reducible exact Kept.refl _
    | with_reducible apply Kept.after (State.takeBeat_kept ..)
    | with_reducible apply Kept.after (State.portAfter_kept ..)

theorem execResponseCreditReturn_kept (p : PortId) (s : State) : ∃ s₁, execResponseCreditReturn p s = .next s₁ ∧ Kept s s₁ := by
  refine ⟨_, rfl, ?_⟩
  repeat' first
    | with_reducible exact Kept.refl _
    | with_reducible apply Kept.after (State.takeRspCredit_kept ..)
    | with_reducible apply Kept.after (State.portAfter_kept ..)

theorem execRequestAdmit_kept (p : PortId) (s : State) : ∃ s₁, execRequestAdmit p s = .next s₁ ∧ Kept s s₁ := by
  refine ⟨_, rfl, ?_⟩
  repeat' first
    | with_reducible exact Kept.refl _
    | with_reducible apply Kept.after (State.admitFront_kept ..)
    | with_reducible apply Kept.after (State.portAfter_kept ..)

theorem State.sendBeat_kept (s : State) (p : PortId) (f : Flight) (b : Rsp) : Kept s (State.sendBeat s p f b) := by
  unfold State.sendBeat
  repeat' first
    | with_reducible assumption
    | with_reducible exact Kept.refl _
    | ((try lift_lets); intro x; first
        | (refine Kept.cut (t := x) ?_ fun h => ?_; rotate_left; clear_value x; rotate_left; (try unfold x))
        | skip)
    | with_reducible apply Kept.after (State.readG_kept ..)
    | with_reducible apply Kept.after (State.modPort_kept ..)
    | dsimp +zetaDelta only
    | with_reducible refine Kept.upd ?_

theorem execResponseBeat_kept (p : PortId) (s : State) : ∃ s₁, execResponseBeat p s = .next s₁ ∧ Kept s s₁ := by
  refine ⟨_, rfl, ?_⟩
  repeat' first
    | with_reducible exact Kept.refl _
    | with_reducible apply Kept.after (State.sendBeat_kept ..)
    | with_reducible apply Kept.after (State.portAfter_kept ..)
    | split
    | with_reducible refine Kept.upd ?_

end Sys2Proof.Machine
end

