-- ==== Sys2Proof/Laws/KeptTide.lean ====
section
/-! SUPPORT. What the operations of Machine/Tide.lean keep. -/

namespace Sys2Proof.Machine

set_option Elab.async false
set_option linter.all false

theorem State.syncMark_kept (s : State) (seen : List (ChanId × Nat)) (c : ChanId) : Kept s (State.syncMark s seen c) := by
  unfold State.syncMark
  repeat' first
    | with_reducible assumption
    | with_reducible exact Kept.refl _
    | ((try lift_lets); intro x; first
        | (refine Kept.cut (t := x) ?_ fun h => ?_; rotate_left; clear_value x; rotate_left; (try unfold x))
        | skip)
    | with_reducible apply Kept.after (State.modChan_kept ..)
    | with_reducible apply Kept.after (State.raiseChan_kept ..)
    | split
    | dsimp +zetaDelta only

theorem State.sendMark_kept (s : State) (seen : List (ChanId × Nat)) : Kept s (State.sendMark s seen) := by
  unfold State.sendMark
  repeat' first
    | with_reducible assumption
    | with_reducible exact Kept.refl _
    | ((try lift_lets); intro x; first
        | (refine Kept.cut (t := x) ?_ fun h => ?_; rotate_left; clear_value x; rotate_left; (try unfold x))
        | skip)
    | with_reducible apply Kept.after (State.syncMark_kept ..)
    | with_reducible refine Kept.foldl (hf := fun _ _ => ?_) (h := ?_)
    | dsimp +zetaDelta only

theorem State.postSlot_kept (s : State) (k : Fin 8) (T : Nat) : Kept s (State.postSlot s k T) := by
  unfold State.postSlot
  repeat' first
    | with_reducible assumption
    | with_reducible exact Kept.refl _
    | ((try lift_lets); intro x; first
        | (refine Kept.cut (t := x) ?_ fun h => ?_; rotate_left; clear_value x; rotate_left; (try unfold x))
        | skip)
    | with_reducible apply Kept.after (State.strobe_kept ..)
    | split
    | dsimp +zetaDelta only
    | with_reducible refine Kept.upd ?_

theorem State.cut_kept (s : State) : Kept s (State.cut s) := by
  unfold State.cut
  repeat' first
    | with_reducible assumption
    | with_reducible exact Kept.refl _
    | ((try lift_lets); intro x; first
        | (refine Kept.cut (t := x) ?_ fun h => ?_; rotate_left; clear_value x; rotate_left; (try unfold x))
        | skip)
    | with_reducible apply Kept.after (State.settle_kept ..)
    | with_reducible apply Kept.after (State.updWithhold_kept ..)
    | split
    | dsimp +zetaDelta only
    | with_reducible refine Kept.upd ?_

theorem State.strobeUpd_kept (s : State) (data : Word) : Kept s (State.strobeUpd s data) := by
  unfold State.strobeUpd
  repeat' first
    | with_reducible exact Kept.refl _
    | with_reducible apply Kept.after (State.postNow_kept ..)
    | split

theorem execUpdStrobe_kept (data : Word) (s : State) : ∃ s₁, execUpdStrobe data s = .next s₁ ∧ Kept s s₁ := by
  refine ⟨_, rfl, ?_⟩
  repeat' first
    | with_reducible assumption
    | with_reducible exact Kept.refl _
    | ((try lift_lets); intro x; first
        | (refine Kept.cut (t := x) ?_ fun h => ?_; rotate_left; clear_value x; rotate_left; (try unfold x))
        | skip)
    | with_reducible apply Kept.after (State.ctl_kept _ _ ?_)
    | with_reducible apply Kept.after (State.strobeUpd_kept ..)
    | dsimp +zetaDelta only

theorem State.armAt_kept (s : State) : Kept s (State.armAt s) := by
  unfold State.armAt
  repeat' first
    | with_reducible exact Kept.refl _
    | split
    | with_reducible refine Kept.upd ?_

theorem State.cancelAt_kept (s : State) : Kept s (State.cancelAt s) := by
  unfold State.cancelAt
  repeat' first
    | with_reducible exact Kept.refl _
    | with_reducible refine Kept.upd ?_

theorem execUpdAtArm_kept (s : State) : ∃ s₁, execUpdAtArm s = .next s₁ ∧ Kept s s₁ := by
  refine ⟨_, rfl, ?_⟩
  repeat' first
    | with_reducible assumption
    | with_reducible exact Kept.refl _
    | ((try lift_lets); intro x; first
        | (refine Kept.cut (t := x) ?_ fun h => ?_; rotate_left; clear_value x; rotate_left; (try unfold x))
        | skip)
    | with_reducible apply Kept.after (State.ctl_kept _ _ ?_)
    | with_reducible apply Kept.after (State.armAt_kept ..)

theorem execUpdAtCancel_kept (s : State) : ∃ s₁, execUpdAtCancel s = .next s₁ ∧ Kept s s₁ := by
  refine ⟨_, rfl, ?_⟩
  repeat' first
    | with_reducible assumption
    | with_reducible exact Kept.refl _
    | ((try lift_lets); intro x; first
        | (refine Kept.cut (t := x) ?_ fun h => ?_; rotate_left; clear_value x; rotate_left; (try unfold x))
        | skip)
    | with_reducible apply Kept.after (State.ctl_kept _ _ ?_)
    | with_reducible apply Kept.after (State.cancelAt_kept ..)

theorem State.postArmed_kept (s : State) : Kept s (State.postArmed s) := by
  unfold State.postArmed
  repeat' first
    | with_reducible exact Kept.refl _
    | with_reducible apply Kept.after (State.post_kept ..)
    | with_reducible refine Kept.upd ?_

end Sys2Proof.Machine
end

