-- ==== Sys2Proof/Laws/KeptLaunch.lean ====
section
/-! SUPPORT. What the operations of Machine/Launch.lean keep. -/

namespace Sys2Proof.Machine

set_option Elab.async false
set_option linter.all false

theorem State.advance_kept (s : State) (T : Nat) : Kept s (State.advance s T) := by
  have key : s.tide < T → Kept s { s with tide := T } := by
    intro h
    constructor <;> simp [State.inReset, State.ticking, State.Inv, State.canonical, State.bounded] <;> omega
  unfold State.advance
  split
  · rename_i h
    exact Kept.after (State.sledFalls_kept ..) (Kept.after (State.landHeld_kept ..) (Kept.after (State.nextCclk_kept ..) (key h)))
  · exact Kept.refl s

theorem State.cuts_kept (s : State) : Kept s (State.cuts s) := by
  unfold State.cuts
  repeat' first
    | with_reducible exact Kept.refl _
    | with_reducible apply Kept.after (State.strobe_kept ..)
    | with_reducible apply Kept.after (State.cut_kept ..)
    | split

theorem State.postDue_kept (s : State) (k : Fin 8) : Kept s (State.postDue s k) := by
  unfold State.postDue
  repeat' first
    | with_reducible exact Kept.refl _
    | with_reducible apply Kept.after (State.postSlot_kept ..)
    | split
    | with_reducible refine Kept.upd ?_

theorem State.posts_kept (s : State) : Kept s (State.posts s) := by
  unfold State.posts
  repeat' first
    | with_reducible assumption
    | with_reducible exact Kept.refl _
    | ((try lift_lets); intro x; first
        | (refine Kept.cut (t := x) ?_ fun h => ?_; rotate_left; clear_value x; rotate_left; (try unfold x))
        | skip)
    | with_reducible apply Kept.after (State.postDue_kept ..)
    | with_reducible apply Kept.after (State.postArmed_kept ..)
    | with_reducible refine Kept.foldl (hf := fun _ _ => ?_) (h := ?_)
    | split
    | dsimp +zetaDelta only

theorem State.takeSlots_kept (s : State) (wins pauses : List PostedSlot) (c : ChanId) (x : Sub) : Kept s (State.takeSlots s wins pauses c x) := by
  unfold State.takeSlots
  repeat' first
    | with_reducible assumption
    | with_reducible exact Kept.refl _
    | ((try lift_lets); intro x; first
        | (refine Kept.cut (t := x) ?_ fun h => ?_; rotate_left; clear_value x; rotate_left; (try unfold x))
        | skip)
    | with_reducible apply Kept.after (State.window__kept ..)
    | with_reducible apply Kept.after (State.pause_kept ..)
    | split
    | dsimp +zetaDelta only

theorem State.allSlots_kept (s : State) : Kept s (State.allSlots s) := by
  unfold State.allSlots
  repeat' first
    | with_reducible assumption
    | with_reducible exact Kept.refl _
    | ((try lift_lets); intro x; first
        | (refine Kept.cut (t := x) ?_ fun h => ?_; rotate_left; clear_value x; rotate_left; (try unfold x))
        | skip)
    | with_reducible apply Kept.after (State.takeSlots_kept ..)
    | with_reducible refine Kept.foldl (hf := fun _ _ => ?_) (h := ?_)
    | split
    | dsimp +zetaDelta only
    | with_reducible refine Kept.upd ?_

theorem State.gateDue_kept (s : State) (c : ChanId) : Kept s (State.gateDue s c) := by
  unfold State.gateDue
  repeat' first
    | with_reducible exact Kept.refl _
    | with_reducible apply Kept.after (State.passGate_kept ..)
    | split
    | with_reducible refine Kept.upd ?_

theorem State.gates_kept (s : State) : Kept s (State.gates s) := by
  unfold State.gates
  repeat' first
    | with_reducible assumption
    | with_reducible exact Kept.refl _
    | ((try lift_lets); intro x; first
        | (refine Kept.cut (t := x) ?_ fun h => ?_; rotate_left; clear_value x; rotate_left; (try unfold x))
        | skip)
    | with_reducible apply Kept.after (State.gateDue_kept ..)
    | with_reducible refine Kept.foldl (hf := fun _ _ => ?_) (h := ?_)

theorem State.launch_kept (s : State) (T : Nat) (seen : List (ChanId × Nat)) : Kept s (State.launch s T seen) := by
  unfold State.launch
  repeat' first
    | with_reducible assumption
    | with_reducible exact Kept.refl _
    | ((try lift_lets); intro x; first
        | (refine Kept.cut (t := x) ?_ fun h => ?_; rotate_left; clear_value x; rotate_left; (try unfold x))
        | skip)
    | with_reducible apply Kept.after (State.advance_kept ..)
    | with_reducible apply Kept.after (State.sendMark_kept ..)
    | with_reducible apply Kept.after (State.cuts_kept ..)
    | with_reducible apply Kept.after (State.takeUpdates_kept ..)
    | with_reducible apply Kept.after (State.posts_kept ..)
    | with_reducible apply Kept.after (State.allSlots_kept ..)
    | with_reducible apply Kept.after (State.gates_kept ..)
    | with_reducible apply Kept.after (State.settleAll_kept ..)
    | with_reducible apply Kept.after (State.sweepFails_kept ..)
    | split
    | dsimp +zetaDelta only

theorem State.tick_kept (s : State) : Kept s (State.tick s) := by
  unfold State.tick
  repeat' first
    | with_reducible assumption
    | with_reducible exact Kept.refl _
    | ((try lift_lets); intro x; first
        | (refine Kept.cut (t := x) ?_ fun h => ?_; rotate_left; clear_value x; rotate_left; (try unfold x))
        | skip)
    | with_reducible apply Kept.after (State.sledFalls_kept ..)
    | with_reducible apply Kept.after (State.launch_kept ..)
    | with_reducible apply Kept.after (State.advance_kept ..)
    | split
    | dsimp +zetaDelta only

theorem State.runTo_kept (n : Nat) (s : State) (T : Nat) (seen : List (ChanId × Nat)) : Kept s (State.runTo n s T seen) := by
  induction n generalizing s with
  | zero => exact State.launch_kept ..
  | succ n ih =>
    unfold State.runTo
    split
    · split
      · exact (State.launch_kept ..).trans (ih _)
      · exact State.launch_kept ..
    · exact State.launch_kept ..

theorem State.await_kept (s : State) (T : Option Nat) : Kept s (State.await s T) := by
  unfold State.await
  repeat' first
    | exact Kept.refl s
    | exact State.runTo_kept ..
    | split

theorem execTideSyncMark_kept (seen : List (ChanId × Nat)) (s : State) :
    ∃ s₁, execTideSyncMark seen s = .next s₁ ∧ Kept s s₁ := by
  refine ⟨_, rfl, ?_⟩
  split
  · exact State.runTo_kept ..
  · exact Kept.refl s

theorem execSlotPost_kept (k : Fin 8) (s : State) :
    ∃ s₁, execSlotPost k s = .next s₁ ∧ Kept s s₁ := ⟨_, rfl, State.await_kept ..⟩

theorem execRefreshWindow_kept (c : ChanId) (x : Sub) (s : State) :
    ∃ s₁, execRefreshWindow c x s = .next s₁ ∧ Kept s s₁ := ⟨_, rfl, State.await_kept ..⟩

theorem execRetrainPause_kept (c : ChanId) (x : Sub) (fails up down : BitVec 4) (s : State) :
    ∃ s₁, execRetrainPause c x fails up down s = .next s₁ ∧ Kept s s₁ :=
  ⟨_, rfl, Kept.after (State.sweepFails_kept ..) (Kept.after (State.rtrOutcome_kept ..) (State.await_kept ..))⟩

theorem execEpochCut_kept (s : State) :
    ∃ s₁, execEpochCut s = .next s₁ ∧ Kept s s₁ := ⟨_, rfl, State.await_kept ..⟩

theorem execUpdAtPost_kept (s : State) :
    ∃ s₁, execUpdAtPost s = .next s₁ ∧ Kept s s₁ := ⟨_, rfl, State.await_kept ..⟩

theorem execUpdateTakesEffect_kept (s : State) :
    ∃ s₁, execUpdateTakesEffect s = .next s₁ ∧ Kept s s₁ := ⟨_, rfl, State.await_kept ..⟩

theorem execPrepareGate_kept (c : ChanId) (s : State) :
    ∃ s₁, execPrepareGate c s = .next s₁ ∧ Kept s s₁ := ⟨_, rfl, State.await_kept ..⟩

theorem execIdleGate_kept (c : ChanId) (s : State) :
    ∃ s₁, execIdleGate c s = .next s₁ ∧ Kept s s₁ := ⟨_, rfl, State.await_kept ..⟩

end Sys2Proof.Machine
end

