-- ==== Sys2Proof/Laws/KeptWeir.lean ====
section
/-! SUPPORT. What the operations of Machine/Weir.lean keep. -/

namespace Sys2Proof.Machine

set_option Elab.async false
set_option linter.all false

theorem execWeirRequest_kept (c : ChanId) (code : Fin 10) (s : State) : ∃ s₁, execWeirRequest c code s = .next s₁ ∧ Kept s s₁ := by
  refine ⟨_, rfl, ?_⟩
  repeat' first
    | with_reducible exact Kept.refl _
    | with_reducible apply Kept.after (State.ask_kept ..)
    | split

theorem execBackoffExpiry_kept (c : ChanId) (code : Fin 10) (s : State) : ∃ s₁, execBackoffExpiry c code s = .next s₁ ∧ Kept s s₁ := by
  refine ⟨_, rfl, ?_⟩
  repeat' first
    | with_reducible assumption
    | with_reducible exact Kept.refl _
    | ((try lift_lets); intro x; first
        | (refine Kept.cut (t := x) ?_ fun h => ?_; rotate_left; clear_value x; rotate_left; (try unfold x))
        | skip)
    | with_reducible apply Kept.after (State.request_kept ..)
    | with_reducible apply Kept.after (State.modWeir_kept ..)
    | split
    | dsimp +zetaDelta only
    | with_reducible refine Kept.upd ?_

theorem execQuantumExpiry_kept (c : ChanId) (s : State) : ∃ s₁, execQuantumExpiry c s = .next s₁ ∧ Kept s s₁ := by
  refine ⟨_, rfl, ?_⟩
  repeat' first
    | with_reducible assumption
    | with_reducible exact Kept.refl _
    | ((try lift_lets); intro x; first
        | (refine Kept.cut (t := x) ?_ fun h => ?_; rotate_left; clear_value x; rotate_left; (try unfold x))
        | skip)
    | with_reducible apply Kept.after (State.modWeir_kept ..)
    | split
    | dsimp +zetaDelta only
    | with_reducible refine Kept.upd ?_

theorem execWeirRelease_kept (c : ChanId) (s : State) : ∃ s₁, execWeirRelease c s = .next s₁ ∧ Kept s s₁ := by
  refine ⟨_, rfl, ?_⟩
  repeat' first
    | with_reducible exact Kept.refl _
    | with_reducible apply Kept.after (State.release_kept ..)
    | with_reducible apply Kept.after (State.settleAll_kept ..)
    | with_reducible apply Kept.after (State.sweepFails_kept ..)
    | split
    | with_reducible refine Kept.upd ?_

theorem execDebugDramAccess_kept (c : ChanId) (s : State) : ∃ s₁, execDebugDramAccess c s = .next s₁ ∧ Kept s s₁ := by
  refine ⟨_, rfl, ?_⟩
  repeat' first
    | with_reducible exact Kept.refl _
    | with_reducible apply Kept.after (State.request_kept ..)

theorem State.popRetire_kept (s : State) : Kept s (State.popRetire s) := by
  refine Kept.of_inv fun i => ⟨i.1, i.2.1, ?_, i.2.2.2⟩
  simp only [State.popRetire, List.length_tail]
  have := i.2.2.1
  omega

theorem execRetirePop_kept (s : State) : ∃ s₁, execRetirePop s = .next s₁ ∧ Kept s s₁ := by
  refine ⟨_, rfl, ?_⟩
  repeat' first
    | with_reducible assumption
    | with_reducible exact Kept.refl _
    | ((try lift_lets); intro x; first
        | (refine Kept.cut (t := x) ?_ fun h => ?_; rotate_left; clear_value x; rotate_left; (try unfold x))
        | skip)
    | with_reducible apply Kept.after (State.ctl_kept _ _ ?_)
    | with_reducible apply Kept.after (State.popRetire_kept ..)

theorem State.clearLadder_kept (s : State) : Kept s (State.clearLadder s) := by
  unfold State.clearLadder
  repeat' first
    | with_reducible exact Kept.refl _
    | with_reducible apply Kept.after (State.ladder_kept ..)
    | dsimp +zetaDelta only
    | with_reducible refine Kept.upd ?_

theorem execLadderClr_kept (s : State) : ∃ s₁, execLadderClr s = .next s₁ ∧ Kept s s₁ := by
  refine ⟨_, rfl, ?_⟩
  repeat' first
    | with_reducible assumption
    | with_reducible exact Kept.refl _
    | ((try lift_lets); intro x; first
        | (refine Kept.cut (t := x) ?_ fun h => ?_; rotate_left; clear_value x; rotate_left; (try unfold x))
        | skip)
    | with_reducible apply Kept.after (State.ctl_kept _ _ ?_)
    | with_reducible apply Kept.after (State.clearLadder_kept ..)

theorem execKeepsakeProgramDone_kept (ok : Bool) (s : State) : ∃ s₁, execKeepsakeProgramDone ok s = .next s₁ ∧ Kept s s₁ := by
  refine ⟨_, rfl, ?_⟩
  repeat' first
    | with_reducible exact Kept.refl _
    | with_reducible apply Kept.after (State.programmed_kept ..)
    | with_reducible apply Kept.after (State.ksDone_kept ..)
    | with_reducible apply Kept.after (State.settleAll_kept ..)
    | with_reducible apply Kept.after (State.sweepFails_kept ..)
    | split

theorem execPprProgramEnd_kept (c : ChanId) (s : State) : ∃ s₁, execPprProgramEnd c s = .next s₁ ∧ Kept s s₁ := by
  refine ⟨_, rfl, ?_⟩
  repeat' first
    | with_reducible assumption
    | with_reducible exact Kept.refl _
    | ((try lift_lets); intro x; first
        | (refine Kept.cut (t := x) ?_ fun h => ?_; rotate_left; clear_value x; rotate_left; (try unfold x))
        | skip)
    | with_reducible apply Kept.after (State.ppr_kept ..)
    | with_reducible apply Kept.after (State.modPpr_kept ..)
    | with_reducible apply Kept.after (State.modSel_kept ..)
    | with_reducible apply Kept.after (State.lateRevoke_kept ..)
    | split
    | dsimp +zetaDelta only
    | with_reducible refine Kept.upd ?_

theorem execPmicSettled_kept (c : ChanId) (s : State) : ∃ s₁, execPmicSettled c s = .next s₁ ∧ Kept s s₁ := by
  refine ⟨_, rfl, ?_⟩
  repeat' first
    | with_reducible assumption
    | with_reducible exact Kept.refl _
    | ((try lift_lets); intro x; first
        | (refine Kept.cut (t := x) ?_ fun h => ?_; rotate_left; clear_value x; rotate_left; (try unfold x))
        | skip)
    | with_reducible apply Kept.after (State.modChan_kept ..)
    | with_reducible apply Kept.after (State.replyCur_kept ..)
    | with_reducible apply Kept.after (State.lateRevoke_kept ..)
    | split
    | dsimp +zetaDelta only
    | with_reducible refine Kept.upd ?_

end Sys2Proof.Machine
end

