-- ==== Sys2Proof/Laws/KeptRegIf.lean ====
section
/-! SUPPORT. What the operations of Machine/RegIf.lean keep. -/

namespace Sys2Proof.Machine

set_option Elab.async false
set_option linter.all false

theorem State.onRs_kept (s : State) (w : RegWrite) (f : State → Word → State) (hf : ∀ t d, Kept t (f t d)) :
    Kept s (State.onRs s w f) := by
  unfold State.onRs
  split
  · exact hf s _
  · exact Kept.refl s

theorem State.onAct_kept (s : State) (w : RegWrite) (i : Nat) (f : State → State) (hf : ∀ t, Kept t (f t)) :
    Kept s (State.onAct s w i f) := by
  unfold State.onAct
  split
  · exact hf s
  · exact Kept.refl s

theorem State.writeAgent_kept (s : State) (v : View) (c : ChanId) (off : Nat) (data : Word) : Kept s (State.writeAgent s v c off data) := by
  unfold State.writeAgent
  repeat' first
    | with_reducible assumption
    | with_reducible exact Kept.refl _
    | ((try lift_lets); intro x; first
        | (refine Kept.cut (t := x) ?_ fun h => ?_; rotate_left; clear_value x; rotate_left; (try unfold x))
        | skip)
    | with_reducible apply Kept.after (State.store_kept ..)
    | with_reducible apply Kept.after (State.onRs_kept _ _ _ ?_)
    | with_reducible apply Kept.after (State.clearPsn_kept ..)
    | with_reducible apply Kept.after (State.clearRdue_kept ..)
    | with_reducible apply Kept.after (State.onAct_kept _ _ _ _ ?_)
    | with_reducible apply Kept.after (State.clearEcc_kept ..)
    | with_reducible apply Kept.after (State.injGo_kept ..)
    | with_reducible apply Kept.after (State.armChan_kept ..)
    | split
    | dsimp +zetaDelta only
    | with_reducible refine Kept.upd ?_

theorem State.advanceInd_kept (s : State) : Kept s (State.advanceInd s) := by
  unfold State.advanceInd
  repeat' first
    | with_reducible assumption
    | with_reducible exact Kept.refl _
    | ((try lift_lets); intro x; first
        | (refine Kept.cut (t := x) ?_ fun h => ?_; rotate_left; clear_value x; rotate_left; (try unfold x))
        | skip)
    | with_reducible apply Kept.after (State.setProg_kept ..)
    | split
    | dsimp +zetaDelta only

theorem State.setIndErr_kept (s : State) (e : Nat) : Kept s (State.setIndErr s e) := by
  unfold State.setIndErr
  repeat' first
    | with_reducible exact Kept.refl _
    | with_reducible refine Kept.upd ?_

theorem State.indWrite_kept (s : State) (v : View) (data : Word) : Kept s (State.indWrite s v data) := by
  unfold State.indWrite
  repeat' first
    | with_reducible assumption
    | with_reducible exact Kept.refl _
    | ((try lift_lets); intro x; first
        | (refine Kept.cut (t := x) ?_ fun h => ?_; rotate_left; clear_value x; rotate_left; (try unfold x))
        | skip)
    | with_reducible apply Kept.after (State.writeAgent_kept ..)
    | with_reducible apply Kept.after (State.setIndErr_kept ..)
    | with_reducible apply Kept.after (State.advanceInd_kept ..)
    | with_reducible refine Kept.foldl (hf := fun _ _ => ?_) (h := ?_)
    | split
    | dsimp +zetaDelta only
    | with_reducible refine Kept.upd ?_

theorem State.cpAnswer_kept (s : State) (data : Word) (err : Bool) : Kept s (State.cpAnswer s data err) := by
  unfold State.cpAnswer
  repeat' first
    | with_reducible exact Kept.refl _
    | with_reducible refine Kept.upd ?_

theorem State.writeSvc_kept (s : State) (c : ChanId) (val : Word) : Kept s (State.writeSvc s c val) := by
  unfold State.writeSvc
  repeat' first
    | with_reducible assumption
    | with_reducible exact Kept.refl _
    | ((try lift_lets); intro x; first
        | (refine Kept.cut (t := x) ?_ fun h => ?_; rotate_left; clear_value x; rotate_left; (try unfold x))
        | skip)
    | with_reducible apply Kept.after (State.store_kept ..)
    | with_reducible apply Kept.after (State.modChan_kept ..)
    | split
    | dsimp +zetaDelta only
    | with_reducible refine Kept.upd ?_

theorem State.writeAt_kept (s : State) (key : Nat) (val : Word) : Kept s (State.writeAt s key val) := by
  unfold State.writeAt
  repeat' first
    | with_reducible exact Kept.refl _
    | with_reducible apply Kept.after (State.store_kept ..)
    | split

theorem State.writeAtCtl_kept (s : State) (act : Word) : Kept s (State.writeAtCtl s act) := by
  unfold State.writeAtCtl
  repeat' first
    | with_reducible exact Kept.refl _
    | with_reducible apply Kept.after (State.armAt_kept ..)
    | with_reducible apply Kept.after (State.cancelAt_kept ..)
    | split

theorem State.setCinch_kept (s : State) (data : Word) : Kept s (State.setCinch s data) :=
  Kept.grow (Kept.refl s) (hc := by ext i; simp; intro h; simp [h])

theorem State.commitGo_kept (s : State) : Kept s (State.commitGo s) := by
  unfold State.commitGo
  repeat' first
    | with_reducible exact Kept.refl _
    | with_reducible refine Kept.upd ?_

theorem State.selectSnap_kept (s : State) (val : Word) : Kept s (State.selectSnap s val) := by
  unfold State.selectSnap
  repeat' first
    | with_reducible assumption
    | with_reducible exact Kept.refl _
    | ((try lift_lets); intro x; first
        | (refine Kept.cut (t := x) ?_ fun h => ?_; rotate_left; clear_value x; rotate_left; (try unfold x))
        | skip)
    | with_reducible apply Kept.after (State.setProg_kept ..)
    | dsimp +zetaDelta only
    | with_reducible refine Kept.upd ?_

theorem State.writePort_kept (s : State) (p : PortId) (key : Nat) (w : RegWrite) : Kept s (State.writePort s p key w) := by
  unfold State.writePort
  repeat' first
    | with_reducible assumption
    | with_reducible exact Kept.refl _
    | ((try lift_lets); intro x; first
        | (refine Kept.cut (t := x) ?_ fun h => ?_; rotate_left; clear_value x; rotate_left; (try unfold x))
        | skip)
    | with_reducible apply Kept.after (State.onRs_kept _ _ _ ?_)
    | with_reducible apply Kept.after (State.clearVstat_kept ..)
    | with_reducible apply Kept.after (State.clearWbx_kept ..)
    | with_reducible apply Kept.after (State.clearPerr_kept ..)
    | with_reducible apply Kept.after (State.store_kept ..)
    | split
    | dsimp +zetaDelta only
    | with_reducible refine Kept.upd ?_

theorem State.writeGlobal_kept (s : State) (addr : Nat) (w : RegWrite) : Kept s (State.writeGlobal s addr w) := by
  unfold State.writeGlobal
  repeat' first
    | with_reducible assumption
    | with_reducible exact Kept.refl _
    | ((try lift_lets); intro x; first
        | (refine Kept.cut (t := x) ?_ fun h => ?_; rotate_left; clear_value x; rotate_left; (try unfold x))
        | skip)
    | with_reducible apply Kept.after (State.writePort_kept ..)
    | with_reducible apply Kept.after (State.writeSvc_kept ..)
    | with_reducible apply Kept.after (State.strobeUpd_kept ..)
    | with_reducible apply Kept.after (State.writeAt_kept ..)
    | with_reducible apply Kept.after (State.writeAtCtl_kept ..)
    | with_reducible apply Kept.after (State.onRs_kept _ _ _ ?_)
    | with_reducible apply Kept.after (State.clearUpdAt_kept ..)
    | with_reducible apply Kept.after (State.setCinch_kept ..)
    | with_reducible apply Kept.after (State.onAct_kept _ _ _ _ ?_)
    | with_reducible apply Kept.after (State.commitGo_kept ..)
    | with_reducible apply Kept.after (State.selectSnap_kept ..)
    | with_reducible apply Kept.after (State.writePi_kept ..)
    | with_reducible apply Kept.after (State.clearFault_kept ..)
    | with_reducible apply Kept.after (State.selRecord_kept ..)
    | with_reducible apply Kept.after (State.dropAlarm_kept ..)
    | with_reducible apply Kept.after (State.clearWake_kept ..)
    | with_reducible apply Kept.after (State.clearPress_kept ..)
    | with_reducible apply Kept.after (State.clearPchg_kept ..)
    | with_reducible apply Kept.after (State.clearBrk_kept ..)
    | with_reducible apply Kept.after (State.store_kept ..)
    | with_reducible apply Kept.after (State.freshGo_kept ..)
    | with_reducible apply Kept.after (State.popRetire_kept ..)
    | with_reducible apply Kept.after (State.clearLadder_kept ..)
    | with_reducible apply Kept.after (State.armGlobal_kept ..)
    | split
    | dsimp +zetaDelta only
    | with_reducible refine Kept.upd ?_

theorem State.cpWrite_kept (s : State) (v : View) (addr : BitVec 22) (data : Word) : Kept s (State.cpWrite s v addr data) := by
  unfold State.cpWrite
  repeat' first
    | with_reducible assumption
    | with_reducible exact Kept.refl _
    | ((try lift_lets); intro x; first
        | (refine Kept.cut (t := x) ?_ fun h => ?_; rotate_left; clear_value x; rotate_left; (try unfold x))
        | skip)
    | with_reducible apply Kept.after (State.cpAnswer_kept ..)
    | with_reducible apply Kept.after (State.indWrite_kept ..)
    | with_reducible apply Kept.after (State.writeGlobal_kept ..)
    | split
    | dsimp +zetaDelta only

theorem execRegisterWrite_kept (addr : BitVec 22) (data : Word) (s : State) : ∃ s₁, execRegisterWrite addr data s = .next s₁ ∧ Kept s s₁ := by
  refine ⟨_, rfl, ?_⟩
  repeat' first
    | with_reducible assumption
    | with_reducible exact Kept.refl _
    | ((try lift_lets); intro x; first
        | (refine Kept.cut (t := x) ?_ fun h => ?_; rotate_left; clear_value x; rotate_left; (try unfold x))
        | skip)
    | with_reducible apply Kept.after (State.ctl_kept _ _ ?_)
    | with_reducible apply Kept.after (State.cpWrite_kept ..)
    | dsimp +zetaDelta only

theorem execAliasWrite_kept (v : View) (addr : BitVec 22) (data : Word) (s : State) : ∃ s₁, execAliasWrite v addr data s = .next s₁ ∧ Kept s s₁ := by
  refine ⟨_, rfl, ?_⟩
  repeat' first
    | with_reducible assumption
    | with_reducible exact Kept.refl _
    | ((try lift_lets); intro x; first
        | (refine Kept.cut (t := x) ?_ fun h => ?_; rotate_left; clear_value x; rotate_left; (try unfold x))
        | skip)
    | with_reducible apply Kept.after (State.ctl_kept _ _ ?_)
    | with_reducible apply Kept.after (State.cpWrite_kept ..)
    | dsimp +zetaDelta only

theorem execIndDataWrite_kept (v : View) (data : Word) (s : State) : ∃ s₁, execIndDataWrite v data s = .next s₁ ∧ Kept s s₁ := by
  refine ⟨_, rfl, ?_⟩
  repeat' first
    | with_reducible assumption
    | with_reducible exact Kept.refl _
    | ((try lift_lets); intro x; first
        | (refine Kept.cut (t := x) ?_ fun h => ?_; rotate_left; clear_value x; rotate_left; (try unfold x))
        | skip)
    | with_reducible apply Kept.after (State.ctl_kept _ _ ?_)
    | with_reducible apply Kept.after (State.cpAnswer_kept ..)
    | with_reducible apply Kept.after (State.indWrite_kept ..)
    | dsimp +zetaDelta only

theorem State.readPatchReg_kept (s : State) : Kept s (State.readPatchReg s) := by
  unfold State.readPatchReg
  repeat' first
    | with_reducible assumption
    | with_reducible exact Kept.refl _
    | ((try lift_lets); intro x; first
        | (refine Kept.cut (t := x) ?_ fun h => ?_; rotate_left; clear_value x; rotate_left; (try unfold x))
        | skip)
    | with_reducible apply Kept.after (State.cpAnswer_kept ..)
    | with_reducible apply Kept.after (State.readEntry_kept ..)
    | split
    | dsimp +zetaDelta only
    | with_reducible refine Kept.upd ?_

theorem execIndDataRead_kept (v : View) (s : State) : ∃ s₁, execIndDataRead v s = .next s₁ ∧ Kept s s₁ := by
  refine ⟨_, rfl, ?_⟩
  repeat' first
    | with_reducible assumption
    | with_reducible exact Kept.refl _
    | ((try lift_lets); intro x; first
        | (refine Kept.cut (t := x) ?_ fun h => ?_; rotate_left; clear_value x; rotate_left; (try unfold x))
        | skip)
    | with_reducible apply Kept.after (State.ctl_kept _ _ ?_)
    | with_reducible apply Kept.after (State.cpAnswer_kept ..)
    | with_reducible apply Kept.after (State.setIndErr_kept ..)
    | with_reducible apply Kept.after (State.readPatchReg_kept ..)
    | with_reducible apply Kept.after (State.advanceInd_kept ..)
    | with_reducible apply Kept.after (State.sweepFails_kept ..)
    | dsimp +zetaDelta only

theorem execCinchWrite_kept (data : Word) (s : State) : ∃ s₁, execCinchWrite data s = .next s₁ ∧ Kept s s₁ := by
  refine ⟨_, rfl, ?_⟩
  repeat' first
    | with_reducible assumption
    | with_reducible exact Kept.refl _
    | ((try lift_lets); intro x; first
        | (refine Kept.cut (t := x) ?_ fun h => ?_; rotate_left; clear_value x; rotate_left; (try unfold x))
        | skip)
    | with_reducible apply Kept.after (State.ctl_kept _ _ ?_)
    | with_reducible apply Kept.after (State.setCinch_kept ..)
    | dsimp +zetaDelta only

theorem execStitchCommit_kept (data : Word) (s : State) : ∃ s₁, execStitchCommit data s = .next s₁ ∧ Kept s s₁ := by
  refine ⟨_, rfl, ?_⟩
  repeat' first
    | with_reducible assumption
    | with_reducible exact Kept.refl _
    | ((try lift_lets); intro x; first
        | (refine Kept.cut (t := x) ?_ fun h => ?_; rotate_left; clear_value x; rotate_left; (try unfold x))
        | skip)
    | with_reducible apply Kept.after (State.ctl_kept _ _ ?_)
    | with_reducible apply Kept.after (State.commitGo_kept ..)
    | split
    | dsimp +zetaDelta only

theorem State.takeStitch_kept (s : State) : Kept s (State.takeStitch s) := by
  unfold State.takeStitch
  repeat' first
    | with_reducible exact Kept.refl _
    | with_reducible refine Kept.upd ?_

theorem State.compareStitch_kept (s : State) : Kept s (State.compareStitch s) := by
  unfold State.compareStitch
  repeat' first
    | with_reducible assumption
    | with_reducible exact Kept.refl _
    | ((try lift_lets); intro x; first
        | (refine Kept.cut (t := x) ?_ fun h => ?_; rotate_left; clear_value x; rotate_left; (try unfold x))
        | skip)
    | with_reducible apply Kept.after (State.raise_kept ..)
    | split
    | dsimp +zetaDelta only
    | with_reducible refine Kept.upd ?_

theorem State.sweepStitch_kept (s : State) : Kept s (State.sweepStitch s) := by
  unfold State.sweepStitch
  repeat' first
    | with_reducible assumption
    | with_reducible exact Kept.refl _
    | ((try lift_lets); intro x; first
        | (refine Kept.cut (t := x) ?_ fun h => ?_; rotate_left; clear_value x; rotate_left; (try unfold x))
        | skip)
    | with_reducible apply Kept.after (State.takeStitch_kept ..)
    | with_reducible apply Kept.after (State.compareStitch_kept ..)
    | split
    | dsimp +zetaDelta only
    | with_reducible refine Kept.upd ?_

theorem execStitchSweepEnd_kept (s : State) : ∃ s₁, execStitchSweepEnd s = .next s₁ ∧ Kept s s₁ := by
  refine ⟨_, rfl, ?_⟩
  repeat' first
    | with_reducible assumption
    | with_reducible exact Kept.refl _
    | ((try lift_lets); intro x; first
        | (refine Kept.cut (t := x) ?_ fun h => ?_; rotate_left; clear_value x; rotate_left; (try unfold x))
        | skip)
    | with_reducible apply Kept.after (State.ctl_kept _ _ ?_)
    | with_reducible apply Kept.after (State.sweepStitch_kept ..)

theorem execSnapSelWrite_kept (data : Word) (s : State) : ∃ s₁, execSnapSelWrite data s = .next s₁ ∧ Kept s s₁ := by
  refine ⟨_, rfl, ?_⟩
  repeat' first
    | with_reducible assumption
    | with_reducible exact Kept.refl _
    | ((try lift_lets); intro x; first
        | (refine Kept.cut (t := x) ?_ fun h => ?_; rotate_left; clear_value x; rotate_left; (try unfold x))
        | skip)
    | with_reducible apply Kept.after (State.ctl_kept _ _ ?_)
    | with_reducible apply Kept.after (State.selectSnap_kept ..)
    | dsimp +zetaDelta only

theorem State.endSnap_kept (s : State) : Kept s (State.endSnap s) := by
  unfold State.endSnap
  repeat' first
    | with_reducible assumption
    | with_reducible exact Kept.refl _
    | ((try lift_lets); intro x; first
        | (refine Kept.cut (t := x) ?_ fun h => ?_; rotate_left; clear_value x; rotate_left; (try unfold x))
        | skip)
    | split
    | dsimp +zetaDelta only
    | with_reducible refine Kept.upd ?_

theorem execSnapFetchDone_kept (s : State) : ∃ s₁, execSnapFetchDone s = .next s₁ ∧ Kept s s₁ := by
  refine ⟨_, rfl, ?_⟩
  repeat' first
    | with_reducible assumption
    | with_reducible exact Kept.refl _
    | ((try lift_lets); intro x; first
        | (refine Kept.cut (t := x) ?_ fun h => ?_; rotate_left; clear_value x; rotate_left; (try unfold x))
        | skip)
    | with_reducible apply Kept.after (State.ctl_kept _ _ ?_)
    | with_reducible apply Kept.after (State.endSnap_kept ..)

end Sys2Proof.Machine
end

