-- ==== Sys2Proof/Laws/State.lean ====
section
/-! SUPPORT. Each named update of the state, field by field; tables and registers read back as written. -/

namespace Sys2Proof

@[simp] theorem Tab.at_put_same {α : Type} {n : Nat} (t : Tab α n) (i : Fin n) (x : α) : (t.put i x).at i = x := by
  simp [Tab.at, Tab.put]

theorem Tab.at_put_ne {α : Type} {n : Nat} (t : Tab α n) {i j : Fin n} (x : α) (h : j ≠ i) : (t.put i x).at j = t.at j := by
  have h' : i.val ≠ j.val := fun e => h (Fin.ext e.symm)
  simp [Tab.at, Tab.put, Vector.getElem_set_ne _ _ h']

@[simp] theorem Tab.at_all {α : Type} {n : Nat} (x : α) (i : Fin n) : (Tab.all n x).at i = x := by
  simp [Tab.at, Tab.all]

@[simp] theorem Tab.at_each {α β : Type} {n : Nat} (f : α → β) (t : Tab α n) (i : Fin n) : (t.each f).at i = f (t.at i) := by
  simp [Tab.at, Tab.each]

end Sys2Proof

namespace Sys2Proof.Machine

set_option Elab.async false
set_option linter.all false

/-! ### State.modPort -/

@[simp] theorem State.modPort_pending (s : State) (p : PortId) (f : Port → Port) : (State.modPort s p f).pending = s.pending := rfl
@[simp] theorem State.modPort_phase (s : State) (p : PortId) (f : Port → Port) : (State.modPort s p f).phase = s.phase := rfl
@[simp] theorem State.modPort_tide (s : State) (p : PortId) (f : Port → Port) : (State.modPort s p f).tide = s.tide := rfl
@[simp] theorem State.modPort_nextId (s : State) (p : PortId) (f : Port → Port) : (State.modPort s p f).nextId = s.nextId := rfl
@[simp] theorem State.modPort_freeIx (s : State) (p : PortId) (f : Port → Port) : (State.modPort s p f).freeIx = s.freeIx := rfl
@[simp] theorem State.modPort_regs (s : State) (p : PortId) (f : Port → Port) : (State.modPort s p f).regs = s.regs := rfl
@[simp] theorem State.modPort_ports (s : State) (p : PortId) (f : Port → Port) : (State.modPort s p f).ports = s.ports.put p (f (s.ports.at p)) := rfl
@[simp] theorem State.modPort_xbar (s : State) (p : PortId) (f : Port → Port) : (State.modPort s p f).xbar = s.xbar := rfl
@[simp] theorem State.modPort_forms (s : State) (p : PortId) (f : Port → Port) : (State.modPort s p f).forms = s.forms := rfl
@[simp] theorem State.modPort_recons (s : State) (p : PortId) (f : Port → Port) : (State.modPort s p f).recons = s.recons := rfl
@[simp] theorem State.modPort_chans (s : State) (p : PortId) (f : Port → Port) : (State.modPort s p f).chans = s.chans := rfl
@[simp] theorem State.modPort_spans (s : State) (p : PortId) (f : Port → Port) : (State.modPort s p f).spans = s.spans := rfl
@[simp] theorem State.modPort_fresh (s : State) (p : PortId) (f : Port → Port) : (State.modPort s p f).fresh = s.fresh := rfl
@[simp] theorem State.modPort_garm (s : State) (p : PortId) (f : Port → Port) : (State.modPort s p f).garm = s.garm := rfl
@[simp] theorem State.modPort_cad (s : State) (p : PortId) (f : Port → Port) : (State.modPort s p f).cad = s.cad := rfl
@[simp] theorem State.modPort_pers (s : State) (p : PortId) (f : Port → Port) : (State.modPort s p f).pers = s.pers := rfl
@[simp] theorem State.modPort_mill (s : State) (p : PortId) (f : Port → Port) : (State.modPort s p f).mill = s.mill := rfl
@[simp] theorem State.modPort_retire (s : State) (p : PortId) (f : Port → Port) : (State.modPort s p f).retire = s.retire := rfl
@[simp] theorem State.modPort_fcol (s : State) (p : PortId) (f : Port → Port) : (State.modPort s p f).fcol = s.fcol := rfl
@[simp] theorem State.modPort_evr (s : State) (p : PortId) (f : Port → Port) : (State.modPort s p f).evr = s.evr := rfl
@[simp] theorem State.modPort_flash (s : State) (p : PortId) (f : Port → Port) : (State.modPort s p f).flash = s.flash := rfl
@[simp] theorem State.modPort_sbm (s : State) (p : PortId) (f : Port → Port) : (State.modPort s p f).sbm = s.sbm := rfl
@[simp] theorem State.modPort_otp (s : State) (p : PortId) (f : Port → Port) : (State.modPort s p f).otp = s.otp := rfl
@[simp] theorem State.modPort_cmp (s : State) (p : PortId) (f : Port → Port) : (State.modPort s p f).cmp = s.cmp := rfl

/-! ### State.modChan -/

@[simp] theorem State.modChan_pending (s : State) (c : ChanId) (f : Chan → Chan) : (State.modChan s c f).pending = s.pending := rfl
@[simp] theorem State.modChan_phase (s : State) (c : ChanId) (f : Chan → Chan) : (State.modChan s c f).phase = s.phase := rfl
@[simp] theorem State.modChan_tide (s : State) (c : ChanId) (f : Chan → Chan) : (State.modChan s c f).tide = s.tide := rfl
@[simp] theorem State.modChan_nextId (s : State) (c : ChanId) (f : Chan → Chan) : (State.modChan s c f).nextId = s.nextId := rfl
@[simp] theorem State.modChan_freeIx (s : State) (c : ChanId) (f : Chan → Chan) : (State.modChan s c f).freeIx = s.freeIx := rfl
@[simp] theorem State.modChan_regs (s : State) (c : ChanId) (f : Chan → Chan) : (State.modChan s c f).regs = s.regs := rfl
@[simp] theorem State.modChan_ports (s : State) (c : ChanId) (f : Chan → Chan) : (State.modChan s c f).ports = s.ports := rfl
@[simp] theorem State.modChan_xbar (s : State) (c : ChanId) (f : Chan → Chan) : (State.modChan s c f).xbar = s.xbar := rfl
@[simp] theorem State.modChan_forms (s : State) (c : ChanId) (f : Chan → Chan) : (State.modChan s c f).forms = s.forms := rfl
@[simp] theorem State.modChan_recons (s : State) (c : ChanId) (f : Chan → Chan) : (State.modChan s c f).recons = s.recons := rfl
@[simp] theorem State.modChan_chans (s : State) (c : ChanId) (f : Chan → Chan) : (State.modChan s c f).chans = s.chans.put c (f (s.chans.at c)) := rfl
@[simp] theorem State.modChan_spans (s : State) (c : ChanId) (f : Chan → Chan) : (State.modChan s c f).spans = s.spans := rfl
@[simp] theorem State.modChan_fresh (s : State) (c : ChanId) (f : Chan → Chan) : (State.modChan s c f).fresh = s.fresh := rfl
@[simp] theorem State.modChan_garm (s : State) (c : ChanId) (f : Chan → Chan) : (State.modChan s c f).garm = s.garm := rfl
@[simp] theorem State.modChan_cad (s : State) (c : ChanId) (f : Chan → Chan) : (State.modChan s c f).cad = s.cad := rfl
@[simp] theorem State.modChan_pers (s : State) (c : ChanId) (f : Chan → Chan) : (State.modChan s c f).pers = s.pers := rfl
@[simp] theorem State.modChan_mill (s : State) (c : ChanId) (f : Chan → Chan) : (State.modChan s c f).mill = s.mill := rfl
@[simp] theorem State.modChan_retire (s : State) (c : ChanId) (f : Chan → Chan) : (State.modChan s c f).retire = s.retire := rfl
@[simp] theorem State.modChan_fcol (s : State) (c : ChanId) (f : Chan → Chan) : (State.modChan s c f).fcol = s.fcol := rfl
@[simp] theorem State.modChan_evr (s : State) (c : ChanId) (f : Chan → Chan) : (State.modChan s c f).evr = s.evr := rfl
@[simp] theorem State.modChan_flash (s : State) (c : ChanId) (f : Chan → Chan) : (State.modChan s c f).flash = s.flash := rfl
@[simp] theorem State.modChan_sbm (s : State) (c : ChanId) (f : Chan → Chan) : (State.modChan s c f).sbm = s.sbm := rfl
@[simp] theorem State.modChan_otp (s : State) (c : ChanId) (f : Chan → Chan) : (State.modChan s c f).otp = s.otp := rfl
@[simp] theorem State.modChan_cmp (s : State) (c : ChanId) (f : Chan → Chan) : (State.modChan s c f).cmp = s.cmp := rfl

/-! ### State.modSpan -/

@[simp] theorem State.modSpan_pending (s : State) (m : SetId) (f : Span → Span) : (State.modSpan s m f).pending = s.pending := rfl
@[simp] theorem State.modSpan_phase (s : State) (m : SetId) (f : Span → Span) : (State.modSpan s m f).phase = s.phase := rfl
@[simp] theorem State.modSpan_tide (s : State) (m : SetId) (f : Span → Span) : (State.modSpan s m f).tide = s.tide := rfl
@[simp] theorem State.modSpan_nextId (s : State) (m : SetId) (f : Span → Span) : (State.modSpan s m f).nextId = s.nextId := rfl
@[simp] theorem State.modSpan_freeIx (s : State) (m : SetId) (f : Span → Span) : (State.modSpan s m f).freeIx = s.freeIx := rfl
@[simp] theorem State.modSpan_regs (s : State) (m : SetId) (f : Span → Span) : (State.modSpan s m f).regs = s.regs := rfl
@[simp] theorem State.modSpan_ports (s : State) (m : SetId) (f : Span → Span) : (State.modSpan s m f).ports = s.ports := rfl
@[simp] theorem State.modSpan_xbar (s : State) (m : SetId) (f : Span → Span) : (State.modSpan s m f).xbar = s.xbar := rfl
@[simp] theorem State.modSpan_forms (s : State) (m : SetId) (f : Span → Span) : (State.modSpan s m f).forms = s.forms := rfl
@[simp] theorem State.modSpan_recons (s : State) (m : SetId) (f : Span → Span) : (State.modSpan s m f).recons = s.recons := rfl
@[simp] theorem State.modSpan_chans (s : State) (m : SetId) (f : Span → Span) : (State.modSpan s m f).chans = s.chans := rfl
@[simp] theorem State.modSpan_spans (s : State) (m : SetId) (f : Span → Span) : (State.modSpan s m f).spans = s.spans.put m (f (s.spans.at m)) := rfl
@[simp] theorem State.modSpan_fresh (s : State) (m : SetId) (f : Span → Span) : (State.modSpan s m f).fresh = s.fresh := rfl
@[simp] theorem State.modSpan_garm (s : State) (m : SetId) (f : Span → Span) : (State.modSpan s m f).garm = s.garm := rfl
@[simp] theorem State.modSpan_cad (s : State) (m : SetId) (f : Span → Span) : (State.modSpan s m f).cad = s.cad := rfl
@[simp] theorem State.modSpan_pers (s : State) (m : SetId) (f : Span → Span) : (State.modSpan s m f).pers = s.pers := rfl
@[simp] theorem State.modSpan_mill (s : State) (m : SetId) (f : Span → Span) : (State.modSpan s m f).mill = s.mill := rfl
@[simp] theorem State.modSpan_retire (s : State) (m : SetId) (f : Span → Span) : (State.modSpan s m f).retire = s.retire := rfl
@[simp] theorem State.modSpan_fcol (s : State) (m : SetId) (f : Span → Span) : (State.modSpan s m f).fcol = s.fcol := rfl
@[simp] theorem State.modSpan_evr (s : State) (m : SetId) (f : Span → Span) : (State.modSpan s m f).evr = s.evr := rfl
@[simp] theorem State.modSpan_flash (s : State) (m : SetId) (f : Span → Span) : (State.modSpan s m f).flash = s.flash := rfl
@[simp] theorem State.modSpan_sbm (s : State) (m : SetId) (f : Span → Span) : (State.modSpan s m f).sbm = s.sbm := rfl
@[simp] theorem State.modSpan_otp (s : State) (m : SetId) (f : Span → Span) : (State.modSpan s m f).otp = s.otp := rfl
@[simp] theorem State.modSpan_cmp (s : State) (m : SetId) (f : Span → Span) : (State.modSpan s m f).cmp = s.cmp := rfl

/-! ### State.modSel -/

@[simp] theorem State.modSel_pending (s : State) (c : ChanId) (x : Sub) (f : Sel → Sel) : (State.modSel s c x f).pending = s.pending := rfl
@[simp] theorem State.modSel_phase (s : State) (c : ChanId) (x : Sub) (f : Sel → Sel) : (State.modSel s c x f).phase = s.phase := rfl
@[simp] theorem State.modSel_tide (s : State) (c : ChanId) (x : Sub) (f : Sel → Sel) : (State.modSel s c x f).tide = s.tide := rfl
@[simp] theorem State.modSel_nextId (s : State) (c : ChanId) (x : Sub) (f : Sel → Sel) : (State.modSel s c x f).nextId = s.nextId := rfl
@[simp] theorem State.modSel_freeIx (s : State) (c : ChanId) (x : Sub) (f : Sel → Sel) : (State.modSel s c x f).freeIx = s.freeIx := rfl
@[simp] theorem State.modSel_regs (s : State) (c : ChanId) (x : Sub) (f : Sel → Sel) : (State.modSel s c x f).regs = s.regs := rfl
@[simp] theorem State.modSel_ports (s : State) (c : ChanId) (x : Sub) (f : Sel → Sel) : (State.modSel s c x f).ports = s.ports := rfl
@[simp] theorem State.modSel_xbar (s : State) (c : ChanId) (x : Sub) (f : Sel → Sel) : (State.modSel s c x f).xbar = s.xbar := rfl
@[simp] theorem State.modSel_forms (s : State) (c : ChanId) (x : Sub) (f : Sel → Sel) : (State.modSel s c x f).forms = s.forms := rfl
@[simp] theorem State.modSel_recons (s : State) (c : ChanId) (x : Sub) (f : Sel → Sel) : (State.modSel s c x f).recons = s.recons := rfl
@[simp] theorem State.modSel_chans (s : State) (c : ChanId) (x : Sub) (f : Sel → Sel) : (State.modSel s c x f).chans = s.chans.put c ((s.chans.at c).modSel x f) := rfl
@[simp] theorem State.modSel_spans (s : State) (c : ChanId) (x : Sub) (f : Sel → Sel) : (State.modSel s c x f).spans = s.spans := rfl
@[simp] theorem State.modSel_fresh (s : State) (c : ChanId) (x : Sub) (f : Sel → Sel) : (State.modSel s c x f).fresh = s.fresh := rfl
@[simp] theorem State.modSel_garm (s : State) (c : ChanId) (x : Sub) (f : Sel → Sel) : (State.modSel s c x f).garm = s.garm := rfl
@[simp] theorem State.modSel_cad (s : State) (c : ChanId) (x : Sub) (f : Sel → Sel) : (State.modSel s c x f).cad = s.cad := rfl
@[simp] theorem State.modSel_pers (s : State) (c : ChanId) (x : Sub) (f : Sel → Sel) : (State.modSel s c x f).pers = s.pers := rfl
@[simp] theorem State.modSel_mill (s : State) (c : ChanId) (x : Sub) (f : Sel → Sel) : (State.modSel s c x f).mill = s.mill := rfl
@[simp] theorem State.modSel_retire (s : State) (c : ChanId) (x : Sub) (f : Sel → Sel) : (State.modSel s c x f).retire = s.retire := rfl
@[simp] theorem State.modSel_fcol (s : State) (c : ChanId) (x : Sub) (f : Sel → Sel) : (State.modSel s c x f).fcol = s.fcol := rfl
@[simp] theorem State.modSel_evr (s : State) (c : ChanId) (x : Sub) (f : Sel → Sel) : (State.modSel s c x f).evr = s.evr := rfl
@[simp] theorem State.modSel_flash (s : State) (c : ChanId) (x : Sub) (f : Sel → Sel) : (State.modSel s c x f).flash = s.flash := rfl
@[simp] theorem State.modSel_sbm (s : State) (c : ChanId) (x : Sub) (f : Sel → Sel) : (State.modSel s c x f).sbm = s.sbm := rfl
@[simp] theorem State.modSel_otp (s : State) (c : ChanId) (x : Sub) (f : Sel → Sel) : (State.modSel s c x f).otp = s.otp := rfl
@[simp] theorem State.modSel_cmp (s : State) (c : ChanId) (x : Sub) (f : Sel → Sel) : (State.modSel s c x f).cmp = s.cmp := rfl

/-! ### State.setProg -/

@[simp] theorem State.setProg_pending (s : State) (key : Nat) (w : Word) : (State.setProg s key w).pending = s.pending := rfl
@[simp] theorem State.setProg_phase (s : State) (key : Nat) (w : Word) : (State.setProg s key w).phase = s.phase := rfl
@[simp] theorem State.setProg_tide (s : State) (key : Nat) (w : Word) : (State.setProg s key w).tide = s.tide := rfl
@[simp] theorem State.setProg_nextId (s : State) (key : Nat) (w : Word) : (State.setProg s key w).nextId = s.nextId := rfl
@[simp] theorem State.setProg_freeIx (s : State) (key : Nat) (w : Word) : (State.setProg s key w).freeIx = s.freeIx := rfl
@[simp] theorem State.setProg_regs (s : State) (key : Nat) (w : Word) : (State.setProg s key w).regs = { s.regs with prog := s.regs.prog.set resetWord key w } := rfl
@[simp] theorem State.setProg_ports (s : State) (key : Nat) (w : Word) : (State.setProg s key w).ports = s.ports := rfl
@[simp] theorem State.setProg_xbar (s : State) (key : Nat) (w : Word) : (State.setProg s key w).xbar = s.xbar := rfl
@[simp] theorem State.setProg_forms (s : State) (key : Nat) (w : Word) : (State.setProg s key w).forms = s.forms := rfl
@[simp] theorem State.setProg_recons (s : State) (key : Nat) (w : Word) : (State.setProg s key w).recons = s.recons := rfl
@[simp] theorem State.setProg_chans (s : State) (key : Nat) (w : Word) : (State.setProg s key w).chans = s.chans := rfl
@[simp] theorem State.setProg_spans (s : State) (key : Nat) (w : Word) : (State.setProg s key w).spans = s.spans := rfl
@[simp] theorem State.setProg_fresh (s : State) (key : Nat) (w : Word) : (State.setProg s key w).fresh = s.fresh := rfl
@[simp] theorem State.setProg_garm (s : State) (key : Nat) (w : Word) : (State.setProg s key w).garm = s.garm := rfl
@[simp] theorem State.setProg_cad (s : State) (key : Nat) (w : Word) : (State.setProg s key w).cad = s.cad := rfl
@[simp] theorem State.setProg_pers (s : State) (key : Nat) (w : Word) : (State.setProg s key w).pers = s.pers := rfl
@[simp] theorem State.setProg_mill (s : State) (key : Nat) (w : Word) : (State.setProg s key w).mill = s.mill := rfl
@[simp] theorem State.setProg_retire (s : State) (key : Nat) (w : Word) : (State.setProg s key w).retire = s.retire := rfl
@[simp] theorem State.setProg_fcol (s : State) (key : Nat) (w : Word) : (State.setProg s key w).fcol = s.fcol := rfl
@[simp] theorem State.setProg_evr (s : State) (key : Nat) (w : Word) : (State.setProg s key w).evr = s.evr := rfl
@[simp] theorem State.setProg_flash (s : State) (key : Nat) (w : Word) : (State.setProg s key w).flash = s.flash := rfl
@[simp] theorem State.setProg_sbm (s : State) (key : Nat) (w : Word) : (State.setProg s key w).sbm = s.sbm := rfl
@[simp] theorem State.setProg_otp (s : State) (key : Nat) (w : Word) : (State.setProg s key w).otp = s.otp := rfl
@[simp] theorem State.setProg_cmp (s : State) (key : Nat) (w : Word) : (State.setProg s key w).cmp = s.cmp := rfl

/-! ### State.setLive -/

@[simp] theorem State.setLive_pending (s : State) (key : Nat) (w : Word) : (State.setLive s key w).pending = s.pending := rfl
@[simp] theorem State.setLive_phase (s : State) (key : Nat) (w : Word) : (State.setLive s key w).phase = s.phase := rfl
@[simp] theorem State.setLive_tide (s : State) (key : Nat) (w : Word) : (State.setLive s key w).tide = s.tide := rfl
@[simp] theorem State.setLive_nextId (s : State) (key : Nat) (w : Word) : (State.setLive s key w).nextId = s.nextId := rfl
@[simp] theorem State.setLive_freeIx (s : State) (key : Nat) (w : Word) : (State.setLive s key w).freeIx = s.freeIx := rfl
@[simp] theorem State.setLive_regs (s : State) (key : Nat) (w : Word) : (State.setLive s key w).regs = { s.regs with live := s.regs.live.set resetWord key w } := rfl
@[simp] theorem State.setLive_ports (s : State) (key : Nat) (w : Word) : (State.setLive s key w).ports = s.ports := rfl
@[simp] theorem State.setLive_xbar (s : State) (key : Nat) (w : Word) : (State.setLive s key w).xbar = s.xbar := rfl
@[simp] theorem State.setLive_forms (s : State) (key : Nat) (w : Word) : (State.setLive s key w).forms = s.forms := rfl
@[simp] theorem State.setLive_recons (s : State) (key : Nat) (w : Word) : (State.setLive s key w).recons = s.recons := rfl
@[simp] theorem State.setLive_chans (s : State) (key : Nat) (w : Word) : (State.setLive s key w).chans = s.chans := rfl
@[simp] theorem State.setLive_spans (s : State) (key : Nat) (w : Word) : (State.setLive s key w).spans = s.spans := rfl
@[simp] theorem State.setLive_fresh (s : State) (key : Nat) (w : Word) : (State.setLive s key w).fresh = s.fresh := rfl
@[simp] theorem State.setLive_garm (s : State) (key : Nat) (w : Word) : (State.setLive s key w).garm = s.garm := rfl
@[simp] theorem State.setLive_cad (s : State) (key : Nat) (w : Word) : (State.setLive s key w).cad = s.cad := rfl
@[simp] theorem State.setLive_pers (s : State) (key : Nat) (w : Word) : (State.setLive s key w).pers = s.pers := rfl
@[simp] theorem State.setLive_mill (s : State) (key : Nat) (w : Word) : (State.setLive s key w).mill = s.mill := rfl
@[simp] theorem State.setLive_retire (s : State) (key : Nat) (w : Word) : (State.setLive s key w).retire = s.retire := rfl
@[simp] theorem State.setLive_fcol (s : State) (key : Nat) (w : Word) : (State.setLive s key w).fcol = s.fcol := rfl
@[simp] theorem State.setLive_evr (s : State) (key : Nat) (w : Word) : (State.setLive s key w).evr = s.evr := rfl
@[simp] theorem State.setLive_flash (s : State) (key : Nat) (w : Word) : (State.setLive s key w).flash = s.flash := rfl
@[simp] theorem State.setLive_sbm (s : State) (key : Nat) (w : Word) : (State.setLive s key w).sbm = s.sbm := rfl
@[simp] theorem State.setLive_otp (s : State) (key : Nat) (w : Word) : (State.setLive s key w).otp = s.otp := rfl
@[simp] theorem State.setLive_cmp (s : State) (key : Nat) (w : Word) : (State.setLive s key w).cmp = s.cmp := rfl

/-! ### State.raise -/

@[simp] theorem State.raise_pending (s : State) (n : Nat) : (State.raise s n).pending = s.pending := rfl
@[simp] theorem State.raise_phase (s : State) (n : Nat) : (State.raise s n).phase = s.phase := rfl
@[simp] theorem State.raise_tide (s : State) (n : Nat) : (State.raise s n).tide = s.tide := rfl
@[simp] theorem State.raise_nextId (s : State) (n : Nat) : (State.raise s n).nextId = s.nextId := rfl
@[simp] theorem State.raise_freeIx (s : State) (n : Nat) : (State.raise s n).freeIx = s.freeIx := rfl
@[simp] theorem State.raise_regs (s : State) (n : Nat) : (State.raise s n).regs = s.regs := rfl
@[simp] theorem State.raise_ports (s : State) (n : Nat) : (State.raise s n).ports = s.ports := rfl
@[simp] theorem State.raise_xbar (s : State) (n : Nat) : (State.raise s n).xbar = s.xbar := rfl
@[simp] theorem State.raise_forms (s : State) (n : Nat) : (State.raise s n).forms = s.forms := rfl
@[simp] theorem State.raise_recons (s : State) (n : Nat) : (State.raise s n).recons = s.recons := rfl
@[simp] theorem State.raise_chans (s : State) (n : Nat) : (State.raise s n).chans = s.chans := rfl
@[simp] theorem State.raise_spans (s : State) (n : Nat) : (State.raise s n).spans = s.spans := rfl
@[simp] theorem State.raise_fresh (s : State) (n : Nat) : (State.raise s n).fresh = s.fresh := rfl
@[simp] theorem State.raise_garm (s : State) (n : Nat) : (State.raise s n).garm = s.garm := rfl
@[simp] theorem State.raise_cad (s : State) (n : Nat) : (State.raise s n).cad = s.cad := rfl
@[simp] theorem State.raise_pers (s : State) (n : Nat) : (State.raise s n).pers = s.pers := rfl
@[simp] theorem State.raise_mill (s : State) (n : Nat) : (State.raise s n).mill = s.mill := rfl
@[simp] theorem State.raise_retire (s : State) (n : Nat) : (State.raise s n).retire = s.retire := rfl
@[simp] theorem State.raise_fcol (s : State) (n : Nat) : (State.raise s n).fcol = { s.fcol with lines := s.fcol.lines ++ [n] } := rfl
@[simp] theorem State.raise_evr (s : State) (n : Nat) : (State.raise s n).evr = s.evr := rfl
@[simp] theorem State.raise_flash (s : State) (n : Nat) : (State.raise s n).flash = s.flash := rfl
@[simp] theorem State.raise_sbm (s : State) (n : Nat) : (State.raise s n).sbm = s.sbm := rfl
@[simp] theorem State.raise_otp (s : State) (n : Nat) : (State.raise s n).otp = s.otp := rfl
@[simp] theorem State.raise_cmp (s : State) (n : Nat) : (State.raise s n).cmp = s.cmp := rfl

/-! ### State.raiseChan -/

@[simp] theorem State.raiseChan_pending (s : State) (c : ChanId) (k : Nat) : (State.raiseChan s c k).pending = s.pending := rfl
@[simp] theorem State.raiseChan_phase (s : State) (c : ChanId) (k : Nat) : (State.raiseChan s c k).phase = s.phase := rfl
@[simp] theorem State.raiseChan_tide (s : State) (c : ChanId) (k : Nat) : (State.raiseChan s c k).tide = s.tide := rfl
@[simp] theorem State.raiseChan_nextId (s : State) (c : ChanId) (k : Nat) : (State.raiseChan s c k).nextId = s.nextId := rfl
@[simp] theorem State.raiseChan_freeIx (s : State) (c : ChanId) (k : Nat) : (State.raiseChan s c k).freeIx = s.freeIx := rfl
@[simp] theorem State.raiseChan_regs (s : State) (c : ChanId) (k : Nat) : (State.raiseChan s c k).regs = s.regs := rfl
@[simp] theorem State.raiseChan_ports (s : State) (c : ChanId) (k : Nat) : (State.raiseChan s c k).ports = s.ports := rfl
@[simp] theorem State.raiseChan_xbar (s : State) (c : ChanId) (k : Nat) : (State.raiseChan s c k).xbar = s.xbar := rfl
@[simp] theorem State.raiseChan_forms (s : State) (c : ChanId) (k : Nat) : (State.raiseChan s c k).forms = s.forms := rfl
@[simp] theorem State.raiseChan_recons (s : State) (c : ChanId) (k : Nat) : (State.raiseChan s c k).recons = s.recons := rfl
@[simp] theorem State.raiseChan_chans (s : State) (c : ChanId) (k : Nat) : (State.raiseChan s c k).chans = s.chans := rfl
@[simp] theorem State.raiseChan_spans (s : State) (c : ChanId) (k : Nat) : (State.raiseChan s c k).spans = s.spans := rfl
@[simp] theorem State.raiseChan_fresh (s : State) (c : ChanId) (k : Nat) : (State.raiseChan s c k).fresh = s.fresh := rfl
@[simp] theorem State.raiseChan_garm (s : State) (c : ChanId) (k : Nat) : (State.raiseChan s c k).garm = s.garm := rfl
@[simp] theorem State.raiseChan_cad (s : State) (c : ChanId) (k : Nat) : (State.raiseChan s c k).cad = s.cad := rfl
@[simp] theorem State.raiseChan_pers (s : State) (c : ChanId) (k : Nat) : (State.raiseChan s c k).pers = s.pers := rfl
@[simp] theorem State.raiseChan_mill (s : State) (c : ChanId) (k : Nat) : (State.raiseChan s c k).mill = s.mill := rfl
@[simp] theorem State.raiseChan_retire (s : State) (c : ChanId) (k : Nat) : (State.raiseChan s c k).retire = s.retire := rfl
@[simp] theorem State.raiseChan_fcol (s : State) (c : ChanId) (k : Nat) : (State.raiseChan s c k).fcol = { s.fcol with lines := s.fcol.lines ++ [chanSrc c k] } := rfl
@[simp] theorem State.raiseChan_evr (s : State) (c : ChanId) (k : Nat) : (State.raiseChan s c k).evr = s.evr := rfl
@[simp] theorem State.raiseChan_flash (s : State) (c : ChanId) (k : Nat) : (State.raiseChan s c k).flash = s.flash := rfl
@[simp] theorem State.raiseChan_sbm (s : State) (c : ChanId) (k : Nat) : (State.raiseChan s c k).sbm = s.sbm := rfl
@[simp] theorem State.raiseChan_otp (s : State) (c : ChanId) (k : Nat) : (State.raiseChan s c k).otp = s.otp := rfl
@[simp] theorem State.raiseChan_cmp (s : State) (c : ChanId) (k : Nat) : (State.raiseChan s c k).cmp = s.cmp := rfl

/-! ### State.stamp -/

@[simp] theorem State.stamp_pending (s : State) : (State.stamp s).pending = s.pending := rfl
@[simp] theorem State.stamp_phase (s : State) : (State.stamp s).phase = s.phase := rfl
@[simp] theorem State.stamp_tide (s : State) : (State.stamp s).tide = s.tide := rfl
@[simp] theorem State.stamp_nextId (s : State) : (State.stamp s).nextId = s.nextId + 1 := rfl
@[simp] theorem State.stamp_freeIx (s : State) : (State.stamp s).freeIx = s.freeIx := rfl
@[simp] theorem State.stamp_regs (s : State) : (State.stamp s).regs = s.regs := rfl
@[simp] theorem State.stamp_ports (s : State) : (State.stamp s).ports = s.ports := rfl
@[simp] theorem State.stamp_xbar (s : State) : (State.stamp s).xbar = s.xbar := rfl
@[simp] theorem State.stamp_forms (s : State) : (State.stamp s).forms = s.forms := rfl
@[simp] theorem State.stamp_recons (s : State) : (State.stamp s).recons = s.recons := rfl
@[simp] theorem State.stamp_chans (s : State) : (State.stamp s).chans = s.chans := rfl
@[simp] theorem State.stamp_spans (s : State) : (State.stamp s).spans = s.spans := rfl
@[simp] theorem State.stamp_fresh (s : State) : (State.stamp s).fresh = s.fresh := rfl
@[simp] theorem State.stamp_garm (s : State) : (State.stamp s).garm = s.garm := rfl
@[simp] theorem State.stamp_cad (s : State) : (State.stamp s).cad = s.cad := rfl
@[simp] theorem State.stamp_pers (s : State) : (State.stamp s).pers = s.pers := rfl
@[simp] theorem State.stamp_mill (s : State) : (State.stamp s).mill = s.mill := rfl
@[simp] theorem State.stamp_retire (s : State) : (State.stamp s).retire = s.retire := rfl
@[simp] theorem State.stamp_fcol (s : State) : (State.stamp s).fcol = s.fcol := rfl
@[simp] theorem State.stamp_evr (s : State) : (State.stamp s).evr = s.evr := rfl
@[simp] theorem State.stamp_flash (s : State) : (State.stamp s).flash = s.flash := rfl
@[simp] theorem State.stamp_sbm (s : State) : (State.stamp s).sbm = s.sbm := rfl
@[simp] theorem State.stamp_otp (s : State) : (State.stamp s).otp = s.otp := rfl
@[simp] theorem State.stamp_cmp (s : State) : (State.stamp s).cmp = s.cmp := rfl

/-! ### Parts of the state -/

@[simp] theorem State.modPort_port (s : State) (p : PortId) (f : Port → Port) : (s.modPort p f).port p = f (s.port p) := by
  simp [State.port]

theorem State.modPort_port_ne (s : State) {p q : PortId} (f : Port → Port) (h : q ≠ p) :
    (s.modPort p f).port q = s.port q := by
  simp [State.port, Tab.at_put_ne _ _ h]

@[simp] theorem State.modChan_chan (s : State) (c : ChanId) (f : Chan → Chan) : (s.modChan c f).chan c = f (s.chan c) := by
  simp [State.chan]

theorem State.modChan_chan_ne (s : State) {c d : ChanId} (f : Chan → Chan) (h : d ≠ c) :
    (s.modChan c f).chan d = s.chan d := by
  simp [State.chan, Tab.at_put_ne _ _ h]

@[simp] theorem State.modSpan_span (s : State) (m : SetId) (f : Span → Span) : (s.modSpan m f).span m = f (s.span m) := by
  simp [State.span]

theorem State.modSpan_span_ne (s : State) {m n : SetId} (f : Span → Span) (h : n ≠ m) :
    (s.modSpan m f).span n = s.span n := by
  simp [State.span, Tab.at_put_ne _ _ h]

@[simp] theorem Chan.modSel_sel (k : Chan) (x : Sub) (f : Sel → Sel) : (k.modSel x f).sel.at x = f (k.sel.at x) := by
  simp [Chan.modSel]

/-! ### Registers -/

theorem State.setProg_prog (s : State) (key : Nat) (w : Word) (h : s.regs.prog.wf resetWord = true) :
    (s.setProg key w).prog key = w := Cells.get_set key w h

theorem State.setProg_prog_ne (s : State) {key k : Nat} (w : Word) (h : k ≠ key) : (s.setProg key w).prog k = s.prog k :=
  Cells.get_set_ne w h

theorem State.setLive_live (s : State) (key : Nat) (w : Word) (h : s.regs.live.wf resetWord = true) :
    (s.setLive key w).live key = w := Cells.get_set key w h

theorem State.setLive_live_ne (s : State) {key k : Nat} (w : Word) (h : k ≠ key) : (s.setLive key w).live k = s.live k :=
  Cells.get_set_ne w h

@[simp] theorem State.setProg_live (s : State) (key : Nat) (w : Word) (k : Nat) : (s.setProg key w).live k = s.live k := rfl
@[simp] theorem State.setLive_prog (s : State) (key : Nat) (w : Word) (k : Nat) : (s.setLive key w).prog k = s.prog k := rfl

end Sys2Proof.Machine
end

