-- ==== Sys2Proof/Laws/Launches.lean ====
section
/-! SUPPORT. What a launch does: the earliest of several tide values, a row that waits for its event, and the parts of a launch
at which nothing is due. -/

namespace Sys2Proof.Machine
set_option Elab.async false
set_option linter.all false

/-- Of numbers `pick` answers the least, and nothing only of an empty list. -/
theorem pick_min (l : List Nat) : (∀ d, pick (fun (a b : Nat) => decide (a < b)) l = some d → d ∈ l ∧ ∀ x ∈ l, d ≤ x) ∧ (pick (fun (a b : Nat) => decide (a < b)) l = none → l = []) := by
  induction l with
  | nil => simp [pick]
  | cons a l ih =>
    obtain ⟨h1, h2⟩ := ih
    refine ⟨?_, ?_⟩
    · intro d hd
      simp only [pick] at hd
      split at hd
      · rename_i h; cases hd; simp [h2 h]
      · rename_i y h
        obtain ⟨m, n⟩ := h1 y h
        split at hd <;> cases hd <;> rename_i hl <;> simp at hl
        · refine ⟨by simp [m], ?_⟩; intro x hx; simp at hx; rcases hx with rfl | hx; omega; exact n x hx
        · refine ⟨by simp, ?_⟩; intro x hx; simp at hx; rcases hx with rfl | hx; omega; have := n x hx; omega
    · intro h; simp only [pick] at h; split at h <;> (try split at h) <;> cases h

/-- The earliest of a list is its least member. -/
theorem earliest_eq (l : List Nat) (T : Nat) (h : T ∈ l) (h1 : ∀ x ∈ l, T ≤ x) : earliest l = some T := by
  unfold earliest
  cases hp : pick (fun (a b : Nat) => decide (a < b)) l with
  | none => rw [(pick_min l).2 hp] at h; cases h
  | some d =>
    obtain ⟨m, n⟩ := (pick_min l).1 d hp
    have := n T h; have := h1 d m
    congr; omega

/-- A row whose event is the earliest that is due launches its tide value. -/
theorem State.await_launch (s : State) (T : Nat) (h : s.ticking = true) (h1 : s.tide < T) (hd : T ∈ s.dues) (h2 : ∀ d ∈ s.dues, T ≤ d) :
    s.await (some T) = s.launch T [] := by
  simp only [State.await, h, if_true]
  obtain ⟨n, hn⟩ : ∃ n, T - s.tide = n + 1 := ⟨T - s.tide - 1, by omega⟩
  rw [hn]
  simp only [State.runTo]
  rw [show s.nextDue = some T from earliest_eq _ _ hd h2]
  simp

/-- The earliest slot that names a subchannel, where nothing is due before it. -/
theorem State.slot_due (s : State) (k : Nat) (c : ChanId) (x : Sub) (e : PostedSlot) (h : e ∈ s.cad.posted) (hk : e.kind = k) (hn : e.names c x = true)
   (h2 : ∀ d ∈ s.dues, e.at_ ≤ d) : earliest ((s.cad.posted.filter fun e => e.kind == k && e.names c x).map (·.at_)) = some e.at_ ∧ e.at_ ∈ s.dues := by
  have hd : ∀ q ∈ s.cad.posted, q.at_ ∈ s.dues := by
    intro q hq; simp only [State.dues, List.mem_append, List.mem_map]
    exact Or.inl (Or.inl (Or.inl (Or.inl (Or.inr ⟨q, hq, rfl⟩))))
  refine ⟨earliest_eq _ _ ?_ ?_, hd e h⟩
  · exact List.mem_map.mpr ⟨e, by simp [h, hk, hn], rfl⟩
  · intro y hy
    simp only [List.mem_map, List.mem_filter] at hy
    obtain ⟨q, ⟨hq, _⟩, rfl⟩ := hy
    exact h2 _ (hd q hq)

/-- No slot names the subchannel. -/
theorem State.slot_none (s : State) (k : Nat) (c : ChanId) (x : Sub) (h : ∀ e ∈ s.cad.posted, e.kind = k → e.names c x = false) :
    earliest ((s.cad.posted.filter fun e => e.kind == k && e.names c x).map (·.at_)) = none := by
  have : (s.cad.posted.filter fun e => e.kind == k && e.names c x) = [] := by
    simp only [List.filter_eq_nil_iff]; intro e he; simp; exact h e he
  rw [this]; rfl

/-- The tide moves on. -/
theorem State.advance_lt (s : State) (T : Nat) (h : s.tide < T) :
    s.advance T = (({ s with tide := T } : State).nextCclk.landHeld).sledFalls (T - s.tide) := by
  simp [State.advance, h]

/-- Held writes that land change registers' stored bits, and nothing else of the state but what waits. -/
theorem State.landHeld_frame (s : State) : s.landHeld.tide = s.tide ∧ s.landHeld.cad = s.cad ∧ s.landHeld.pers = s.pers ∧
    s.landHeld.chans = s.chans ∧ s.landHeld.regs.posted = s.regs.posted ∧ s.landHeld.regs.atPend = s.regs.atPend := by
  have key : ∀ (l : List HeldWrite) (t : State),
      let u := l.foldl (fun (s : State) (h : HeldWrite) => s.setProg h.key h.val) t
      u.tide = t.tide ∧ u.cad = t.cad ∧ u.pers = t.pers ∧ u.chans = t.chans ∧ u.regs.posted = t.regs.posted ∧
        u.regs.atPend = t.regs.atPend := by
    intro l
    induction l with
    | nil => intro t; exact ⟨rfl, rfl, rfl, rfl, rfl, rfl⟩
    | cons a l ih => intro t; exact ih (t.setProg a.key a.val)
  exact key _ _

/-- What the passing of time leaves: the cadence, what is posted and armed, the strobe and the gates. -/
theorem State.advance_frame (s : State) (T : Nat) (h : s.tide < T) : (s.advance T).tide = T ∧ (s.advance T).cad = s.cad ∧
    (s.advance T).pers = s.pers ∧ (s.advance T).regs.posted = s.regs.posted ∧ (s.advance T).regs.atPend = s.regs.atPend ∧
    ∀ n, ((s.advance T).chan n).gate = (s.chan n).gate := by
  rw [State.advance_lt s T h]
  obtain ⟨h1, h2, h3, h4, h5, h6⟩ := State.landHeld_frame (({ s with tide := T } : State).nextCclk)
  refine ⟨h1, h2, h3, h5, h6, fun n => ?_⟩
  simp only [State.sledFalls, State.chan, Tab.at_each, h4]
  rfl

/-- A launch, step by step. -/
theorem State.launch_eq (s : State) (T : Nat) (h : s.tide < T) : s.launch T [] = (
      let t := s.advance T
      let t := if T % 4096 = 0 then t.sendMark [] else t
      t.cuts.takeUpdates.posts.allSlots.gates.settleAll.sweepFails) := by
  simp only [State.launch, (State.advance_frame s T h).1]

/-- No cut is reached. -/
theorem State.cuts_none (s : State) (h : s.reached 3 = []) : s.cuts = s := by simp [State.cuts, h]

/-- No update is posted. -/
theorem State.takeUpdates_none (s : State) (h : s.regs.posted = []) : s.takeUpdates = s := by
  cases s; rename_i r _ _ _ _ _ _ _ _ _ _ _ _ _ _ _ _ _ _
  cases r; simp only at h; subst h; simp [State.takeUpdates]

/-- A fold of steps that change nothing. -/
theorem foldl_fix {α β : Type} (f : α → β → α) (s : α) (h : ∀ b, f s b = s) (l : List β) : l.foldl f s = s := by
  induction l with
  | nil => rfl
  | cons a l ih => simp only [List.foldl, h, ih]

/-- No posting time has come. -/
theorem State.posts_none (s : State) (h : ∀ k n, s.cad.next.at k = some n → s.tide + 1024 < n) (ha : s.regs.atPend = false) : s.posts = s := by
  have : ∀ k, s.postDue k = s := by
    intro k; unfold State.postDue; split
    · rename_i T hT; have := h k T hT; rw [if_neg (by omega)]
    · rfl
  simp only [State.posts, foldl_fix _ _ this, ha, Bool.false_and, Bool.false_eq_true, if_false]

/-- A launch at which one slot alone is due. -/
theorem State.launch_slot (s : State) (e : PostedSlot) (hp : s.cad.posted = [e]) (h3 : e.kind ≠ 3) (h : s.tide < e.at_) (hm : e.at_ % 4096 ≠ 0)
   (hn : ∀ k n, s.cad.next.at k = some n → e.at_ + 1024 < n) (hu : s.regs.posted = []) (ha : s.regs.atPend = false) :
   s.launch e.at_ [] = ((s.advance e.at_).allSlots.gates).settleAll.sweepFails := by
  obtain ⟨f1, f2, f3, f4, f5, -⟩ := State.advance_frame s e.at_ h
  rw [State.launch_eq s _ h]
  simp only [hm, if_false]
  rw [State.cuts_none, State.takeUpdates_none, State.posts_none]
  · rw [f1, f2]; exact hn
  · rw [f5]; exact ha
  · rw [f4]; exact hu
  · simp [State.reached, f2, hp, h3]

/-- No gate is set. -/
theorem State.gates_none (s : State) (hg : ∀ n, (s.chan n).gate = none) : s.gates = s :=
  foldl_fix _ _ (fun c => by simp [State.gateDue, hg c]) _

/-- A subchannel that no slot names takes none. -/
theorem State.takeSlots_none (s : State) (wins pauses : List PostedSlot) (c : ChanId) (x : Sub) (h : (wins.any fun e => e.names c x) = false) (h' : (pauses.any fun e => e.names c x) = false) :
    s.takeSlots wins pauses c x = s := by
  simp [State.takeSlots, h, h']

/-- Slots that name one subchannel alone reach that subchannel alone. -/
theorem State.takeSlots_one (s : State) (wins pauses : List PostedSlot) (c : ChanId) (x : Sub) (h : ∀ n y, ¬(n = c ∧ y = x) → (wins.any fun e => e.names n y) = false ∧ (pauses.any fun e => e.names n y) = false) :
    allChans.foldl (fun (s : State) (c : ChanId) => (s.takeSlots wins pauses c 0).takeSlots wins pauses c 1) s = s.takeSlots wins pauses c x := by
  have hoth : ∀ (n : ChanId) (y : Sub) (t : State), ¬(n = c ∧ y = x) → t.takeSlots wins pauses n y = t := by
    intro n y t hn; exact State.takeSlots_none t wins pauses n y (h n y hn).1 (h n y hn).2
  have hl : ∀ (l : List ChanId), c ∉ l → ∀ t : State, l.foldl (fun (s : State) (c : ChanId) => (s.takeSlots wins pauses c 0).takeSlots wins pauses c 1) t = t := by
    intro l; induction l with
    | nil => intros; rfl
    | cons a l ih =>
      intro hc t; simp only [List.mem_cons, not_or] at hc
      simp only [List.foldl]
      rw [hoth a 0 t (fun hh => hc.1 hh.1.symm), hoth a 1 t (fun hh => hc.1 hh.1.symm)]
      exact ih hc.2 t
  have hs : allChans = (allChans.take c.val) ++ c :: (allChans.drop (c.val + 1)) := by
    clear h hoth hl; revert c; decide
  rw [hs, List.foldl_append, List.foldl_cons]
  rw [hl _ (by clear h hoth hl hs; revert c; decide), hl _ (by clear h hoth hl hs; revert c; decide)]
  by_cases hx : x = 0
  · subst hx; rw [hoth c 1 _ (by simp)]
  · have hx : x = 1 := by revert hx; clear h hoth hl hs; revert x; decide
    subst hx; rw [hoth c 0 _ (by simp)]

end Sys2Proof.Machine
end

