-- ==== Sys2Proof/Laws/Steps.lean ====
section
/-! SUPPORT. What every command and every step keeps, each command by its own lemma. -/

namespace Sys2Proof.Machine

set_option Elab.async false
set_option linter.all false

/-- The commands whose effect is kept whole: all but the rise and the fall of the always-on supply and a row of the bring-back
table. -/
def plain : Instr → Bool
  | .aonPowerUp | .aonPowerLoss | .bringBackRow => false
  | _ => true

theorem exec_kept (i : Instr) (s : State) (h : plain i = true) : ∃ t, exec i s = .next t ∧ Kept s t := by
  cases i with
  | nop p w par => exact execNop_kept p w par s
  | rd p w par => exact execRd_kept p w par s
  | rds p w par => exact execRds_kept p w par s
  | wr p w par => exact execWr_kept p w par s
  | wrp p w par => exact execWrp_kept p w par s
  | wrs p w par => exact execWrs_kept p w par s
  | efence p w par => exact execEfence_kept p w par s
  | pfence p w par => exact execPfence_kept p w par s
  | writeDataBeat p d par last => exact execWriteDataBeat_kept p d par last s
  | responseCreditReturn p => exact execResponseCreditReturn_kept p s
  | requestAdmit p => exact execRequestAdmit_kept p s
  | crossbarTransfer d => exact execCrossbarTransfer_kept d s
  | writeAccept d => exact execWriteAccept_kept d s
  | eddyLwinExpiry c line => exact execEddyLwinExpiry_kept c line s
  | stripeSwinExpiry m stripe => exact execStripeSwinExpiry_kept m stripe s
  | internalReadReturn c => exact execInternalReadReturn_kept c s
  | commandSlot c x => exact execCommandSlot_kept c x s
  | candidateAged c id => exact execCandidateAged_kept c id s
  | mshareWindowEnd c x => exact execMshareWindowEnd_kept c x s
  | pageIdleExpiry c x b => exact execPageIdleExpiry_kept c x b s
  | commandAck c x => exact execCommandAck_kept c x s
  | caParityAlert c x => exact execCaParityAlert_kept c x s
  | alertRelease c x => exact execAlertRelease_kept c x s
  | alertRcvrExpiry c x => exact execAlertRcvrExpiry_kept c x s
  | alertStuckTimeout c x => exact execAlertStuckTimeout_kept c x s
  | readDataDecode c x raw => exact execReadDataDecode_kept c x raw s
  | returnLine c => exact execReturnLine_kept c s
  | responseBeat p => exact execResponseBeat_kept p s
  | tideSyncMark seen => exact execTideSyncMark_kept seen s
  | slotPost k => exact execSlotPost_kept k s
  | refreshWindow c x => exact execRefreshWindow_kept c x s
  | retrainPause c x fails up down => exact execRetrainPause_kept c x fails up down s
  | epochCut => exact execEpochCut_kept s
  | updStrobe data => exact execUpdStrobe_kept data s
  | updAtArm => exact execUpdAtArm_kept s
  | updAtCancel => exact execUpdAtCancel_kept s
  | updAtPost => exact execUpdAtPost_kept s
  | updateTakesEffect => exact execUpdateTakesEffect_kept s
  | pwrFail => exact execPwrFail_kept s
  | sluiceDone => exact execSluiceDone_kept s
  | sagWarn pinLow droop => exact execSagWarn_kept pinLow droop s
  | sagCrit pinLow droop => exact execSagCrit_kept pinLow droop s
  | warnClearTimeout => exact execWarnClearTimeout_kept s
  | tallyClear m t => exact execTallyClear_kept m t s
  | moBeatSend l => exact execMoBeatSend_kept l s
  | miData l d ctl => exact execMiData_kept l d ctl s
  | miHeader l d ctl => exact execMiHeader_kept l d ctl s
  | miTrailer l d ctl => exact execMiTrailer_kept l d ctl s
  | miAck l d ctl => exact execMiAck_kept l d ctl s
  | miHello l d ctl => exact execMiHello_kept l d ctl s
  | miSever l d ctl => exact execMiSever_kept l d ctl s
  | miDrift l d ctl => exact execMiDrift_kept l d ctl s
  | miRsEnd l d ctl => exact execMiRsEnd_kept l d ctl s
  | miIdle l d ctl => exact execMiIdle_kept l d ctl s
  | miLineAdmit l => exact execMiLineAdmit_kept l s
  | ackDue => exact execAckDue_kept s
  | linkUp => exact execLinkUp_kept s
  | linkDown mo mi => exact execLinkDown_kept mo mi s
  | lossTimeout l => exact execLossTimeout_kept l s
  | splitTimeout => exact execSplitTimeout_kept s
  | witnessGrant high => exact execWitnessGrant_kept high s
  | millStartResync => exact execMillStartResync_kept s
  | millForceSolo => exact execMillForceSolo_kept s
  | millForceFence => exact execMillForceFence_kept s
  | millWitnessGrantCmd => exact execMillWitnessGrantCmd_kept s
  | millWitnessDeny => exact execMillWitnessDeny_kept s
  | resyncGranule => exact execResyncGranule_kept s
  | resyncLineReturn g r l => exact execResyncLineReturn_kept g r l s
  | injEncode c => exact execInjEncode_kept c s
  | injWriteRaw c => exact execInjWriteRaw_kept c s
  | injReadRaw c => exact execInjReadRaw_kept c s
  | injDecode c => exact execInjDecode_kept c s
  | injRawComplete c raw => exact execInjRawComplete_kept c raw s
  | injArm c => exact execInjArm_kept c s
  | injGarm => exact execInjGarm_kept s
  | eccClr c => exact execEccClr_kept c s
  | freshFillGo => exact execFreshFillGo_kept s
  | freshFillDone => exact execFreshFillDone_kept s
  | weirRequest c code => exact execWeirRequest_kept c code s
  | backoffExpiry c code => exact execBackoffExpiry_kept c code s
  | quantumExpiry c => exact execQuantumExpiry_kept c s
  | weirRelease c => exact execWeirRelease_kept c s
  | debugDramAccess c => exact execDebugDramAccess_kept c s
  | retirePop => exact execRetirePop_kept s
  | ladderClr => exact execLadderClr_kept s
  | keepsakeProgramDone ok => exact execKeepsakeProgramDone_kept ok s
  | pprProgramEnd c => exact execPprProgramEnd_kept c s
  | pmicSettled c => exact execPmicSettled_kept c s
  | channelPllLock c => exact execChannelPllLock_kept c s
  | phyCalDone c => exact execPhyCalDone_kept c s
  | pllLockTimeout q => exact execPllLockTimeout_kept q s
  | pllUnlock q => exact execPllUnlock_kept q s
  | tempPoll c => exact execTempPoll_kept c s
  | i3cTransferDone c ack bytes => exact execI3cTransferDone_kept c ack bytes s
  | buttonPress c => exact execButtonPress_kept c s
  | presenceChange c present => exact execPresenceChange_kept c present s
  | presenceLoss c => exact execPresenceLoss_kept c s
  | sledPowerOn => exact execSledPowerOn_kept s
  | prepareGate c => exact execPrepareGate_kept c s
  | preparePowerOff c => exact execPreparePowerOff_kept c s
  | idleWake c => exact execIdleWake_kept c s
  | slumberCommit => exact execSlumberCommit_kept s
  | wakePin n => exact execWakePin_kept n s
  | wakePulse => exact execWakePulse_kept s
  | sbmTempPoll c ack temp => exact execSbmTempPoll_kept c ack temp s
  | alarmClr => exact execAlarmClr_kept s
  | aonPowerUp => cases h
  | aonPowerLoss => cases h
  | bringBackRow => cases h
  | corePg => exact execCorePg_kept s
  | corePgTimeout => exact execCorePgTimeout_kept s
  | coreRst => exact execCoreRst_kept s
  | coreRstRelease => exact execCoreRstRelease_kept s
  | refclkOutOfRange => exact execRefclkOutOfRange_kept s
  | debugPortActive => exact execDebugPortActive_kept s
  | cmdPiWrite data => exact execCmdPiWrite_kept data s
  | unknownOpcode => exact execUnknownOpcode_kept s
  | identify => exact execIdentify_kept s
  | status => exact execStatus_kept s
  | loadBegin => exact execLoadBegin_kept s
  | loadChunk => exact execLoadChunk_kept s
  | loadEnd => exact execLoadEnd_kept s
  | imageVerified => exact execImageVerified_kept s
  | flashImageReadDone => exact execFlashImageReadDone_kept s
  | firmwareReady => exact execFirmwareReady_kept s
  | startTimeout => exact execStartTimeout_kept s
  | nuinunWatchdog => exact execNuinunWatchdog_kept s
  | echo => exact execEcho_kept s
  | jobStatus => exact execJobStatus_kept s
  | jobCancel => exact execJobCancel_kept s
  | jobEnd j r trn => exact execJobEnd_kept j r trn s
  | commandTimeout => exact execCommandTimeout_kept s
  | spdRead => exact execSpdRead_kept s
  | spdFetch => exact execSpdFetch_kept s
  | i3cRead => exact execI3cRead_kept s
  | pmicEnable => exact execPmicEnable_kept s
  | pmicSet => exact execPmicSet_kept s
  | train => exact execTrain_kept s
  | mrRead => exact execMrRead_kept s
  | mrWrite => exact execMrWrite_kept s
  | patchLoad => exact execPatchLoad_kept s
  | scrub => exact execScrub_kept s
  | patchInstall => exact execPatchInstall_kept s
  | ppr => exact execPpr_kept s
  | pprUnstage => exact execPprUnstage_kept s
  | ladderTake => exact execLadderTake_kept s
  | degradeRank => exact execDegradeRank_kept s
  | tallyZero => exact execTallyZero_kept s
  | resweep => exact execResweep_kept s
  | rebuild => exact execRebuild_kept s
  | prepare => exact execPrepare_kept s
  | idleEnter => exact execIdleEnter_kept s
  | idleExit => exact execIdleExit_kept s
  | slumber => exact execSlumber_kept s
  | sluice => exact execSluice_kept s
  | millAction => exact execMillAction_kept s
  | flashInfo => exact execFlashInfo_kept s
  | imgStoreBegin => exact execImgStoreBegin_kept s
  | imgStoreChunk => exact execImgStoreChunk_kept s
  | imgStoreEnd => exact execImgStoreEnd_kept s
  | evrChallenge => exact execEvrChallenge_kept s
  | evrClear => exact execEvrClear_kept s
  | faultLatch srcs => exact execFaultLatch_kept srcs s
  | coreResetTimeout => exact execCoreResetTimeout_kept s
  | fclr data => exact execFclr_kept data s
  | evrFetch data => exact execEvrFetch_kept data s
  | evrFetchDone => exact execEvrFetchDone_kept s
  | evrRecordProgram => exact execEvrRecordProgram_kept s
  | hourTick => exact execHourTick_kept s
  | portPerrClear p data => exact execPortPerrClear_kept p data s
  | wcuVstatClear p data => exact execWcuVstatClear_kept p data s
  | wcuWbxClear p data => exact execWcuWbxClear_kept p data s
  | eddyPsnClear c data => exact execEddyPsnClear_kept c data s
  | rdueClear c data => exact execRdueClear_kept c data s
  | updAtStatClear data => exact execUpdAtStatClear_kept data s
  | millBrkClear data => exact execMillBrkClear_kept data s
  | svcPressClear data => exact execSvcPressClear_kept data s
  | svcPchgClear data => exact execSvcPchgClear_kept data s
  | wakeCauseClear data => exact execWakeCauseClear_kept data s
  | indDataWrite v data => exact execIndDataWrite_kept v data s
  | indDataRead v => exact execIndDataRead_kept v s
  | aliasWrite v addr data => exact execAliasWrite_kept v addr data s
  | cinchWrite data => exact execCinchWrite_kept data s
  | stitchCommit data => exact execStitchCommit_kept data s
  | stitchSweepEnd => exact execStitchSweepEnd_kept s
  | snapSelWrite data => exact execSnapSelWrite_kept data s
  | snapFetchDone => exact execSnapFetchDone_kept s
  | registerWrite addr data => exact execRegisterWrite_kept addr data s
  | idleGate c => exact execIdleGate_kept c s
  | crossbarHeadWaitLimit d => exact execCrossbarHeadWaitLimit_kept d s
  | mirrorInPllLock => exact execMirrorInPllLock_kept s
  | pmicEnableSpacing c slot1 good => exact execPmicEnableSpacing_kept c slot1 good s

theorem exec_passed (i : Instr) (s : State) : ∃ t, exec i s = .next t ∧ Passed s t := by
  by_cases h : plain i = true
  · obtain ⟨t, e, k⟩ := exec_kept i s h
    exact ⟨t, e, k.passed⟩
  · cases i <;> simp [plain] at h
    · obtain ⟨t, e, k, -⟩ := execAonPowerUp_passed s
      exact ⟨t, e, k⟩
    · obtain ⟨t, e, k, -⟩ := execAonPowerLoss_passed s
      exact ⟨t, e, k⟩
    · obtain ⟨t, e, k, -⟩ := execBringBackRow_passed s
      exact ⟨t, e, k⟩

end Sys2Proof.Machine
end

