-- ==== Sys2Proof/Laws/Tables.lean ====
section
/-! SUPPORT. Lemmas on the tables of the state, on the choice of a least element, and on folds. -/

namespace Sys2Proof.Machine

set_option Elab.async false
set_option linter.all false

/-! ### Updates of one port or channel -/

theorem State.modPort_same {s : State} {p : PortId} {f : Port → Port} (h : f (s.port p) = s.port p) : s.modPort p f = s := by
  have : s.ports.put p (f (s.ports.at p)) = s.ports := by
    have h' : f (s.ports.at p) = s.ports.at p := h
    rw [h']; simp [Tab.put, Tab.at]
  simp only [State.modPort, this]

theorem State.modChan_same {s : State} {c : ChanId} {f : Chan → Chan} (h : f (s.chan c) = s.chan c) : s.modChan c f = s := by
  have : s.chans.put c (f (s.chans.at c)) = s.chans := by
    have h' : f (s.chans.at c) = s.chans.at c := h
    rw [h']; simp [Tab.put, Tab.at]
  simp only [State.modChan, this]

theorem State.modPort_congr {s : State} {p : PortId} {f g : Port → Port} (h : f (s.port p) = g (s.port p)) :
    s.modPort p f = s.modPort p g := by
  have h' : f (s.ports.at p) = g (s.ports.at p) := h
  simp only [State.modPort, h']

theorem State.modChan_congr {s : State} {c : ChanId} {f g : Chan → Chan} (h : f (s.chan c) = g (s.chan c)) :
    s.modChan c f = s.modChan c g := by
  have h' : f (s.chans.at c) = g (s.chans.at c) := h
  simp only [State.modChan, h']

/-! ### The greatest of a list -/

theorem foldl_max_le (l : List Nat) (a : Nat) : a ≤ l.foldl max a ∧ ∀ x ∈ l, x ≤ l.foldl max a := by
  induction l generalizing a with
  | nil => simp
  | cons y l ih =>
    obtain ⟨h1, h2⟩ := ih (max a y)
    simp only [List.foldl_cons, List.mem_cons, forall_eq_or_imp]
    exact ⟨by omega, by omega, h2⟩

theorem foldl_max_mem (l : List Nat) (a : Nat) : l.foldl max a = a ∨ l.foldl max a ∈ l := by
  induction l generalizing a with
  | nil => simp
  | cons y l ih =>
    simp only [List.foldl_cons, List.mem_cons]
    rcases ih (max a y) with h | h
    · rw [h]; omega
    · exact .inr (.inr h)

/-! ### The choice of a least element -/

theorem pick_mem {α : Type} (lt : α → α → Bool) : ∀ (l : List α) (x : α), pick lt l = some x → x ∈ l := by
  intro l; induction l with
  | nil => simp [pick]
  | cons a l ih =>
    intro x h; simp only [pick] at h
    split at h
    · simp_all
    · split at h <;> simp_all

theorem pick_none {α : Type} (lt : α → α → Bool) : ∀ (l : List α), pick lt l = none → l = [] := by
  intro l; cases l with
  | nil => simp
  | cons a l => simp only [pick]; split <;> (try split) <;> simp

theorem pick_le {α : Type} (f : α → Nat) : ∀ (l : List α) (x : α), pick (fun a b => decide (f a < f b)) l = some x → ∀ y ∈ l, f x ≤ f y := by
  intro l; induction l with
  | nil => simp
  | cons a l ih =>
    intro x h y hy; simp only [pick] at h
    split at h
    · rename_i e; have := pick_none _ _ e; simp_all
    · rename_i b e
      have hb := ih b e
      simp only [List.mem_cons] at hy
      split at h
      · rename_i hlt; simp at hlt h; subst h
        rcases hy with rfl | hy
        · omega
        · exact hb _ hy
      · rename_i hlt; simp at hlt h; subst h
        rcases hy with rfl | hy
        · omega
        · have := hb _ hy; omega

/-! ### Folds over channels -/

theorem foldl_zero {l : List ChanId} (p : ChanId → Bool) (h : ∀ c ∈ l, p c = false) :
    l.foldl (fun (b : BitVec 20) (c : ChanId) => if p c = true then b ||| chanBit c else b) 0 = 0 := by
  suffices ∀ x : BitVec 20, l.foldl (fun (b : BitVec 20) (c : ChanId) => if p c = true then b ||| chanBit c else b) x = x from this 0
  induction l with
  | nil => intro x; rfl
  | cons a l ih => intro x; simp only [List.foldl, h a (by simp)]; exact ih (fun c hc => h c (by simp [hc])) x

theorem foldl_keep (l : List ChanId) (p : ChanId → Prop) [∀ c, Decidable (p c)] (h : ∀ c ∈ l, p c) (x : BitVec 20) :
    l.foldl (fun (b : BitVec 20) (c : ChanId) => if p c then b else b ||| chanBit c) x = x := by
  induction l with
  | nil => rfl
  | cons a l ih => simp only [List.foldl, if_pos (h a (by simp))]; exact ih (fun c hc => h c (by simp [hc]))

/-! ### The command ring -/

/-- A packet that reaches its row's own refusals is refused with their ERR or else, where no job slot is wanting, carried
out. -/
theorem serve_decided {s : State} {k : Packet} {opc : Nat} {own : State → Packet → Option Nat} (act : State → Packet → State)
    (h1 : s.front = some k) (h2 : k.opc = opc) (h3 : s.badPacket k = none) (h4 : (s.takePacket k).gate k = none)
    (h5 : s.sbm.warn = false ∨ (flagW opc = false ∧ k.asksPpr = false))
    (h7 : longOps.contains opc = false ∨ (s.takePacket k).freeJob.isSome = true) (hp : (paramBits opc).isNone = false) :
    s.serve opc own act = match own (s.takePacket k) k with
      | some e => (s.takePacket k).answer k stRefused e []
      | none => act (s.takePacket k) k := by
  have h5' : ((s.takePacket k).sbm.warn && (flagW opc || k.asksPpr)) = false := by
    have hw : (s.takePacket k).sbm.warn = s.sbm.warn := rfl
    rw [hw]; rcases h5 with h5 | ⟨h5, h6⟩ <;> simp [*]
  have h7' : (longOps.contains opc && (s.takePacket k).freeJob.isNone) = false := by
    rcases h7 with h7 | h7
    · rw [h7]; rfl
    · rw [Option.isNone_eq_false_iff.mpr h7, Bool.and_false]
  simp only [State.serve, h1, h2, if_true, State.decidePacket, h3, hp, h4, h5', h7', Bool.false_eq_true, if_false]
  all_goals rfl

end Sys2Proof.Machine
end

