-- ==== Sys2Proof/Laws/Tame.lean ====
section
/-! SUPPORT. What the core's own housekeeping after a command leaves alone, as one relation. -/

namespace Sys2Proof.Machine

set_option Elab.async false
set_option linter.all false

/-- What the housekeeping after a command leaves as it is. -/
structure Tame (s t : State) : Prop where
  pending : t.pending = s.pending
  phase : t.phase = s.phase
  tide : t.tide = s.tide
  otp : t.otp = s.otp
  cad : t.cad = s.cad
  live : t.regs.live = s.regs.live
  cinch : t.regs.cinch = s.regs.cinch
  posted : s.regs.posted <+: t.regs.posted
  fstat : t.fcol.fstat = s.fcol.fstat
  fseq : t.fcol.fseq = s.fcol.fseq
  safe : t.fcol.safe = s.fcol.safe
  ehold : t.fcol.ehold = s.fcol.ehold
  lines : s.fcol.lines <+: t.fcol.lines
  cur : t.pers.cur = s.pers.cur
  strobe : t.pers.strobe = s.pers.strobe
  dur : s.pers.dur ≤ t.pers.dur
  mill : t.mill.st = s.mill.st
  busy : t.fresh.busy = s.fresh.busy
  refused : t.fresh.refused = s.fresh.refused
  sbm : t.sbm = s.sbm
  boot : t.cmp.boot = s.cmp.boot
  kf : t.flash.kf = s.flash.kf
  circ : t.flash.circ = s.flash.circ

theorem Tame.refl (s : State) : Tame s s := by constructor <;> simp

theorem Tame.trans {s t u : State} (h : Tame s t) (k : Tame t u) : Tame s u where
  pending := k.pending.trans h.pending
  phase := k.phase.trans h.phase
  tide := k.tide.trans h.tide
  otp := k.otp.trans h.otp
  cad := k.cad.trans h.cad
  live := k.live.trans h.live
  cinch := k.cinch.trans h.cinch
  posted := h.posted.trans k.posted
  fstat := k.fstat.trans h.fstat
  fseq := k.fseq.trans h.fseq
  safe := k.safe.trans h.safe
  ehold := k.ehold.trans h.ehold
  lines := h.lines.trans k.lines
  cur := k.cur.trans h.cur
  strobe := k.strobe.trans h.strobe
  dur := Nat.le_trans h.dur k.dur
  mill := k.mill.trans h.mill
  busy := k.busy.trans h.busy
  refused := k.refused.trans h.refused
  sbm := k.sbm.trans h.sbm
  boot := k.boot.trans h.boot
  kf := k.kf.trans h.kf
  circ := k.circ.trans h.circ

theorem Tame.after {s t u : State} (k : Tame t u) (h : Tame s t) : Tame s u := h.trans k

/-- A state left alone, put where another is built from it. -/
theorem Tame.cut {s t u : State} (h : Tame s t) (k : Tame s t → Tame s u) : Tame s u := k h

/-- An update of the fields that `Tame` does not speak of. -/
theorem Tame.upd {s t : State} {n i : Nat} {r : Regs} {po : Tab Port 24} {xb : Xbar} {fo : List Form} {rc : List Recon}
    {ch : Tab Chan 20} {sp : Tab Span 4} {fr : Fresh} {ga : InjArm} {pe : Pers} {mi : Mill} {re : Retire}
    {fc : Fcol} {ev : Evr} {fl : Flash} {cm : Cmp} (h : Tame s t)
    (hr : r.cinch = t.regs.cinch ∧ r.live = t.regs.live ∧ r.posted = t.regs.posted := by exact ⟨rfl, rfl, rfl⟩)
    (hp : pe.cur = t.pers.cur ∧ pe.strobe = t.pers.strobe ∧ pe.dur = t.pers.dur := by exact ⟨rfl, rfl, rfl⟩)
    (hm : mi.st = t.mill.st := by rfl) (hf : fc = t.fcol := by rfl) (hc : cm.boot = t.cmp.boot := by rfl)
    (hfr : fr.busy = t.fresh.busy ∧ fr.refused = t.fresh.refused := by exact ⟨rfl, rfl⟩)
    (hk : fl.kf = t.flash.kf ∧ fl.circ = t.flash.circ := by exact ⟨rfl, rfl⟩) :
    Tame s ⟨t.pending, t.phase, t.tide, n, i, r, po, xb, fo, rc, ch, sp, fr, ga, t.cad, pe, mi, re, fc, ev, fl, t.sbm,
      t.otp, cm⟩ := by
  refine h.trans ?_
  obtain ⟨h1, h2, h3⟩ := hr
  obtain ⟨h4, h5, h6⟩ := hp
  obtain ⟨h7, h8⟩ := hk
  obtain ⟨h9, h10⟩ := hfr
  subst hf
  constructor <;> simp [*]

theorem Tame.foldl {α : Type} {s t : State} {l : List α} {f : State → α → State} (hf : ∀ t x, Tame t (f t x))
    (h : Tame s t) : Tame s (l.foldl f t) := by
  induction l generalizing t with
  | nil => exact h
  | cons x l ih => exact ih (h.trans (hf t x))

/-! ### Machine/Ops.lean -/

theorem State.modPort_tame (s : State) (p : PortId) (f : Port → Port) : Tame s (State.modPort s p f) := by
  unfold State.modPort
  repeat' first
    | with_reducible exact Tame.refl _
    | with_reducible refine Tame.upd ?_

theorem State.modChan_tame (s : State) (c : ChanId) (f : Chan → Chan) : Tame s (State.modChan s c f) := by
  unfold State.modChan
  repeat' first
    | with_reducible exact Tame.refl _
    | with_reducible refine Tame.upd ?_

theorem State.modSpan_tame (s : State) (m : SetId) (f : Span → Span) : Tame s (State.modSpan s m f) := by
  unfold State.modSpan
  repeat' first
    | with_reducible exact Tame.refl _
    | with_reducible refine Tame.upd ?_

theorem State.stamp_tame (s : State) : Tame s (State.stamp s) := by
  unfold State.stamp
  repeat' first
    | with_reducible exact Tame.refl _
    | with_reducible refine Tame.upd ?_

theorem State.setProg_tame (s : State) (key : Nat) (w : Word) : Tame s (State.setProg s key w) := by
  constructor <;> simp [State.setProg]

theorem State.raise_tame (s : State) (src : Nat) : Tame s (State.raise s src) := by
  constructor <;> simp [State.raise]

theorem State.raiseChan_tame (s : State) (n : ChanId) (k : Nat) : Tame s (State.raiseChan s n k) := by
  unfold State.raiseChan
  repeat' first
    | with_reducible exact Tame.refl _
    | with_reducible apply Tame.after (State.raise_tame ..)

theorem State.record_tame (s : State) (type source cls : Nat) (detail : Nat) : Tame s (State.record s type source cls detail) := by
  unfold State.record
  repeat' first
    | with_reducible assumption
    | with_reducible exact Tame.refl _
    | ((try lift_lets); intro x; first
        | (refine Tame.cut (t := x) ?_ fun h => ?_; rotate_left; clear_value x; rotate_left; (try unfold x))
        | skip)
    | with_reducible apply Tame.after (State.raise_tame ..)
    | split
    | dsimp +zetaDelta only
    | with_reducible refine Tame.upd ?_

theorem State.note_tame (s : State) (type detail : Nat) : Tame s (State.note s type detail) := by
  unfold State.note
  repeat' first
    | with_reducible exact Tame.refl _
    | with_reducible apply Tame.after (State.record_tame ..)

/-! ### Machine/Epoch.lean -/

theorem State.advanceLoc_tame (s : State) : Tame s (State.advanceLoc s) := by
  unfold State.advanceLoc
  repeat' first
    | with_reducible assumption
    | with_reducible exact Tame.refl _
    | ((try lift_lets); intro x; first
        | (refine Tame.cut (t := x) ?_ fun h => ?_; rotate_left; clear_value x; rotate_left; (try unfold x))
        | skip)
    | split
    | dsimp +zetaDelta only
    | with_reducible refine Tame.upd ?_

theorem State.advanceDur_tame (s : State) : Tame s (State.advanceDur s) := by
  constructor <;> simp [State.advanceDur] <;> exact Nat.le_max_left _ _

theorem State.settle_tame (s : State) : Tame s (State.settle s) := by
  unfold State.settle
  repeat' first
    | with_reducible exact Tame.refl _
    | with_reducible apply Tame.after (State.advanceLoc_tame ..)
    | with_reducible apply Tame.after (State.advanceDur_tame ..)

theorem State.updWithhold_tame (s : State) : Tame s (State.updWithhold s) := by
  unfold State.updWithhold
  repeat' first
    | with_reducible assumption
    | with_reducible exact Tame.refl _
    | ((try lift_lets); intro x; first
        | (refine Tame.cut (t := x) ?_ fun h => ?_; rotate_left; clear_value x; rotate_left; (try unfold x))
        | skip)
    | split
    | dsimp +zetaDelta only
    | with_reducible refine Tame.upd ?_

theorem State.updFlood_tame (s : State) (p : PortId) : Tame s (State.updFlood s p) := by
  unfold State.updFlood
  repeat' first
    | with_reducible exact Tame.refl _
    | with_reducible apply Tame.after (State.modPort_tame ..)
    | dsimp +zetaDelta only
    | with_reducible refine Tame.upd ?_

theorem State.updMiFlood_tame (s : State) : Tame s (State.updMiFlood s) := by
  unfold State.updMiFlood
  repeat' first
    | with_reducible assumption
    | with_reducible exact Tame.refl _
    | ((try lift_lets); intro x; first
        | (refine Tame.cut (t := x) ?_ fun h => ?_; rotate_left; clear_value x; rotate_left; (try unfold x))
        | skip)
    | split
    | dsimp +zetaDelta only
    | with_reducible refine Tame.upd ?_

theorem State.spendG_tame (s : State) (b : Option Bad) : Tame s (State.spendG s b) := by
  unfold State.spendG
  repeat' first
    | with_reducible exact Tame.refl _
    | split
    | with_reducible refine Tame.upd ?_

theorem State.hitG_tame (s : State) : Tame s (State.hitG s) := by
  unfold State.hitG
  repeat' first
    | with_reducible exact Tame.refl _
    | with_reducible refine Tame.upd ?_

theorem State.readG_tame (s : State) (src : Nat) (b : Option Bad) : Tame s (State.readG s src b) := by
  unfold State.readG
  repeat' first
    | with_reducible assumption
    | with_reducible exact Tame.refl _
    | ((try lift_lets); intro x; first
        | (refine Tame.cut (t := x) ?_ fun h => ?_; rotate_left; clear_value x; rotate_left; (try unfold x))
        | skip)
    | with_reducible apply Tame.after (State.hitG_tame ..)
    | with_reducible apply Tame.after (State.raise_tame ..)
    | split
    | dsimp +zetaDelta only
    | with_reducible refine Tame.upd ?_

/-! ### Machine/Grain.lean -/

theorem State.lookFresh_tame (s : State) (c : ChanId) (line : Nat) : Tame s (State.lookFresh s c line) := by
  unfold State.lookFresh
  repeat' first
    | with_reducible assumption
    | with_reducible exact Tame.refl _
    | ((try lift_lets); intro x; first
        | (refine Tame.cut (t := x) ?_ fun h => ?_; rotate_left; clear_value x; rotate_left; (try unfold x))
        | skip)
    | with_reducible apply Tame.after (State.readG_tame ..)
    | with_reducible apply Tame.after (State.modChan_tame ..)
    | split
    | dsimp +zetaDelta only
    | with_reducible refine Tame.upd ?_

theorem State.lookLines_tame (s : State) (ls : List (ChanId × Nat)) : Tame s (State.lookLines s ls) := by
  unfold State.lookLines
  repeat' first
    | with_reducible assumption
    | with_reducible exact Tame.refl _
    | ((try lift_lets); intro x; first
        | (refine Tame.cut (t := x) ?_ fun h => ?_; rotate_left; clear_value x; rotate_left; (try unfold x))
        | skip)
    | with_reducible apply Tame.after (State.lookFresh_tame ..)
    | with_reducible refine Tame.foldl (hf := fun _ _ => ?_) (h := ?_)
    | dsimp +zetaDelta only

theorem State.lookStripe_tame (s : State) (m : SetId) (st : Nat) : Tame s (State.lookStripe s m st) := by
  unfold State.lookStripe
  repeat' first
    | with_reducible exact Tame.refl _
    | with_reducible apply Tame.after (State.lookLines_tame ..)
    | dsimp +zetaDelta only

/-! ### Machine/Path.lean -/

theorem State.readEntry_tame (s : State) (c : ChanId) (i : Nat) : Tame s (State.readEntry s c i) := by
  unfold State.readEntry
  repeat' first
    | with_reducible assumption
    | with_reducible exact Tame.refl _
    | ((try lift_lets); intro x; first
        | (refine Tame.cut (t := x) ?_ fun h => ?_; rotate_left; clear_value x; rotate_left; (try unfold x))
        | skip)
    | with_reducible apply Tame.after (State.modChan_tame ..)
    | with_reducible apply Tame.after (State.raiseChan_tame ..)
    | split
    | dsimp +zetaDelta only
    | with_reducible refine Tame.upd ?_

theorem State.readPatch_tame (s : State) (c : ChanId) (line : Nat) : Tame s (State.readPatch s c line) := by
  unfold State.readPatch
  repeat' first
    | with_reducible exact Tame.refl _
    | with_reducible apply Tame.after (State.readEntry_tame ..)
    | split
    | dsimp +zetaDelta only
    | with_reducible refine Tame.upd ?_

theorem State.withEntry_tame (s : State) (c : ChanId) (i : Nat) (f : State → PatchE → State)
    (hf : ∀ t e, Tame t (f t e)) : Tame s (State.withEntry s c i f) := by
  unfold State.withEntry
  split
  · exact State.readEntry_tame ..
  · exact (State.readEntry_tame ..).trans (hf _ _)

theorem State.pushRead_tame (s : State) (c : ChanId) (purp : Purp) (line : Nat) (cls : Cls) (epoch : Nat) (src : Option Src) (orig : Orig) : Tame s (State.pushRead s c purp line cls epoch src orig) := by
  unfold State.pushRead
  repeat' first
    | with_reducible assumption
    | with_reducible exact Tame.refl _
    | ((try lift_lets); intro x; first
        | (refine Tame.cut (t := x) ?_ fun h => ?_; rotate_left; clear_value x; rotate_left; (try unfold x))
        | skip)
    | with_reducible apply Tame.after (State.readPatch_tame ..)
    | with_reducible apply Tame.after (State.modChan_tame ..)
    | with_reducible apply Tame.after (State.stamp_tame ..)
    | dsimp +zetaDelta only
    | with_reducible refine Tame.upd ?_

theorem State.pushWrite_tame (s : State) (c : ChanId) (w : WrE) (born : Option Nat) : Tame s (State.pushWrite s c w born) := by
  unfold State.pushWrite
  repeat' first
    | with_reducible assumption
    | with_reducible exact Tame.refl _
    | ((try lift_lets); intro x; first
        | (refine Tame.cut (t := x) ?_ fun h => ?_; rotate_left; clear_value x; rotate_left; (try unfold x))
        | skip)
    | with_reducible apply Tame.after (State.readPatch_tame ..)
    | with_reducible apply Tame.after (State.modChan_tame ..)
    | with_reducible apply Tame.after (State.stamp_tame ..)
    | dsimp +zetaDelta only
    | with_reducible refine Tame.upd ?_

theorem State.pushRaw_tame (s : State) (c : ChanId) (w : WrE) : Tame s (State.pushRaw s c w) := by
  unfold State.pushRaw
  repeat' first
    | with_reducible assumption
    | with_reducible exact Tame.refl _
    | ((try lift_lets); intro x; first
        | (refine Tame.cut (t := x) ?_ fun h => ?_; rotate_left; clear_value x; rotate_left; (try unfold x))
        | skip)
    | with_reducible apply Tame.after (State.modChan_tame ..)
    | with_reducible apply Tame.after (State.stamp_tame ..)
    | dsimp +zetaDelta only
    | with_reducible refine Tame.upd ?_

theorem State.pushRawRead_tame (s : State) (c : ChanId) (purp : Purp) (line : Nat) (cls : Cls) : Tame s (State.pushRawRead s c purp line cls) := by
  unfold State.pushRawRead
  repeat' first
    | with_reducible assumption
    | with_reducible exact Tame.refl _
    | ((try lift_lets); intro x; first
        | (refine Tame.cut (t := x) ?_ fun h => ?_; rotate_left; clear_value x; rotate_left; (try unfold x))
        | skip)
    | with_reducible apply Tame.after (State.modChan_tame ..)
    | with_reducible apply Tame.after (State.stamp_tame ..)
    | dsimp +zetaDelta only
    | with_reducible refine Tame.upd ?_

theorem State.addForm_tame (s : State) (f : Form) : Tame s (State.addForm s f) := by
  unfold State.addForm
  repeat' first
    | with_reducible exact Tame.refl _
    | with_reducible refine Tame.upd ?_

theorem State.psnEvent_tame (s : State) (c : ChanId) (line : Nat) (par : Bool) : Tame s (State.psnEvent s c line par) := by
  unfold State.psnEvent
  repeat' first
    | with_reducible assumption
    | with_reducible exact Tame.refl _
    | ((try lift_lets); intro x; first
        | (refine Tame.cut (t := x) ?_ fun h => ?_; rotate_left; clear_value x; rotate_left; (try unfold x))
        | skip)
    | with_reducible apply Tame.after (State.modChan_tame ..)
    | with_reducible apply Tame.after (State.raiseChan_tame ..)
    | split
    | dsimp +zetaDelta only
    | with_reducible refine Tame.upd ?_

theorem State.writeForm_tame (s : State) (f : Form) : Tame s (State.writeForm s f) := by
  unfold State.writeForm
  repeat' first
    | with_reducible assumption
    | with_reducible exact Tame.refl _
    | ((try lift_lets); intro x; first
        | (refine Tame.cut (t := x) ?_ fun h => ?_; rotate_left; clear_value x; rotate_left; (try unfold x))
        | skip)
    | with_reducible apply Tame.after (State.psnEvent_tame ..)
    | with_reducible apply Tame.after (State.pushWrite_tame ..)
    | with_reducible refine Tame.foldl (hf := fun _ _ => ?_) (h := ?_)
    | split
    | dsimp +zetaDelta only
    | with_reducible refine Tame.upd ?_

theorem State.stepForm_tame (s : State) (f : Form) : Tame s (State.stepForm s f) := by
  unfold State.stepForm
  repeat' first
    | with_reducible assumption
    | with_reducible exact Tame.refl _
    | ((try lift_lets); intro x; first
        | (refine Tame.cut (t := x) ?_ fun h => ?_; rotate_left; clear_value x; rotate_left; (try unfold x))
        | skip)
    | with_reducible apply Tame.after (State.lookStripe_tame ..)
    | with_reducible apply Tame.after (State.writeForm_tame ..)
    | split
    | dsimp +zetaDelta only
    | with_reducible refine Tame.upd ?_

theorem State.failRead_tame (s : State) (f key : Nat) : Tame s (State.failRead s f key) := by
  unfold State.failRead
  repeat' first
    | with_reducible exact Tame.refl _
    | split
    | dsimp +zetaDelta only
    | with_reducible refine Tame.upd ?_

theorem State.feedForm_tame (s : State) (f : Form) : Tame s (State.feedForm s f) := by
  unfold State.feedForm
  repeat' first
    | with_reducible assumption
    | with_reducible exact Tame.refl _
    | ((try lift_lets); intro x; first
        | (refine Tame.cut (t := x) ?_ fun h => ?_; rotate_left; clear_value x; rotate_left; (try unfold x))
        | skip)
    | with_reducible apply Tame.after (State.failRead_tame ..)
    | with_reducible apply Tame.after (State.pushRead_tame ..)
    | with_reducible refine Tame.foldl (hf := fun _ _ => ?_) (h := ?_)
    | split
    | dsimp +zetaDelta only

theorem State.feedForms_tame (s : State) : Tame s (State.feedForms s) := by
  unfold State.feedForms
  repeat' first
    | with_reducible assumption
    | with_reducible exact Tame.refl _
    | ((try lift_lets); intro x; first
        | (refine Tame.cut (t := x) ?_ fun h => ?_; rotate_left; clear_value x; rotate_left; (try unfold x))
        | skip)
    | with_reducible apply Tame.after (State.stepForm_tame ..)
    | with_reducible apply Tame.after (State.feedForm_tame ..)
    | with_reducible refine Tame.foldl (hf := fun _ _ => ?_) (h := ?_)
    | dsimp +zetaDelta only

theorem State.readEddy_tame (s : State) (c : ChanId) (e : EddyE) : Tame s (State.readEddy s c e).1 := by
  unfold State.readEddy
  repeat' first
    | with_reducible assumption
    | with_reducible exact Tame.refl _
    | ((try lift_lets); intro x; first
        | (refine Tame.cut (t := x) ?_ fun h => ?_; rotate_left; clear_value x; rotate_left; (try unfold x))
        | skip)
    | with_reducible apply Tame.after (State.modChan_tame ..)
    | with_reducible apply Tame.after (State.raiseChan_tame ..)
    | split
    | dsimp +zetaDelta only
    | with_reducible refine Tame.upd ?_

theorem State.readEddies_tame (s : State) (ls : List (ChanId × EddyE)) : Tame s (State.readEddies s ls).1 := by
  induction ls generalizing s with
  | nil => exact Tame.refl s
  | cons x ls ih => exact (State.readEddy_tame ..).trans (ih _)

theorem State.releaseLine_tame (s : State) (c : ChanId) (e : EddyE) : Tame s (State.releaseLine s c e) := by
  unfold State.releaseLine
  repeat' first
    | with_reducible assumption
    | with_reducible exact Tame.refl _
    | ((try lift_lets); intro x; first
        | (refine Tame.cut (t := x) ?_ fun h => ?_; rotate_left; clear_value x; rotate_left; (try unfold x))
        | skip)
    | with_reducible apply Tame.after (State.modChan_tame ..)
    | with_reducible apply Tame.after (State.lookFresh_tame ..)
    | with_reducible apply Tame.after (State.readEddy_tame ..)
    | with_reducible apply Tame.after (State.addForm_tame ..)
    | dsimp +zetaDelta only
    | with_reducible refine Tame.upd ?_

theorem State.setOffline_tame (s : State) (m : SetId) : Tame s (State.setOffline s m) := by
  unfold State.setOffline
  repeat' first
    | with_reducible assumption
    | with_reducible exact Tame.refl _
    | ((try lift_lets); intro x; first
        | (refine Tame.cut (t := x) ?_ fun h => ?_; rotate_left; clear_value x; rotate_left; (try unfold x))
        | skip)
    | with_reducible apply Tame.after (State.modSpan_tame ..)
    | with_reducible apply Tame.after (State.note_tame ..)
    | with_reducible apply Tame.after (State.raise_tame ..)
    | dsimp +zetaDelta only
    | with_reducible refine Tame.upd ?_

theorem State.dropEddy_tame (s : State) (ls : List (ChanId × EddyE)) : Tame s (State.dropEddy s ls) := by
  unfold State.dropEddy
  repeat' first
    | with_reducible assumption
    | with_reducible exact Tame.refl _
    | ((try lift_lets); intro x; first
        | (refine Tame.cut (t := x) ?_ fun h => ?_; rotate_left; clear_value x; rotate_left; (try unfold x))
        | skip)
    | with_reducible apply Tame.after (State.modChan_tame ..)
    | with_reducible refine Tame.foldl (hf := fun _ _ => ?_) (h := ?_)
    | dsimp +zetaDelta only
    | with_reducible refine Tame.upd ?_

theorem State.releaseRec_tame (s : State) (m : SetId) (r : StripeRec) : Tame s (State.releaseRec s m r) := by
  unfold State.releaseRec
  repeat' first
    | with_reducible assumption
    | with_reducible exact Tame.refl _
    | ((try lift_lets); intro x; first
        | (refine Tame.cut (t := x) ?_ fun h => ?_; rotate_left; clear_value x; rotate_left; (try unfold x))
        | skip)
    | with_reducible apply Tame.after (State.modSpan_tame ..)
    | with_reducible apply Tame.after (State.dropEddy_tame ..)
    | with_reducible apply Tame.after (State.lookStripe_tame ..)
    | with_reducible apply Tame.after (State.readEddies_tame ..)
    | with_reducible apply Tame.after (State.hitG_tame ..)
    | with_reducible apply Tame.after (State.raise_tame ..)
    | with_reducible apply Tame.after (State.setOffline_tame ..)
    | with_reducible apply Tame.after (State.addForm_tame ..)
    | split
    | dsimp +zetaDelta only
    | with_reducible refine Tame.upd ?_

theorem State.releaseEntry_tame (s : State) (c : ChanId) (e : EddyE) : Tame s (State.releaseEntry s c e) := by
  unfold State.releaseEntry
  repeat' first
    | with_reducible exact Tame.refl _
    | with_reducible apply Tame.after (State.releaseLine_tame ..)
    | with_reducible apply Tame.after (State.releaseRec_tame ..)
    | split
    | with_reducible refine Tame.upd ?_

/-! ### Machine/Admit.lean -/

theorem State.rsBack_tame (s : State) (rid : Nat) (b : Rsp) : Tame s (State.rsBack s rid b) := by
  unfold State.rsBack
  repeat' first
    | with_reducible assumption
    | with_reducible exact Tame.refl _
    | ((try lift_lets); intro x; first
        | (refine Tame.cut (t := x) ?_ fun h => ?_; rotate_left; clear_value x; rotate_left; (try unfold x))
        | skip)
    | split
    | dsimp +zetaDelta only
    | with_reducible refine Tame.upd ?_

theorem State.giveBeat_tame (s : State) (src : Src) (rid : Nat) (b : Rsp) : Tame s (State.giveBeat s src rid b) := by
  unfold State.giveBeat
  repeat' first
    | with_reducible assumption
    | with_reducible exact Tame.refl _
    | ((try lift_lets); intro x; first
        | (refine Tame.cut (t := x) ?_ fun h => ?_; rotate_left; clear_value x; rotate_left; (try unfold x))
        | skip)
    | with_reducible apply Tame.after (State.rsBack_tame ..)
    | with_reducible apply Tame.after (State.modPort_tame ..)
    | with_reducible apply Tame.after (State.spendG_tame ..)
    | split
    | dsimp +zetaDelta only
    | with_reducible refine Tame.upd ?_

theorem State.giveDone_tame (s : State) (src : Src) (rid : Nat) (code : Code) : Tame s (State.giveDone s src rid code) := by
  unfold State.giveDone
  repeat' first
    | with_reducible exact Tame.refl _
    | with_reducible apply Tame.after (State.modPort_tame ..)
    | split
    | dsimp +zetaDelta only
    | with_reducible refine Tame.upd ?_

theorem State.undoWrite_tame (s : State) (src : Src) (rid : Nat) : Tame s (State.undoWrite s src rid) := by
  unfold State.undoWrite
  repeat' first
    | with_reducible exact Tame.refl _
    | with_reducible apply Tame.after (State.modPort_tame ..)
    | split
    | dsimp +zetaDelta only
    | with_reducible refine Tame.upd ?_

theorem State.writeBack_tame (s : State) (c : ChanId) (purp : Purp) (line : Nat) (d : Line) (enc : Enc) (cls : Cls) : Tame s (State.writeBack s c purp line d enc cls) := by
  unfold State.writeBack
  repeat' first
    | with_reducible exact Tame.refl _
    | with_reducible apply Tame.after (State.modChan_tame ..)
    | split
    | dsimp +zetaDelta only
    | with_reducible refine Tame.upd ?_

theorem State.feedBack_tame (s : State) (c : ChanId) : Tame s (State.feedBack s c) := by
  unfold State.feedBack
  repeat' first
    | with_reducible assumption
    | with_reducible exact Tame.refl _
    | ((try lift_lets); intro x; first
        | (refine Tame.cut (t := x) ?_ fun h => ?_; rotate_left; clear_value x; rotate_left; (try unfold x))
        | skip)
    | with_reducible apply Tame.after (State.modChan_tame ..)
    | with_reducible apply Tame.after (State.pushRaw_tame ..)
    | with_reducible apply Tame.after (State.pushWrite_tame ..)
    | with_reducible apply Tame.after (State.stamp_tame ..)
    | split
    | dsimp +zetaDelta only
    | with_reducible refine Tame.upd ?_

theorem State.feedBacks_tame (s : State) : Tame s (State.feedBacks s) := by
  unfold State.feedBacks
  repeat' first
    | with_reducible assumption
    | with_reducible exact Tame.refl _
    | ((try lift_lets); intro x; first
        | (refine Tame.cut (t := x) ?_ fun h => ?_; rotate_left; clear_value x; rotate_left; (try unfold x))
        | skip)
    | with_reducible apply Tame.after (State.feedBack_tame ..)
    | with_reducible refine Tame.foldl (hf := fun _ _ => ?_) (h := ?_)
    | dsimp +zetaDelta only

theorem State.markRecon_tame (s : State) (r : Recon) : Tame s (State.markRecon s r) := by
  unfold State.markRecon
  repeat' first
    | with_reducible exact Tame.refl _
    | with_reducible apply Tame.after (State.modChan_tame ..)
    | split
    | dsimp +zetaDelta only
    | with_reducible refine Tame.upd ?_

theorem State.finishBeat_tame (s : State) (r : Recon) (src : Src) (rid lidx : Nat) (wb : Bool) : Tame s (State.finishBeat s r src rid lidx wb) := by
  unfold State.finishBeat
  repeat' first
    | with_reducible assumption
    | with_reducible exact Tame.refl _
    | ((try lift_lets); intro x; first
        | (refine Tame.cut (t := x) ?_ fun h => ?_; rotate_left; clear_value x; rotate_left; (try unfold x))
        | skip)
    | with_reducible apply Tame.after (State.giveBeat_tame ..)
    | with_reducible apply Tame.after (State.markRecon_tame ..)
    | with_reducible apply Tame.after (State.writeBack_tame ..)
    | split
    | dsimp +zetaDelta only
    | with_reducible refine Tame.upd ?_

theorem State.releaseFor_tame (s : State) (c : ChanId) (line : Nat) : Tame s (State.releaseFor s c line) := by
  unfold State.releaseFor
  repeat' first
    | with_reducible exact Tame.refl _
    | with_reducible apply Tame.after (State.releaseEntry_tame ..)
    | split
    | dsimp +zetaDelta only
    | with_reducible refine Tame.upd ?_

theorem State.arrive_tame (s : State) (c : ChanId) (purp : Purp) (line : Nat) (cls : Cls) (epoch : Nat) (src : Option Src) (orig : Orig) : Tame s (State.arrive s c purp line cls epoch src orig) := by
  unfold State.arrive
  repeat' first
    | with_reducible exact Tame.refl _
    | with_reducible apply Tame.after (State.releaseFor_tame ..)
    | with_reducible apply Tame.after (State.pushRead_tame ..)

theorem State.feedFetch_tame (s : State) (c : ChanId) : Tame s (State.feedFetch s c) := by
  unfold State.feedFetch
  repeat' first
    | with_reducible assumption
    | with_reducible exact Tame.refl _
    | ((try lift_lets); intro x; first
        | (refine Tame.cut (t := x) ?_ fun h => ?_; rotate_left; clear_value x; rotate_left; (try unfold x))
        | skip)
    | with_reducible apply Tame.after (State.modChan_tame ..)
    | with_reducible apply Tame.after (State.pushRawRead_tame ..)
    | with_reducible apply Tame.after (State.arrive_tame ..)
    | split
    | dsimp +zetaDelta only
    | with_reducible refine Tame.upd ?_

theorem State.feedFetches_tame (s : State) : Tame s (State.feedFetches s) := by
  unfold State.feedFetches
  repeat' first
    | with_reducible assumption
    | with_reducible exact Tame.refl _
    | ((try lift_lets); intro x; first
        | (refine Tame.cut (t := x) ?_ fun h => ?_; rotate_left; clear_value x; rotate_left; (try unfold x))
        | skip)
    | with_reducible apply Tame.after (State.feedFetch_tame ..)
    | with_reducible refine Tame.foldl (hf := fun _ _ => ?_) (h := ?_)
    | dsimp +zetaDelta only

theorem State.releaseStripe_tame (s : State) (m : SetId) (stripe : Nat) : Tame s (State.releaseStripe s m stripe) := by
  unfold State.releaseStripe
  repeat' first
    | with_reducible assumption
    | with_reducible exact Tame.refl _
    | ((try lift_lets); intro x; first
        | (refine Tame.cut (t := x) ?_ fun h => ?_; rotate_left; clear_value x; rotate_left; (try unfold x))
        | skip)
    | with_reducible apply Tame.after (State.releaseRec_tame ..)
    | with_reducible refine Tame.foldl (hf := fun _ _ => ?_) (h := ?_)
    | dsimp +zetaDelta only

theorem State.startRecon_tame (s : State) (ch : ChanId) (line : Nat) (use : RFor) (cls : Cls) (epoch : Nat) (src : Option Src) (orig : Orig) (issued : Bool) : Tame s (State.startRecon s ch line use cls epoch src orig issued) := by
  unfold State.startRecon
  repeat' first
    | with_reducible assumption
    | with_reducible exact Tame.refl _
    | ((try lift_lets); intro x; first
        | (refine Tame.cut (t := x) ?_ fun h => ?_; rotate_left; clear_value x; rotate_left; (try unfold x))
        | skip)
    | with_reducible apply Tame.after (State.releaseStripe_tame ..)
    | with_reducible apply Tame.after (State.stamp_tame ..)
    | with_reducible apply Tame.after (State.lookLines_tame ..)
    | split
    | dsimp +zetaDelta only
    | with_reducible refine Tame.upd ?_

theorem State.loseContrib_tame (s : State) (r : Nat) : Tame s (State.loseContrib s r) := by
  unfold State.loseContrib
  repeat' first
    | with_reducible exact Tame.refl _
    | split
    | dsimp +zetaDelta only
    | with_reducible refine Tame.upd ?_

theorem State.feedContrib_tame (s : State) (r : Recon) (c : ChanId) : Tame s (State.feedContrib s r c) := by
  unfold State.feedContrib
  repeat' first
    | with_reducible assumption
    | with_reducible exact Tame.refl _
    | ((try lift_lets); intro x; first
        | (refine Tame.cut (t := x) ?_ fun h => ?_; rotate_left; clear_value x; rotate_left; (try unfold x))
        | skip)
    | with_reducible apply Tame.after (State.loseContrib_tame ..)
    | with_reducible apply Tame.after (State.arrive_tame ..)
    | split
    | dsimp +zetaDelta only
    | with_reducible refine Tame.upd ?_

theorem State.feedRecons_tame (s : State) : Tame s (State.feedRecons s) := by
  unfold State.feedRecons
  repeat' first
    | with_reducible assumption
    | with_reducible exact Tame.refl _
    | ((try lift_lets); intro x; first
        | (refine Tame.cut (t := x) ?_ fun h => ?_; rotate_left; clear_value x; rotate_left; (try unfold x))
        | skip)
    | with_reducible apply Tame.after (State.feedContrib_tame ..)
    | with_reducible refine Tame.foldl (hf := fun _ _ => ?_) (h := ?_)
    | dsimp +zetaDelta only

theorem State.finishRecons_tame (s : State) : Tame s (State.finishRecons s) := by
  unfold State.finishRecons
  repeat' first
    | with_reducible assumption
    | with_reducible exact Tame.refl _
    | ((try lift_lets); intro x; first
        | (refine Tame.cut (t := x) ?_ fun h => ?_; rotate_left; clear_value x; rotate_left; (try unfold x))
        | skip)
    | with_reducible apply Tame.after (State.finishBeat_tame ..)
    | with_reducible refine Tame.foldl (hf := fun _ _ => ?_) (h := ?_)
    | split
    | dsimp +zetaDelta only
    | with_reducible refine Tame.upd ?_

/-! ### Machine/Jobs.lean -/

theorem State.reply_tame (s : State) (opc seq status err : Nat) (res : List Word) : Tame s (State.reply s opc seq status err res) := by
  unfold State.reply
  repeat' first
    | with_reducible assumption
    | with_reducible exact Tame.refl _
    | ((try lift_lets); intro x; first
        | (refine Tame.cut (t := x) ?_ fun h => ?_; rotate_left; clear_value x; rotate_left; (try unfold x))
        | skip)
    | dsimp +zetaDelta only
    | with_reducible refine Tame.upd ?_

theorem State.replyCur_tame (s : State) (status err : Nat) (res : List Word) : Tame s (State.replyCur s status err res) := by
  unfold State.replyCur
  repeat' first
    | with_reducible exact Tame.refl _
    | with_reducible apply Tame.after (State.reply_tame ..)
    | split
    | with_reducible refine Tame.upd ?_

theorem State.modJobs_tame (s : State) (f : Job → Job) : Tame s (State.modJobs s f) := by
  unfold State.modJobs
  repeat' first
    | with_reducible exact Tame.refl _
    | with_reducible refine Tame.upd ?_

theorem State.finishJob_tame (s : State) (opc t err : Nat) : Tame s (State.finishJob s opc t err) := by
  unfold State.finishJob
  repeat' first
    | with_reducible exact Tame.refl _
    | with_reducible apply Tame.after (State.modJobs_tame ..)
    | split
    | dsimp +zetaDelta only

theorem State.severJobs_tame (s : State) (c : ChanId) (reading : Bool) : Tame s (State.severJobs s c reading) := by
  unfold State.severJobs
  repeat' first
    | with_reducible assumption
    | with_reducible exact Tame.refl _
    | ((try lift_lets); intro x; first
        | (refine Tame.cut (t := x) ?_ fun h => ?_; rotate_left; clear_value x; rotate_left; (try unfold x))
        | skip)
    | with_reducible apply Tame.after (State.modJobs_tame ..)
    | with_reducible apply Tame.after (State.lose_tame ..)
    | split
    | dsimp +zetaDelta only
    | with_reducible refine Tame.upd ?_

/-! ### Machine/Loss.lean -/

theorem State.pushTally_tame (s : State) (m : SetId) (e : Mark) (mark : Bool) (cls : Cls) : Tame s (State.pushTally s m e mark cls) := by
  unfold State.pushTally
  repeat' first
    | with_reducible assumption
    | with_reducible exact Tame.refl _
    | ((try lift_lets); intro x; first
        | (refine Tame.cut (t := x) ?_ fun h => ?_; rotate_left; clear_value x; rotate_left; (try unfold x))
        | skip)
    | with_reducible apply Tame.after (State.modChan_tame ..)
    | with_reducible apply Tame.after (State.pushRaw_tame ..)
    | with_reducible apply Tame.after (State.modSpan_tame ..)
    | split
    | dsimp +zetaDelta only
    | with_reducible refine Tame.upd ?_

theorem State.rehome_tame (s : State) (m : SetId) (j : Nat) : Tame s (State.rehome s m j) := by
  unfold State.rehome
  repeat' first
    | with_reducible assumption
    | with_reducible exact Tame.refl _
    | ((try lift_lets); intro x; first
        | (refine Tame.cut (t := x) ?_ fun h => ?_; rotate_left; clear_value x; rotate_left; (try unfold x))
        | skip)
    | with_reducible apply Tame.after (State.modChan_tame ..)
    | with_reducible apply Tame.after (State.modSpan_tame ..)
    | with_reducible apply Tame.after (State.pushTally_tame ..)
    | with_reducible refine Tame.foldl (hf := fun _ _ => ?_) (h := ?_)
    | split
    | dsimp +zetaDelta only
    | with_reducible refine Tame.upd ?_

theorem State.noteSpan_tame (s : State) (m : SetId) (old : Nat) : Tame s (State.noteSpan s m old) := by
  unfold State.noteSpan
  repeat' first
    | with_reducible assumption
    | with_reducible exact Tame.refl _
    | ((try lift_lets); intro x; first
        | (refine Tame.cut (t := x) ?_ fun h => ?_; rotate_left; clear_value x; rotate_left; (try unfold x))
        | skip)
    | with_reducible apply Tame.after (State.note_tame ..)
    | dsimp +zetaDelta only

theorem State.stopRebuild_tame (s : State) (m : SetId) : Tame s (State.stopRebuild s m) := by
  unfold State.stopRebuild
  repeat' first
    | with_reducible assumption
    | with_reducible exact Tame.refl _
    | ((try lift_lets); intro x; first
        | (refine Tame.cut (t := x) ?_ fun h => ?_; rotate_left; clear_value x; rotate_left; (try unfold x))
        | skip)
    | with_reducible apply Tame.after (State.modSpan_tame ..)
    | with_reducible apply Tame.after (State.modJobs_tame ..)
    | split
    | dsimp +zetaDelta only
    | with_reducible refine Tame.upd ?_

theorem State.losePos_tame (s : State) (m : SetId) (j : Nat) (ranks : BitVec 8) : Tame s (State.losePos s m j ranks) := by
  unfold State.losePos
  repeat' first
    | with_reducible assumption
    | with_reducible exact Tame.refl _
    | ((try lift_lets); intro x; first
        | (refine Tame.cut (t := x) ?_ fun h => ?_; rotate_left; clear_value x; rotate_left; (try unfold x))
        | skip)
    | with_reducible apply Tame.after (State.modSpan_tame ..)
    | with_reducible apply Tame.after (State.noteSpan_tame ..)
    | with_reducible apply Tame.after (State.raise_tame ..)
    | with_reducible apply Tame.after (State.rehome_tame ..)
    | with_reducible apply Tame.after (State.stopRebuild_tame ..)
    | with_reducible apply Tame.after (State.setOffline_tame ..)
    | split
    | dsimp +zetaDelta only
    | with_reducible refine Tame.upd ?_

theorem State.loseChan_tame (s : State) (c : ChanId) : Tame s (State.loseChan s c) := by
  unfold State.loseChan
  repeat' first
    | with_reducible exact Tame.refl _
    | with_reducible apply Tame.after (State.losePos_tame ..)
    | split

theorem State.mirrorLost_tame (s : State) (c : ChanId) (line : Nat) : Tame s (State.mirrorLost s c line) := by
  unfold State.mirrorLost
  repeat' first
    | with_reducible exact Tame.refl _
    | with_reducible apply Tame.after (State.note_tame ..)
    | with_reducible apply Tame.after (State.raiseChan_tame ..)

theorem State.absentEntry_tame (s : State) (e : XEntry) : Tame s (State.absentEntry s e) := by
  unfold State.absentEntry
  repeat' first
    | with_reducible assumption
    | with_reducible exact Tame.refl _
    | ((try lift_lets); intro x; first
        | (refine Tame.cut (t := x) ?_ fun h => ?_; rotate_left; clear_value x; rotate_left; (try unfold x))
        | skip)
    | with_reducible apply Tame.after (State.mirrorLost_tame ..)
    | with_reducible apply Tame.after (State.undoWrite_tame ..)
    | with_reducible apply Tame.after (State.giveDone_tame ..)
    | with_reducible apply Tame.after (State.giveBeat_tame ..)
    | with_reducible refine Tame.foldl (hf := fun _ _ => ?_) (h := ?_)
    | split
    | dsimp +zetaDelta only
    | with_reducible refine Tame.upd ?_

theorem State.loseWaiting_tame (s : State) (c : ChanId) (cut : Bool) : Tame s (State.loseWaiting s c cut) := by
  unfold State.loseWaiting
  repeat' first
    | with_reducible assumption
    | with_reducible exact Tame.refl _
    | ((try lift_lets); intro x; first
        | (refine Tame.cut (t := x) ?_ fun h => ?_; rotate_left; clear_value x; rotate_left; (try unfold x))
        | skip)
    | with_reducible apply Tame.after (State.absentEntry_tame ..)
    | with_reducible refine Tame.foldl (hf := fun _ _ => ?_) (h := ?_)
    | split
    | dsimp +zetaDelta only
    | with_reducible refine Tame.upd ?_

theorem State.modSweep_tame (s : State) (m : SetId) (f : Sweep → Sweep) : Tame s (State.modSweep s m f) := by
  unfold State.modSweep
  repeat' first
    | with_reducible exact Tame.refl _
    | with_reducible apply Tame.after (State.modSpan_tame ..)
    | dsimp +zetaDelta only
    | with_reducible refine Tame.upd ?_

theorem State.loseRead_tame (s : State) (c : ChanId) (e : RdE) : Tame s (State.loseRead s c e) := by
  unfold State.loseRead
  repeat' first
    | with_reducible exact Tame.refl _
    | with_reducible apply Tame.after (State.startRecon_tame ..)
    | with_reducible apply Tame.after (State.giveBeat_tame ..)
    | with_reducible apply Tame.after (State.failRead_tame ..)
    | with_reducible apply Tame.after (State.loseContrib_tame ..)
    | with_reducible apply Tame.after (State.modSweep_tame ..)
    | split
    | dsimp +zetaDelta only
    | with_reducible refine Tame.upd ?_

theorem State.cutBeats_tame (s : State) (c : ChanId) : Tame s (State.cutBeats s c) := by
  unfold State.cutBeats
  repeat' first
    | with_reducible assumption
    | with_reducible exact Tame.refl _
    | ((try lift_lets); intro x; first
        | (refine Tame.cut (t := x) ?_ fun h => ?_; rotate_left; clear_value x; rotate_left; (try unfold x))
        | skip)
    | split
    | dsimp +zetaDelta only
    | with_reducible refine Tame.upd ?_

theorem State.cutReturns_tame (s : State) (rets : List RetE) : Tame s (State.cutReturns s rets) := by
  unfold State.cutReturns
  repeat' first
    | with_reducible assumption
    | with_reducible exact Tame.refl _
    | ((try lift_lets); intro x; first
        | (refine Tame.cut (t := x) ?_ fun h => ?_; rotate_left; clear_value x; rotate_left; (try unfold x))
        | skip)
    | with_reducible apply Tame.after (State.giveBeat_tame ..)
    | with_reducible refine Tame.foldl (hf := fun _ _ => ?_) (h := ?_)
    | dsimp +zetaDelta only

theorem State.cutSet_tame (s : State) (m : SetId) : Tame s (State.cutSet s m) := by
  unfold State.cutSet
  repeat' first
    | with_reducible assumption
    | with_reducible exact Tame.refl _
    | ((try lift_lets); intro x; first
        | (refine Tame.cut (t := x) ?_ fun h => ?_; rotate_left; clear_value x; rotate_left; (try unfold x))
        | skip)
    | with_reducible apply Tame.after (State.modChan_tame ..)
    | with_reducible apply Tame.after (State.giveBeat_tame ..)
    | with_reducible apply Tame.after (State.cutReturns_tame ..)
    | with_reducible refine Tame.foldl (hf := fun _ _ => ?_) (h := ?_)
    | split
    | dsimp +zetaDelta only
    | with_reducible refine Tame.upd ?_

theorem State.releaseOn_tame (s : State) (c : ChanId) : Tame s (State.releaseOn s c) := by
  unfold State.releaseOn
  repeat' first
    | with_reducible assumption
    | with_reducible exact Tame.refl _
    | ((try lift_lets); intro x; first
        | (refine Tame.cut (t := x) ?_ fun h => ?_; rotate_left; clear_value x; rotate_left; (try unfold x))
        | skip)
    | with_reducible apply Tame.after (State.releaseRec_tame ..)
    | with_reducible refine Tame.foldl (hf := fun _ _ => ?_) (h := ?_)
    | dsimp +zetaDelta only

theorem State.leds_tame (s : State) (c : ChanId) (attn ok : Nat) (clearPwr : Bool) : Tame s (State.leds s c attn ok clearPwr) := by
  unfold State.leds
  repeat' first
    | with_reducible assumption
    | with_reducible exact Tame.refl _
    | ((try lift_lets); intro x; first
        | (refine Tame.cut (t := x) ?_ fun h => ?_; rotate_left; clear_value x; rotate_left; (try unfold x))
        | skip)
    | with_reducible apply Tame.after (State.setProg_tame ..)
    | split
    | dsimp +zetaDelta only

theorem State.finishIdle_tame (s : State) : Tame s (State.finishIdle s) := by
  unfold State.finishIdle
  repeat' first
    | with_reducible assumption
    | with_reducible exact Tame.refl _
    | ((try lift_lets); intro x; first
        | (refine Tame.cut (t := x) ?_ fun h => ?_; rotate_left; clear_value x; rotate_left; (try unfold x))
        | skip)
    | with_reducible apply Tame.after (State.replyCur_tame ..)
    | split
    | dsimp +zetaDelta only
    | with_reducible refine Tame.upd ?_

theorem State.loseCur_tame (s : State) (c : ChanId) : Tame s (State.loseCur s c) := by
  unfold State.loseCur
  repeat' first
    | with_reducible exact Tame.refl _
    | with_reducible apply Tame.after (State.finishIdle_tame ..)
    | with_reducible apply Tame.after (State.replyCur_tame ..)
    | split
    | with_reducible refine Tame.upd ?_

theorem State.loseTraining_tame (s : State) (c : ChanId) : Tame s (State.loseTraining s c) := by
  unfold State.loseTraining
  repeat' first
    | with_reducible assumption
    | with_reducible exact Tame.refl _
    | ((try lift_lets); intro x; first
        | (refine Tame.cut (t := x) ?_ fun h => ?_; rotate_left; clear_value x; rotate_left; (try unfold x))
        | skip)
    | with_reducible apply Tame.after (State.modChan_tame ..)
    | split
    | dsimp +zetaDelta only
    | with_reducible refine Tame.upd ?_

theorem State.dropKeeps_tame (s : State) (c : ChanId) : Tame s (State.dropKeeps s c) := by
  unfold State.dropKeeps
  repeat' first
    | with_reducible exact Tame.refl _
    | with_reducible apply Tame.after (State.modChan_tame ..)
    | dsimp +zetaDelta only
    | with_reducible refine Tame.upd ?_

theorem State.settleAll_tame (s : State) : Tame s (State.settleAll s) := by
  unfold State.settleAll
  repeat' first
    | with_reducible exact Tame.refl _
    | with_reducible apply Tame.after (State.finishRecons_tame ..)
    | with_reducible apply Tame.after (State.feedRecons_tame ..)
    | with_reducible apply Tame.after (State.feedForms_tame ..)
    | with_reducible apply Tame.after (State.feedBacks_tame ..)
    | with_reducible apply Tame.after (State.feedFetches_tame ..)
    | with_reducible apply Tame.after (State.settle_tame ..)
    | with_reducible apply Tame.after (State.updWithhold_tame ..)

theorem State.replanForms_tame (s : State) (c : ChanId) : Tame s (State.replanForms s c) := by
  unfold State.replanForms
  repeat' first
    | with_reducible assumption
    | with_reducible exact Tame.refl _
    | ((try lift_lets); intro x; first
        | (refine Tame.cut (t := x) ?_ fun h => ?_; rotate_left; clear_value x; rotate_left; (try unfold x))
        | skip)
    | with_reducible apply Tame.after (State.lookStripe_tame ..)
    | with_reducible refine Tame.foldl (hf := fun _ _ => ?_) (h := ?_)
    | split
    | dsimp +zetaDelta only
    | with_reducible refine Tame.upd ?_

theorem State.dropForms_tame (s : State) (c : ChanId) : Tame s (State.dropForms s c) := by
  unfold State.dropForms
  repeat' first
    | with_reducible exact Tame.refl _
    | with_reducible apply Tame.after (State.replanForms_tame ..)
    | dsimp +zetaDelta only
    | with_reducible refine Tame.upd ?_

theorem State.dropReturns_tame (s : State) (c : ChanId) (ret : List RetE) : Tame s (State.dropReturns s c ret) := by
  unfold State.dropReturns
  repeat' first
    | with_reducible assumption
    | with_reducible exact Tame.refl _
    | ((try lift_lets); intro x; first
        | (refine Tame.cut (t := x) ?_ fun h => ?_; rotate_left; clear_value x; rotate_left; (try unfold x))
        | skip)
    | with_reducible apply Tame.after (State.modChan_tame ..)
    | with_reducible apply Tame.after (State.cutBeats_tame ..)
    | with_reducible apply Tame.after (State.cutReturns_tame ..)
    | with_reducible apply Tame.after (State.cutSet_tame ..)
    | split
    | dsimp +zetaDelta only
    | with_reducible refine Tame.upd ?_

theorem State.tellLost_tame (s : State) (c : ChanId) (held : Nat) (lost : Bool) : Tame s (State.tellLost s c held lost) := by
  unfold State.tellLost
  repeat' first
    | with_reducible assumption
    | with_reducible exact Tame.refl _
    | ((try lift_lets); intro x; first
        | (refine Tame.cut (t := x) ?_ fun h => ?_; rotate_left; clear_value x; rotate_left; (try unfold x))
        | skip)
    | with_reducible apply Tame.after (State.raise_tame ..)
    | split
    | dsimp +zetaDelta only
    | with_reducible refine Tame.upd ?_

theorem State.sever_tame (s : State) (c : ChanId) (why : Nat) : Tame s (State.sever s c why) := by
  unfold State.sever
  repeat' first
    | with_reducible assumption
    | with_reducible exact Tame.refl _
    | ((try lift_lets); intro x; first
        | (refine Tame.cut (t := x) ?_ fun h => ?_; rotate_left; clear_value x; rotate_left; (try unfold x))
        | skip)
    | with_reducible apply Tame.after (State.loseTraining_tame ..)
    | with_reducible apply Tame.after (State.loseCur_tame ..)
    | with_reducible apply Tame.after (State.loseChan_tame ..)
    | with_reducible apply Tame.after (State.releaseOn_tame ..)
    | with_reducible apply Tame.after (State.modChan_tame ..)
    | with_reducible apply Tame.after (State.dropForms_tame ..)
    | with_reducible apply Tame.after (State.loseWaiting_tame ..)
    | with_reducible apply Tame.after (State.loseRead_tame ..)
    | with_reducible apply Tame.after (State.dropReturns_tame ..)
    | with_reducible apply Tame.after (State.modSweep_tame ..)
    | with_reducible apply Tame.after (State.leds_tame ..)
    | with_reducible apply Tame.after (State.severJobs_tame ..)
    | with_reducible apply Tame.after (State.dropKeeps_tame ..)
    | with_reducible apply Tame.after (State.tellLost_tame ..)
    | with_reducible apply Tame.after (State.settleAll_tame ..)
    | with_reducible refine Tame.foldl (hf := fun _ _ => ?_) (h := ?_)
    | split
    | dsimp +zetaDelta only
    | with_reducible refine Tame.upd ?_

theorem State.sweepFails_tame (s : State) : Tame s (State.sweepFails s) := by
  unfold State.sweepFails
  repeat' first
    | with_reducible assumption
    | with_reducible exact Tame.refl _
    | ((try lift_lets); intro x; first
        | (refine Tame.cut (t := x) ?_ fun h => ?_; rotate_left; clear_value x; rotate_left; (try unfold x))
        | skip)
    | with_reducible apply Tame.after (State.modChan_tame ..)
    | with_reducible apply Tame.after (State.sever_tame ..)
    | with_reducible refine Tame.foldl (hf := fun _ _ => ?_) (h := ?_)
    | split
    | dsimp +zetaDelta only
    | with_reducible refine Tame.upd ?_

/-! ### Machine/Drain.lean -/

theorem State.startSelf_tame (s : State) (c : ChanId) : Tame s (State.startSelf s c) := by
  unfold State.startSelf
  repeat' first
    | with_reducible assumption
    | with_reducible exact Tame.refl _
    | ((try lift_lets); intro x; first
        | (refine Tame.cut (t := x) ?_ fun h => ?_; rotate_left; clear_value x; rotate_left; (try unfold x))
        | skip)
    | with_reducible apply Tame.after (State.modChan_tame ..)
    | split
    | dsimp +zetaDelta only
    | with_reducible refine Tame.upd ?_

theorem State.drainTick_tame (s : State) (c : ChanId) : Tame s (State.drainTick s c) := by
  unfold State.drainTick
  repeat' first
    | with_reducible assumption
    | with_reducible exact Tame.refl _
    | ((try lift_lets); intro x; first
        | (refine Tame.cut (t := x) ?_ fun h => ?_; rotate_left; clear_value x; rotate_left; (try unfold x))
        | skip)
    | with_reducible apply Tame.after (State.pushRaw_tame ..)
    | with_reducible apply Tame.after (State.startSelf_tame ..)
    | split
    | dsimp +zetaDelta only
    | with_reducible refine Tame.upd ?_

/-! ### Machine/RegOps.lean -/

theorem State.store_tame (s : State) (key : Nat) (val : Word) : Tame s (State.store s key val) := by
  unfold State.store
  repeat' first
    | with_reducible assumption
    | with_reducible exact Tame.refl _
    | ((try lift_lets); intro x; first
        | (refine Tame.cut (t := x) ?_ fun h => ?_; rotate_left; clear_value x; rotate_left; (try unfold x))
        | skip)
    | with_reducible apply Tame.after (State.setProg_tame ..)
    | split
    | dsimp +zetaDelta only
    | with_reducible refine Tame.upd ?_

theorem State.post_tame (s : State) (groups : Word) (at_ : Nat) (armed : Bool) : Tame s (State.post s groups at_ armed) := by
  constructor <;> simp [State.post]

theorem State.postNow_tame (s : State) (groups : Word) : Tame s (State.postNow s groups) := by
  unfold State.postNow
  repeat' first
    | with_reducible exact Tame.refl _
    | with_reducible apply Tame.after (State.post_tame ..)

theorem State.autoCommit_tame (s : State) : Tame s (State.autoCommit s) := by
  unfold State.autoCommit
  repeat' first
    | with_reducible assumption
    | with_reducible exact Tame.refl _
    | ((try lift_lets); intro x; first
        | (refine Tame.cut (t := x) ?_ fun h => ?_; rotate_left; clear_value x; rotate_left; (try unfold x))
        | skip)
    | split
    | dsimp +zetaDelta only
    | with_reducible refine Tame.upd ?_

/-! ### Machine/Maint.lean -/

theorem State.retirePage_tame (s : State) (page : Nat) (c : ChanId) (cause : Nat) : Tame s (State.retirePage s page c cause) := by
  unfold State.retirePage
  repeat' first
    | with_reducible exact Tame.refl _
    | with_reducible apply Tame.after (State.raise_tame ..)
    | split
    | dsimp +zetaDelta only
    | with_reducible refine Tame.upd ?_

theorem State.retireLine_tame (s : State) (c : ChanId) (line cause : Nat) : Tame s (State.retireLine s c line cause) := by
  unfold State.retireLine
  repeat' first
    | with_reducible exact Tame.refl _
    | with_reducible apply Tame.after (State.retirePage_tame ..)

theorem State.askService_tame (s : State) (c : ChanId) : Tame s (State.askService s c) := by
  unfold State.askService
  repeat' first
    | with_reducible assumption
    | with_reducible exact Tame.refl _
    | ((try lift_lets); intro x; first
        | (refine Tame.cut (t := x) ?_ fun h => ?_; rotate_left; clear_value x; rotate_left; (try unfold x))
        | skip)
    | with_reducible apply Tame.after (State.leds_tame ..)
    | with_reducible apply Tame.after (State.modChan_tame ..)
    | split
    | dsimp +zetaDelta only
    | with_reducible refine Tame.upd ?_

theorem State.askPatch_tame (s : State) (c : ChanId) (line : Nat) : Tame s (State.askPatch s c line) := by
  unfold State.askPatch
  repeat' first
    | with_reducible assumption
    | with_reducible exact Tame.refl _
    | ((try lift_lets); intro x; first
        | (refine Tame.cut (t := x) ?_ fun h => ?_; rotate_left; clear_value x; rotate_left; (try unfold x))
        | skip)
    | with_reducible apply Tame.after (State.modChan_tame ..)
    | split
    | dsimp +zetaDelta only
    | with_reducible refine Tame.upd ?_

theorem State.rung_tame (s : State) (c : ChanId) (r line : Nat) (taken : Bool) (dev : Nat) : Tame s (State.rung s c r line taken dev) := by
  unfold State.rung
  repeat' first
    | with_reducible assumption
    | with_reducible exact Tame.refl _
    | ((try lift_lets); intro x; first
        | (refine Tame.cut (t := x) ?_ fun h => ?_; rotate_left; clear_value x; rotate_left; (try unfold x))
        | skip)
    | with_reducible apply Tame.after (State.modChan_tame ..)
    | with_reducible apply Tame.after (State.ladder_tame ..)
    | with_reducible apply Tame.after (State.note_tame ..)
    | with_reducible apply Tame.after (State.raiseChan_tame ..)
    | split
    | dsimp +zetaDelta only
    | with_reducible refine Tame.upd ?_

theorem State.takeErase_tame (s : State) (c : ChanId) (line dev : Nat) : Tame s (State.takeErase s c line dev) := by
  unfold State.takeErase
  repeat' first
    | with_reducible assumption
    | with_reducible exact Tame.refl _
    | ((try lift_lets); intro x; first
        | (refine Tame.cut (t := x) ?_ fun h => ?_; rotate_left; clear_value x; rotate_left; (try unfold x))
        | skip)
    | with_reducible apply Tame.after (State.store_tame ..)
    | with_reducible apply Tame.after (State.postNow_tame ..)
    | with_reducible apply Tame.after (State.autoCommit_tame ..)
    | with_reducible apply Tame.after (State.rung_tame ..)
    | dsimp +zetaDelta only

theorem State.askDegrade_tame (s : State) (c : ChanId) (d : Carried) : Tame s (State.askDegrade s c d) := by
  unfold State.askDegrade
  repeat' first
    | with_reducible exact Tame.refl _
    | with_reducible apply Tame.after (State.modChan_tame ..)
    | with_reducible apply Tame.after (State.ladder_tame ..)
    | dsimp +zetaDelta only
    | with_reducible refine Tame.upd ?_

theorem State.takeDegrade_tame (s : State) (c : ChanId) (line : Nat) : Tame s (State.takeDegrade s c line) := by
  unfold State.takeDegrade
  repeat' first
    | with_reducible exact Tame.refl _
    | with_reducible apply Tame.after (State.askDegrade_tame ..)

theorem State.takePoison_tame (s : State) (c : ChanId) (line : Nat) (uncorr : Bool) : Tame s (State.takePoison s c line uncorr) := by
  unfold State.takePoison
  repeat' first
    | with_reducible assumption
    | with_reducible exact Tame.refl _
    | ((try lift_lets); intro x; first
        | (refine Tame.cut (t := x) ?_ fun h => ?_; rotate_left; clear_value x; rotate_left; (try unfold x))
        | skip)
    | with_reducible apply Tame.after (State.retireLine_tame ..)
    | with_reducible apply Tame.after (State.askService_tame ..)
    | with_reducible apply Tame.after (State.rung_tame ..)
    | split
    | dsimp +zetaDelta only

theorem State.rung4_tame (s : State) (c : ChanId) (line : Nat) (uncorr : Bool) : Tame s (State.rung4 s c line uncorr) := by
  unfold State.rung4
  repeat' first
    | with_reducible assumption
    | with_reducible exact Tame.refl _
    | ((try lift_lets); intro x; first
        | (refine Tame.cut (t := x) ?_ fun h => ?_; rotate_left; clear_value x; rotate_left; (try unfold x))
        | skip)
    | with_reducible apply Tame.after (State.takePoison_tame ..)
    | with_reducible apply Tame.after (State.askDegrade_tame ..)
    | with_reducible apply Tame.after (State.takeDegrade_tame ..)
    | with_reducible apply Tame.after (State.rung_tame ..)
    | split
    | dsimp +zetaDelta only

theorem State.rung12_tame (s : State) (c : ChanId) (line dev : Nat) : Tame s (State.rung12 s c line dev) := by
  unfold State.rung12
  repeat' first
    | with_reducible assumption
    | with_reducible exact Tame.refl _
    | ((try lift_lets); intro x; first
        | (refine Tame.cut (t := x) ?_ fun h => ?_; rotate_left; clear_value x; rotate_left; (try unfold x))
        | skip)
    | with_reducible apply Tame.after (State.raiseChan_tame ..)
    | with_reducible apply Tame.after (State.rung_tame ..)
    | with_reducible apply Tame.after (State.askPatch_tame ..)
    | split
    | dsimp +zetaDelta only

theorem State.ladder_tame (s : State) (c : ChanId) (line : Nat) (dev : Option Nat) (uncorr recon proved : Bool) : Tame s (State.ladder s c line dev uncorr recon proved) := by
  unfold State.ladder
  repeat' first
    | with_reducible assumption
    | with_reducible exact Tame.refl _
    | ((try lift_lets); intro x; first
        | (refine Tame.cut (t := x) ?_ fun h => ?_; rotate_left; clear_value x; rotate_left; (try unfold x))
        | skip)
    | with_reducible apply Tame.after (State.rung12_tame ..)
    | with_reducible apply Tame.after (State.takePoison_tame ..)
    | with_reducible apply Tame.after (State.modChan_tame ..)
    | with_reducible apply Tame.after (State.takeErase_tame ..)
    | with_reducible apply Tame.after (State.rung_tame ..)
    | with_reducible apply Tame.after (State.rung4_tame ..)
    | split
    | dsimp +zetaDelta only
    | with_reducible refine Tame.upd ?_

theorem State.modWeir_tame (s : State) (c : ChanId) (f : Weir → Weir) : Tame s (State.modWeir s c f) := by
  unfold State.modWeir
  repeat' first
    | with_reducible exact Tame.refl _
    | with_reducible apply Tame.after (State.modChan_tame ..)
    | dsimp +zetaDelta only
    | with_reducible refine Tame.upd ?_

theorem State.lose_tame (s : State) (c : ChanId) (r : Fin 10) : Tame s (State.lose s c r) := by
  unfold State.lose
  repeat' first
    | with_reducible assumption
    | with_reducible exact Tame.refl _
    | ((try lift_lets); intro x; first
        | (refine Tame.cut (t := x) ?_ fun h => ?_; rotate_left; clear_value x; rotate_left; (try unfold x))
        | skip)
    | with_reducible apply Tame.after (State.modWeir_tame ..)
    | split
    | dsimp +zetaDelta only
    | with_reducible refine Tame.upd ?_

/-! ### Machine/MaintWork.lean -/

theorem State.modScrub_tame (s : State) (c : ChanId) (f : Scrub → Scrub) : Tame s (State.modScrub s c f) := by
  unfold State.modScrub
  repeat' first
    | with_reducible exact Tame.refl _
    | with_reducible apply Tame.after (State.modChan_tame ..)
    | dsimp +zetaDelta only
    | with_reducible refine Tame.upd ?_

theorem State.modPatch_tame (s : State) (c : ChanId) (f : Patch → Patch) : Tame s (State.modPatch s c f) := by
  unfold State.modPatch
  repeat' first
    | with_reducible exact Tame.refl _
    | with_reducible apply Tame.after (State.modChan_tame ..)
    | dsimp +zetaDelta only
    | with_reducible refine Tame.upd ?_

theorem State.jobProg_tame (s : State) (opc t prog : Nat) : Tame s (State.jobProg s opc t prog) := by
  unfold State.jobProg
  repeat' first
    | with_reducible exact Tame.refl _
    | with_reducible apply Tame.after (State.modJobs_tame ..)
    | split
    | dsimp +zetaDelta only
    | with_reducible refine Tame.upd ?_

theorem State.endScrub_tame (s : State) (c : ChanId) : Tame s (State.endScrub s c) := by
  unfold State.endScrub
  repeat' first
    | with_reducible exact Tame.refl _
    | with_reducible apply Tame.after (State.modScrub_tame ..)
    | with_reducible apply Tame.after (State.finishJob_tame ..)
    | dsimp +zetaDelta only
    | with_reducible refine Tame.upd ?_

theorem State.endLine_tame (s : State) (c : ChanId) : Tame s (State.endLine s c) := by
  unfold State.endLine
  repeat' first
    | with_reducible assumption
    | with_reducible exact Tame.refl _
    | ((try lift_lets); intro x; first
        | (refine Tame.cut (t := x) ?_ fun h => ?_; rotate_left; clear_value x; rotate_left; (try unfold x))
        | skip)
    | with_reducible apply Tame.after (State.modScrub_tame ..)
    | with_reducible apply Tame.after (State.jobProg_tame ..)
    | with_reducible apply Tame.after (State.endScrub_tame ..)
    | split
    | dsimp +zetaDelta only
    | with_reducible refine Tame.upd ?_

theorem State.scrubBack_tame (s : State) (c : ChanId) (d : Line) : Tame s (State.scrubBack s c d) := by
  unfold State.scrubBack
  repeat' first
    | with_reducible assumption
    | with_reducible exact Tame.refl _
    | ((try lift_lets); intro x; first
        | (refine Tame.cut (t := x) ?_ fun h => ?_; rotate_left; clear_value x; rotate_left; (try unfold x))
        | skip)
    | with_reducible apply Tame.after (State.endLine_tame ..)
    | with_reducible apply Tame.after (State.writeBack_tame ..)
    | with_reducible apply Tame.after (State.modScrub_tame ..)
    | split
    | dsimp +zetaDelta only
    | with_reducible refine Tame.upd ?_

theorem State.scrubPoison_tame (s : State) (c : ChanId) : Tame s (State.scrubPoison s c) := by
  unfold State.scrubPoison
  repeat' first
    | with_reducible assumption
    | with_reducible exact Tame.refl _
    | ((try lift_lets); intro x; first
        | (refine Tame.cut (t := x) ?_ fun h => ?_; rotate_left; clear_value x; rotate_left; (try unfold x))
        | skip)
    | with_reducible apply Tame.after (State.writeBack_tame ..)
    | with_reducible apply Tame.after (State.note_tame ..)
    | with_reducible apply Tame.after (State.raiseChan_tame ..)
    | with_reducible apply Tame.after (State.retireLine_tame ..)
    | with_reducible apply Tame.after (State.ladder_tame ..)
    | with_reducible apply Tame.after (State.endLine_tame ..)
    | split
    | dsimp +zetaDelta only

theorem State.scrubRecon_tame (s : State) (r : Recon) : Tame s (State.scrubRecon s r) := by
  unfold State.scrubRecon
  repeat' first
    | with_reducible assumption
    | with_reducible exact Tame.refl _
    | ((try lift_lets); intro x; first
        | (refine Tame.cut (t := x) ?_ fun h => ?_; rotate_left; clear_value x; rotate_left; (try unfold x))
        | skip)
    | with_reducible apply Tame.after (State.modScrub_tame ..)
    | with_reducible apply Tame.after (State.markRecon_tame ..)
    | with_reducible apply Tame.after (State.ladder_tame ..)
    | with_reducible apply Tame.after (State.scrubBack_tame ..)
    | with_reducible apply Tame.after (State.scrubPoison_tame ..)
    | split
    | dsimp +zetaDelta only
    | with_reducible refine Tame.upd ?_

theorem State.patchCopy_tame (s : State) (c : ChanId) (d : Option Line) : Tame s (State.patchCopy s c d) := by
  unfold State.patchCopy
  repeat' first
    | with_reducible assumption
    | with_reducible exact Tame.refl _
    | ((try lift_lets); intro x; first
        | (refine Tame.cut (t := x) ?_ fun h => ?_; rotate_left; clear_value x; rotate_left; (try unfold x))
        | skip)
    | with_reducible apply Tame.after (State.withEntry_tame ..)
    | with_reducible apply Tame.after (State.writeBack_tame ..)
    | with_reducible apply Tame.after (State.modPatch_tame ..)
    | split
    | dsimp +zetaDelta only
    | with_reducible refine Tame.upd ?_

theorem State.finishMaint_tame (s : State) : Tame s (State.finishMaint s) := by
  unfold State.finishMaint
  repeat' first
    | with_reducible assumption
    | with_reducible exact Tame.refl _
    | ((try lift_lets); intro x; first
        | (refine Tame.cut (t := x) ?_ fun h => ?_; rotate_left; clear_value x; rotate_left; (try unfold x))
        | skip)
    | with_reducible apply Tame.after (State.scrubRecon_tame ..)
    | with_reducible apply Tame.after (State.markRecon_tame ..)
    | with_reducible apply Tame.after (State.patchCopy_tame ..)
    | with_reducible refine Tame.foldl (hf := fun _ _ => ?_) (h := ?_)
    | split
    | dsimp +zetaDelta only
    | with_reducible refine Tame.upd ?_

/-! ### Machine/Mill.lean -/

theorem State.miAfter_tame (s : State) : Tame s (State.miAfter s) := by
  unfold State.miAfter
  repeat' first
    | with_reducible exact Tame.refl _
    | with_reducible apply Tame.after (State.updMiFlood_tame ..)
    | with_reducible apply Tame.after (State.settleAll_tame ..)
    | with_reducible apply Tame.after (State.sweepFails_tame ..)

/-! ### Machine/Slot.lean -/

theorem State.after_tame (s : State) (c : ChanId) : Tame s (State.after s c) := by
  unfold State.after
  repeat' first
    | with_reducible exact Tame.refl _
    | with_reducible apply Tame.after (State.finishMaint_tame ..)
    | with_reducible apply Tame.after (State.settleAll_tame ..)
    | with_reducible apply Tame.after (State.drainTick_tame ..)
    | with_reducible apply Tame.after (State.sweepFails_tame ..)

/-! ### Machine/HostPort.lean -/

theorem State.portAfter_tame (s : State) (p : PortId) : Tame s (State.portAfter s p) := by
  unfold State.portAfter
  repeat' first
    | with_reducible exact Tame.refl _
    | with_reducible apply Tame.after (State.updFlood_tame ..)
    | with_reducible apply Tame.after (State.settleAll_tame ..)


end Sys2Proof.Machine
end

