-- ==== Sys2Proof/Machine/Pins.lean ====
section
/-! DEFINITION. Output pins as functions of the state: the host ports' (R38, R39, R48, R72), a subchannel's data pins (R273),
the mirror ports' (R240, R241, R244), a channel's PHY and sideband pads (R348 to R350), the sled LEDs (R370); the global
pins stand in Flags.lean (R483). -/

namespace Sys2Proof.Machine

/-- One even-parity bit per byte of an `8 * k`-bit value (R38). -/
def parityBits (k : Nat) (x : Nat) : BitVec k :=
  BitVec.ofNat k (((List.range k).map fun i =>
    placeB ((List.range 8).foldl (fun b j => Bool.xor b (x.testBit (8 * i + j))) false) i).sum)

/-- HPn_RSP_H (R48); bits [39:32] are 0. -/
def RspOut.header (o : RspOut) : BitVec 40 :=
  BitVec.ofNat 40 (place o.tag.toNat 12 0 + place (codeNum o.code) 3 12 + place o.kind 2 15 + place o.lidx 2 17
    + placeB o.last 19 + place o.key.toNat 8 20 + place o.cache.toNat 2 28 + placeB o.order 30 + placeB o.corr 31)

/-- HPn_RSP_P: the parity of the 5 header bytes, then of the 64 data bytes. DESIGN CHOICE: R38 gives the 69 bits no order
(log entry 69). -/
def RspOut.parity (o : RspOut) : BitVec 69 := parityBits 69 (o.header.toNat + o.data.toNat * 2 ^ 40)

/-- HPn_RSP_V, HPn_RSP_H, HPn_RSP_D and HPn_RSP_P of the current CCLK. DESIGN CHOICE: the last three are 0 while no beat is
present, where R38 and R48 say nothing of them (log entry 69). -/
def Port.rspV (q : Port) : Bool := q.rspOut.isSome
def Port.rspH (q : Port) : BitVec 40 := (q.rspOut.map RspOut.header).getD 0
def Port.rspD (q : Port) : Line := (q.rspOut.map (·.data)).getD 0
def Port.rspP (q : Port) : BitVec 69 := (q.rspOut.map RspOut.parity).getD 0

/-- HPn_UP: the port is not CLOSED (R39, R54, R73, R75). -/
def Port.up (q : Port) : Bool := q.mode != .closed

/-- HPn_HALT (R72, R73, R487). -/
def Port.halt (q : Port) : Bool := q.haltPin

/-- HPn_REQ_CRD and HPn_WD_CRD. Credits that one step returns together count as one level here: their spacing of one per
CCLK is left out (log entry 5). -/
def Port.reqCrdPin (q : Port) : Bool := q.reqOut != 0
def Port.wdCrdPin (q : Port) : Bool := q.wdOut != 0

/-! ### The subchannel's data pins (R273) -/

/-- Symbol `j` of device `d` of a stored line: data bytes of devices 0 to 7, check symbols of devices 8 and 9. -/
def deviceSymbol (w : Stored) (d j : Nat) : Nat := w.toNat / 2 ^ (8 * (8 * d + j)) % 2 ^ 8

/-- What pin `p` of the 40 pins DQ[31:0] and CB[7:0] carries in beat `b` of the burst: symbol j of a device holds the
device's four pins at beat 2j in bits 3 to 0 and at beat 2j + 1 in bits 7 to 4. -/
def pinAt (w : Stored) (p b : Nat) : Bool := (deviceSymbol w (p / 4) (b / 2)).testBit (4 * (b % 2) + p % 4)

/-- The 40 pins in beat `b`. -/
def beatPins (w : Stored) (b : Nat) : BitVec 40 :=
  BitVec.ofNat 40 (((List.range 40).map fun p => if pinAt w p b then 2 ^ p else 0).sum)

/-- A subchannel's data pins in beat `b` of the burst that its last slot drives, none without a write (R142, R273). -/
def Sel.dqPins (l : Sel) (b : Nat) : Option (BitVec 40) := l.out.bind fun o => o.2.map fun w => beatPins w b

/-! ### The mirror ports (R240, R241, R244) -/

/-- The control word of a packet: its fields, then the CRC over the payload and control-word bytes 0 to 19 (R244). -/
def Pkt.word (p : Pkt) : BitVec 192 := BitVec.ofNat 192 (p.ctl.toNat + (beatCrc p.data p.ctl).toNat * 2 ^ 160)

/-- MOk_V, MOk_D and MOk_C in the current WOCLK; zero where the lane drives nothing. -/
def MoLane.pinV (q : MoLane) : Bool := q.out.isSome
def MoLane.pinD (q : MoLane) : Line := (q.out.map (·.data)).getD 0
def MoLane.pinC (q : MoLane) : BitVec 192 := (q.out.map Pkt.word).getD 0

/-! ### A channel's pads (R348 to R350) -/

/-- What drives a pad. -/
inductive Pad where
  | highZ     -- high impedance
  | released  -- an open-drain line that no driver of the core holds
  | low
  | high
  | stopped   -- a differential pair with T low and C high
  | toggling
  | driven    -- by the unit that owns the pad in this condition
  | data      -- driven for writes and training, high impedance otherwise
  deriving DecidableEq, Repr

/-- DQ, CB and DQS. -/
def Chan.dqPad (k : Chan) : Pad := if k.phy.level = 1 then .data else .highZ

/-- The exit from IDLE has restarted DCK: PLL n is locked, and chip selects are held low until the SRX (R350, R385). -/
def Chan.leaving (k : Chan) : Bool := k.phy.level == 2 && k.pwrst == 3 && k.phy.lock

/-- DCA and DPAR of a subchannel. -/
def Chan.dcaPad (k : Chan) (x : Sub) : Pad :=
  match k.phy.level with
  | 1 => .driven
  | 2 => if k.leaving && !(k.sel.at x).selfRef then .driven else .low
  | _ => .highZ

/-- DCSs_x_N, low after a retention until an SRX (R350). DESIGN CHOICE: after SLUMBER the SRX comes with the training of the channel, or with
the start of its scheduler if that comes first; the spec does not say whose it is (log entry 80). -/
def Chan.dcsPad (k : Chan) (x : Sub) : Pad := if k.phy.level = 1 && k.phy.quiet then .low else k.dcaPad x

/-- DCKs_T and DCKs_C. -/
def Chan.dckPad (k : Chan) : Pad :=
  match k.phy.level with
  | 1 => .toggling
  | 2 => if k.leaving then .toggling else .stopped
  | _ => .highZ

/-- DRST_N: low until training releases it (R357), high in retention. -/
def Chan.drstPad (k : Chan) : Pad := if k.phy.drst then .high else .low

/-- I3C_SCL and I3C_SDA: the SBM owns the bus of a retained channel in SLUMBER, the channel agent drives it while a transfer
runs elsewhere (R348, R353). -/
def State.i3cPad (s : State) (c : ChanId) : Pad :=
  let k := s.chan c
  if !k.svc.pwrOn then .released
  else if s.phase = .slumber then if k.phy.level = 2 then .driven else .released
  else if k.i3c.isEmpty then .released else .driven

/-- The static address of an I3C target: JEDEC's type code with the host ID, which the board straps to the slot (R352).
PRESUMED, from the DDR5 sideband standard (log entry 68). -/
def Xfer.address (x : Xfer) : Nat := [0x50, 0x10, 0x30, 0x48].getD x.target 0 + x.slot

/-! ### Sled outputs (R348, R370, R371) -/

/-- Half periods of the blink patterns in SCLK of 10 ns: 500 ms, and 125 ms of the 4 Hz pattern, whose duty the spec does not
state (DESIGN CHOICE, log entry 68). -/
def blinkSlow : Nat := 50000000
def blinkFast : Nat := 12500000

/-- A blink pattern `n` SCLK after it began. -/
def blink (half n : Nat) : Bool := n / half % 2 == 0

/-- ATTN and OK that the LEDs show: those of SVC_CTL, in retention those of the moment of entry (R348). -/
def State.ledCtl (s : State) (c : ChanId) : Nat :=
  if (s.chan c).phy.level = 2 then (s.chan c).svc.leds else field (s.prog (svcCtlKey c)) 4 1

/-- SVC_LED_ATTN[n], `t` SCLK into its pattern; it is low while inert (R348). -/
def State.ledAttn (s : State) (c : ChanId) (t : Nat) : Bool :=
  (s.chan c).phy.level != 0 && match s.ledCtl c % 4 with
  | 1 => blink blinkSlow t
  | 2 => true
  | 3 => blink blinkFast t
  | _ => false

/-- SVC_LED_OK[n], `t` SCLK into its pattern; it is low on an inert or unpowered channel (R348). -/
def State.ledOk (s : State) (c : ChanId) (t : Nat) : Bool :=
  (s.chan c).phy.level != 0 && (s.chan c).phy.level != 3
    && (match s.ledCtl c / 4 with
      | 1 => true
      | 2 => blink blinkSlow t
      | _ => false)

/-- SLED_PWR_EN[n] (R371). DESIGN CHOICE: R348 has it low on an inert channel and R371 raises it before PHY_CFG.EN; the model follows R371
(log entry 80). -/
def Chan.sledPower (k : Chan) : Bool := k.svc.powerOut

end Sys2Proof.Machine
end

