-- ==== Sys2Proof/WellFormed.lean ====
section
/-! DEFINITION. Which commands spell an event of the row they stand for: a host port reads the opcode from the
wires, so the row's request word carries the row's opcode, or a reserved one (R41, log entry 12); a millrace row's
control word carries the row's PTYPE, or a reserved one (R245). -/

namespace Sys2Proof

/-- OPC of a request word (R40). -/
def opcField (w : BitVec 144) : Nat := w.toNat % 16

/-- Reserved opcode encodings (R41). -/
def opcReserved (n : Nat) : Bool := n == 3 || n == 7 || decide (10 ≤ n)

/-- The word carries opcode `n` or a reserved one. -/
def opcIs (n : Nat) (w : BitVec 144) : Bool := opcField w == n || opcReserved (opcField w)

/-- PTYPE of a control word (R244). -/
def ptypeField (ctl : BitVec 192) : Nat := ctl.toNat % 16

/-- The control word carries PTYPE `n` or a reserved one (R245). -/
def ptypeIs (n : Nat) (ctl : BitVec 192) : Bool := ptypeField ctl == n || decide (9 ≤ ptypeField ctl)

/-- The command spells an event of its row. -/
def Instr.wf : Instr → Bool
  | .nop _ w _ => opcIs 0 w
  | .rd _ w _ => opcIs 1 w
  | .rds _ w _ => opcIs 2 w
  | .wr _ w _ => opcIs 4 w
  | .wrp _ w _ => opcIs 5 w
  | .wrs _ w _ => opcIs 6 w
  | .efence _ w _ => opcIs 8 w
  | .pfence _ w _ => opcIs 9 w
  | .miIdle _ _ ctl => ptypeIs 0 ctl
  | .miData _ _ ctl => ptypeIs 1 ctl
  | .miHeader _ _ ctl => ptypeIs 2 ctl
  | .miTrailer _ _ ctl => ptypeIs 3 ctl
  | .miAck _ _ ctl => ptypeIs 4 ctl
  | .miHello _ _ ctl => ptypeIs 5 ctl
  | .miSever _ _ ctl => ptypeIs 6 ctl
  | .miDrift _ _ ctl => ptypeIs 7 ctl
  | .miRsEnd _ _ ctl => ptypeIs 8 ctl
  | .i3cTransferDone _ _ bytes => decide (bytes.length ≤ 1024)
  | _ => true

end Sys2Proof
end

