-- ==== Sys2Proof/Tests/Slice0.lean ====
section
/-! SUPPORT. Tests: ill-formed commands that `Instr.wf` refuses, values of the spec's worked cases and tables, and one step
of some commands. -/

namespace Sys2Proof.Tests
open Sys2Proof.Machine
set_option Elab.async false

/-! ### Ill-formed commands -/

theorem test_wf_request_opcode :
    ¬ Instr.wf (.nop 0 1 0) ∧ ¬ Instr.wf (.rd 0 4 0) ∧ ¬ Instr.wf (.rds 0 1 0) ∧ ¬ Instr.wf (.wr 0 1 0) ∧ ¬ Instr.wf (.wrp 0 4 0) ∧
    ¬ Instr.wf (.wrs 0 4 0) ∧ ¬ Instr.wf (.efence 0 9 0) ∧ ¬ Instr.wf (.pfence 0 8 0) := by decide

theorem test_wf_packet_type :
    ¬ Instr.wf (.miIdle 0 0 1) ∧ ¬ Instr.wf (.miData 0 0 0) ∧ ¬ Instr.wf (.miHeader 0 0 3) ∧ ¬ Instr.wf (.miTrailer 0 0 2) ∧
    ¬ Instr.wf (.miAck 0 0 5) ∧ ¬ Instr.wf (.miHello 0 0 4) ∧ ¬ Instr.wf (.miSever 0 0 7) ∧ ¬ Instr.wf (.miDrift 0 0 6) ∧
    ¬ Instr.wf (.miRsEnd 0 0 1) := by decide

theorem test_wf_transfer_length : ¬ Instr.wf (.i3cTransferDone 0 true (List.replicate 1025 0)) := by decide +kernel

theorem test_wf_accepts :
    Instr.wf (.rd 23 1 0) ∧ Instr.wf (.miIdle 3 0 9) ∧ Instr.wf (.i3cTransferDone 19 true []) ∧ Instr.wf (.requestAdmit 0) := by
  decide

/-! ### Worked cases and tables of the spec -/

/-- CRC-32C of the nine digits: the check value of the standard that R5 names. -/
theorem test_crc32c : crc32c ([0x31, 0x32, 0x33, 0x34, 0x35, 0x36, 0x37, 0x38, 0x39].map (BitVec.ofNat 8)) = 0xE3069283 := by
  decide +kernel

/-- 04_request_path.md, worked case: WRS at 0x0123_4500 in span mode. -/
theorem test_address_span :
    spotOf (fun m => m != 2) 0x1234500 = { set := 1, stripe := 18645, idx := 0, ch := 6, line := 0x48D5 } ∧
    (spotOf (fun m => m != 2) 0x12345C0).ch = 9 ∧ chanOf 1 (parPos 18645) = 5 := by decide +kernel

/-- 04_request_path.md, worked case: WRP at 0x2340 in plain mode. -/
theorem test_address_plain :
    spotOf (fun m => m != 2) 0x2340 = { set := 2, stripe := 3, idx := 1, ch := 13, line := 1 } := by decide +kernel

/-- 09_stored_data_integrity.md, worked case: a line at 0x0280_2300. -/
theorem test_address_far : (spotOf (fun m => m != 2) 0x2802300).ch = 13 ∧ (spotOf (fun m => m != 2) 0x2802300).line = 32768 := by
  decide +kernel

def fullGeom : Geom := { cap := 1024, bg := 3, ba := 2, cs := 1, cid := 2, row := 18, ok := true }

/-- 04_request_path.md, worked case: line 0x48D5 under R107. -/
theorem test_decompose :
    fullGeom.place 0x48D5 = { sub := 1, bank := { cs := 0, cid := 1, bg := 2, ba := 3 }, row := 0, col := 34 } := by
  decide +kernel

/-- The limits of a window's SIZE (R83). -/
theorem test_window_size :
    winMatch 1 0x2C000 0 = false ∧ winMatch 1 0x30000 0xFFF = true ∧ winMatch 1 0x30000 0x1000 = false ∧
    winMatch 1 0xB8000 (2 ^ 46 - 1) = true ∧ winMatch 1 0xBC000 0 = false := by decide +kernel

/-- 06_tide_and_cadence.md, worked case: entry 1 keeps its phase when its FIRST lies in the past (R186). -/
theorem test_cadence_phase : slotFrom 1048576 6240 1048577 = 1054816 ∧ slotFrom 1051696 159999840 2400001024 = 2401049296 := by
  decide

/-- R184's limits. -/
theorem test_cadence_limits : cadPeriod 1 1023 = 1024 ∧ cadPeriod 3 3199 = 3200 ∧ cadPeriod 3 102401 = 102400 := by decide

/-! ### 09_stored_data_integrity.md, worked case: injections into a line whose byte i is i -/

def countLine : Line := BitVec.ofNat 512 (bytesNat (List.range 64))

/-- The line as stored, with byte `i` of the buffer changed by `x` for each pair. -/
def changedBy (l : List (Nat × Nat)) : Stored :=
  encodeLine countLine ^^^ BitVec.ofNat 640 ((l.map fun p => p.2 <<< (8 * p.1)).sum)

theorem test_saddle_clean : decodeStored none (encodeLine countLine) = ⟨.clean, countLine, 0⟩ := by decide +kernel

theorem test_saddle_device :
    decodeStored none (changedBy ((List.range 8).map fun i => (24 + i, 0xFF))) = ⟨.corrected 3, countLine, 8⟩ := by decide +kernel

theorem test_saddle_erased :
    decodeStored (some (3, 2)) (changedBy (((List.range 8).map fun i => (24 + i, 0xFF)) ++ [(50, 0x10), (60, 0x10)]))
      = ⟨.erased, countLine, 10⟩ := by decide +kernel

theorem test_saddle_poison : (decodeStored none (changedBy (poisonP.zipIdx.map fun p => (64 + p.2, p.1)))).out = .poison := by
  decide +kernel

theorem test_saddle_zeros : (decodeStored none 0).out = .uncorrectable := by decide +kernel

/-! ### One step -/

def on : State := { State.reset with phase := .on, tide := 100000 }

/-- SHA-384 of the bytes of "abc": the value of the standard that R5 names. -/
theorem test_sha384 : hash384 ([0x61, 0x62, 0x63].map (BitVec.ofNat 8))
    = 0xa725c834a1ecba5823cce7a12b078680ed5bff435a608b1a63d1de0eab322c270750c69a693da0b58b5ea3453f7500cb := by decide +kernel

def signedParts : List Nat :=
  [0x0000000000000000000000000000000000000000000000000000000000000000000000400000000302000001b007f1a6,
   0x462215b2ca9226390f3667b6458576c1d7d1f9041c611ae79c762411c06daf6200000000000000000000000000000000,
   0xf3df0ec05875cf82f282acb810a9d4062905519f695551d240d94031c6a21bc7c5cb04eb1fcb4fbc5178782d4b426c0e,
   0x3ac7147957383c6962b6d7b654cfefa5f8efd4a4744aa84b7a3d6b11b79e2c9f2db33ee5b96328b0fb24919cbe0ff659,
   0x1cd8731a820755a91f556afa9e6b316644b2954e3718f6278298a8b2528352860afc2438865a89b09b3375a1f0664721,
   0x472a3bff0e142c10fc03f4f70351a2dcceed3a80fd26deecea2b31ef19851ef6737192b19c082ae377c9945be8e48129,
   0x000000000000000000000000000000000000000000000000000000000000000057c955388a123a4ec8a469be596b9f0c,
   0x000000000000000000000000000000000000000000000000000000000000000000000000000000000000000000000000,
   0x000000000000000000000000000000000000000000000000000000000000000000000000000000000000000000000000,
   0x000000000000000000000000000000000000000000000000000000000000000000000000000000000000000000000000,
   0x0f0e0d0c0b0a0908070605040302010077c47dbf00000000000000000000000000000000000000000000000000000000,
   0x3f3e3d3c3b3a393837363534333231302f2e2d2c2b2a292827262524232221201f1e1d1c1b1a19181716151413121110]
/-- A 576-byte image of SVN 3, signed under R402: its key, its hash, its signature and its HCRC were made outside Lean. -/
def signedImage : List Byte := (signedParts.map fun x => bytesOfNat x 48).flatten
/-- The hash of its key, as the OTP holds it (R403). -/
def keyHash : BitVec 384 := 0x9bf0a573d55ff28563234a80dd3af8927f20230cc316841089c9ea1a01f47bf722553b61b082f3c9da7c5e05a05e36c0

/-- The signed image passes the checks of R402; with one bit of its body changed its hash fails, with one of its signature the
signature. -/
theorem test_image_checks :
    let o := { on.otp with hash0 := keyHash }
    o.imageErr signedImage = none ∧ o.imageErr (signedImage.set 512 1) = some 17 ∧
      o.imageErr (signedImage.set 210 0) = some 18 := by decide +kernel

/-- What a command leaves, as a test sees it. -/
def result {α : Type} (c : Instr) (s : State) (f : State → α) : Option α :=
  match step { s with pending := [c] } with
  | .next t => some (f t)
  | _ => none

/-- 15_register_interface.md, worked case: a broadcast to SCH_WM reaches agent 7's shadow. -/
theorem test_broadcast :
    result (.indDataWrite .direct 0x00406080) (on.setProg 0x010 0x02000024) (fun t => t.prog (agentKey 7 0x024)) = some 0x00406080 := by
  decide +kernel

/-- The same case: a set-alias write of REF_CTL's shadow on agent 3 keeps its other bits. -/
theorem test_alias_set :
    result (.indDataWrite .set 1) ((on.setProg 0x010 0x00030030).setProg (agentKey 3 0x030) 6) (fun t => t.prog (agentKey 3 0x030))
      = some 7 := by decide +kernel

theorem test_nop_takes_credit :
    result (.nop 0 0 0) (on.modPort 0 fun q => q.openUp false) (fun t => ((t.port 0).reqCrd, (t.port 0).reqBuf.length)) = some (127, 1) := by
  decide +kernel

/-- No window matches: a tenant's read is DENIED with REASON 1, and source 504 rises (R88, R92). -/
theorem test_denied_read :
    result (.requestAdmit 0)
      (on.modPort 0 fun q => { q.openUp false with reqBuf := [{ id := 1, req :=
        { opc := .rd, addr := 0x40, len := 0, qos := .norm, tag := 5, key := 0, priv := false, wb := false, strict := false
          mask := 0 } }] })
      (fun t => ((t.port 0).vstat.reason, (t.port 0).vstat.addr, t.fcol.lines)) = some (1, 0x40, [504]) := by decide +kernel

/-- The strobe by PWR_FAIL_N, with its CAUSE (R214). -/
theorem test_power_fail :
    result .pwrFail (on.setProg 0x6000 0x10) (fun t => (t.sbm.pfPin, t.pers.strobe, t.pers.cause)) = some (false, true, 3) := by decide +kernel

/-- An idle step is one CCLK. -/
theorem test_idle_tick : (match step on with | .next t => t.tide | _ => 0) = 100001 := by decide +kernel

theorem test_bring_back_row : result .bringBackRow State.reset (fun t => t.phase) = some (.bring 2) := by decide +kernel

/-- A second refusal counts and changes nothing else of the record (R93). -/
theorem test_second_refusal :
    Vstat.take { valid := true, count := 255, seq := 15, addr := 7 }
      { opc := .wr, addr := 64, len := 0, qos := .bulk, tag := 0, key := 0, priv := false, wb := false, strict := false, mask := 0 }
      { pass := false, reason := 3 } = { valid := true, count := 255, seq := 0, addr := 7 } := by decide

end Sys2Proof.Tests
end

