-- ==== Sys2Proof/Tests/Witnesses.lean ====
section
/-! SUPPORT. For every statement with hypotheses, a state and operands that meet them, clause by clause. -/

namespace Sys2Proof.Tests
open Sys2Proof.Machine
set_option linter.all false
set_option Elab.async false

def bring (n : Nat) : State := { on with phase := .bring n }
def live (key : Nat) (w : Word) (s : State) : State := s.setLive key w
def port (f : Port → Port) : State := on.modPort 0 f
def chan (f : Chan → Chan) : State := on.modChan 0 f
def sel (f : Sel → Sel) : State := on.modSel 0 0 f
def mill (f : Mill → Mill) : State := { on with mill := f on.mill }
def boot (f : Boot → Boot) : State := { on with cmp := { on.cmp with boot := f on.cmp.boot } }
/-- The firmware runs. -/
def running : State := boot fun b => { b with st := 5 }
def strobed : State := { on with pers := { on.pers with strobe := true, cause := 3 } }
def warned : State := { on with sbm := { on.sbm with warn := true } }
def asleep : State := { on with phase := .slumber, sbm := { on.sbm with eval := true } }
/-- Port 0 opened. -/
def opened : State := on.modPort 0 fun q => q.openUp false
def req (o : Opc) : Req :=
  { opc := o, addr := 0, len := 0, qos := .bulk, tag := 0, key := 0, priv := false, wb := false, strict := false, mask := 0 }
def buf (o : Opc) : BufReq := { id := 1, req := req o }
def buffered (o : Opc) : State := opened.modPort 0 fun q => { q with reqBuf := [buf o] }
/-- Bad parity that acts. -/
def spoilt : Option Bad := some ⟨0, false⟩
def flight : Flight :=
  { id := 1, req := req .rd, epoch := 1, cls := .bulk, strictOrder := false, ready := [⟨0, .ok, false, 0, none⟩], left := 1 }
def entry (write : Bool) : XEntry :=
  { id := 1, src := .hp 0, dest := .chan 0, cls := .bulk, epoch := 1, write := write, addr := 0
    lines := [{ ch := 0, line := 0, lidx := 0, idx := 0 }], stripe := 0 }
def withEntries (s : State) : State := { s with xbar := { s.xbar with entries := [entry false] } }
/-- A powered channel 0 in service. -/
def alive (f : Chan → Chan) : State := on.modChan 0 fun k => f { k with svc := { k.svc with st := 2, pwrOn := true } }
/-- A geometry of 2 GiB on channel 0. -/
def geom (s : State) : State := live 0x100000 0x703002 s
/-- Channel 0 runs. -/
def slots : State := geom (live 0x100020 1 (alive fun k => { k with schOn := true, phy := { k.phy with lock := true } }))
/-- Window 0 of port 0 lets all of the first GiB through to channel 0. -/
def mappedTo (o : Opc) (s : State) : State :=
  live 0xA004 1 (live 0x10000 0xF (live 0x10004 0xB8000 { s with ports := (buffered o).ports }))
def mapped : State := mappedTo .rd slots
/-- Window 0 of port 0 without permissions. -/
def denied : State := live 0x10000 1 (live 0x10004 0xB8000 on)
def readE : RdE := { id := 1, purp := .host .mi 0 0, home := 0, loc := 0, cls := .bulk, issued := true }
def eddyE : EddyE := { id := 1, line := 0, data := 0, mask := 1, epoch := 1, src := .mi, cls := .bulk }
def recE : StripeRec := { id := 1, stripe := 0, epoch := 1, acc := 0, full := [], cls := .bulk, src := .mi }
/-- A DATA beat of twin epoch 0 at the head of lane 0. -/
def beat (mask : BitVec 64) (bad : Option Bad) : MiBeat := { pkt := { ptype := 1, mask := mask }, epoch := 0, bad := bad }
def miLine (s : State) (b : MiBeat) : State :=
  { s with mill := { s.mill with mi := s.mill.mi.put 0 { s.mill.mi.at 0 with buf := [b] } } }
/-- A linked side whose lane 0 of MI is `q`. -/
def linked (st : MillState) (q : MiLane) : State :=
  mill fun m => { m with st := st, linked := true, moUp := true, miUp := true, wiclk := true, mi := m.mi.put 0 q }
theorem good_beat {l : Lane} {p : Pkt} {k : Nat} {s : State} (h : s.mill.st ≠ .off ∧ s.mill.wiclk = true ∧ s.ticking = true ∧
    (s.mill.mi.at l).broken = false ∧ crcHolds p.data p.word = true ∧ (pktOf p.data p.word).ptype = k ∧ k < 9 ∧
    (s.mill.linked = true → miCheck l (s.mill.mi.at l) s.mill.lastAck s.mill.trSent (pktOf p.data p.word) = none))
    (h1 : (s.mill.mi.at l).pseq = none) : GoodBeat l p.data p.word k s := by
  obtain ⟨a, b, c, d, e, f, g, i⟩ := h
  exact ⟨a, b, c, d, e, f, g, (fun n hn => by rw [h1] at hn; cases hn), i⟩
/-- No entry of the cadence but `k` has a next slot. -/
theorem one_slot {s : State} {P : Fin 8 → Nat → Prop} (k : Fin 8) (h : ∀ j, j ≠ k → s.cad.next.at j = none) :
    ∀ j n, j ≠ k → s.cad.next.at j = some n → P j n := fun j n hj e => by rw [h j hj] at e; cases e
theorem no_slots {s : State} {P : Fin 8 → Nat → Prop} (h : ∀ j, s.cad.next.at j = none) :
    ∀ j n, s.cad.next.at j = some n → P j n := fun j n e => by rw [h j] at e; cases e
def resyncing (s : State) (d : ISet) (r : Resync) : State :=
  { s with mill := { s.mill with st := .resyncSrc, drift := d, rs := { r with active := true } } }
def moLine : MoLine := { addr := 0, data := 0, mask := 1, epoch := 1, bad := some ⟨0, false⟩ }
/-- A mirrored side that has opened epoch 1 on lane 0 and holds a bad line of it. -/
def linkedMo : State :=
  mill fun m =>
    { m with st := .mirrored, moUp := true, moBuf := [moLine], mo := m.mo.put 0 { m.mo.at 0 with isOpen := 1, shut := false } }
def retLine (b : Option Bad) : RetE := { src := .mi, rid := 1, lidx := 0, code := .ok, corr := false, data := 0, bad := b }
def slotE (kind : Nat) : PostedSlot := { entry := 0, at_ := 101024, kind := kind, sub := 3, chm := 0xFFFFF }
def posted (kind : Nat) : State := { on with cad := { on.cad with posted := [slotE kind] } }
/-- A slot for subchannel A of channel 0 alone, whose selector runs. -/
def loneE (kind : Nat) : PostedSlot := { slotE kind with sub := 1, chm := 1 }
def lone (kind : Nat) : State :=
  let s := live 0x100010 7 (slots.modChan 0 fun k => { k with tideValid := true })
  { s with cad := { s.cad with posted := [loneE kind] } }
def trial : Trial := ⟨0, 0, 0⟩
def flashFailed (s : State) : State := { s with flash := { s.flash with failed := true } }
def nextAt (T : Nat) (s : State) : State := { s with cad := { s.cad with next := s.cad.next.put 0 (some T) } }
/-- An armed update at tide value 102048. -/
def armedAt : State := ({ on with regs := { on.regs with atPend := true } } : State).setProg 0x030 102048
def oxOf (kind : Kind) : Ox := { cmd := { kind := kind, bank := ⟨0, 0, 0, 0⟩, ent := 1 } }
def writeE : WrE := { id := 1, purp := .host .mi 0 0, home := 0, loc := 0, cls := .bulk, issued := true }
def marked (n : Nat) (bad : Option Bad) : State :=
  on.modSpan 0 fun p => { p with marks := [{ t := 0, bits := 1, acked := 0, count := n, emax := 0, bad := bad }] }
/-- Requester `r` holds the weir since another DCLK than this. -/
def held (r : Nat) : State := slots.modWeir 0 fun w => { w with holder := some r, at_ := 9, lostAt := 9 }
def ring (opc : Nat) : Cur := { opc := opc, seq := 0, params := [], ch := 0 }
def record : EvRec := ⟨0, 0, 0, 0, 0, 1, 0, false, 0⟩
def chunkSum (n : Nat) : Word := crc32c (List.replicate n 0)
/-- The words of a packet of opcode `opc` with its parameters and its CRC. -/
def packetWords (opc : Nat) (ps : List Word) : List Word :=
  let ws := [BitVec.ofNat 32 opc, 0] ++ ps ++ List.replicate (13 - ps.length) 0
  ws ++ [packetCrc ws]
/-- A packet waits in slot 0 of the ring. -/
def ringed (opc : Nat) (ps : List Word) (s : State) : State :=
  (((packetWords opc ps).zipIdx).foldl (fun (s : State) (x : Word × Nat) => s.setProg (0x2000 + 4 * x.2) x.1) s).setProg 0x2800 1
def frontOf (s : State) : Packet := packetOf s.slotWords
def badUnknown : State := (running.setProg 0x2000 0x7F).setProg 0x2800 1
def badCrc : State := (running.setProg 0x2000 1).setProg 0x2800 1
/-- The firmware runs, and so does channel 0. -/
def busy : State := { slots with cmp := running.cmp }
/-- The firmware runs, and channel 0 is in service. -/
def ready (f : Chan → Chan) : State := { alive f with cmp := running.cmp }
/-- A running job of opcode `opc` in slot 0. -/
def jobOf (opc : Nat) (s : State) : State := s.modJob 0 fun b => { b with st := 1, opc := opc }

def seen (k : Chan) : Chan := { k with spd0 := some [] }
def flashed (s : State) : State := { s with flash := { s.flash with desc := some (imgDesc signedImage.length 3), img := signedImage } }
/-- The flash holds an image of no bytes, which is being read. -/
def empty_ : State :=
  { (boot fun b => { b with st := 2, src := true }) with flash := { on.flash with desc := some (imgDesc 0 0) } }
/-- A mirrored side whose MO buffer is full of lines of one epoch. -/
def fullMo : State :=
  { on with
    xbar := { on.xbar with taken := [entry true] }
    mill := { on.mill with st := .mirrored, moBuf := List.replicate 16384 moLine } }
theorem full_mo : fullMo.moRoom (entry true) = false := by
  simp only [State.moRoom, fullMo, entry, List.length_replicate]
  decide
/-- A DRIFT at the head of a lane. -/
def drifted : MiBeat := { pkt := { ptype := 7, data := 1 }, epoch := 0 }
/-- Every job slot is taken, and channel 0 is in service. -/
def noJob : State := (List.finRange 8).foldl (fun (s : State) (j : Fin 8) => s.modJob j fun b => { b with st := 1 }) busy
def patching : Packet := frontOf (ringed 0x21 [0] busy)
theorem none_patched : ∀ e, (busy.chan patching.chan).patchOf patching.line = some e → e.st = 0 := by
  intro e he
  rw [show (busy.chan patching.chan).patchOf patching.line = none by decide +kernel] at he
  cases he
theorem zeros_bad : (decodeStored (on.erasedAt 0 0) 0).out = .uncorrectable := by
  rw [show on.erasedAt 0 0 = none from rfl]
  exact test_saddle_zeros
def clearing (ps : List Word) : State :=
  ringed 0x49 ps ({ running with evr := { running.evr with chal := some ((List.range 32).map (BitVec.ofNat 8)) } }.setProg 0x5040 1)
/-- The eight words of the HMAC of "EVRC" and the bytes 0 to 31 under the key 1, 0, …, 0, made outside Lean. -/
def proof : List Word :=
  [0x0133D6B2, 0xB7746A46, 0xD9EB5AC5, 0x5C8F0257, 0x52F6197A, 0xE5CBAEF6, 0x68CF78D4, 0x16E3472E]
def read_ : Xfer := { slot := 0, target := 0, use := .temp }
def sent_ : Xfer := { read_ with sent := true }
/-- In SLUMBER, channel 0 in retention, whose last poll failed. -/
def pollLost : State :=
  let s := asleep.modChan 0 fun k => { k with phy := { k.phy with level := 2 } }
  { s with sbm := { s.sbm with lastPoll := s.sbm.lastPoll.put 0 (some none) } }
/-- An image store of `n` bytes has begun. -/
def storing_ (n : Nat) : State := { running with flash := { running.flash with store := some ⟨n, true⟩ } }
def laddering : State := ringed 0x24 [0x100] (busy.modChan 0 fun k => { k with ladder := { k.ladder with want := 1 } })

theorem met_StepRunsFrontCommand :
  (∃ (s : State), s.pending = []) ∧
  (∃ (s : State), s.ticking = true ∧ (∀ d ∈ s.dues, s.tide + 1 < d) ∧ (s.tide + 1) % 4096 ≠ 0) ∧
  (∃ (s : State), s.ticking = true ∧ ((∃ d ∈ s.dues, d ≤ s.tide + 1) ∨ (s.tide + 1) % 4096 = 0)) ∧
  (∃ (s : State), s.ticking = false) :=
  ⟨⟨on, by decide +kernel⟩,
  ⟨on, by and_intros <;> decide +kernel⟩,
  ⟨{ on with tide := 102399 }, by and_intros <;> decide +kernel⟩,
  ⟨State.reset, by decide +kernel⟩⟩

theorem met_RequestEntersBuffer :
  (∃ (p : PortId) (w : BitVec 144) (par : BitVec 18) (i : Instr) (o : Opc) (s : State), i ∈ requestCmds p w par ∧ (s.port
    p).checks = true ∧ reqError (s.port p) w par = none ∧ opcOf (field w 3 0) = some o) :=
  ⟨0, 1, 1, .rd 0 1 1, .rd, opened, by and_intros <;> decide +kernel⟩

theorem met_RequestsTurnedAway :
  (∃ (p : PortId) (w : BitVec 144) (par : BitVec 18) (i : Instr) (reason : Nat) (s : State), i ∈ requestCmds p w par ∧
    (s.port p).checks = true ∧ reqError (s.port p) w par = some reason) ∧
  (∃ (p : PortId) (w : BitVec 144) (par : BitVec 18) (i : Instr) (o : Opc) (s : State), i ∈ requestCmds p w par ∧ (s.port
    p).mode = .safe ∧ 0 < (s.port p).reqCrd ∧ opcOf (field w 3 0) = some o ∧ o ≠ .nop) ∧
  (∃ (p : PortId) (w : BitVec 144) (par : BitVec 18) (i : Instr) (s : State), i ∈ requestCmds p w par ∧ (s.port p).mode =
    .safe ∧ 0 < (s.port p).reqCrd ∧ (opcOf (field w 3 0) = none ∨ opcOf (field w 3 0) = some .nop)) ∧
  (∃ (p : PortId) (w : BitVec 144) (par : BitVec 18) (i : Instr) (s : State), i ∈ requestCmds p w par ∧ ((s.port p).mode =
    .safe ∧ (s.port p).reqCrd = 0 ∨ (s.port p).mode ≠ .safe ∧ (s.port p).checks = false)) :=
  ⟨⟨0, 1, 1, .rd 0 1 1, 8, opened.modPort 0 fun q => { q with reqCrd := 0 }, by and_intros <;> decide +kernel⟩,
  ⟨0, 1, 1, .rd 0 1 1, .rd, port fun q => { q with mode := .safe, reqCrd := 1 }, by and_intros <;> decide +kernel⟩,
  ⟨0, 0, 1, .rd 0 0 1, port fun q => { q with mode := .safe, reqCrd := 1 },
    by refine ⟨?_, ?_, ?_, .inr (by decide)⟩ <;> decide +kernel⟩,
  ⟨0, 1, 1, .rd 0 1 1, on, by and_intros <;> decide +kernel⟩⟩

theorem met_WriteBeatsAndResponseCredits :
  (∃ (p : PortId) (d : Line) (par : BitVec 64) (last : Bool) (s : State), (s.port p).checks = true ∧ (s.port p).wdCrd ≠ 0 ∧
    parityOk d par = true) ∧
  (∃ (p : PortId) (d : Line) (par : BitVec 64) (last : Bool) (s : State), (s.port p).checks = true ∧ ((s.port p).wdCrd = 0 ∨
    parityOk d par = false)) ∧
  (∃ (p : PortId) (d : Line) (par : BitVec 64) (last : Bool) (s : State), (s.port p).mode = .safe ∧ (s.port p).wdCrd ≠ 0) ∧
  (∃ (p : PortId) (d : Line) (par : BitVec 64) (last : Bool) (s : State), ((s.port p).mode = .safe ∧ (s.port p).wdCrd = 0 ∨
    (s.port p).mode ≠ .safe ∧ (s.port p).checks = false)) ∧
  (∃ (p : PortId) (s : State), (s.port p).mode ≠ .closed ∧ (s.port p).rspCrd < 4095) ∧
  (∃ (p : PortId) (s : State), (s.port p).checks = true ∧ 4095 ≤ (s.port p).rspCrd) ∧
  (∃ (p : PortId) (s : State), ((s.port p).mode = .closed ∨ ((s.port p).checks = false ∧ 4095 ≤ (s.port p).rspCrd))) :=
  ⟨⟨0, 0, 0, true, opened, by and_intros <;> decide +kernel⟩,
  ⟨0, 0, 0, true, opened.modPort 0 fun q => { q with wdCrd := 0 }, by and_intros <;> decide +kernel⟩,
  ⟨0, 0, 0, true, port fun q => { q with mode := .safe, wdCrd := 1 }, by and_intros <;> decide +kernel⟩,
  ⟨0, 0, 0, true, on, by decide +kernel⟩,
  ⟨0, opened.modPort 0 fun q => { q with rspCrd := 4094 }, by and_intros <;> decide +kernel⟩,
  ⟨0, opened.modPort 0 fun q => { q with rspCrd := 4095 }, by and_intros <;> decide +kernel⟩,
  ⟨0, on, by decide +kernel⟩⟩

theorem met_AdmissionTakesHead :
  (∃ (p : PortId) (b : BufReq) (rest : List BufReq) (s : State), (s.port p).reqBuf = b :: rest ∧ (s.port p).mode ≠ .closed ∧
    (s.port p).mode ≠ .safe ∧ b.bad = none ∧ s.holdCause p = 0 ∧ b.req.opc = .nop) ∧
  (∃ (p : PortId) (b : BufReq) (rest : List BufReq) (s : State), (s.port p).reqBuf = b :: rest ∧ (s.port p).mode ≠ .closed ∧
    (s.port p).mode ≠ .safe ∧ b.bad = none ∧ s.holdCause p = 0 ∧ b.req.touches = true ∧ b.req.empty = false ∧ (s.wcu p
    b.req).pass = true ∧ s.decideCode b.req (s.wcu p b.req) = none ∧ s.waitsRoom p b = false ∧ (∀ x ∈ b.data, x.bad = none)) ∧
  (∃ (p : PortId) (b : BufReq) (rest : List BufReq) (s : State), (s.port p).reqBuf = b :: rest ∧ (s.port p).mode ≠ .closed ∧
    (s.port p).mode ≠ .safe ∧ b.bad = none ∧ s.holdCause p = 0 ∧ b.req.opc.isWrite = true ∧ b.req.empty = true ∧ (s.wcu p
    b.req).pass = true ∧ s.decideCode b.req (s.wcu p b.req) = none ∧ (∀ x ∈ b.data, x.bad = none)) ∧
  (∃ (p : PortId) (b : BufReq) (rest : List BufReq) (s : State), (s.port p).reqBuf = b :: rest ∧ (s.port p).mode ≠ .closed ∧
    (s.port p).mode ≠ .safe ∧ b.bad = none ∧ s.holdCause p = 0 ∧ b.data = [] ∧ s.fcol.safe = false ∧ (b.req.opc = .efence ∨
    (b.req.opc = .pfence ∧ (s.wcu p b.req).pass = true))) ∧
  (∃ (p : PortId) (b : BufReq) (rest : List BufReq) (s : State), (s.port p).reqBuf = b :: rest ∧ (s.port p).mode ≠ .closed ∧
    (s.port p).mode ≠ .safe ∧ b.bad = none ∧ s.holdCause p = 0 ∧ b.req.opc ≠ .nop ∧ b.req.opc ≠ .efence ∧ (s.wcu p
    b.req).pass = false ∧ s.fcol.safe = false ∧ s.waitsRoom p b = false ∧ (∀ x ∈ b.data, x.bad = none)) ∧
  (∃ (p : PortId) (b : BufReq) (rest : List BufReq) (code : Code) (s : State), (s.port p).reqBuf = b :: rest ∧ (s.port
    p).mode ≠ .closed ∧ (s.port p).mode ≠ .safe ∧ b.bad = none ∧ s.holdCause p = 0 ∧ b.req.touches = true ∧ (s.wcu p
    b.req).pass = true ∧ s.decideCode b.req (s.wcu p b.req) = some code ∧ s.waitsRoom p b = false ∧ (∀ x ∈ b.data, x.bad =
    none)) ∧
  (∃ (p : PortId) (b : BufReq) (rest : List BufReq) (s : State), (s.port p).reqBuf = b :: rest ∧ (s.port p).mode ≠ .closed ∧
    (s.port p).mode ≠ .safe ∧ acts b.bad = true) ∧
  (∃ (p : PortId) (s : State), ((s.port p).reqBuf = [] ∨ (s.port p).mode = .closed ∨ (s.port p).mode = .safe)) ∧
  (∃ (p : PortId) (b : BufReq) (rest : List BufReq) (s : State), (s.port p).reqBuf = b :: rest ∧ acts b.bad = false ∧
    (s.holdCause p ≠ 0 ∨ (b.req.opc ≠ .nop ∧ s.waitsRoom p b = true))) :=
  ⟨⟨0, buf .nop, [], buffered .nop, by and_intros <;> decide +kernel⟩,
  ⟨0, buf .rd, [], mapped, by and_intros <;> decide +kernel⟩,
  ⟨0, buf .wrp, [], mappedTo .wrp slots, by and_intros <;> decide +kernel⟩,
  ⟨0, buf .efence, [], buffered .efence, by and_intros <;> decide +kernel⟩,
  ⟨0, buf .rd, [], buffered .rd, by and_intros <;> decide +kernel⟩,
  ⟨0, buf .rd, [], .absent, mappedTo .rd on, by and_intros <;> decide +kernel⟩,
  ⟨0, { buf .rd with bad := spoilt }, [], opened.modPort 0 fun q => { q with reqBuf := [{ buf .rd with bad := spoilt }] },
    by and_intros <;> decide +kernel⟩,
  ⟨0, on, by decide +kernel⟩,
  ⟨0, buf .rd, [], { buffered .rd with pers := strobed.pers }, by and_intros <;> decide +kernel⟩⟩

theorem met_ResponseBeatLeaves :
  (∃ (p : PortId) (f : Flight) (b : Rsp) (s : State), s.maySend p = true ∧ s.chooseBeat p = some (f, b)) :=
  ⟨0, _, _, opened.modPort 0 fun q => { q with rspCrd := 1, flights := [flight] }, by decide +kernel, rfl⟩

theorem met_CrossbarTakesHead :
  (∃ (d : Dest) (e : XEntry) (s : State), s.pers.strobe = false ∧ s.chooseEntry d = some e) ∧
  (∃ (d : Dest) (s : State), (s.chooseEntry d = none ∨ s.pers.strobe = true)) ∧
  (∃ (d : Dest) (e : XEntry) (rest : List XEntry) (s : State), ((s.heads d).filter fun e => !e.stuck && !s.canHold e) = e ::
    rest) :=
  ⟨⟨.chan 0, _, withEntries on, by decide +kernel, rfl⟩,
  ⟨.chan 0, on, by decide +kernel⟩,
  ⟨.chan 0, _, _, withEntries (chan fun k => { k with pwrst := 2 }), rfl⟩⟩

theorem met_TakenWriteIsAccepted :
  (∃ (d : Dest) (e : XEntry) (s : State), (s.xbar.taken.find? fun e => e.dest == d) = some e ∧ s.pers.strobe = false ∧
    s.moRoom e = true) ∧
  (∃ (d : Dest) (s : State), s.pers.strobe = true) ∧
  (∃ (d : Dest) (s : State), (s.xbar.taken.find? fun e => e.dest == d) = none) ∧
  (∃ (d : Dest) (e : XEntry) (s : State), (s.xbar.taken.find? fun e => e.dest == d) = some e ∧ s.moRoom e = false) :=
  ⟨⟨.chan 0, _, { on with xbar := { on.xbar with taken := [entry true] } }, rfl, by and_intros <;> decide +kernel⟩,
  ⟨.chan 0, strobed, by decide +kernel⟩,
  ⟨.chan 0, on, by decide +kernel⟩,
  ⟨.chan 0, entry true, fullMo, rfl, full_mo⟩⟩

theorem met_BuffersReleaseAndReturn :
  (∃ (c : ChanId) (line : Nat) (e : EddyE) (s : State), ((s.chan c).eddy.find? fun e => e.stripe.isNone && e.line == line) =
    some e) ∧
  (∃ (m : SetId) (stripe : Nat) (r : StripeRec) (s : State), ((s.span m).recs.find? fun r => r.stripe == stripe) = some r) ∧
  (∃ (c : ChanId) (r : IntRet) (rest : List IntRet) (s : State), (s.chan c).intRet = r :: rest) ∧
  (∃ (c : ChanId) (e : RetE) (rest : List RetE) (s : State), (s.chan c).ret = e :: rest ∧ e.bad = none) ∧
  (∃ (c : ChanId) (e : RetE) (rest : List RetE) (s : State), (s.chan c).ret = e :: rest ∧ acts e.bad = true) :=
  ⟨⟨0, 0, _, chan fun k => { k with eddy := [eddyE] }, rfl⟩,
  ⟨0, 0, _, on.modSpan 0 fun p => { p with recs := [recE] }, rfl⟩,
  ⟨0, _, _, chan fun k => { k with intRet := [⟨0, 0, none⟩] }, rfl⟩,
  ⟨0, retLine none, [], chan fun k => { k with ret := [retLine none] }, by and_intros <;> decide +kernel⟩,
  ⟨0, retLine spoilt, [], chan fun k => { k with ret := [retLine spoilt] }, by and_intros <;> decide +kernel⟩⟩

theorem met_SlotsAndTimers :
  (∃ (c : ChanId) (x : Sub) (s : State), s.slotOn c = true) ∧
  (∃ (c : ChanId) (x : Sub) (s : State), s.slotOn c = false) ∧
  (∃ (c : ChanId) (x : Sub) (s : State), (((s.sel c x).ostate = .running ∧ 32 ≤ (s.sel c x).unacked) ∨ (s.sel c x).ostate =
    .stopped ∨ ((s.sel c x).ostate = .recovery ∧ (s.sel c x).rcvrDone = false) ∨ ((s.sel c x).ostate = .running ∧ s.dueCmd c
    x = none ∧ ((s.sel c x).selfRef = true ∨ (s.sel c x).pauseOpen = true)))) :=
  ⟨⟨0, 0, slots, by decide +kernel⟩,
  ⟨0, 0, on, by decide +kernel⟩,
  ⟨0, 0, sel fun l => { l with ostate := .stopped }, by decide +kernel⟩⟩

theorem met_AcknowledgementsAndAlerts :
  (∃ (c : ChanId) (x : Sub) (s : State), ((s.sel c x).ostate = .running ∨ (s.sel c x).ostate = .replay)) ∧
  (∃ (c : ChanId) (x : Sub) (s : State), ((s.sel c x).ostate = .recovery ∨ (s.sel c x).ostate = .stopped) ∧ (s.sel c
    x).rcvrDone = false) ∧
  (∃ (c : ChanId) (x : Sub) (pre : List Ox) (o : Ox) (rest : List Ox) (s : State), (s.sel c x).ox = pre ++ o :: rest ∧ (∀ q ∈
    pre, q.acked = true ∨ q.marked = true) ∧ o.acked = false ∧ o.marked = false ∧ o.cmd.kind.isWr = false ∧ o.cmd.kind ≠ .mrw
    ∧ o.cmd.kind ≠ .mrr ∧ o.cmd.kind ≠ .sre) ∧
  (∃ (c : ChanId) (x : Sub) (pre : List Ox) (o : Ox) (rest : List Ox) (w : WrE) (s : State), (s.sel c x).ox = pre ++ o ::
    rest ∧ (∀ q ∈ pre, q.acked = true ∨ q.marked = true) ∧ o.acked = false ∧ o.marked = false ∧ o.cmd.kind.isWr = true ∧
    o.cmd.kind ≠ .sre ∧ ((s.chan c).wq.find? fun w => w.id == o.cmd.ent && w.issued) = some w) ∧
  (∃ (c : ChanId) (x : Sub) (s : State), (∀ q ∈ (s.sel c x).ox, q.acked = true ∨ q.marked = true)) ∧
  (∃ (c : ChanId) (x : Sub) (s : State), s.slotOn c = true ∧ ((s.sel c x).ostate = .running ∨ (s.sel c x).ostate = .replay)) ∧
  (∃ (c : ChanId) (x : Sub) (s : State), (s.sel c x).ostate = .recovery) ∧
  (∃ (c : ChanId) (x : Sub) (s : State), (s.sel c x).ostate = .recovery ∧ (s.sel c x).alertSeenHigh = true ∧ (s.sel c
    x).rcvrDone = false ∧ (∀ o ∈ (s.sel c x).ox, o.bad = none)) ∧
  (∃ (c : ChanId) (x : Sub) (s : State), (s.sel c x).ostate = .recovery ∧ (s.sel c x).alertSeenHigh = false) :=
  ⟨⟨0, 0, on, by decide +kernel⟩,
  ⟨0, 0, sel fun l => { l with ostate := .recovery }, by and_intros <;> decide +kernel⟩,
  ⟨0, 0, [], oxOf .rd, [], sel fun l => { l with ox := [oxOf .rd] }, by and_intros <;> decide +kernel⟩,
  ⟨0, 0, [], oxOf .wr, [], writeE, (sel fun l => { l with ox := [oxOf .wr] }).modChan 0 fun k => { k with wq := [writeE] },
    by and_intros <;> decide +kernel⟩,
  ⟨0, 0, on, by decide +kernel⟩,
  ⟨0, 0, slots, by and_intros <;> decide +kernel⟩,
  ⟨0, 0, sel fun l => { l with ostate := .recovery }, by decide +kernel⟩,
  ⟨0, 0, sel fun l => { l with ostate := .recovery, alertSeenHigh := true }, by and_intros <;> decide +kernel⟩,
  ⟨0, 0, sel fun l => { l with ostate := .recovery, alertSeenHigh := false }, by and_intros <;> decide +kernel⟩⟩

theorem met_ReadDataDecoded :
  (∃ (c : ChanId) (x : Sub) (raw : Stored) (s : State), s.nextData c x = none) ∧
  (∃ (c : ChanId) (x : Sub) (raw : Stored) (e : RdE) (s : State), s.nextData c x = some e ∧ e.purp ≠ .mrr ∧ e.purp ≠
    .mrrDropped ∧ (decodeStored (s.erasedAt c e.loc) raw).out ≠ .poison ∧ (decodeStored (s.erasedAt c e.loc) raw).out ≠
    .uncorrectable) ∧
  (∃ (c : ChanId) (x : Sub) (raw : Stored) (e : RdE) (s : State), s.nextData c x = some e ∧ e.purp ≠ .mrr ∧ e.purp ≠
    .mrrDropped ∧ (decodeStored (s.erasedAt c e.loc) raw).out = .poison) ∧
  (∃ (c : ChanId) (x : Sub) (raw : Stored) (e : RdE) (s : State), s.nextData c x = some e ∧ e.purp ≠ .mrr ∧ e.purp ≠
    .mrrDropped ∧ (decodeStored (s.erasedAt c e.loc) raw).out = .uncorrectable ∧ e.again = false) ∧
  (∃ (c : ChanId) (x : Sub) (raw : Stored) (e : RdE) (s : State), s.nextData c x = some e ∧ e.purp ≠ .mrr ∧ e.purp ≠
    .mrrDropped ∧ (decodeStored (s.erasedAt c e.loc) raw).out = .uncorrectable ∧ e.again = true ∧ e.purp.inRdue = true) ∧
  (∃ (c : ChanId) (x : Sub) (raw : Stored) (e : RdE) (s : State), s.nextData c x = some e ∧ e.purp = .mrr) ∧
  (∃ (c : ChanId) (x : Sub) (raw : Stored) (e : RdE) (s : State), s.nextData c x = some e ∧ e.purp = .mrrDropped) ∧
  (∃ (c : ChanId) (e : RdE) (src : Src) (rid lidx : Nat) (d : Line) (out : Decoded) (s : State), e.purp = .host src rid lidx
    ∧ (s.chan c).armedC 6 = none) ∧
  (∃ (c : ChanId) (x : Sub) (d : Nat) (s : State), field (s.agentRw c 0x090) 31 16 = 0) :=
  ⟨⟨0, 0, 0, on, by decide +kernel⟩,
  ⟨0, 0, encodeLine 0, readE, chan fun k => { k with rq := [readE] }, by and_intros <;> decide +kernel⟩,
  ⟨0, 0, poisonStored, readE, chan fun k => { k with rq := [readE] }, by and_intros <;> decide +kernel⟩,
  ⟨0, 0, 0, readE, chan fun k => { k with rq := [readE] }, by and_intros <;> decide +kernel⟩,
  ⟨0, 0, 0, { readE with again := true }, chan fun k => { k with rq := [{ readE with again := true }] },
    by and_intros <;> decide +kernel⟩,
  ⟨0, 0, 0, { readE with purp := .mrr }, chan fun k => { k with rq := [{ readE with purp := .mrr }] },
    by and_intros <;> decide +kernel⟩,
  ⟨0, 0, 0, { readE with purp := .mrrDropped }, chan fun k => { k with rq := [{ readE with purp := .mrrDropped }] },
    by and_intros <;> decide +kernel⟩,
  ⟨0, readE, .mi, 0, 0, 0, .clean, on, by and_intros <;> decide +kernel⟩,
  ⟨0, 0, 0, live 0x100090 0 on, by decide +kernel⟩⟩

theorem met_RefreshAndRetrain :
  (∃ (c : ChanId) (x : Sub) (s : State), (∀ e ∈ s.cad.posted, e.kind = 1 → e.names c x = false)) ∧
  (∃ (c : ChanId) (x : Sub) (e : PostedSlot) (s : State), s.ticking = true ∧ e ∈ s.cad.posted ∧ e.kind = 1 ∧ e.names c x =
    true ∧ s.tide < e.at_ ∧ (∀ d ∈ s.dues, e.at_ ≤ d)) ∧
  (∃ (c : ChanId) (x : Sub) (e : PostedSlot) (s v : State), s.ticking = true ∧ s.cad.posted = [e] ∧ e.kind = 1 ∧ (∀ n y,
    e.names n y = true ↔ n = c ∧ y = x) ∧ s.tide < e.at_ ∧ e.at_ % 4096 ≠ 0 ∧ (∀ d ∈ s.dues, e.at_ ≤ d) ∧ (∀ k n,
    s.cad.next.at k = some n → e.at_ + 1024 < n) ∧ s.regs.posted = [] ∧ s.regs.atPend = false ∧ v = { s.advance e.at_ with
    cad := { s.cad with posted := [] } } ∧ (v.chan c).tideValid = true ∧ v.slotOn c = true ∧ (v.sel c x).missesWindow = false
    ∧ (∀ r ∈ (v.geom c).ranks, v.progRank c x r = false)) ∧
  (∃ (c : ChanId) (x : Sub) (s : State), (s.sel c x).missesWindow = true ∧ flag (s.agent c 0x030) 1 = false ∧ flag (s.agent c
    0x030) 2 = false) ∧
  (∃ (c : ChanId) (x : Sub) (cs ba : Nat) (sb : Bool) (s : State), s.progRank c x cs = false ∧ 4 ≤ (s.sel c x).owes cs -
    (s.sel c x).owedIn.toList.getD cs 0) ∧
  (∃ (c : ChanId) (x : Sub) (cs : Fin 4) (ba : Nat) (s : State), s.progRank c x cs.val = false ∧ (s.sel c x).owes cs.val -
    (s.sel c x).owedIn.toList.getD cs.val 0 < 4) ∧
  (∃ (c : ChanId) (x : Sub) (fl up dn : BitVec 4) (s : State), (∀ e ∈ s.cad.posted, e.kind = 2 → e.names c x = false)) ∧
  (∃ (c : ChanId) (x : Sub) (fl up dn : BitVec 4) (e : PostedSlot) (s : State), s.ticking = true ∧ e ∈ s.cad.posted ∧ e.kind
    = 2 ∧ e.names c x = true ∧ s.tide < e.at_ ∧ (∀ d ∈ s.dues, e.at_ ≤ d)) ∧
  (∃ (c : ChanId) (x : Sub) (fl up dn : BitVec 4) (e : PostedSlot) (step : Nat) (s v : State), s.ticking = true ∧
    s.cad.posted = [e] ∧ e.kind = 2 ∧ (∀ n y, e.names n y = true ↔ n = c ∧ y = x) ∧ s.tide < e.at_ ∧ e.at_ % 4096 ≠ 0 ∧ (∀ d
    ∈ s.dues, e.at_ ≤ d) ∧ (∀ k n, s.cad.next.at k = some n → e.at_ + 1024 < n) ∧ s.regs.posted = [] ∧ s.regs.atPend = false
    ∧ v = { s.advance e.at_ with cad := { s.cad with posted := [] } } ∧ (v.chan c).tideValid = true ∧ v.slotOn c = true ∧
    (v.sel c x).missesWindow = false ∧ flag (v.agent c 0x010) 0 = true ∧ v.pers.strobe = false ∧ (v.chan c).cmarkDue = false
    ∧ (v.sel c x).pauseDue = none ∧ (v.sel c x).inClosure = false ∧ v.pauseStep c x = some step ∧ (v.chan c).ppr.prog =
    false) ∧
  (∃ (c : ChanId) (x : Sub) (step : Nat) (t : Trial) (s : State), (s.sel c x).pauseOpen = true ∧ (s.sel c x).plan = [] ∧
    (s.sel c x).shutUntil ≤ (s.sel c x).dclk ∧ (s.sel c x).rtrStep = some step ∧ (s.sel c x).rtrFound = some t) ∧
  (∃ (c : ChanId) (x : Sub) (step : Nat) (t : Trial) (s : State), step < 20 * 2 ^ (s.geom c).cs ∧ t.fails = 0 ∧ ((s.chan
    c).phy.retrain (rtrKey (2 ^ (s.geom c).cs) x step) (step % 10) t).2.2 = false) ∧
  (∃ (c : ChanId) (x : Sub) (w : Bool) (s : State), (flag (s.agent c 0x010) 0 = false ∨ s.pers.strobe = true ∨ (s.sel c
    x).missesWindow = true ∨ (s.chan c).cmarkDue = true ∨ (s.sel c x).pauseDue ≠ none)) ∧
  (∃ (c : ChanId) (x : Sub) (w : Bool) (s : State), flag (s.agent c 0x010) 0 = true ∧ s.pers.strobe = false ∧ (s.chan
    c).cmarkDue = false ∧ (s.sel c x).missesWindow = false ∧ (s.sel c x).pauseDue = none ∧ (s.pauseStep c x).isSome = true ∧
    (s.sel c x).inClosure = true) :=
  ⟨⟨0, 0, on, by decide +kernel⟩,
  ⟨0, 0, slotE 1, posted 1, by and_intros <;> decide +kernel⟩,
  ⟨0, 0, loneE 1, lone 1, _, by decide +kernel, by decide +kernel, by decide +kernel, by decide +kernel, by decide +kernel,
    by decide +kernel, by decide +kernel, no_slots (by decide), by decide +kernel, by decide +kernel, rfl,
    by and_intros <;> decide +kernel⟩,
  ⟨0, 0, sel fun l => { l with pauseOpen := true }, by and_intros <;> decide +kernel⟩,
  ⟨0, 0, 0, 0, false, sel fun l => { l with owed := l.owed.put 0 4 }, by and_intros <;> decide +kernel⟩,
  ⟨0, 0, 0, 0, on, by and_intros <;> decide +kernel⟩,
  ⟨0, 0, 0, 0, 0, on, by decide +kernel⟩,
  ⟨0, 0, 0, 0, 0, slotE 2, posted 2, by and_intros <;> decide +kernel⟩,
  ⟨0, 0, 0, 0, 0, loneE 2, 0, lone 2, _, by decide +kernel, by decide +kernel, by decide +kernel, by decide +kernel,
    by decide +kernel, by decide +kernel, by decide +kernel, no_slots (by decide), by decide +kernel, by decide +kernel, rfl,
    by and_intros <;> decide +kernel⟩,
  ⟨0, 0, 0, trial, sel fun l => { l with pauseOpen := true, rtrStep := some 0, rtrFound := some trial },
    by and_intros <;> decide +kernel⟩,
  ⟨0, 0, 0, trial, slots, by and_intros <;> decide +kernel⟩,
  ⟨0, 0, false, on, by decide +kernel⟩,
  ⟨0, 0, false, (lone 2).modSel 0 0 fun l => { l with shutUntil := 9 }, by and_intros <;> decide +kernel⟩⟩

theorem met_TideSlotsAndCuts :
  (∃ (seen : List (ChanId × Nat)) (s : State), s.ticking = true ∧ (∀ d ∈ s.dues, (s.tide / 4096 + 1) * 4096 ≤ d)) ∧
  (∃ (seen : List (ChanId × Nat)) (c : ChanId) (s : State), (s.chan c).phy.lock = true ∧ (s.chan c).tideValid = false) ∧
  (∃ (seen : List (ChanId × Nat)) (c : ChanId) (n : Nat) (s : State), (s.chan c).phy.lock = true ∧ (s.chan c).tideValid =
    true ∧ n = ((seen.find? fun e => e.1 == c).map Prod.snd).getD (s.copyNum c) ∧ n < s.tide * (s.chan c).phy.mul + 64 ∧
    s.tide * (s.chan c).phy.mul < n + 64) ∧
  (∃ (seen : List (ChanId × Nat)) (c : ChanId) (n : Nat) (s : State), (s.chan c).phy.lock = true ∧ (s.chan c).tideValid =
    true ∧ n = ((seen.find? fun e => e.1 == c).map Prod.snd).getD (s.copyNum c) ∧ (s.tide * (s.chan c).phy.mul + 64 ≤ n ∨ n +
    64 ≤ s.tide * (s.chan c).phy.mul)) ∧
  (∃ (seen : List (ChanId × Nat)) (c : ChanId) (s : State), (s.chan c).phy.lock = false) ∧
  (∃ (k : Fin 8) (T : Nat) (s : State), s.ticking = true ∧ s.cad.next.at k = some T ∧ s.tide + 1024 < T ∧ (∀ d ∈ s.dues, T -
    1024 ≤ d)) ∧
  (∃ (k : Fin 8) (T : Nat) (s v : State), s.ticking = true ∧ s.cad.next.at k = some T ∧ s.tide + 1024 < T ∧ (T - 1024) % 4096
    ≠ 0 ∧ (∀ d ∈ s.dues, T - 1024 ≤ d) ∧ (∀ j n, j ≠ k → s.cad.next.at j = some n → T < n) ∧ (∀ e ∈ s.cad.posted, T - 1024 <
    e.at_) ∧ s.regs.posted = [] ∧ s.regs.atPend = false ∧ (∀ n, (s.chan n).gate = none) ∧ v = s.advance (T - 1024)) ∧
  (∃ (k : Fin 8) (s : State), s.cad.next.at k = none) ∧
  (∃ (e : PostedSlot) (s : State), s.ticking = true ∧ e ∈ s.cad.posted ∧ e.kind = 3 ∧ s.tide < e.at_ ∧ (∀ d ∈ s.dues, e.at_ ≤
    d) ∧ s.pers.strobe = false) ∧
  (∃ (e : PostedSlot) (s : State), s.ticking = true ∧ e ∈ s.cad.posted ∧ e.kind = 3 ∧ s.tide < e.at_ ∧ (∀ d ∈ s.dues, e.at_ ≤
    d) ∧ s.pers.strobe = true) ∧
  (∃ (s : State), (s.mill.st = .off ∨ s.mill.st = .solo ∨ s.mill.st = .resyncSrc) ∧ s.pers.dur ≤ s.settle.pers.loc) :=
  ⟨⟨[], on, by and_intros <;> decide +kernel⟩,
  ⟨[], 0, chan fun k => { k with phy := { k.phy with lock := true } }, by and_intros <;> decide +kernel⟩,
  ⟨[(0, 6400000)], 0, 6400000, chan fun k => { k with phy := { k.phy with lock := true, mul := 64 }, tideValid := true },
    by and_intros <;> decide +kernel⟩,
  ⟨[(0, 0)], 0, 0, chan fun k => { k with phy := { k.phy with lock := true, mul := 64 }, tideValid := true },
    by and_intros <;> decide +kernel⟩,
  ⟨[], 0, on, by decide +kernel⟩,
  ⟨0, 102048, nextAt 102048 on, by and_intros <;> decide +kernel⟩,
  ⟨0, 102048, nextAt 102048 on, _, by decide +kernel, by decide +kernel, by decide +kernel, by decide +kernel,
    by decide +kernel, one_slot 0 (by decide), by decide +kernel, by decide +kernel, by decide +kernel, by decide +kernel,
    rfl⟩,
  ⟨0, on, by decide +kernel⟩,
  ⟨slotE 3, posted 3, by and_intros <;> decide +kernel⟩,
  ⟨slotE 3, { posted 3 with pers := strobed.pers }, by and_intros <;> decide +kernel⟩,
  ⟨on, by and_intros <;> decide +kernel⟩⟩

theorem met_Updates :
  (∃ (data : Word) (s : State), s.awake = true ∧ strobeMask data ≠ 0) ∧
  (∃ (s : State), s.awake = true) ∧
  (∃ (s : State), s.awake = true) ∧
  (∃ (s : State), s.ticking = true ∧ s.regs.atPend = true ∧ s.tide + 1024 < s.atTide ∧ (∀ d ∈ s.dues, s.atTide - 1024 ≤ d)) ∧
  (∃ (s v : State), s.ticking = true ∧ s.regs.atPend = true ∧ s.tide + 1024 < s.atTide ∧ (s.atTide - 1024) % 4096 ≠ 0 ∧ (∀ d
    ∈ s.dues, s.atTide - 1024 ≤ d) ∧ (∀ k n, s.cad.next.at k = some n → s.atTide < n) ∧ (∀ e ∈ s.cad.posted, s.atTide - 1024
    < e.at_) ∧ s.regs.posted = [] ∧ (∀ n, (s.chan n).gate = none) ∧ v = s.advance (s.atTide - 1024) ∧ v.atTide = s.atTide) ∧
  (∃ (s : State), s.regs.atPend = false) ∧
  (∃ (p : Posting) (s : State), s.ticking = true ∧ p ∈ s.regs.posted ∧ s.tide < p.at_ ∧ (∀ d ∈ s.dues, p.at_ ≤ d)) ∧
  (∃ (p : Posting) (s v : State), s.ticking = true ∧ s.regs.posted = [p] ∧ s.tide < p.at_ ∧ p.at_ % 4096 ≠ 0 ∧ (∀ d ∈ s.dues,
    p.at_ ≤ d) ∧ (∀ e ∈ s.cad.posted, p.at_ < e.at_) ∧ v = s.advance p.at_) ∧
  (∃ (s : State) (key : Nat), s.Inv) ∧
  (∃ (s : State) (key k : Nat), k ≠ key) ∧
  (∃ (s : State), s.regs.posted = []) :=
  ⟨⟨1, on, by and_intros <;> decide +kernel⟩,
  ⟨on, by decide +kernel⟩,
  ⟨on, by decide +kernel⟩,
  ⟨armedAt, by and_intros <;> decide +kernel⟩,
  ⟨armedAt, _, by decide +kernel, by decide +kernel, by decide +kernel, by decide +kernel, by decide +kernel, no_slots (by
    decide), by decide +kernel, by decide +kernel, by decide +kernel, rfl, by decide +kernel⟩,
  ⟨on, by decide +kernel⟩,
  ⟨{ groups := 1, at_ := 100064 }, { on with regs := { on.regs with posted := [{ groups := 1, at_ := 100064 }] } },
    by and_intros <;> decide +kernel⟩,
  ⟨{ groups := 1, at_ := 100064 }, { on with regs := { on.regs with posted := [{ groups := 1, at_ := 100064 }] } }, _,
    by decide +kernel, by decide +kernel, by decide +kernel, by decide +kernel, by decide +kernel, by decide +kernel, rfl⟩,
  ⟨on, 0, ⟨⟨rfl, rfl, rfl⟩, by decide, by decide, by decide⟩⟩,
  ⟨on, 0, 1, by decide +kernel⟩,
  ⟨on, by decide +kernel⟩⟩

theorem met_SluiceAndTally :
  (∃ (s : State), s.phase ≠ .off ∧ s.sbm.pfPin = true) ∧
  (∃ (s : State), s.phase ≠ .off ∧ s.sbm.pfPin = false) ∧
  (∃ (cause : Nat) (s : State), s.pers.strobe = true) ∧
  (∃ (s : State), s.sluiceOver = true) ∧
  (∃ (s : State), s.sluiceOver = false) ∧
  (∃ (m : SetId) (t : Nat) (e : Mark) (s : State), (((s.markQueued m).span m).marks.find? fun e => e.t == t) = some e ∧ e.bad
    = none ∧ e.count = 0 ∧ e.emax ≤ s.pers.dur ∧ s.pers.strobe = false ∧ e.clearing = false) ∧
  (∃ (m : SetId) (t : Nat) (e : Mark) (b : Bad) (s : State), (((s.markQueued m).span m).marks.find? fun e => e.t == t) = some
    e ∧ e.bad = some b ∧ b.checkOnly = false ∧ e.bits ≠ BitVec.allOnes 512 ∧ e.count = 0 ∧ e.emax ≤ s.pers.dur ∧
    s.pers.strobe = false ∧ e.clearing = false) ∧
  (∃ (m : SetId) (t : Nat) (e : Mark) (s : State), (((s.markQueued m).span m).marks.find? fun e => e.t == t) = some e ∧
    (e.count ≠ 0 ∨ s.pers.dur < e.emax ∨ s.pers.strobe = true ∨ e.clearing = true)) ∧
  (∃ (m : SetId) (s : State), s.spanMode m = false) :=
  ⟨⟨on, by and_intros <;> decide +kernel⟩,
  ⟨{ on with sbm := { on.sbm with pfPin := false } }, by and_intros <;> decide +kernel⟩,
  ⟨0, strobed, by decide +kernel⟩,
  ⟨strobed, by decide +kernel⟩,
  ⟨on, by decide +kernel⟩,
  ⟨0, 0, _, marked 0 none, rfl, by and_intros <;> decide +kernel⟩,
  ⟨0, 0, _, ⟨0, false⟩, marked 0 spoilt, rfl, rfl, by and_intros <;> decide +kernel⟩,
  ⟨0, 0, _, marked 1 none, rfl, by decide +kernel⟩,
  ⟨0, on, by decide +kernel⟩⟩

theorem met_SagDecisions :
  (∃ (pinLow : Bool) (droop : BitVec 6) (s : State), s.phase ≠ .off) ∧
  (∃ (pinLow : Bool) (droop : BitVec 6) (s : State), s.phase ≠ .off) ∧
  (∃ (s : State), s.sbm.warn = true) ∧
  (∃ (s : State), s.sbm.warn = false) :=
  ⟨⟨true, 0, on, by decide +kernel⟩,
  ⟨true, 0, on, by decide +kernel⟩,
  ⟨warned, by decide +kernel⟩,
  ⟨on, by decide +kernel⟩⟩

theorem met_CoreResetPin :
  (∃ (s : State), s.supplied = true ∧ s.phase ≠ .held ∧ (s.pers.strobe = false ∨ s.pers.done = true)) ∧
  (∃ (s : State), s.supplied = true ∧ s.phase ≠ .held ∧ s.pers.strobe = true ∧ s.pers.done = false) ∧
  (∃ (s : State), s.phase = .held) ∧
  (∃ (s : State), s.phase ≠ .held) ∧
  (∃ (s : State), s.pers.strobe = true ∧ (s.fcol.corePend = true ∨ s.sbm.rstPend = true)) :=
  ⟨⟨on, by and_intros <;> decide +kernel⟩,
  ⟨strobed, by and_intros <;> decide +kernel⟩,
  ⟨{ on with phase := .held }, by decide +kernel⟩,
  ⟨on, by decide +kernel⟩,
  ⟨{ strobed with sbm := { on.sbm with rstPend := true } }, by and_intros <;> decide +kernel⟩⟩

theorem met_MirrorOutBeat :
  (∃ (l : Lane) (s : State), s.moDrives l = false) ∧
  (∃ (l : Lane) (s : State), s.moDrives l = true ∧ (s.endCopies.moNext l).bad = false) ∧
  (∃ (l : Lane) (x : MoLine) (b : Bad) (s : State), s.moDrives l = true ∧ s.endCopies.moNext l = .live x ∧ x.bad = some b ∧
    b.checkOnly = false) ∧
  (∃ (l : Lane) (s : State) (c : Nat), (s.mill.mo.at l).sever = some c) :=
  ⟨⟨0, on, by decide +kernel⟩,
  ⟨0, mill fun m => { m with st := .mirrored, moUp := true }, by and_intros <;> decide +kernel⟩,
  ⟨0, moLine, ⟨0, false⟩, linkedMo, by and_intros <;> decide +kernel⟩,
  ⟨0, mill fun m => { m with mo := m.mo.put 0 { m.mo.at 0 with sever := some 1 } }, 1, by decide +kernel⟩⟩

set_option maxRecDepth 20000 in
theorem met_MirrorInBreak :
  (∃ (l : Lane) (d : Line) (ctl : BitVec 192) (i : Instr) (r : Nat) (s : State), i ∈ miBeats l d ctl ∧ s.mill.st ≠ .off ∧
    s.mill.wiclk = true ∧ s.ticking = true ∧ (s.mill.mi.at l).broken = false ∧ miReason l (s.mill.mi.at l) s.mill (pktOf d
    ctl) (crcHolds d ctl) = some r) ∧
  (∃ (l : Lane) (d : Line) (ctl : BitVec 192) (i : Instr) (s : State), i ∈ miBeats l d ctl ∧ s.mill.st ≠ .off ∧ s.mill.wiclk
    = true ∧ s.ticking = true ∧ (s.mill.mi.at l).broken = true ∧ (crcHolds d ctl = false ∨ ((pktOf d ctl).ptype ≠ 5 ∧ (pktOf
    d ctl).ptype ≠ 6))) ∧
  (∃ (l : Lane) (q : MiLane) (m : Mill) (p : Pkt) (n : Nat), q.pseq = some n ∧ p.pseq ≠ (n + 1) % 2 ^ 16) ∧
  (∃ (l : Lane) (q : MiLane) (m : Mill) (p : Pkt), (∀ n, q.pseq = some n → p.pseq = (n + 1) % 2 ^ 16) ∧ 9 ≤ p.ptype) ∧
  (∃ (l : Lane) (q : MiLane) (m : Mill) (p : Pkt), (∀ n, q.pseq = some n → p.pseq = (n + 1) % 2 ^ 16) ∧ p.ptype < 9) ∧
  (∃ (l : Lane) (q : MiLane) (a c e : Nat) (p : Pkt), p.ptype = 1 ∧ q.isOpen = some e ∧ p.elo = e % 2 ^ 16) ∧
  (∃ (l : Lane) (q : MiLane) (a c : Nat) (p : Pkt), (p.ptype = 1 ∨ p.ptype = 3 ∨ p.ptype = 8) ∧ q.isOpen = none) ∧
  (∃ (l : Lane) (q : MiLane) (a c e : Nat) (p : Pkt), p.ptype = 2 ∧ q.isOpen = some e) ∧
  (∃ (l : Lane) (q : MiLane) (a c e : Nat) (p : Pkt), p.ptype = 3 ∧ q.isOpen = some e ∧ payload p.data 7 0 = e ∧ p.elo = e %
    2 ^ 16) ∧
  (∃ (l : Lane) (q : MiLane) (a c : Nat) (p : Pkt), p.ptype = 4) ∧
  (∃ (l : Lane) (d : Line) (ctl : BitVec 192) (i : Instr) (s : State), i ∈ miBeats l d ctl ∧ (s.mill.st = .off ∨ s.mill.wiclk
    = false ∨ s.ticking = false)) :=
  ⟨⟨0, 0, 0, .miIdle 0 0 0, 1, linked .solo {}, by and_intros <;> decide +kernel⟩,
  ⟨0, 0, 0, .miIdle 0 0 0, linked .solo { broken := true }, by and_intros <;> decide +kernel⟩,
  ⟨0, { pseq := some 0 }, on.mill, { ptype := 0, pseq := 5 }, 0, by and_intros <;> decide +kernel⟩,
  ⟨0, {}, on.mill, { ptype := 9 }, (fun n h => by cases h), by decide +kernel⟩,
  ⟨0, {}, on.mill, { ptype := 8 }, (fun n h => by cases h), by decide +kernel⟩,
  ⟨0, { isOpen := some 0 }, 0, 0, 0, { ptype := 1 }, by and_intros <;> decide +kernel⟩,
  ⟨0, {}, 0, 0, { ptype := 1 }, by and_intros <;> decide +kernel⟩,
  ⟨0, { isOpen := some 0 }, 0, 0, 0, { ptype := 2 }, by and_intros <;> decide +kernel⟩,
  ⟨0, { isOpen := some 0 }, 0, 0, 0, { ptype := 3 }, by and_intros <;> decide +kernel⟩,
  ⟨0, {}, 0, 0, { ptype := 4 }, by decide +kernel⟩,
  ⟨0, 0, 0, .miIdle 0 0 0, on, by and_intros <;> decide +kernel⟩⟩

set_option maxRecDepth 20000 in
theorem met_MirrorInTakesBeatAndSever :
  (∃ (l : Lane) (d : Line) (ctl : BitVec 192) (s : State), GoodBeat l d ctl 1 s ∧ s.mill.takes 1 = true) ∧
  (∃ (l : Lane) (d : Line) (ctl : BitVec 192) (s : State), GoodBeat l d ctl 2 s ∧ s.mill.takes 2 = true) ∧
  (∃ (l : Lane) (d : Line) (ctl : BitVec 192) (s : State), GoodBeat l d ctl 3 s ∧ s.mill.takes 3 = true) ∧
  (∃ (l : Lane) (d : Line) (ctl : BitVec 192) (s : State), GoodBeat l d ctl 8 s ∧ s.mill.takes 8 = true) ∧
  (∃ (l : Lane) (d : Line) (ctl : BitVec 192) (s : State), GoodBeat l d ctl 4 s ∧ s.mill.takes 4 = true ∧ s.mill.rs.ended =
    none ∧ s.mill.logBad = none) ∧
  (∃ (l : Lane) (d : Line) (ctl : BitVec 192) (s : State), GoodBeat l d ctl 4 s ∧ s.mill.takes 4 = true) ∧
  (∃ (l : Lane) (d : Line) (ctl : BitVec 192) (s : State), GoodBeat l d ctl 5 s ∧ s.mill.takes 5 = true) ∧
  (∃ (l : Lane) (d : Line) (ctl : BitVec 192) (s : State), GoodBeat l d ctl 6 s) ∧
  (∃ (l : Lane) (d : Line) (ctl : BitVec 192) (s : State), GoodBeat l d ctl 7 s ∧ s.mill.takes 7 = true) ∧
  (∃ (l : Lane) (b : MiBeat) (rest : List MiBeat) (s : State), (s.mill.mi.at l).buf = b :: rest ∧ b.pkt.ptype = 7 ∧ b.bad =
    none) ∧
  (∃ (l : Lane) (d : Line) (ctl : BitVec 192) (s : State), GoodBeat l d ctl 0 s) ∧
  (∃ (l : Lane) (d : Line) (ctl : BitVec 192) (k : Nat) (i : Instr) (s : State), i ∈ miBeats l d ctl ∧ GoodBeat l d ctl k s ∧
    s.mill.takes k = false) ∧
  (∃ (l : Lane) (p : Pkt) (crc : Word) (s : State), p.ptype = 4 ∧ s.mill.st = .mirrored ∧ s.mill.log = [] ∧ s.mill.logBad =
    none) ∧
  (∃ (s : State), s.mill.st = .mirrored) ∧
  (∃ (s : State), s.mill.st = .frozen ∧ s.pers.strobe = false) ∧
  (∃ (s : State), s.mill.st = .resyncTgt) ∧
  (∃ (s : State), (s.mill.st = .solo ∨ s.mill.st = .fenced ∨ s.mill.st = .handshake ∨ s.mill.st = .resyncSrc)) ∧
  (∃ (l : Lane) (p : Pkt) (crc : Word) (s : State), p.ptype = 6) :=
  ⟨⟨0, ({ ptype := 1, elo := 1 } : Pkt).data, ({ ptype := 1, elo := 1 } : Pkt).word, linked .mirrored { isOpen := some 1 },
    good_beat (by decide +kernel) rfl, by decide +kernel⟩,
  ⟨0, ({ ptype := 2, elo := 1, data := 1 } : Pkt).data, ({ ptype := 2, elo := 1, data := 1 } : Pkt).word, linked .mirrored
    {}, good_beat (by decide +kernel) rfl, by decide +kernel⟩,
  ⟨0, ({ ptype := 3, elo := 1, data := 1 } : Pkt).data, ({ ptype := 3, elo := 1, data := 1 } : Pkt).word, linked .mirrored {
    isOpen := some 1 }, good_beat (by decide +kernel) rfl, by decide +kernel⟩,
  ⟨0, ({ ptype := 8, elo := 1 } : Pkt).data, ({ ptype := 8, elo := 1 } : Pkt).word, linked .resyncTgt { isOpen := some 1 },
    good_beat (by decide +kernel) rfl, by decide +kernel⟩,
  ⟨0, ({ ptype := 4 } : Pkt).data, ({ ptype := 4 } : Pkt).word, linked .mirrored {}, good_beat (by decide +kernel) rfl,
    by and_intros <;> decide +kernel⟩,
  ⟨0, ({ ptype := 4 } : Pkt).data, ({ ptype := 4 } : Pkt).word, linked .mirrored {}, good_beat (by decide +kernel) rfl,
    by decide +kernel⟩,
  ⟨0, ({ ptype := 5 } : Pkt).data, ({ ptype := 5 } : Pkt).word, linked .handshake {}, good_beat (by decide +kernel) rfl,
    by decide +kernel⟩,
  ⟨0, ({ ptype := 6 } : Pkt).data, ({ ptype := 6 } : Pkt).word, linked .mirrored {}, good_beat (by decide +kernel) rfl⟩,
  ⟨0, ({ ptype := 7 } : Pkt).data, ({ ptype := 7 } : Pkt).word, linked .solo {}, good_beat (by decide +kernel) rfl,
    by decide +kernel⟩,
  ⟨0, drifted, [], miLine on drifted, by and_intros <;> decide +kernel⟩,
  ⟨0, ({ ptype := 0 } : Pkt).data, ({ ptype := 0 } : Pkt).word, linked .mirrored {}, good_beat (by decide +kernel) rfl⟩,
  ⟨0, ({ ptype := 5 } : Pkt).data, ({ ptype := 5 } : Pkt).word, 5, .miHello 0 ({ ptype := 5 } : Pkt).data ({ ptype := 5 } :
    Pkt).word, linked .mirrored {}, by decide +kernel, good_beat (by decide +kernel) rfl, by decide +kernel⟩,
  ⟨0, { ptype := 4 }, 0, mill fun m => { m with st := .mirrored }, by and_intros <;> decide +kernel⟩,
  ⟨mill fun m => { m with st := .mirrored }, by decide +kernel⟩,
  ⟨mill fun m => { m with st := .frozen }, by and_intros <;> decide +kernel⟩,
  ⟨mill fun m => { m with st := .resyncTgt }, by decide +kernel⟩,
  ⟨mill fun m => { m with st := .solo }, by decide +kernel⟩,
  ⟨0, { ptype := 6 }, 0, on, by decide +kernel⟩⟩

theorem met_MirrorInAdmissionAndResync :
  (∃ (l : Lane) (b : MiBeat) (rest : List MiBeat) (s : State), (s.mill.mi.at l).buf = b :: rest ∧ b.pkt.ptype = 1 ∧
    s.pers.strobe = false ∧ s.fcol.safe = false ∧ b.epoch = s.mill.twin ∧ b.bad = none ∧ s.absentAt (miReq b.pkt) = false ∧
    b.pkt.mask ≠ 0 ∧ s.xbarRoom (s.route .mi (miReq b.pkt) .rt s.pers.cur ((s.requestLines (miReq b.pkt) [{ data :=
    b.pkt.data }]).map fun x => { x with poison := b.pkt.rs && b.pkt.mask == allOnes && b.pkt.data == poisonLine })) = true) ∧
  (∃ (l : Lane) (b : MiBeat) (rest : List MiBeat) (s : State), (s.mill.mi.at l).buf = b :: rest ∧ b.pkt.ptype = 1 ∧
    s.pers.strobe = false ∧ s.fcol.safe = false ∧ b.epoch = s.mill.twin ∧ b.bad = none ∧ s.absentAt (miReq b.pkt) = false ∧
    b.pkt.mask = 0) ∧
  (∃ (l : Lane) (b : MiBeat) (rest : List MiBeat) (s : State), (s.mill.mi.at l).buf = b :: rest ∧ b.pkt.ptype = 1 ∧
    s.pers.strobe = false ∧ s.fcol.safe = false ∧ b.epoch = s.mill.twin ∧ b.bad = none ∧ s.absentAt (miReq b.pkt) = true) ∧
  (∃ (l : Lane) (b : MiBeat) (rest : List MiBeat) (x : Bad) (s : State), (s.mill.mi.at l).buf = b :: rest ∧ b.pkt.ptype = 1 ∧
    s.pers.strobe = false ∧ s.fcol.safe = false ∧ b.epoch = s.mill.twin ∧ b.bad = some x ∧ x.checkOnly = false) ∧
  (∃ (s : State), (s.mill.streams = true ∨ (s.mill.st = .solo ∧ s.mill.linked = true)) ∧ s.mill.twin ≠ 0 ∧ (s.mill.ackedTo +
    1 < s.mill.twin ∨ (s.mill.ackedTo + 1 = s.mill.twin ∧ ∀ k : Lane, k.val ∈ s.mill.trDone)) ∧ (∀ f ∈ s.mill.flights, f.twin
    ≠ s.mill.ackedTo + 1)) ∧
  (∃ (s : State), s.mill.streams = false ∧ s.mill.linked = false) ∧
  (∃ (g : Nat) (s : State), s.mill.st = .resyncSrc ∧ s.mill.rs.active = true ∧ s.mill.rs.gran = none ∧ s.mill.rs.ended = none
    ∧ s.pers.strobe = false ∧ s.mill.drift.min? = some g ∧ s.mill.driftBad = none) ∧
  (∃ (g : Nat) (s : State), s.mill.st = .resyncSrc ∧ s.mill.rs.active = true ∧ s.mill.rs.gran = some g ∧ s.mill.rs.ended =
    none ∧ s.pers.strobe = false) ∧
  (∃ (s : State), s.mill.st = .resyncSrc ∧ s.mill.rs.active = true ∧ s.mill.rs.gran = none ∧ s.mill.rs.ended = none ∧
    s.pers.strobe = false ∧ s.mill.drift.min? = none ∧ s.mill.driftBad = none) ∧
  (∃ (n g : Nat) (s : State), s.mill.rs.gran = some g ∧ s.mill.rs.next < 65536 ∧ s.absentAt (rsReq g s.mill.rs.next) = false
    ∧ s.xbarRoom (s.route .mi (rsReq g s.mill.rs.next) s.rsCls s.pers.cur (s.requestLines (rsReq g s.mill.rs.next) [])) =
    true) ∧
  (∃ (n g : Nat) (s : State), s.mill.rs.gran = some g ∧ 65536 ≤ s.mill.rs.next) ∧
  (∃ (g : Nat) (r : Fin 16384) (i : Fin 4) (d : Line) (more : List (Nat × Line)) (s : State), s.mill.rs.back = (65536 * g + 4
    * r.val + i.val, d) :: more) ∧
  (∃ (g : Nat) (r : Fin 16384) (i : Fin 4) (s : State), (∀ b ∈ s.mill.rs.back, b.1 ≠ 65536 * g + 4 * r.val + i.val)) :=
  ⟨⟨0, beat 1 none, [], miLine mapped (beat 1 none), by and_intros <;> decide +kernel⟩,
  ⟨0, beat 0 none, [], miLine mapped (beat 0 none), by and_intros <;> decide +kernel⟩,
  ⟨0, beat 1 none, [], miLine on (beat 1 none), by and_intros <;> decide +kernel⟩,
  ⟨0, beat 1 spoilt, [], ⟨0, false⟩, miLine on (beat 1 spoilt), by and_intros <;> decide +kernel⟩,
  ⟨mill fun m => { m with st := .mirrored, twin := 2 }, by and_intros <;> decide +kernel⟩,
  ⟨on, by and_intros <;> decide +kernel⟩,
  ⟨5, resyncing on ⟨[(5, 6)]⟩ {}, by and_intros <;> decide +kernel⟩,
  ⟨5, resyncing on {} { gran := some 5 }, by and_intros <;> decide +kernel⟩,
  ⟨resyncing on {} {}, by and_intros <;> decide +kernel⟩,
  ⟨0, 5, resyncing mapped {} { gran := some 5 }, by and_intros <;> decide +kernel⟩,
  ⟨0, 5, resyncing on {} { gran := some 5, next := 65536 }, by and_intros <;> decide +kernel⟩,
  ⟨5, 2, 3, 0, [], resyncing on {} { gran := some 5, back := [(327691, 0)] }, by decide +kernel⟩,
  ⟨5, 2, 3, on, by decide +kernel⟩⟩

theorem met_LinksAndSplit :
  (∃ (s : State), s.mill.moUp = true ∧ s.mill.miUp = true) ∧
  (∃ (s : State), s.mill.moUp = false ∧ s.mill.miUp = false) ∧
  (∃ (s : State), s.mill.moUp = false ∧ s.mill.miUp = true) ∧
  (∃ (s : State), s.mill.moUp = true ∧ s.mill.miUp = false) ∧
  (∃ (mo mi : Bool) (s : State), (mo = false ∨ mi = false)) ∧
  (∃ (mo mi : Bool) (s : State), (mo = true ∨ mi = true)) ∧
  (∃ (l : Lane) (s : State), s.mill.streams = true) ∧
  (∃ (l : Lane) (s : State), s.mill.streams = false) ∧
  (∃ (why : Nat) (s : State), s.mill.st = .mirrored) ∧
  (∃ (why : Nat) (s : State), s.mill.st = .resyncSrc) ∧
  (∃ (why : Nat) (s : State), s.mill.st = .resyncTgt) ∧
  (∃ (s : State), s.mill.st = .frozen ∧ s.pers.strobe = false) ∧
  (∃ (s : State), (s.mill.st ≠ .frozen ∨ s.pers.strobe = true)) ∧
  (∃ (s : State), s.mill.st = .frozen ∧ s.pers.strobe = false ∧ s.wmode = 1 ∧ s.mill.grantLow = true) ∧
  (∃ (s : State), s.actOk 1 = true) ∧
  (∃ (s : State), s.actOk 2 = true) ∧
  (∃ (s : State), s.actOk 3 = true) ∧
  (∃ (s : State), s.actOk 4 = true) ∧
  (∃ (s : State), s.actOk 5 = true) ∧
  (∃ (n : Nat) (s : State), s.actOk n = false) :=
  ⟨⟨mill fun m => { m with moUp := true, miUp := true }, by and_intros <;> decide +kernel⟩,
  ⟨on, by and_intros <;> decide +kernel⟩,
  ⟨mill fun m => { m with miUp := true }, by and_intros <;> decide +kernel⟩,
  ⟨mill fun m => { m with moUp := true }, by and_intros <;> decide +kernel⟩,
  ⟨true, false, on, by decide +kernel⟩,
  ⟨true, false, on, by decide +kernel⟩,
  ⟨0, mill fun m => { m with st := .mirrored }, by decide +kernel⟩,
  ⟨0, on, by decide +kernel⟩,
  ⟨3, mill fun m => { m with st := .mirrored }, by decide +kernel⟩,
  ⟨3, mill fun m => { m with st := .resyncSrc }, by decide +kernel⟩,
  ⟨3, mill fun m => { m with st := .resyncTgt }, by decide +kernel⟩,
  ⟨mill fun m => { m with st := .frozen }, by and_intros <;> decide +kernel⟩,
  ⟨on, by decide +kernel⟩,
  ⟨live 0x9008 2 (mill fun m => { m with st := .frozen, grantLow := true }), by and_intros <;> decide +kernel⟩,
  ⟨mill fun m => { m with st := .solo, linked := true, driftOk := true }, by decide +kernel⟩,
  ⟨mill fun m => { m with st := .fenced }, by decide +kernel⟩,
  ⟨mill fun m => { m with st := .solo }, by decide +kernel⟩,
  ⟨live 0x9008 4 (mill fun m => { m with st := .frozen }), by decide +kernel⟩,
  ⟨live 0x9008 4 (mill fun m => { m with st := .frozen }), by decide +kernel⟩,
  ⟨1, on, by decide +kernel⟩⟩

theorem met_InjectionCommands :
  (∃ (c : ChanId) (s : State), s.awake = true ∧ s.fcol.safe = false ∧ (s.chan c).inj.busy = false) ∧
  (∃ (c : ChanId) (s : State), s.awake = true ∧ s.fcol.safe = false ∧ (s.chan c).inj.busy = false) ∧
  (∃ (c : ChanId) (i : Instr) (op : Nat) (s : State), ((i = .injWriteRaw c ∧ op = 2) ∨ (i = .injReadRaw c ∧ op = 3)) ∧
    s.awake = true ∧ s.fcol.safe = false ∧ (s.chan c).inj.busy = false) ∧
  (∃ (c : ChanId) (i : Instr) (s : State), i ∈ [.injEncode c, .injWriteRaw c, .injReadRaw c, .injDecode c] ∧ (s.awake = false
    ∨ s.fcol.safe = true ∨ (s.chan c).inj.busy = true)) ∧
  (∃ (c : ChanId) (raw : Stored) (s : State), (s.chan c).inj.busy = true ∧ (s.chan c).inj.sent = true ∧ (s.chan c).inj.op = 2
    ∧ (∀ w ∈ (s.chan c).backs, w.purp ≠ .rawWrite) ∧ (∀ w ∈ (s.chan c).wq, w.purp ≠ .rawWrite)) ∧
  (∃ (c : ChanId) (raw : Stored) (e : RdE) (s : State), (s.chan c).inj.busy = true ∧ (s.chan c).inj.sent = true ∧ (s.chan
    c).inj.op = 3 ∧ (s.chan c).rawEntry = some e) :=
  ⟨⟨0, on, by and_intros <;> decide +kernel⟩,
  ⟨0, on, by and_intros <;> decide +kernel⟩,
  ⟨0, .injWriteRaw 0, 2, on, by and_intros <;> decide +kernel⟩,
  ⟨0, .injEncode 0, State.reset, by and_intros <;> decide +kernel⟩,
  ⟨0, 0, chan fun k => { k with inj := { k.inj with busy := true, sent := true, op := 2 } },
    by and_intros <;> decide +kernel⟩,
  ⟨0, 0, _, chan fun k => { k with inj := { k.inj with busy := true, sent := true, op := 3 }, rq := [{ readE with purp :=
    .rawRead }] }, by decide +kernel, by decide +kernel, by decide +kernel, rfl⟩⟩

theorem met_ArmsCountsAndFill :
  (∃ (c : ChanId) (s : State), s.awake = true ∧ s.fcol.safe = false) ∧
  (∃ (s : State), s.awake = true) ∧
  (∃ (c : ChanId) (s : State), s.awake = true ∧ s.fcol.safe = false) ∧
  (∃ (s : State), s.awake = true ∧ s.allClosed = true) ∧
  (∃ (s : State), s.awake = true ∧ s.allClosed = false) :=
  ⟨⟨0, on, by and_intros <;> decide +kernel⟩,
  ⟨on, by decide +kernel⟩,
  ⟨0, on, by and_intros <;> decide +kernel⟩,
  ⟨on, by and_intros <;> decide +kernel⟩,
  ⟨opened, by and_intros <;> decide +kernel⟩⟩

theorem met_Weir :
  (∃ (c : ChanId) (r : Fin 10) (s : State), s.running c = true ∧ (s.chan c).weir.holder = none) ∧
  (∃ (c : ChanId) (r : Fin 10) (s : State), s.running c = false) ∧
  (∃ (c : ChanId) (h : Nat) (s : State), s.running c = true ∧ (s.chan c).weir.holder = some h ∧ h ≠ 0 ∧ (s.chan
    c).unstoppable = false ∧ (s.chan c).weir.at_ ≠ (s.chan c).dclk) ∧
  (∃ (c : ChanId) (h : Nat) (s : State), s.running c = true ∧ (s.chan c).weir.holder = some h ∧ h ≠ 0 ∧ (s.chan
    c).unstoppable = true ∧ (s.chan c).weir.at_ ≠ (s.chan c).dclk) ∧
  (∃ (c : ChanId) (s : State), s.running c = true ∧ (s.chan c).weir.holder = none) ∧
  (∃ (c : ChanId) (s : State), (s.running c = false ∨ (s.chan c).weir.holder = some 0)) ∧
  (∃ (c : ChanId) (r h : Fin 10) (s : State), s.running c = true ∧ (s.chan c).weir.holder = some h.val ∧ h ≠ r ∧ h.val ≠ 2 ∧
    (s.chan c).weir.at_ = (s.chan c).dclk ∧ ranksBefore (r.val, (s.chan c).weir.exps.at r) (h.val, (s.chan c).weir.rank) =
    true) ∧
  (∃ (c : ChanId) (code : Fin 10) (s : State), s.running c = true ∧ asksWeir code.val = true ∧ s.hasWork c code.val = true ∧
    (s.chan c).weir.holder = none ∧ (s.chan c).weir.want.at code = false) ∧
  (∃ (c : ChanId) (code : Fin 10) (h : Nat) (s : State), s.running c = true ∧ asksWeir code.val = true ∧ s.hasWork c code.val
    = true ∧ code.val ≠ 0 ∧ (s.chan c).weir.holder = some h ∧ h ≠ code.val ∧ (s.chan c).weir.want.at code = false ∧ (s.chan
    c).weir.at_ ≠ (s.chan c).dclk) ∧
  (∃ (c : ChanId) (code : Fin 10) (s : State), (asksWeir code.val = false ∨ s.hasWork c code.val = false ∨ (s.chan
    c).weir.holder = some code.val ∨ (s.chan c).weir.want.at code = true)) ∧
  (∃ (c : ChanId) (code : Fin 10) (s : State), (s.chan c).weir.want.at code = true ∧ s.hasWork c code.val = false ∧ code ≠ 0) ∧
  (∃ (c : ChanId) (code : Fin 10) (s : State), (s.chan c).weir.want.at code = true ∧ (s.hasWork c code.val = true ∨ code =
    0)) ∧
  (∃ (c : ChanId) (code : Fin 10) (s : State), (s.chan c).weir.want.at code = false) ∧
  (∃ (c : ChanId) (s : State), field (s.agent c 0x074) 7 0 ≠ 0 ∧ (s.chan c).weir.holder.isSome = true ∧ (s.chan
    c).weir.want.toList.any id = true) ∧
  (∃ (c : ChanId) (s : State), (field (s.agent c 0x074) 7 0 = 0 ∨ (s.chan c).weir.holder = none)) ∧
  (∃ (c : ChanId) (r : Nat) (s : State), (s.chan c).weir.holder = some r ∧ s.unitBusy c r = false ∧ (s.chan c).unstoppable =
    false ∧ ((s.chan c).weir.quantumOver = true ∨ s.moreWork c r = false) ∧ (s.chan c).weir.want.at 0 = false ∧ (s.chan
    c).weir.lostAt ≠ (s.chan c).dclk ∧ r ≠ 8 ∧ r ≠ 4 ∧ (s.chan c).ladder.carried = []) ∧
  (∃ (c : ChanId) (r : Nat) (s : State), (s.chan c).weir.holder = some r ∧ s.unitBusy c r = false ∧ (s.chan c).unstoppable =
    false ∧ ((s.chan c).weir.quantumOver = true ∨ s.moreWork c r = false) ∧ (s.chan c).weir.want.at 0 = true ∧ (s.chan
    c).weir.lostAt ≠ (s.chan c).dclk ∧ r ≠ 8 ∧ r ≠ 4 ∧ r ≠ 0 ∧ s.running c = true ∧ (s.chan c).ladder.carried = []) ∧
  (∃ (c : ChanId) (s : State), s.spanMode (setOf c) = true ∧ (s.span (setOf c)).reb.on = true ∧ chanOf (setOf c) (s.span
    (setOf c)).pos = c) ∧
  (∃ (c : ChanId) (d : Carried) (s : State), (s.chan c).ladder.carried = [d]) ∧
  (∃ (c : ChanId) (r : Nat) (s : State), (s.chan c).weir.holder = some r ∧ (s.unitBusy c r = true ∨ (s.chan c).unstoppable =
    true)) :=
  ⟨⟨0, 0, slots, by and_intros <;> decide +kernel⟩,
  ⟨0, 0, on, by decide +kernel⟩,
  ⟨0, 3, held 3, by and_intros <;> decide +kernel⟩,
  ⟨0, 3, (held 3).modChan 0 fun k => { k with settling := true }, by and_intros <;> decide +kernel⟩,
  ⟨0, slots, by and_intros <;> decide +kernel⟩,
  ⟨0, held 0, by decide +kernel⟩,
  ⟨0, 3, 4, (held 4).modWeir 0 fun w => { w with at_ := 0 }, by and_intros <;> decide +kernel⟩,
  ⟨0, 3, slots.modChan 0 fun k => { k with ppr := { k.ppr with step := 1 } }, by and_intros <;> decide +kernel⟩,
  ⟨0, 3, 4, (held 4).modChan 0 fun k => { k with ppr := { k.ppr with step := 1 } }, by and_intros <;> decide +kernel⟩,
  ⟨0, 1, on, by decide +kernel⟩,
  ⟨0, 3, on.modWeir 0 fun w => { w with want := w.want.put 3 true }, by and_intros <;> decide +kernel⟩,
  ⟨0, 3, (on.modWeir 0 fun w => { w with want := w.want.put 3 true }).modChan 0 fun k => { k with ppr := { k.ppr with step :=
    1 } }, by and_intros <;> decide +kernel⟩,
  ⟨0, 3, on, by decide +kernel⟩,
  ⟨0, live 0x100074 1 ((held 3).modWeir 0 fun w => { w with want := w.want.put 4 true }), by and_intros <;> decide +kernel⟩,
  ⟨0, on, by decide +kernel⟩,
  ⟨0, 3, (held 3).modWeir 0 fun w => { w with quantumOver := true }, by and_intros <;> decide +kernel⟩,
  ⟨0, 3, (held 3).modWeir 0 fun w => { w with quantumOver := true, want := w.want.put 0 true },
    by and_intros <;> decide +kernel⟩,
  ⟨0, (live 0xA000 1 slots).modSpan 0 fun p => { p with reb := { p.reb with on := true } }, by and_intros <;> decide +kernel⟩,
  ⟨0, ⟨1, none, false⟩, chan fun k => { k with ladder := { k.ladder with carried := [⟨1, none, false⟩] } },
    by decide +kernel⟩,
  ⟨0, 3, (held 3).modChan 0 fun k => { k with settling := true }, by and_intros <;> decide +kernel⟩⟩

theorem met_RetireKeepsakesAndProgrammes :
  (∃ (s : State), s.awake = true) ∧
  (∃ (s : State), s.awake = true) ∧
  (∃ (o : KsOp) (rest : List KsOp) (s : State), (s.sbm.warn = false ∨ s.flash.under = true) ∧ s.flash.ksQ = o :: rest) ∧
  (∃ (o : KsOp) (rest : List KsOp) (s : State), (s.sbm.warn = false ∨ s.flash.under = true) ∧ s.flash.ksQ = o :: rest ∧
    o.retried = false) ∧
  (∃ (o : KsOp) (rest : List KsOp) (s : State), (s.sbm.warn = false ∨ s.flash.under = true) ∧ s.flash.ksQ = o :: rest ∧
    o.retried = true) ∧
  (∃ (ok : Bool) (s : State), ((s.sbm.warn = true ∧ s.flash.under = false) ∨ s.flash.ksQ = [])) ∧
  (∃ (c : ChanId) (s : State), (s.chan c).ppr.prog = true) ∧
  (∃ (c : ChanId) (u : Cur) (s : State), (s.chan c).settling = true ∧ s.cmp.cur = some u ∧ u.opc = 0x14 ∧ u.ch = c) ∧
  (∃ (c : ChanId) (s : State), (s.chan c).weir.revokeDue = none) :=
  ⟨⟨on, by decide +kernel⟩,
  ⟨on, by decide +kernel⟩,
  ⟨⟨0, .patch, false⟩, [], { on with flash := { on.flash with ksQ := [⟨0, .patch, false⟩] } },
    by and_intros <;> decide +kernel⟩,
  ⟨⟨0, .patch, false⟩, [], { on with flash := { on.flash with ksQ := [⟨0, .patch, false⟩] } },
    by and_intros <;> decide +kernel⟩,
  ⟨⟨0, .patch, true⟩, [], { on with flash := { on.flash with ksQ := [⟨0, .patch, true⟩] } },
    by and_intros <;> decide +kernel⟩,
  ⟨true, on, by decide +kernel⟩,
  ⟨0, chan fun k => { k with ppr := { k.ppr with prog := true } }, by decide +kernel⟩,
  ⟨0, ring 0x14, { (chan fun k => { k with settling := true }) with cmp := { on.cmp with cur := some (ring 0x14) } },
    by and_intros <;> decide +kernel⟩,
  ⟨0, on, by decide +kernel⟩⟩

theorem met_PllsAndCalibration :
  (∃ (c : ChanId) (s : State), (s.chan c).phy.started = true ∧ (s.chan c).phy.lock = false ∧ s.ticking = true ∧ (s.chan
    c).pwrst ≠ 3) ∧
  (∃ (c : ChanId) (s : State), (s.chan c).phy.started = true ∧ (s.chan c).phy.lock = false ∧ s.ticking = true ∧ (s.chan
    c).pwrst = 3) ∧
  (∃ (c : ChanId) (s : State), (s.chan c).phy.started = true ∧ (s.chan c).phy.lock = true ∧ s.phyEn c = true) ∧
  (∃ (s : State), s.mill.st ≠ .off ∧ s.ticking = true) ∧
  (∃ (s : State), s.ticking = true) ∧
  (∃ (c : ChanId) (s : State), s.ticking = true ∧ (s.chan c).phy.started = true ∧ (s.chan c).phy.lock = false) ∧
  (∃ (c : ChanId) (s : State), (s.chan c).phy.started = true ∧ (s.chan c).phy.lock = true) ∧
  (∃ (s : State), s.ticking = true ∧ s.mill.wiclk = true) :=
  ⟨⟨0, chan fun k => { k with phy := { k.phy with started := true } }, by and_intros <;> decide +kernel⟩,
  ⟨0, chan fun k => { k with phy := { k.phy with started := true }, pwrst := 3 }, by and_intros <;> decide +kernel⟩,
  ⟨0, live 0x100004 1 (chan fun k => { k with phy := { k.phy with started := true, lock := true } }),
    by and_intros <;> decide +kernel⟩,
  ⟨mill fun m => { m with st := .solo }, by and_intros <;> decide +kernel⟩,
  ⟨on, by decide +kernel⟩,
  ⟨0, chan fun k => { k with phy := { k.phy with started := true } }, by and_intros <;> decide +kernel⟩,
  ⟨0, chan fun k => { k with phy := { k.phy with started := true, lock := true } }, by and_intros <;> decide +kernel⟩,
  ⟨mill fun m => { m with wiclk := true }, by and_intros <;> decide +kernel⟩⟩

theorem met_I3cAndPmicEnable :
  (∃ (c : ChanId) (s : State), s.awake = true ∧ flag (s.tempCtl c) 0 = true ∧ (s.chan c).svc.pwrOn = true) ∧
  (∃ (c : ChanId) (s : State), (s.awake = false ∨ flag (s.tempCtl c) 0 = false ∨ (s.chan c).svc.pwrOn = false)) ∧
  (∃ (k : Chan) (warn : Bool), (k.i3c.any (·.sent)) = true) ∧
  (∃ (k : Chan) (x : Xfer) (pre rest : List Xfer) (warn : Bool), k.i3c = pre ++ x :: rest ∧ (∀ y ∈ k.i3c, y.sent = false) ∧
    (∀ y ∈ pre, warn = true ∧ y.use.pmic = true) ∧ (warn = false ∨ x.use.pmic = false)) ∧
  (∃ (c : ChanId) (ack : Bool) (bytes : List Byte) (x : Xfer) (s : State), (s.chan c).i3c.find? (·.sent) = some x ∧ s.awake =
    true) ∧
  (∃ (c : ChanId) (ack : Bool) (bytes : List Byte) (s : State), ((∀ x ∈ (s.chan c).i3c, x.sent = false) ∨ s.awake = false)) ∧
  (∃ (c : ChanId) (bytes : List Byte) (x : Xfer) (u : Cur) (s : State), x.use = .i3cRead ∧ s.cmp.cur = some u ∧ u.opc = 0x12
    ∧ u.ch = c) ∧
  (∃ (c : ChanId) (bytes : List Byte) (x : Xfer) (s : State), x.use = .pmicSet) ∧
  (∃ (c : ChanId) (slot1 good : Bool) (j : Fin 8) (slot : Nat) (rest : List (ChanId × Nat)) (s : State), ((List.finRange
    8).find? fun j => (s.job j).runs 0x13) = some j ∧ (s.job j).todo = (c, slot) :: rest ∧ (slot == 1) = slot1) ∧
  (∃ (c : ChanId) (slot1 good : Bool) (s : State), ((List.finRange 8).find? fun j => (s.job j).runs 0x13) = none) :=
  ⟨⟨0, (chan fun k => { k with svc := { k.svc with pwrOn := true } }).setProg 0x100018 1, by and_intros <;> decide +kernel⟩,
  ⟨0, on, by decide +kernel⟩,
  ⟨{ on.chan 0 with i3c := [sent_] }, false, by decide +kernel⟩,
  ⟨{ on.chan 0 with i3c := [read_] }, read_, [], [], false, by and_intros <;> decide +kernel⟩,
  ⟨0, true, [], sent_, chan fun k => { k with i3c := [sent_] }, by and_intros <;> decide +kernel⟩,
  ⟨0, true, [], on, by decide +kernel⟩,
  ⟨0, [], { slot := 0, target := 0, use := .i3cRead }, ring 0x12, { on with cmp := { on.cmp with cur := some (ring 0x12) } },
    by and_intros <;> decide +kernel⟩,
  ⟨0, [], { slot := 0, target := 0, use := .pmicSet }, on, by decide +kernel⟩,
  ⟨0, false, true, 0, 0, [], on.modJob 0 fun b => { b with st := 1, opc := 0x13, todo := [(0, 0)] },
    by and_intros <;> decide +kernel⟩,
  ⟨0, false, true, on, by decide +kernel⟩⟩

theorem met_ButtonsAndPresence :
  (∃ (c : ChanId) (s : State), s.phase ≠ .off) ∧
  (∃ (c : ChanId) (s : State), s.phase = .off) ∧
  (∃ (c : ChanId) (present : Bool) (s : State), s.phase ≠ .off ∧ (s.chan c).svc.pres ≠ present) ∧
  (∃ (c : ChanId) (present : Bool) (s : State), (s.phase = .off ∨ (s.chan c).svc.pres = present)) ∧
  (∃ (c : ChanId) (s : State), (s.chan c).svc.pwrOn = true ∧ s.ticking = true) ∧
  (∃ (c : ChanId) (s : State), (s.chan c).svc.pwrOn = true ∧ s.ticking = false) ∧
  (∃ (c : ChanId) (s : State), (s.chan c).svc.pwrOn = false) ∧
  (∃ (c : ChanId) (s : State), s.phase ≠ .off ∧ allChans.find? s.waitsPower = some c) ∧
  (∃ (s : State), (s.phase = .off ∨ (∀ c, s.waitsPower c = false))) :=
  ⟨⟨0, on, by decide +kernel⟩,
  ⟨0, { on with phase := .off }, by decide +kernel⟩,
  ⟨0, true, on, by and_intros <;> decide +kernel⟩,
  ⟨0, false, on, by decide +kernel⟩,
  ⟨0, chan fun k => { k with svc := { k.svc with pwrOn := true } }, by and_intros <;> decide +kernel⟩,
  ⟨0, State.reset.modChan 0 fun k => { k with svc := { k.svc with pwrOn := true } }, by and_intros <;> decide +kernel⟩,
  ⟨0, on, by decide +kernel⟩,
  ⟨0, (chan fun k => { k with svc := { k.svc with pres := true } }).setProg 0x6100 1, by and_intros <;> decide +kernel⟩,
  ⟨on, by decide +kernel⟩⟩

theorem met_PrepareAndIdle :
  (∃ (c : ChanId) (g : Nat) (s : State), (s.chan c).gate = some g ∧ (s.chan c).svc.st = 3 ∧ s.ticking = true ∧ s.tide < g ∧
    (∀ d ∈ s.dues, g ≤ d)) ∧
  (∃ (c : ChanId) (g : Nat) (s v : State), (s.chan c).gate = some g ∧ (s.chan c).svc.st = 3 ∧ s.ticking = true ∧ s.tide < g ∧
    (∀ d ∈ s.dues, g ≤ d) ∧ g % 4096 ≠ 0 ∧ (∀ n, n.val < c.val → (s.chan n).gate = none) ∧ (∀ k n, s.cad.next.at k = some n →
    g + 1024 < n) ∧ (∀ e ∈ s.cad.posted, g < e.at_) ∧ s.regs.posted = [] ∧ s.regs.atPend = false ∧ v = s.advance g) ∧
  (∃ (c : ChanId) (s : State), ((s.chan c).svc.st ≠ 3 ∨ (s.chan c).gate = none)) ∧
  (∃ (c : ChanId) (s : State), (s.chan c).svc.st = 3 ∧ (s.chan c).prepStep = 5) ∧
  (∃ (c : ChanId) (s : State), ((s.chan c).svc.st ≠ 3 ∨ (s.chan c).prepStep ≠ 5)) ∧
  (∃ (c : ChanId) (g : Nat) (s : State), (s.chan c).gate = some g ∧ (s.chan c).pwrst = 1 ∧ s.ticking = true ∧ s.tide < g ∧ (∀
    d ∈ s.dues, g ≤ d)) ∧
  (∃ (c : ChanId) (g : Nat) (s v : State), (s.chan c).gate = some g ∧ (s.chan c).pwrst = 1 ∧ (s.chan c).svc.st ≠ 3 ∧
    s.ticking = true ∧ s.tide < g ∧ (∀ d ∈ s.dues, g ≤ d) ∧ g % 4096 ≠ 0 ∧ (∀ n, n.val < c.val → (s.chan n).gate = none) ∧ (∀
    k n, s.cad.next.at k = some n → g + 1024 < n) ∧ (∀ e ∈ s.cad.posted, g < e.at_) ∧ s.regs.posted = [] ∧ s.regs.atPend =
    false ∧ v = s.advance g) ∧
  (∃ (c : ChanId) (s : State), ((s.chan c).pwrst ≠ 1 ∨ (s.chan c).gate = none)) ∧
  (∃ (c : ChanId) (s : State), (s.chan c).dead = false ∧ s.pers.strobe = false ∧ s.calls c = true ∧ (s.chan c).pwrst = 2) ∧
  (∃ (c : ChanId) (s : State), (s.chan c).dead = false ∧ s.pers.strobe = false ∧ s.calls c = true ∧ (s.chan c).pwrst = 1 ∧
    (s.chan c).drain = .idle ∧ ((s.chan c).sel.toList.any fun l => l.sreIssued (s.geom c)) = true) ∧
  (∃ (c : ChanId) (s : State), (s.chan c).dead = false ∧ s.pers.strobe = false ∧ s.calls c = true ∧ (s.chan c).pwrst = 1 ∧
    (s.chan c).drain = .idle ∧ ((s.chan c).sel.toList.any fun l => l.sreIssued (s.geom c)) = false) ∧
  (∃ (c : ChanId) (s : State), (s.calls c = false ∨ (s.chan c).dead = true ∨ s.pers.strobe = true)) :=
  ⟨⟨0, 101024, chan fun k => { k with gate := some 101024, svc := { k.svc with st := 3 } }, by and_intros <;> decide +kernel⟩,
  ⟨0, 101024, chan fun k => { k with gate := some 101024, svc := { k.svc with st := 3 } }, _, by decide +kernel,
    by decide +kernel, by decide +kernel, by decide +kernel, by decide +kernel, by decide +kernel, by decide +kernel,
    no_slots (by decide), by decide +kernel, by decide +kernel, by decide +kernel, rfl⟩,
  ⟨0, on, by decide +kernel⟩,
  ⟨0, chan fun k => { k with prepStep := 5, svc := { k.svc with st := 3 } }, by and_intros <;> decide +kernel⟩,
  ⟨0, on, by decide +kernel⟩,
  ⟨0, 101024, chan fun k => { k with gate := some 101024, pwrst := 1 }, by and_intros <;> decide +kernel⟩,
  ⟨0, 101024, chan fun k => { k with gate := some 101024, pwrst := 1 }, _, by decide +kernel, by decide +kernel,
    by decide +kernel, by decide +kernel, by decide +kernel, by decide +kernel, by decide +kernel, by decide +kernel,
    no_slots (by decide), by decide +kernel, by decide +kernel, by decide +kernel, rfl⟩,
  ⟨0, on, by decide +kernel⟩,
  ⟨0, alive fun k => { k with pwrst := 2, rq := [readE] }, by and_intros <;> decide +kernel⟩,
  ⟨0, alive fun k => { k with pwrst := 1, drain := .idle, rq := [readE], sel := k.sel.put 0 { k.sel.at 0 with selfRef := true
    } }, by and_intros <;> decide +kernel⟩,
  ⟨0, alive fun k => { k with pwrst := 1, drain := .idle, rq := [readE] }, by and_intros <;> decide +kernel⟩,
  ⟨0, on, by decide +kernel⟩⟩

theorem met_SlumberAndWake :
  (∃ (s : State), s.phase = .commit) ∧
  (∃ (s : State), s.slumberStep.phase ≠ .commit) ∧
  (∃ (s : State), s.sbm.wakeLow = 0) ∧
  (∃ (n : Fin 2) (s : State), s.phase ≠ .commit) ∧
  (∃ (n : Fin 2) (s : State), s.phase = .commit) ∧
  (∃ (n : Fin 2) (s : State), s.sbm.eval = false ∧ s.phase ≠ .commit) ∧
  (∃ (k : Nat) (s : State), s.sbm.eval = true ∧ s.phase = .slumber ∧ s.ruleHit 2 0 0 = some (k, 1)) ∧
  (∃ (cls ch v k : Nat) (s : State), s.sbm.eval = true ∧ s.phase = .slumber ∧ s.ruleHit cls ch v = some (k, 1)) ∧
  (∃ (cls ch v k : Nat) (s : State), s.sbm.eval = true ∧ s.phase = .slumber ∧ s.ruleHit cls ch v = some (k, 3)) ∧
  (∃ (cls ch v k : Nat) (s : State), s.sbm.eval = true ∧ s.ruleHit cls ch v = some (k, 2)) ∧
  (∃ (s : State), s.sbm.alarm = false) ∧
  (∃ (s : State), s.sbm.alarm = true) ∧
  (∃ (cls ch v : Nat) (s : State), (s.sbm.eval = false ∨ s.ruleHit cls ch v = none ∨ ∃ k, s.ruleHit cls ch v = some (k, 0))) ∧
  (∃ (cls ch v k act : Nat) (s : State), s.ruleHit cls ch v = some (k, act)) ∧
  (∃ (c : ChanId) (temp last : Nat) (s : State), s.phase = .slumber ∧ (s.chan c).phy.level = 2 ∧ s.sbm.lastPoll.at c = some
    (some last)) ∧
  (∃ (c : ChanId) (temp : Nat) (s : State), s.phase = .slumber ∧ (s.chan c).phy.level = 2 ∧ s.sbm.lastPoll.at c = some none) ∧
  (∃ (c : ChanId) (ack : Bool) (temp : Nat) (s : State), s.phase = .slumber ∧ (s.chan c).phy.level = 2 ∧ (s.sbm.lastPoll.at c
    = none ∨ (ack = true ∧ s.sbm.lastPoll.at c = some none) ∨ (ack = false ∧ ∃ last, s.sbm.lastPoll.at c = some (some
    last)))) ∧
  (∃ (c : ChanId) (ack : Bool) (temp : Nat) (s : State), (s.phase ≠ .slumber ∨ (s.chan c).phy.level ≠ 2)) ∧
  (∃ (s : State), s.awake = true) ∧
  (∃ (s : State), s.awake = false) :=
  ⟨⟨{ on with phase := .commit }, by decide +kernel⟩,
  ⟨on, by decide +kernel⟩,
  ⟨on, by decide +kernel⟩,
  ⟨0, on, by decide +kernel⟩,
  ⟨0, { on with phase := .commit }, by decide +kernel⟩,
  ⟨0, { on with sbm := { on.sbm with eval := false } }, by and_intros <;> decide +kernel⟩,
  ⟨0, asleep.setProg 0x6200 0x20005, by and_intros <;> decide +kernel⟩,
  ⟨2, 0, 0, 0, asleep.setProg 0x6200 0x20005, by and_intros <;> decide +kernel⟩,
  ⟨2, 0, 0, 0, asleep.setProg 0x6200 0x60005, by and_intros <;> decide +kernel⟩,
  ⟨2, 0, 0, 0, (asleep).setProg 0x6200 0x40005, by and_intros <;> decide +kernel⟩,
  ⟨on, by decide +kernel⟩,
  ⟨{ on with sbm := { on.sbm with alarm := true } }, by decide +kernel⟩,
  ⟨2, 0, 0, { on with sbm := { on.sbm with eval := false } }, .inl rfl⟩,
  ⟨2, 0, 0, 0, 1, asleep.setProg 0x6200 0x20005, by decide +kernel⟩,
  ⟨0, 20, 20, { (asleep.modChan 0 fun k => { k with phy := { k.phy with level := 2 } }) with sbm := { asleep.sbm with
    lastPoll := asleep.sbm.lastPoll.put 0 (some (some 20)) } }, by and_intros <;> decide +kernel⟩,
  ⟨0, 20, pollLost, by and_intros <;> decide +kernel⟩,
  ⟨0, true, 20, asleep.modChan 0 fun k => { k with phy := { k.phy with level := 2 } }, by decide +kernel, by decide +kernel,
    .inl rfl⟩,
  ⟨0, true, 20, on, by decide +kernel⟩,
  ⟨on, by decide +kernel⟩,
  ⟨State.reset, by decide +kernel⟩⟩

theorem met_BringBack :
  (∃ (s : State), s.phase = .off) ∧
  (∃ (s : State), s.phase ≠ .off) ∧
  (∃ (s : State), s.phase = .bring 1) ∧
  (∃ (s : State), s.phase = .bring 2) ∧
  (∃ (s : State), s.phase = .bring 3) ∧
  (∃ (s : State), s.phase = .bring 4) ∧
  (∃ (s : State), s.phase = .bring 5) ∧
  (∃ (s : State), s.phase = .bring 6) ∧
  (∃ (s : State), s.phase = .bring 7) ∧
  (∃ (s : State), s.phase = .bring 3) ∧
  (∃ (s : State), s.phase = .bring 3 ∧ s.sbm.corePg = false) :=
  ⟨⟨{ on with phase := .off }, by decide +kernel⟩,
  ⟨on, by decide +kernel⟩,
  ⟨bring 1, by decide +kernel⟩,
  ⟨bring 2, by decide +kernel⟩,
  ⟨bring 3, by decide +kernel⟩,
  ⟨bring 4, by decide +kernel⟩,
  ⟨bring 5, by decide +kernel⟩,
  ⟨bring 6, by decide +kernel⟩,
  ⟨bring 7, by decide +kernel⟩,
  ⟨bring 3, by decide +kernel⟩,
  ⟨bring 3, by and_intros <;> decide +kernel⟩⟩

theorem met_FaultsLatch :
  (∃ (s : State), s.ticking = true) ∧
  (∃ (s : State), s.cmp.boot.st = 5 ∧ s.cmp.nuHalt = false ∧ s.ticking = true) ∧
  (∃ (src : Fin 576) (s : State), s.ticking = true ∧ srcClass src.val ≠ 7 ∧ src.val ≠ 556) ∧
  (∃ (srcs : List (Fin 576)) (s : State), s.ticking = true ∧ ((∀ o ∈ srcs, o.val ≠ 556) ∨ 556 ∈ s.fcol.lines)) ∧
  (∃ (srcs : List (Fin 576)) (s : State), s.ticking = true ∧ (∃ o ∈ srcs, o.val = 556) ∧ 556 ∉ s.fcol.lines) ∧
  (∃ (srcs : List (Fin 576)) (s : State), s.ticking = false) ∧
  (∃ (src : Nat) (s : State), src ≠ 538 ∧ src ≠ 575 ∧ srcClass src ≠ 4 ∧ s.fcol.fstat.getLsbD src = false ∧ (s.react
    src).testBit 6 = true) ∧
  (∃ (src : Nat) (s : State), src ≠ 538 ∧ src ≠ 575 ∧ srcClass src ≠ 4 ∧ (s.fcol.fstat.getLsbD src = true ∨ (s.react
    src).testBit 6 = false)) ∧
  (∃ (src : Nat) (s : State), src ≠ 538 ∧ src ≠ 575 ∧ srcClass src = 4) ∧
  (∃ (srcs : List (Nat × Nat)) (s : State), s.fcol.safe = false ∧ (∀ e ∈ srcs, entersSafe e.1 e.2 = false)) ∧
  (∃ (src react : Nat) (s : State), srcClass src ≠ 0) ∧
  (∃ (src : Nat) (c : ChanId) (s : State), chanOfSrc src = some c) ∧
  (∃ (src react : Nat) (s : State), srcClass src = 0) ∧
  (∃ (src react : Nat) (s : State), entersSafe src react = true) :=
  ⟨⟨on, by decide +kernel⟩,
  ⟨running, by and_intros <;> decide +kernel⟩,
  ⟨0, on, by and_intros <;> decide +kernel⟩,
  ⟨[0, 1], on, by and_intros <;> decide +kernel⟩,
  ⟨[556], on, by decide +kernel, ⟨556, by decide, rfl⟩, by decide +kernel⟩,
  ⟨[], State.reset, by decide +kernel⟩,
  ⟨480, on.setProg (0x4200 + 480) 0x40, by and_intros <;> decide +kernel⟩,
  ⟨480, on.setProg (0x4200 + 480) 0, by and_intros <;> decide +kernel⟩,
  ⟨548, on, by and_intros <;> decide +kernel⟩,
  ⟨[], on, by and_intros <;> decide +kernel⟩,
  ⟨480, 16, on, by decide +kernel⟩,
  ⟨16, 0, on, by decide⟩,
  ⟨541, 0, on, by decide +kernel⟩,
  ⟨551, 0, on, by decide +kernel⟩⟩

theorem met_EventRecorder :
  (∃ (r : EvRec) (rest : List (EvRec × Option Bad)) (s : State), s.evr.buf = (r, none) :: rest ∧ s.flash.failed = false ∧
    (s.sbm.warn = false ∨ s.flash.under = true) ∧ s.ticking = true) ∧
  (∃ (r : EvRec) (b : Bad) (rest : List (EvRec × Option Bad)) (s : State), s.evr.buf = (r, some b) :: rest ∧ b.checkOnly =
    false ∧ s.flash.failed = false ∧ (s.sbm.warn = false ∨ s.flash.under = true) ∧ s.ticking = true) ∧
  (∃ (s : State), s.evr.buf ≠ [] ∧ s.flash.failed = true ∧ (s.sbm.warn = false ∨ s.flash.under = true) ∧ s.ticking = true) ∧
  (∃ (s : State), s.sbm.warn = true ∧ s.flash.under = false) ∧
  (∃ (r : EvRec) (f : Flash), f.circ.length < 512) ∧
  (∃ (r : EvRec) (f : Flash), f.kf.length < 256 ∧ r.type ≠ 9) ∧
  (∃ (r : EvRec) (f : Flash), (256 ≤ f.kf.length ∨ r.type = 9)) ∧
  (∃ (s : State), (s.phase = .on ∨ s.phase = .commit)) ∧
  (∃ (data : Word) (s : State), s.awake = true) ∧
  (∃ (r : EvRec) (s : State), s.evr.busy = true ∧ s.fetched = some (r, none)) ∧
  (∃ (r : EvRec) (b : Bad) (s : State), s.evr.busy = true ∧ s.fetched = some (r, some b) ∧ b.checkOnly = false) ∧
  (∃ (s : State), s.evr.busy = true ∧ s.fetched = none) :=
  ⟨⟨record, [], { on with evr := { on.evr with buf := [(record, none)] } }, by and_intros <;> decide +kernel⟩,
  ⟨record, ⟨0, false⟩, [], { on with evr := { on.evr with buf := [(record, spoilt)] } }, by and_intros <;> decide +kernel⟩,
  ⟨flashFailed { on with evr := { on.evr with buf := [(record, none)] } }, by and_intros <;> decide +kernel⟩,
  ⟨warned, by and_intros <;> decide +kernel⟩,
  ⟨record, {}, by decide +kernel⟩,
  ⟨record, {}, by and_intros <;> decide +kernel⟩,
  ⟨{ record with type := 9 }, {}, by decide +kernel⟩,
  ⟨on, by decide +kernel⟩,
  ⟨0, on, by decide +kernel⟩,
  ⟨record, { on with evr := { on.evr with busy := true, buf := [(record, none)] } }, by and_intros <;> decide +kernel⟩,
  ⟨record, ⟨0, false⟩, { on with evr := { on.evr with busy := true, buf := [(record, spoilt)] } },
    by and_intros <;> decide +kernel⟩,
  ⟨{ on with evr := { on.evr with busy := true } }, by and_intros <;> decide +kernel⟩⟩

theorem met_ClearsByWordAndSequence :
  (∃ (data : Word) (s : State) (h : field data 4 0 < 18), s.awake = true ∧ s.fcol.fseq.at ⟨field data 4 0, h⟩ = field data 8
    5) ∧
  (∃ (data : Word) (s : State), s.awake = true ∧ (∀ h : field data 4 0 < 18, s.fcol.fseq.at ⟨field data 4 0, h⟩ ≠ field data
    8 5)) ∧
  (∃ (p : PortId) (data : Word) (s : State), s.awake = true ∧ field data 31 28 = (s.port p).perr.seq) ∧
  (∃ (p : PortId) (data : Word) (s : State), s.awake = true ∧ field data 31 28 = (s.port p).vstat.seq) ∧
  (∃ (p : PortId) (data : Word) (s : State), s.awake = true ∧ field data 31 28 = (s.port p).wbx.seq) ∧
  (∃ (c : ChanId) (data : Word) (s : State), s.awake = true ∧ s.fcol.safe = false ∧ field data 31 28 = (s.chan c).psn.seq) ∧
  (∃ (c : ChanId) (data : Word) (s : State), s.awake = true ∧ s.fcol.safe = false ∧ field data 31 28 = (s.chan c).rdue.seq) ∧
  (∃ (data : Word) (s : State), s.awake = true ∧ field data 31 28 = s.regs.atSeq) ∧
  (∃ (data : Word) (s : State), s.awake = true ∧ field data 31 28 = s.mill.brk.seq) ∧
  (∃ (data : Word) (s : State), s.awake = true ∧ field data 31 28 = s.sbm.pressSeq) ∧
  (∃ (data : Word) (s : State), s.awake = true ∧ field data 31 28 = s.sbm.pchgSeq) ∧
  (∃ (data : Word) (s : State), s.awake = true ∧ field data 31 28 = s.sbm.wakeCause.seq) ∧
  (∃ (data : Word) (p : PortId) (c : ChanId) (s : State), field data 31 28 ≠ (s.port p).perr.seq ∧ field data 31 28 ≠ (s.port
    p).vstat.seq ∧ field data 31 28 ≠ (s.port p).wbx.seq ∧ field data 31 28 ≠ (s.chan c).psn.seq ∧ field data 31 28 ≠ (s.chan
    c).rdue.seq ∧ field data 31 28 ≠ s.regs.atSeq ∧ field data 31 28 ≠ s.mill.brk.seq ∧ field data 31 28 ≠ s.sbm.pressSeq ∧
    field data 31 28 ≠ s.sbm.pchgSeq ∧ field data 31 28 ≠ s.sbm.wakeCause.seq) :=
  ⟨⟨0, on, by decide, by and_intros <;> decide +kernel⟩,
  ⟨18, on, by decide +kernel, fun h => absurd h (by decide)⟩,
  ⟨0, 0, on, by and_intros <;> decide +kernel⟩,
  ⟨0, 0, on, by and_intros <;> decide +kernel⟩,
  ⟨0, 0, on, by and_intros <;> decide +kernel⟩,
  ⟨0, 0, on, by and_intros <;> decide +kernel⟩,
  ⟨0, 0, on, by and_intros <;> decide +kernel⟩,
  ⟨0, on, by and_intros <;> decide +kernel⟩,
  ⟨0, on, by and_intros <;> decide +kernel⟩,
  ⟨0, on, by and_intros <;> decide +kernel⟩,
  ⟨0, on, by and_intros <;> decide +kernel⟩,
  ⟨0, on, by and_intros <;> decide +kernel⟩,
  ⟨0x10000000, 0, 0, on, by and_intros <;> decide +kernel⟩⟩

theorem met_RegisterAndIndirectWrites :
  (∃ (addr : BitVec 22) (data : Word) (s : State), s.awake = true ∧ mappedBlock (addr.toNat / 4 * 4) = false) ∧
  (∃ (v : View) (addr : BitVec 22) (data : Word) (s : State), s.awake = true ∧ mappedBlock (addr.toNat / 4 * 4) = false) ∧
  (∃ (addr : BitVec 22) (data : Word) (s : State), s.awake = true ∧ mappedBlock (addr.toNat / 4 * 4) = true ∧ addr.toNat / 4
    * 4 ≠ 0x014) ∧
  (∃ (v : View) (addr : BitVec 22) (data : Word) (s : State), s.awake = true ∧ mappedBlock (addr.toNat / 4 * 4) = true ∧
    addr.toNat / 4 * 4 ≠ 0x014) ∧
  (∃ (v : View) (addr : BitVec 22) (data : Word) (s : State), addr.toNat / 4 * 4 = 0x014) ∧
  (∃ (v : View) (addr : BitVec 22) (data : Word) (s : State), s.awake = false) ∧
  (∃ (addr : Nat) (w : RegWrite) (s : State), addr < 0x10000 ∧ svcChan addr = none ∧ addr ∉ ownWrites) ∧
  (∃ (key : Nat) (val : Word) (s : State), ((regInfo key).rws = 0 ∨ s.holds (regInfo key).groups = false)) ∧
  (∃ (key : Nat) (val : Word) (s : State), (regInfo key).rws ≠ 0 ∧ s.holds (regInfo key).groups = true) ∧
  (∃ (data : Word) (s : State), s.awake = true) ∧
  (∃ (v : View) (data : Word) (c : ChanId) (s : State), s.awake = true ∧ flag (s.prog 0x010) 25 = false ∧ s.namedAgent = some
    c ∧ s.fcol.safe = false) ∧
  (∃ (v : View) (data : Word) (s : State), s.awake = true ∧ flag (s.prog 0x010) 25 = false ∧ s.namedAgent = none) ∧
  (∃ (v : View) (data : Word) (s : State), s.awake = true ∧ flag (s.prog 0x010) 25 = true ∧ s.fcol.safe = false) ∧
  (∃ (v : View) (data : Word) (s : State), s.awake = true ∧ s.fcol.safe = true ∧ (flag (s.prog 0x010) 25 = true ∨
    s.namedAgent ≠ none)) ∧
  (∃ (v : View) (c : ChanId) (s : State), s.awake = true ∧ s.namedAgent = some c ∧ s.fcol.safe = false ∧ (s.indOff < 0x400 ∨
    0x600 ≤ s.indOff)) ∧
  (∃ (v : View) (c : ChanId) (s : State), s.awake = true ∧ s.namedAgent = some c ∧ s.fcol.safe = false ∧ 0x400 ≤ s.indOff ∧
    s.indOff < 0x600 ∧ acts ((s.chan c).patch.entry ((s.indOff - 0x400) / 8)).bad = false) ∧
  (∃ (v : View) (c : ChanId) (s : State), s.awake = true ∧ s.namedAgent = some c ∧ s.fcol.safe = false ∧ 0x400 ≤ s.indOff ∧
    s.indOff < 0x600 ∧ acts ((s.chan c).patch.entry ((s.indOff - 0x400) / 8)).bad = true) ∧
  (∃ (v : View) (s : State), s.awake = true ∧ s.namedAgent = none) ∧
  (∃ (v : View) (s : State), s.awake = true ∧ s.namedAgent ≠ none ∧ s.fcol.safe = true) ∧
  (∃ (s : State), flag (s.prog 0x010) 24 = false) ∧
  (∃ (s : State), flag (s.prog 0x010) 24 = true) :=
  ⟨⟨0x1000, 0, on, by and_intros <;> decide +kernel⟩,
  ⟨.set, 0x1000, 0, on, by and_intros <;> decide +kernel⟩,
  ⟨0, 0, on, by and_intros <;> decide +kernel⟩,
  ⟨.set, 0, 0, on, by and_intros <;> decide +kernel⟩,
  ⟨.set, 0x14, 0, on, by decide +kernel⟩,
  ⟨.set, 0, 0, State.reset, by decide +kernel⟩,
  ⟨0x2000, ⟨0, 0, none⟩, on, by and_intros <;> decide +kernel⟩,
  ⟨0x2000, 0, on, by decide +kernel⟩,
  ⟨0x9004, 0, { on with regs := { on.regs with posted := [{ groups := groupBit 27, at_ := 100064 }] } },
    by and_intros <;> decide +kernel⟩,
  ⟨0, on, by decide +kernel⟩,
  ⟨.direct, 0, 0, on, by and_intros <;> decide +kernel⟩,
  ⟨.direct, 0, on.setProg 0x010 0x140000, by and_intros <;> decide +kernel⟩,
  ⟨.direct, 0, on.setProg 0x010 0x2000000, by and_intros <;> decide +kernel⟩,
  ⟨.direct, 0, ({ on with fcol := { on.fcol with safe := true } } : State).setProg 0x010 0x2000000,
    by and_intros <;> decide +kernel⟩,
  ⟨.direct, 0, on, by and_intros <;> decide +kernel⟩,
  ⟨.direct, 0, on.setProg 0x010 0x400, by and_intros <;> decide +kernel⟩,
  ⟨.direct, 0, (chan fun k => { k with patch := { k.patch with tab := k.patch.tab.put 0 { bad := spoilt } } }).setProg 0x010
    0x400, by and_intros <;> decide +kernel⟩,
  ⟨.direct, on.setProg 0x010 0x140000, by and_intros <;> decide +kernel⟩,
  ⟨.direct, { on with fcol := { on.fcol with safe := true } }, by and_intros <;> decide +kernel⟩,
  ⟨on, by decide +kernel⟩,
  ⟨on.setProg 0x010 0x1000000, by decide +kernel⟩⟩

theorem met_StitchAndMailbox :
  (∃ (data : Word) (s : State), s.awake = true) ∧
  (∃ (s : State), s.awake = true ∧ s.regs.stPend = true ∧ s.posted = 0) ∧
  (∃ (s : State), s.awake = true ∧ s.regs.stPend = false ∧ s.regs.stArmed = true ∧ s.fcol.safe = false) ∧
  (∃ (data : Word) (s : State), s.awake = true) ∧
  (∃ (s : State), s.awake = true ∧ s.regs.snapBusy = true) :=
  ⟨⟨1, on, by decide +kernel⟩,
  ⟨{ on with regs := { on.regs with stPend := true } }, by and_intros <;> decide +kernel⟩,
  ⟨{ on with regs := { on.regs with stArmed := true } }, by and_intros <;> decide +kernel⟩,
  ⟨0, on, by decide +kernel⟩,
  ⟨{ on with regs := { on.regs with snapBusy := true } }, by and_intros <;> decide +kernel⟩⟩

theorem met_RingAndReplies :
  (∃ (data : Word) (s : State), s.awake = true ∧ (field data 4 0 + 32 - s.cmp.ci) % 32 ≤ 16) ∧
  (∃ (data : Word) (s : State), s.awake = true ∧ 16 < (field data 4 0 + 32 - s.cmp.ci) % 32) ∧
  (∃ (k : Packet) (s : State), s.front = some k ∧ paramBits k.opc = none ∧ k.crcOk = true ∧ (s.cmp.seqSet = true → k.seq =
    (s.cmp.lseq + 1) % 65536)) ∧
  (∃ (k : Packet) (e : Nat) (s : State), s.front = some k ∧ paramBits k.opc = none ∧ s.badPacket k = some e) :=
  ⟨⟨16, on, by and_intros <;> decide +kernel⟩,
  ⟨17, on, by and_intros <;> decide +kernel⟩,
  ⟨frontOf (ringed 0x7F [] running), ringed 0x7F [] running, by and_intros <;> decide +kernel⟩,
  ⟨frontOf badUnknown, 3, badUnknown, by and_intros <;> decide +kernel⟩⟩

theorem met_PacketsTurnedAway :
  (∃ (x : Nat × Instr × (State → Packet → Option Nat)) (k : Packet) (e : Nat) (s : State), x ∈ packetRows ∧ s.front = some k
    ∧ k.opc = x.1 ∧ s.badPacket k = some e) ∧
  (∃ (x : Nat × Instr × (State → Packet → Option Nat)) (k : Packet) (e : Nat) (s : State), x ∈ packetRows ∧ s.front = some k
    ∧ k.opc = x.1 ∧ s.badPacket k = none ∧ (s.takePacket k).gate k = some e) ∧
  (∃ (x : Nat × Instr × (State → Packet → Option Nat)) (k : Packet) (s : State), x ∈ packetRows ∧ s.front = some k ∧ k.opc =
    x.1 ∧ s.badPacket k = none ∧ (s.takePacket k).gate k = none ∧ s.sbm.warn = true ∧ flagW k.opc = true) ∧
  (∃ (x : Nat × Instr × (State → Packet → Option Nat)) (k : Packet) (e : Nat) (s : State), x ∈ packetRows ∧ s.front = some k
    ∧ k.opc = x.1 ∧ s.badPacket k = none ∧ (s.takePacket k).gate k = none ∧ (s.sbm.warn = false ∨ flagW k.opc = false) ∧
    x.2.2 (s.takePacket k) k = some e) ∧
  (∃ (x : Nat × Instr × (State → Packet → Option Nat)) (k : Packet) (s : State), x ∈ packetRows ∧ s.front = some k ∧ k.opc =
    x.1 ∧ s.badPacket k = none ∧ (s.takePacket k).gate k = none ∧ (s.sbm.warn = false ∨ flagW k.opc = false) ∧ x.2.2
    (s.takePacket k) k = none ∧ k.opc ∈ longOps ∧ (∀ j, (s.job j).st ≠ 0)) ∧
  (∃ (k : Packet) (s : State), k.crcOk = false) ∧
  (∃ (k : Packet) (s : State), k.crcOk = true ∧ s.cmp.seqSet = true ∧ k.seq ≠ (s.cmp.lseq + 1) % 65536) ∧
  (∃ (k : Packet) (s : State), s.cmp.boot.st ≠ 5 ∧ k.opc ∉ bootOps) ∧
  (∃ (k : Packet) (s : State), (s.cmp.boot.st = 5 ∨ k.opc ∈ bootOps) ∧ s.fcol.safe = true ∧ k.opc ∉ safeOps) ∧
  (∃ (k : Packet) (s : State), (s.cmp.boot.st = 5 ∨ k.opc ∈ bootOps) ∧ (s.fcol.safe = false ∨ k.opc ∈ safeOps) ∧ s.cmp.nuHalt
    = true ∧ k.opc ∉ flagC) ∧
  (∃ (k : Packet) (s : State), (s.cmp.boot.st = 5 ∨ k.opc ∈ bootOps) ∧ (s.fcol.safe = false ∨ k.opc ∈ safeOps) ∧
    (s.cmp.nuHalt = false ∨ k.opc ∈ flagC) ∧ s.pers.strobe = true ∧ flagD k.opc = true) ∧
  (∃ (k : Packet) (s : State), (s.cmp.boot.st = 5 ∨ k.opc ∈ bootOps) ∧ (s.fcol.safe = false ∨ k.opc ∈ safeOps) ∧
    (s.cmp.nuHalt = false ∨ k.opc ∈ flagC) ∧ (s.pers.strobe = false ∨ flagD k.opc = false) ∧ s.breaksParam k = true) :=
  ⟨⟨(0x01, .identify, noRefusal), frontOf badCrc, 3, badCrc, by simp [packetRows], by and_intros <;> decide +kernel⟩,
  ⟨(0x06, .echo, noRefusal), frontOf (ringed 0x06 [] on), 4, ringed 0x06 [] on, by simp [packetRows],
    by and_intros <;> decide +kernel⟩,
  ⟨(0x33, .slumber, slumberOwn), frontOf (ringed 0x33 [] { running with sbm := warned.sbm }), ringed 0x33 [] { running with
    sbm := warned.sbm }, by simp [packetRows], by and_intros <;> decide +kernel⟩,
  ⟨(0x08, .jobCancel, jobCancelOwn), frontOf (ringed 0x08 [] running), 6, ringed 0x08 [] running, by simp [packetRows],
    by and_intros <;> decide +kernel⟩,
  ⟨(0x30, .prepare, prepareOwn), frontOf (ringed 0x30 [0x100] noJob), ringed 0x30 [0x100] noJob, by simp [packetRows],
    by and_intros <;> decide +kernel⟩,
  ⟨⟨0x06, 0, 0, [], false⟩, on, by decide +kernel⟩,
  ⟨⟨0x06, 5, 0, [], true⟩, { on with cmp := { on.cmp with seqSet := true } }, by and_intros <;> decide +kernel⟩,
  ⟨⟨0x06, 0, 0, [], true⟩, on, by and_intros <;> decide +kernel⟩,
  ⟨⟨0x10, 0, 0, [], true⟩, { running with fcol := { on.fcol with safe := true } }, by and_intros <;> decide +kernel⟩,
  ⟨⟨0x10, 0, 0, [], true⟩, { running with cmp := { running.cmp with nuHalt := true } }, by and_intros <;> decide +kernel⟩,
  ⟨⟨0x38, 0, 0, [], true⟩, { running with pers := strobed.pers }, by and_intros <;> decide +kernel⟩,
  ⟨⟨0x30, 0, 0, [0xFFFFFFFF], true⟩, running, by and_intros <;> decide +kernel⟩⟩

theorem met_ImmediateCommands :
  (∃ (k : Packet) (s : State), Accepts s k 0x01) ∧
  (∃ (k : Packet) (s : State), Accepts s k 0x02) ∧
  (∃ (k : Packet) (s : State), Accepts s k 0x06) ∧
  (∃ (k : Packet) (b : List Byte) (s : State), Accepts s k 0x11 ∧ s.spdOf k = some b) ∧
  (∃ (k : Packet) (s : State), Accepts s k 0x40 ∧ s.flash.failed = false ∧ s.flash.image = none) ∧
  (∃ (k : Packet) (svn : Nat) (bs : List Byte) (s : State), Accepts s k 0x40 ∧ s.flash.failed = false ∧ s.flash.image = some
    (svn, bs)) ∧
  (∃ (k : Packet) (s : State), Accepts s k 0x40 ∧ s.flash.failed = true) ∧
  (∃ (k : Packet) (s : State), Accepts s k 0x07 ∧ (s.job k.job).st ≠ 1) ∧
  (∃ (k : Packet) (s : State), Accepts s k 0x07 ∧ (s.job k.job).st = 1 ∧ flag (k.p 0) 8 = false) ∧
  (∃ (k : Packet) (s : State), Accepts s k 0x08 ∧ (s.job k.job).st = 1 ∧ (s.job k.job).opc = 0x15) ∧
  (∃ (k : Packet) (s : State), Accepts s k 0x08 ∧ (s.job k.job).st = 1 ∧ (s.job k.job).opc = 0x20) ∧
  (∃ (k : Packet) (s : State), Accepts s k 0x08 ∧ (s.job k.job).st = 1 ∧ (s.job k.job).opc = 0x10) ∧
  (∃ (k : Packet) (s : State), Accepts s k 0x48) :=
  ⟨⟨frontOf (ringed 0x01 [] running), ringed 0x01 [] running, by unfold Accepts; decide +kernel⟩,
  ⟨frontOf (ringed 0x02 [] running), ringed 0x02 [] running, by unfold Accepts; decide +kernel⟩,
  ⟨frontOf (ringed 0x06 [] running), ringed 0x06 [] running, by unfold Accepts; decide +kernel⟩,
  ⟨frontOf (ringed 0x11 [] (running.modChan 0 seen)), [], ringed 0x11 [] (running.modChan 0 seen),
    by unfold Accepts; decide +kernel, by decide +kernel⟩,
  ⟨frontOf (ringed 0x40 [] running), ringed 0x40 [] running, by unfold Accepts; decide +kernel,
    by and_intros <;> decide +kernel⟩,
  ⟨frontOf (ringed 0x40 [] (flashed running)), 3, signedImage, ringed 0x40 [] (flashed running),
    by unfold Accepts; decide +kernel, by and_intros <;> decide +kernel⟩,
  ⟨frontOf (ringed 0x40 [] (flashFailed running)), ringed 0x40 [] (flashFailed running), by unfold Accepts; decide +kernel,
    by decide +kernel⟩,
  ⟨frontOf (ringed 0x07 [] running), ringed 0x07 [] running, by unfold Accepts; decide +kernel, by decide +kernel⟩,
  ⟨frontOf (ringed 0x07 [] (jobOf 0x15 running)), ringed 0x07 [] (jobOf 0x15 running), by unfold Accepts; decide +kernel,
    by and_intros <;> decide +kernel⟩,
  ⟨frontOf (ringed 0x08 [] (jobOf 0x15 running)), ringed 0x08 [] (jobOf 0x15 running), by unfold Accepts; decide +kernel,
    by and_intros <;> decide +kernel⟩,
  ⟨frontOf (ringed 0x08 [] (jobOf 0x20 running)), ringed 0x08 [] (jobOf 0x20 running), by unfold Accepts; decide +kernel,
    by and_intros <;> decide +kernel⟩,
  ⟨frontOf (ringed 0x08 [] (jobOf 0x10 running)), ringed 0x08 [] (jobOf 0x10 running), by unfold Accepts; decide +kernel,
    by and_intros <;> decide +kernel⟩,
  ⟨frontOf (ringed 0x48 [] running), ringed 0x48 [] running, by unfold Accepts; decide +kernel⟩⟩

set_option maxRecDepth 20000 in
theorem met_ImagesAndBoot :
  (∃ (k : Packet) (s : State), Accepts s k 0x03 ∧ s.cmp.boot.st ≠ 0 ∧ s.cmp.boot.st ≠ 4 ∧ s.cmp.boot.st ≠ 5 ∧ (flag (k.p 1) 0
    = true → s.flash.image ≠ none)) ∧
  (∃ (k : Packet) (s : State), Accepts s k 0x04 ∧ s.cmp.boot.st = 2 ∧ s.cmp.boot.src = false ∧ ChunkFits s k
    s.cmp.boot.image.length s.cmp.boot.total ∧ (512 ≤ s.cmp.boot.image.length ∨ s.cmp.boot.image.length + (s.loadBuf (k.p
    1).toNat).length < 512 ∨ headerOk (s.cmp.boot.image ++ s.loadBuf (k.p 1).toNat) s.cmp.boot.total = true)) ∧
  (∃ (k : Packet) (s : State), Accepts s k 0x04 ∧ s.cmp.boot.st = 2 ∧ s.cmp.boot.src = false ∧ ChunkFits s k
    s.cmp.boot.image.length s.cmp.boot.total ∧ s.cmp.boot.image.length < 512 ∧ 512 ≤ s.cmp.boot.image.length + (s.loadBuf
    (k.p 1).toNat).length ∧ headerOk (s.cmp.boot.image ++ s.loadBuf (k.p 1).toNat) s.cmp.boot.total = false) ∧
  (∃ (k : Packet) (s : State), Accepts s k 0x05 ∧ s.cmp.boot.st = 2 ∧ s.cmp.boot.total ≤ s.cmp.boot.image.length) ∧
  (∃ (k : Packet) (s : State), Accepts s k 0x41 ∧ s.storing = false) ∧
  (∃ (k : Packet) (x : Store) (s : State), Accepts s k 0x42 ∧ s.flash.store = some x ∧ (x.erased = true ∨ ∃ j, (s.job j).runs
    0x41 = true) ∧ (∀ j, (s.job j).runs 0x43 = false) ∧ ChunkFits s k s.flash.img.length x.total ∧ s.flash.failed = false) ∧
  (∃ (k : Packet) (x : Store) (s : State), Accepts s k 0x42 ∧ s.flash.store = some x ∧ (x.erased = true ∨ ∃ j, (s.job j).runs
    0x41 = true) ∧ (∀ j, (s.job j).runs 0x43 = false) ∧ ChunkFits s k s.flash.img.length x.total ∧ s.flash.failed = true) ∧
  (∃ (k : Packet) (x : Store) (s : State), Accepts s k 0x43 ∧ s.flash.store = some x ∧ (x.erased = true ∨ ∃ j, (s.job j).runs
    0x41 = true) ∧ (∀ j, (s.job j).runs 0x43 = false) ∧ x.total ≤ s.flash.img.length) ∧
  (∃ (slot : Bool) (s : State), s.cmp.boot.st = 3 ∧ s.otp.imageErr s.cmp.boot.image = none ∧ s.otp.slotFor s.cmp.boot.image =
    some slot ∧ s.armedG 17 0 = none) ∧
  (∃ (e : Nat) (s : State), s.cmp.boot.st = 3 ∧ s.otp.imageErr s.cmp.boot.image = some e) ∧
  (∃ (svn : Nat) (bytes : List Byte) (s : State), s.flash.image = some (svn, bytes) ∧ s.cmp.boot.st = 2 ∧ s.cmp.boot.src =
    true ∧ headerOk (bytes.take s.cmp.boot.total) s.cmp.boot.total = true ∧ s.flash.failed = false) ∧
  (∃ (svn : Nat) (bytes : List Byte) (s : State), s.flash.image = some (svn, bytes) ∧ s.cmp.boot.st = 2 ∧ s.cmp.boot.src =
    true ∧ headerOk (bytes.take s.cmp.boot.total) s.cmp.boot.total = false ∧ s.flash.failed = false) ∧
  (∃ (x : Nat × List Byte) (s : State), s.flash.image = some x ∧ s.cmp.boot.st = 2 ∧ s.cmp.boot.src = true ∧ s.flash.failed =
    true) ∧
  (∃ (s : State), s.cmp.boot.st = 4 ∧ s.cmp.nuHalt = false ∧ s.cmp.nuBad = none) ∧
  (∃ (s : State), s.cmp.boot.st = 4) ∧
  (∃ (s : State), s.cmp.boot.st ≠ 4) :=
  ⟨⟨frontOf (ringed 0x03 [576] (boot fun b => { b with st := 1 })), ringed 0x03 [576] (boot fun b => { b with st := 1 }),
    by unfold Accepts; decide +kernel, by and_intros <;> decide +kernel⟩,
  ⟨frontOf (ringed 0x04 [512, 64, chunkSum 64] (boot fun b => { b with st := 2, total := 576, image := List.replicate 512 0
    })), ringed 0x04 [512, 64, chunkSum 64] (boot fun b => { b with st := 2, total := 576, image := List.replicate 512 0 }),
    by unfold Accepts; decide +kernel, by decide +kernel, by decide +kernel, by unfold ChunkFits; decide +kernel,
    by decide +kernel⟩,
  ⟨frontOf (ringed 0x04 [0, 512, chunkSum 512] (boot fun b => { b with st := 2, total := 576 })), ringed 0x04 [0, 512,
    chunkSum 512] (boot fun b => { b with st := 2, total := 576 }), by unfold Accepts; decide +kernel, by decide +kernel,
    by decide +kernel, by unfold ChunkFits; decide +kernel, by and_intros <;> decide +kernel⟩,
  ⟨frontOf (ringed 0x05 [] (boot fun b => { b with st := 2 })), ringed 0x05 [] (boot fun b => { b with st := 2 }),
    by unfold Accepts; decide +kernel, by and_intros <;> decide +kernel⟩,
  ⟨frontOf (ringed 0x41 [576] running), ringed 0x41 [576] running, by unfold Accepts; decide +kernel, by decide +kernel⟩,
  ⟨frontOf (ringed 0x42 [0, 64, chunkSum 64] (storing_ 64)), ⟨64, true⟩, ringed 0x42 [0, 64, chunkSum 64] (storing_ 64),
    by unfold Accepts; decide +kernel, by decide +kernel, .inl rfl, by decide +kernel, by unfold ChunkFits; decide +kernel,
    by decide +kernel⟩,
  ⟨frontOf (ringed 0x42 [0, 64, chunkSum 64] (flashFailed (storing_ 64))), ⟨64, true⟩, ringed 0x42 [0, 64, chunkSum 64]
    (flashFailed (storing_ 64)), by unfold Accepts; decide +kernel, by decide +kernel, .inl rfl, by decide +kernel,
    by unfold ChunkFits; decide +kernel, by decide +kernel⟩,
  ⟨frontOf (ringed 0x43 [] (storing_ 0)), ⟨0, true⟩, ringed 0x43 [] (storing_ 0), by unfold Accepts; decide +kernel,
    by decide +kernel, .inl rfl, by and_intros <;> decide +kernel⟩,
  ⟨false, { (boot fun b => { b with st := 3, image := signedImage }) with otp := { on.otp with hash0 := keyHash } },
    by decide +kernel, test_image_checks.1, by and_intros <;> decide +kernel⟩,
  ⟨16, boot fun b => { b with st := 3 }, by and_intros <;> decide +kernel⟩,
  ⟨3, signedImage, flashed (boot fun b => { b with st := 2, src := true, total := 576 }), by and_intros <;> decide +kernel⟩,
  ⟨_, _, empty_, rfl, by and_intros <;> decide +kernel⟩,
  ⟨_, flashFailed empty_, rfl, by and_intros <;> decide +kernel⟩,
  ⟨boot fun b => { b with st := 4 }, by and_intros <;> decide +kernel⟩,
  ⟨boot fun b => { b with st := 4 }, by decide +kernel⟩,
  ⟨on, by decide +kernel⟩⟩

theorem met_LongCommandsStartJobs :
  (∃ (k : Packet) (target : Nat) (f : Job → Job) (j : Fin 8) (s : State), s.freeJob = some j) ∧
  (∃ (k : Packet) (s : State), Accepts s k 0x15 ∧ (∀ c ∈ k.chans, (s.chan c).phy.cal = true ∧ s.schEn c = false) ∧ s.jobMeets
    k 0x15 = false) ∧
  (∃ (k : Packet) (s : State), Accepts s k 0x18 ∧ (∀ c ∈ k.chans, s.phyEn c = true ∧ s.schEn c = false)) ∧
  (∃ (k : Packet) (s : State), Accepts s k 0x26 ∧ s.allClosed = true ∧ (∀ m : SetId, k.sets.getLsbD m.val = true → s.spanMode
    m = true)) ∧
  (∃ (k : Packet) (s : State), Accepts s k 0x27 ∧ s.allClosed = true ∧ (∀ m : SetId, k.sets.getLsbD m.val = true → s.spanMode
    m = true)) ∧
  (∃ (k : Packet) (j : Fin 8) (s : State), Accepts s k 0x10 ∧ (∀ c ∈ k.chans, (s.chan c).svc.st = 1 ∨ (s.chan c).svc.st = 2)
    ∧ s.jobMeets k 0x10 = false ∧ s.jobMeets k 0x15 = false ∧ s.freeJob = some j) ∧
  (∃ (k : Packet) (j : Fin 8) (s : State), Accepts s k 0x13 ∧ (∀ c ∈ k.chans, s.phyEn c = false ∧ ((s.chan c).spd0.isSome =
    true ∨ (s.chan c).spd1.isSome = true)) ∧ (∀ i, (s.job i).runs 0x13 = false) ∧ s.freeJob = some j) ∧
  (∃ (k : Packet) (s : State), Accepts s k 0x20 ∧ (s.chan k.chan).scrub.st ≠ 1 ∧ s.running k.chan = true ∧ k.line + k.count ≤
    (s.geom k.chan).reserved) ∧
  (∃ (k : Packet) (s : State), Accepts s k 0x21 ∧ s.running k.chan = true ∧ (∀ e, (s.chan k.chan).patchOf k.line = some e →
    e.st = 0) ∧ k.line ∉ (s.chan k.chan).patch.wait ∧ s.pprLocked k.chan k.line = false ∧ (s.chan
    k.chan).patch.freeEntry.isSome = true ∧ ((s.chan k.chan).patch.freeSpare ((s.geom k.chan).place k.line).sub).isSome =
    true) ∧
  (∃ (k : Packet) (s : State), Accepts s k 0x22 ∧ (s.chan k.chan).ppr.step = 0 ∧ s.rankHeld k.chan k.line = false ∧ s.running
    k.chan = true ∧ (s.spanMode (setOf k.chan) = true → s.lineLost (setOf k.chan) (posOf k.chan) k.line = false) ∧ ((s.chan
    k.chan).patch.staged = none ∨ (s.chan k.chan).patch.staged = some k.line) ∧ (flag (k.p 0) 9 = true → flag (k.p 0) 8 =
    false ∧ k.line ∈ (s.chan k.chan).patch.soft)) ∧
  (∃ (k : Packet) (row : Nat) (s : State), Accepts s k 0x23 ∧ (s.chan k.chan).patch.staged = some row ∧ (s.chan
    k.chan).ppr.step = 0) ∧
  (∃ (k : Packet) (row : Nat) (s : State), Accepts s k 0x24 ∧ field (k.p 0) 10 8 = (s.chan k.chan).ladder.want ∧ row =
    (s.geom k.chan).rowOf (s.chan k.chan).ladder.wantLine ∧ ((s.chan k.chan).ladder.want = 2 → (s.chan k.chan).ppr.step = 0 ∧
    s.rankHeld k.chan row = false ∧ s.running k.chan = true ∧ (s.spanMode (setOf k.chan) = true → s.lineLost (setOf k.chan)
    (posOf k.chan) row = false) ∧ ((s.chan k.chan).patch.staged = none ∨ (s.chan k.chan).patch.staged = some row))) ∧
  (∃ (k : Packet) (s : State), Accepts s k 0x28 ∧ s.spanMode k.set = true ∧ (s.span k.set).st = 1 ∧ (s.chan (chanOf k.set
    (s.span k.set).pos)).phy.trained = true ∧ s.running (chanOf k.set (s.span k.set).pos) = true ∧ (s.span k.set).reb.on =
    false) ∧
  (∃ (k : Packet) (s : State), Accepts s k 0x30 ∧ (s.chan k.chan).svc.st = 2 ∧ s.pers.strobe = false ∧ (flag (k.p 0) 8 = true
    ∨ (s.spanMode (setOf k.chan) = true ∧ (s.span (setOf k.chan)).st ≠ 3 ∧ ((s.span (setOf k.chan)).st = 0 ∨ (s.span (setOf
    k.chan)).pos = posOf k.chan) ∧ ∀ d ∈ setChans (setOf k.chan), d ≠ k.chan → (s.chan d).svc.st ≠ 3))) :=
  ⟨⟨⟨0x10, 0, 0, [], true⟩, 0, id, 0, on, by decide +kernel⟩,
  ⟨frontOf (ringed 0x15 [1] (ready fun k => { k with phy := { k.phy with cal := true } })), ringed 0x15 [1] (ready fun k => {
    k with phy := { k.phy with cal := true } }), by unfold Accepts; decide +kernel, by and_intros <;> decide +kernel⟩,
  ⟨frontOf (ringed 0x18 [1] (live 0x100004 1 running)), ringed 0x18 [1] (live 0x100004 1 running),
    by unfold Accepts; decide +kernel, by decide +kernel⟩,
  ⟨frontOf (ringed 0x26 [1] (live 0xA000 1 running)), ringed 0x26 [1] (live 0xA000 1 running),
    by unfold Accepts; decide +kernel, by and_intros <;> decide +kernel⟩,
  ⟨frontOf (ringed 0x27 [1] (live 0xA000 1 running)), ringed 0x27 [1] (live 0xA000 1 running),
    by unfold Accepts; decide +kernel, by and_intros <;> decide +kernel⟩,
  ⟨frontOf (ringed 0x10 [1] (ready id)), 0, ringed 0x10 [1] (ready id), by unfold Accepts; decide +kernel,
    by and_intros <;> decide +kernel⟩,
  ⟨frontOf (ringed 0x13 [1] (ready seen)), 0, ringed 0x13 [1] (ready seen), by unfold Accepts; decide +kernel,
    by and_intros <;> decide +kernel⟩,
  ⟨frontOf (ringed 0x20 [0] busy), ringed 0x20 [0] busy, by unfold Accepts; decide +kernel, by and_intros <;> decide +kernel⟩,
  ⟨frontOf (ringed 0x21 [0] busy), ringed 0x21 [0] busy, by unfold Accepts; decide +kernel, by decide +kernel, none_patched,
    by and_intros <;> decide +kernel⟩,
  ⟨frontOf (ringed 0x22 [0] busy), ringed 0x22 [0] busy, by unfold Accepts; decide +kernel, by and_intros <;> decide +kernel⟩,
  ⟨frontOf (ringed 0x23 [0] (busy.modChan 0 fun k => { k with patch := { k.patch with staged := some 0 } })), 0, ringed 0x23
    [0] (busy.modChan 0 fun k => { k with patch := { k.patch with staged := some 0 } }), by unfold Accepts; decide +kernel,
    by and_intros <;> decide +kernel⟩,
  ⟨frontOf laddering, 0, laddering, by unfold Accepts; decide +kernel, by and_intros <;> decide +kernel⟩,
  ⟨frontOf (ringed 0x28 [0] (live 0xA000 1 ((busy.modChan 0 fun k => { k with phy := { k.phy with trained := true }
    }).modSpan 0 fun p => { p with st := 1 }))), ringed 0x28 [0] (live 0xA000 1 ((busy.modChan 0 fun k => { k with phy := {
    k.phy with trained := true } }).modSpan 0 fun p => { p with st := 1 })), by unfold Accepts; decide +kernel,
    by and_intros <;> decide +kernel⟩,
  ⟨frontOf (ringed 0x30 [0x100] busy), ringed 0x30 [0x100] busy, by unfold Accepts; decide +kernel,
    by and_intros <;> decide +kernel⟩⟩

theorem met_RingHoldersSluiceDegradeClear :
  (∃ (k : Packet) (s : State), Accepts s k 0x12 ∧ s.phase ≠ .commit ∧ s.phase ≠ .slumber) ∧
  (∃ (k : Packet) (s : State), Accepts s k 0x14 ∧ (s.chan k.chan).svc.st = 2 ∧ (s.chan k.chan).ppr.lock = false) ∧
  (∃ (k : Packet) (s : State), Accepts s k 0x16 ∧ s.schEn k.chan = true) ∧
  (∃ (k : Packet) (s : State), Accepts s k 0x17 ∧ s.schEn k.chan = true ∧ (s.chan k.chan).ppr.lock = false) ∧
  (∃ (k : Packet) (s : State), Accepts s k 0x31 ∧ (∀ c ∈ k.chans, s.mayIdle c = true ∧ (s.chan c).pwrst = 0)) ∧
  (∃ (k : Packet) (s : State), Accepts s k 0x31) ∧
  (∃ (k : Packet) (s : State), Accepts s k 0x32 ∧ (∀ c ∈ k.chans, (s.chan c).pwrst = 2)) ∧
  (∃ (k : Packet) (s : State), Accepts s k 0x32) ∧
  (∃ (k : Packet) (s : State), Accepts s k 0x33 ∧ s.allClosed = true ∧ s.mill.st = .off ∧ (∀ j, (s.job j).st ≠ 1) ∧ (∀ c,
    (s.chan c).svc.st ≠ 3)) ∧
  (∃ (k : Packet) (s : State), Accepts s k 0x38 ∧ s.actOk (field (k.p 0) 2 0) = true) ∧
  (∃ (k : Packet) (s : State), Accepts s k 0x34 ∧ k.p 0 = 0x534C5543) ∧
  (∃ (k : Packet) (s : State), Accepts s k 0x34 ∧ k.p 0 ≠ 0x534C5543) ∧
  (∃ (k : Packet) (s : State), Accepts s k 0x25 ∧ s.spanMode (setOf k.chan) = true ∧ ((s.span (setOf k.chan)).st ≠ 2 ∧
    (s.span (setOf k.chan)).st ≠ 3) ∧ ((s.span (setOf k.chan)).st = 1 → (s.span (setOf k.chan)).pos = posOf k.chan)) ∧
  (∃ (k : Packet) (c key : List Byte) (s : State), Accepts s k 0x49 ∧ s.evr.chal = some c ∧ s.evrKey = some key ∧ hmacSha256
    key ([0x45, 0x56, 0x52, 0x43] ++ c) = ((k.params.take 8).map wordBytes).flatten) ∧
  (∃ (k : Packet) (c key : List Byte) (s : State), Accepts s k 0x49 ∧ s.evr.chal = some c ∧ s.evrKey = some key ∧ hmacSha256
    key ([0x45, 0x56, 0x52, 0x43] ++ c) ≠ ((k.params.take 8).map wordBytes).flatten) ∧
  (∃ (k : Packet) (s : State), Accepts s k 0x49 ∧ s.evr.chal = none) :=
  ⟨⟨frontOf (ringed 0x12 [0, 0x100] running), ringed 0x12 [0, 0x100] running, by unfold Accepts; decide +kernel,
    by and_intros <;> decide +kernel⟩,
  ⟨frontOf (ringed 0x14 [0] busy), ringed 0x14 [0] busy, by unfold Accepts; decide +kernel, by and_intros <;> decide +kernel⟩,
  ⟨frontOf (ringed 0x16 [0] busy), ringed 0x16 [0] busy, by unfold Accepts; decide +kernel, by decide +kernel⟩,
  ⟨frontOf (ringed 0x17 [0] busy), ringed 0x17 [0] busy, by unfold Accepts; decide +kernel, by and_intros <;> decide +kernel⟩,
  ⟨frontOf (ringed 0x31 [1] busy), ringed 0x31 [1] busy, by unfold Accepts; decide +kernel, by decide +kernel⟩,
  ⟨frontOf (ringed 0x31 [1] busy), ringed 0x31 [1] busy, by unfold Accepts; decide +kernel⟩,
  ⟨frontOf (ringed 0x32 [1] (busy.modChan 0 fun k => { k with pwrst := 2 })), ringed 0x32 [1] (busy.modChan 0 fun k => { k
    with pwrst := 2 }), by unfold Accepts; decide +kernel, by decide +kernel⟩,
  ⟨frontOf (ringed 0x32 [1] busy), ringed 0x32 [1] busy, by unfold Accepts; decide +kernel⟩,
  ⟨frontOf (ringed 0x33 [] running), ringed 0x33 [] running, by unfold Accepts; decide +kernel,
    by and_intros <;> decide +kernel⟩,
  ⟨frontOf (ringed 0x38 [3] { running with mill := { running.mill with st := .solo } }), ringed 0x38 [3] { running with mill
    := { running.mill with st := .solo } }, by unfold Accepts; decide +kernel, by decide +kernel⟩,
  ⟨frontOf (ringed 0x34 [0x534C5543] running), ringed 0x34 [0x534C5543] running, by unfold Accepts; decide +kernel,
    by decide +kernel⟩,
  ⟨frontOf (ringed 0x34 [1] running), ringed 0x34 [1] running, by unfold Accepts; decide +kernel, by decide +kernel⟩,
  ⟨frontOf (ringed 0x25 [0] (live 0xA000 1 busy)), ringed 0x25 [0] (live 0xA000 1 busy), by unfold Accepts; decide +kernel,
    by and_intros <;> decide +kernel⟩,
  ⟨frontOf (clearing proof), (List.range 32).map (BitVec.ofNat 8), 1 :: List.replicate 31 0, clearing proof,
    by unfold Accepts; decide +kernel, by and_intros <;> decide +kernel⟩,
  ⟨frontOf (clearing []), (List.range 32).map (BitVec.ofNat 8), 1 :: List.replicate 31 0, clearing [],
    by unfold Accepts; decide +kernel, by and_intros <;> decide +kernel⟩,
  ⟨frontOf (ringed 0x49 [] running), ringed 0x49 [] running, by unfold Accepts; decide +kernel, by decide +kernel⟩⟩

theorem met_JobsEnd :
  (∃ (j : Fin 8) (r : JobEnd) (f : Tab TrnFail 20) (s : State), (s.job j).st = 1) ∧
  (∃ (j : Fin 8) (r : JobEnd) (f : Tab TrnFail 20) (s : State), (s.job j).st ≠ 1) ∧
  (∃ (b : Job) (res : List Word), b.cancel = false) ∧
  (∃ (b : Job) (e : Nat) (res : List Word), e ≠ 0 ∧ b.cancel = false) ∧
  (∃ (b : Job) (e : Nat) (res : List Word), b.cancel = true) ∧
  (∃ (j : Fin 8) (r : JobEnd) (f : Tab TrnFail 20) (s : State), (s.job j).st = 1 ∧ (s.job j).opc ∉ [0x10, 0x15, 0x18, 0x41,
    0x43] ∧ (s.job j).fin = none) ∧
  (∃ (j : Fin 8) (r : JobEnd) (f : Tab TrnFail 20) (e : Nat) (s : State), (s.job j).st = 1 ∧ (s.job j).opc ∉ [0x10, 0x15,
    0x18, 0x41, 0x43] ∧ (s.job j).fin = some e) ∧
  (∃ (j : Fin 8) (r : JobEnd) (f : Tab TrnFail 20) (s : State), (s.job j).st = 1 ∧ (s.job j).opc = 0x10 ∧ (∀ c, ∀ x ∈ (s.chan
    c).i3c, x.use ≠ .spd j.val)) ∧
  (∃ (j : Fin 8) (r : JobEnd) (f : Tab TrnFail 20) (c : ChanId) (x : Xfer) (s : State), (s.job j).st = 1 ∧ (s.job j).opc =
    0x10 ∧ x ∈ (s.chan c).i3c ∧ x.use = .spd j.val ∧ (s.job j).fin = none) ∧
  (∃ (j : Fin 8) (r : JobEnd) (f : Tab TrnFail 20) (s : State), (s.job j).st = 1 ∧ (s.job j).opc = 0x15) ∧
  (∃ (j : Fin 8) (r : JobEnd) (f : Tab TrnFail 20) (s : State), (s.job j).st = 1 ∧ (s.job j).opc = 0x18) ∧
  (∃ (j : Fin 8) (r : JobEnd) (f : Tab TrnFail 20) (x : Store) (s : State), (s.job j).st = 1 ∧ (s.job j).opc = 0x41 ∧ r.err =
    0 ∧ (s.sbm.warn = false ∨ s.flash.under = true) ∧ s.flash.store = some x) ∧
  (∃ (j : Fin 8) (r : JobEnd) (f : Tab TrnFail 20) (x : Store) (s : State), (s.job j).st = 1 ∧ (s.job j).opc = 0x43 ∧ r.err =
    0 ∧ (s.sbm.warn = false ∨ s.flash.under = true) ∧ s.flash.store = some x) ∧
  (∃ (j : Fin 8) (r : JobEnd) (f : Tab TrnFail 20) (s : State), (s.job j).st = 1 ∧ ((s.job j).opc = 0x41 ∨ (s.job j).opc =
    0x43) ∧ r.err ≠ 0 ∧ (s.sbm.warn = false ∨ s.flash.under = true)) ∧
  (∃ (j : Fin 8) (r : JobEnd) (f : Tab TrnFail 20) (s : State), (s.job j).st = 1 ∧ ((s.job j).opc = 0x41 ∨ (s.job j).opc =
    0x43) ∧ s.sbm.warn = true ∧ s.flash.under = false) ∧
  (∃ (u : Cur) (s : State), s.cmp.cur = some u ∧ ((u.opc = 0x16 ∨ u.opc = 0x17) ∧ u.begun = false ∨ u.opc = 0x12 ∧ (∀ x ∈
    (s.chan u.ch).i3c, x.sent = true → x.use ≠ .i3cRead) ∨ u.opc = 0x14 ∧ (∀ x ∈ (s.chan u.ch).i3c, x.sent = true → x.use ≠
    .pmicSet) ∧ (s.chan u.ch).settling = false)) ∧
  (∃ (u : Cur) (s : State), s.cmp.cur = some u ∧ ((u.opc = 0x16 ∨ u.opc = 0x17) ∧ u.begun = true ∨ u.opc = 0x12 ∧ (∃ x ∈
    (s.chan u.ch).i3c, x.sent = true ∧ x.use = .i3cRead) ∨ u.opc = 0x14 ∧ ((∃ x ∈ (s.chan u.ch).i3c, x.sent = true ∧ x.use =
    .pmicSet) ∨ (s.chan u.ch).settling = true) ∨ u.opc ∉ [0x12, 0x14, 0x16, 0x17, 0x31, 0x32])) ∧
  (∃ (u : Cur) (s : State), s.cmp.cur = some u ∧ u.opc = 0x32) ∧
  (∃ (u : Cur) (s : State), s.cmp.cur = some u ∧ u.opc = 0x31) ∧
  (∃ (s : State), s.cmp.cur = none) :=
  ⟨⟨0, ⟨0, 0, 0⟩, Tab.all 20 ⟨0, 0, 0, 0, 0⟩, on.modJob 0 fun b => { b with st := 1 }, by decide +kernel⟩,
  ⟨0, ⟨0, 0, 0⟩, Tab.all 20 ⟨0, 0, 0, 0, 0⟩, on, by decide +kernel⟩,
  ⟨{}, [], by decide +kernel⟩,
  ⟨{}, 24, [], by and_intros <;> decide +kernel⟩,
  ⟨{ cancel := true }, 24, [], by decide +kernel⟩,
  ⟨0, ⟨0, 0, 0⟩, Tab.all 20 ⟨0, 0, 0, 0, 0⟩, jobOf 0x20 on, by and_intros <;> decide +kernel⟩,
  ⟨0, ⟨0, 0, 0⟩, Tab.all 20 ⟨0, 0, 0, 0, 0⟩, 0, on.modJob 0 fun b => { b with st := 1, opc := 0x20, fin := some 0 },
    by and_intros <;> decide +kernel⟩,
  ⟨0, ⟨0, 0, 0⟩, Tab.all 20 ⟨0, 0, 0, 0, 0⟩, jobOf 0x10 on, by and_intros <;> decide +kernel⟩,
  ⟨0, ⟨0, 0, 0⟩, Tab.all 20 ⟨0, 0, 0, 0, 0⟩, 0, { slot := 0, target := 0, use := .spd 0 }, jobOf 0x10 (chan fun k => { k with
    i3c := [{ slot := 0, target := 0, use := .spd 0 }] }), by and_intros <;> decide +kernel⟩,
  ⟨0, ⟨0, 0, 0⟩, Tab.all 20 ⟨0, 0, 0, 0, 0⟩, jobOf 0x15 on, by and_intros <;> decide +kernel⟩,
  ⟨0, ⟨0, 0, 0⟩, Tab.all 20 ⟨0, 0, 0, 0, 0⟩, jobOf 0x18 on, by and_intros <;> decide +kernel⟩,
  ⟨0, ⟨0, 0, 0⟩, Tab.all 20 ⟨0, 0, 0, 0, 0⟩, ⟨64, false⟩, jobOf 0x41 { on with flash := { on.flash with store := some ⟨64,
    false⟩ } }, by and_intros <;> decide +kernel⟩,
  ⟨0, ⟨0, 0, 0⟩, Tab.all 20 ⟨0, 0, 0, 0, 0⟩, ⟨64, true⟩, jobOf 0x43 { on with flash := { on.flash with store := some ⟨64,
    true⟩ } }, by and_intros <;> decide +kernel⟩,
  ⟨0, ⟨0, 0, 1⟩, Tab.all 20 ⟨0, 0, 0, 0, 0⟩, jobOf 0x41 on, by and_intros <;> decide +kernel⟩,
  ⟨0, ⟨0, 0, 0⟩, Tab.all 20 ⟨0, 0, 0, 0, 0⟩, jobOf 0x43 warned, by and_intros <;> decide +kernel⟩,
  ⟨ring 0x16, { on with cmp := { on.cmp with cur := some (ring 0x16) } }, by and_intros <;> decide +kernel⟩,
  ⟨{ ring 0x16 with begun := true }, { on with cmp := { on.cmp with cur := some { ring 0x16 with begun := true } } }, rfl,
    .inl (by decide)⟩,
  ⟨ring 0x32, { on with cmp := { on.cmp with cur := some (ring 0x32) } }, by and_intros <;> decide +kernel⟩,
  ⟨ring 0x31, { on with cmp := { on.cmp with cur := some (ring 0x31) } }, by and_intros <;> decide +kernel⟩,
  ⟨on, by decide +kernel⟩⟩

theorem met_StepKeepsInvariant :
  (∃ (s t : State), s.Inv ∧ step s = .next t) :=
  ⟨on, on.tick, ⟨⟨rfl, rfl, rfl⟩, by decide, by decide, by decide⟩, rfl⟩

theorem met_StepKeepsStores :
  (∃ (s t : State), step s = .next t) :=
  ⟨on, on.tick, rfl⟩

theorem met_OnlyResetUndoes :
  (∃ (s t : State), step s = .next t ∧ s.inReset = false ∧ t.inReset = false) ∧
  (∃ (s t : State), step s = .next t ∧ s.inReset = false ∧ s.pers.strobe = true ∧ t.pers.strobe = false) :=
  ⟨⟨on, on.tick, rfl, by and_intros <;> decide +kernel⟩,
  ⟨{ strobed with pending := [.coreRst], pers := { strobed.pers with done := true } }, _, rfl,
    by and_intros <;> decide +kernel⟩⟩

theorem met_EholdOnlyPowerClears :
  (∃ (s t : State), s.pending.head? ≠ some .aonPowerUp ∧ s.pending.head? ≠ some .aonPowerLoss ∧ step s = .next t ∧
    s.fcol.ehold = true) :=
  ⟨{ on with fcol := { on.fcol with ehold := true } }, _, by decide +kernel, by decide +kernel, rfl, by decide +kernel⟩

theorem met_HousekeepingFrame :
  (∃ (s t : State), (t = s.settleAll ∨ t = s.sweepFails ∨ t = s.miAfter ∨ (∃ c, t = s.after c) ∨ (∃ p, t = s.portAfter p))) :=
  ⟨on, on.settleAll, .inl rfl⟩

theorem met_AddressMap :
  (∃ (a b : Nat), a < 2 ^ 46 ∧ b < 2 ^ 46 ∧ setOfAddr a = setOfAddr b ∧ localAddr a = localAddr b) ∧
  (∃ (span : SetId → Bool) (a b : Nat), a < 2 ^ 46 ∧ b < 2 ^ 46 ∧ (spotOf span a).ch = (spotOf span b).ch ∧ (spotOf span
    a).line = (spotOf span b).line) :=
  ⟨⟨64, 64, by and_intros <;> decide +kernel⟩,
  ⟨fun _ => false, 2 ^ 46 - 1, 2 ^ 46 - 64, by and_intros <;> decide +kernel⟩⟩

theorem met_WindowsMatch :
  (∃ (a b : Word) (addr : Nat), addr < 2 ^ 46) ∧
  (∃ (s : State) (p : PortId) (r : Req) (w : Nat) (a b : Word), s.window p r.addr = some (w, a, b) ∧ flag a (needBit r.opc).1
    = false) ∧
  (∃ (s : State) (p : PortId) (r : Req) (w : Nat) (a b : Word), s.window p r.addr = some (w, a, b)) ∧
  (∃ (s : State) (p : PortId) (r : Req), s.window p r.addr = none) :=
  ⟨⟨0, 0, 2 ^ 46 - 1, by decide +kernel⟩,
  ⟨denied, 0, req .rd, _, _, _, rfl, by decide +kernel⟩,
  ⟨denied, 0, req .rd, _, _, _, rfl⟩,
  ⟨on, 0, req .rd, by decide +kernel⟩⟩

theorem met_CadencePeriods :
  (∃ (kind per : Nat), kind ≠ 3) ∧
  (∃ (s : State) (k : Nat), s.cadKind k = 0) ∧
  (∃ (s : State) (k : Nat), s.cadKind k = 3) ∧
  (∃ (s : State) (k : Nat), s.cadKind k ≠ 0 ∧ s.cadKind k ≠ 3) :=
  ⟨⟨1, 1023, by decide +kernel⟩,
  ⟨on, 0, by decide +kernel⟩,
  ⟨live 0x8000 7 on, 0, by decide +kernel⟩,
  ⟨live 0x8000 3 on, 0, by and_intros <;> decide +kernel⟩⟩

theorem met_RefreshManagementCount :
  (∃ (s : State) (c : ChanId) (x : Sub) (m : Cmd) (b : Bank), flag (s.agent c 0x034) 0 = true ∧ ((s.sel c x).rfm.map
    Prod.fst).Nodup) :=
  ⟨live 0x100034 1 on, 0, 0, { kind := .act, bank := ⟨0, 0, 0, 0⟩ }, ⟨0, 0, 0, 0⟩, by and_intros <;> decide +kernel⟩

theorem met_ViolationRecordClears :
  (∃ (p : PortId) (data : Word) (s : State), s.awake = true ∧ field data 31 28 = (s.port p).vstat.seq) ∧
  (∃ (p : PortId) (data : Word) (s : State), s.awake = true ∧ field data 31 28 ≠ (s.port p).vstat.seq) ∧
  (∃ (v : Vstat) (r : Req) (d : WcuRes), v.valid = true) :=
  ⟨⟨0, 0, on, by and_intros <;> decide +kernel⟩,
  ⟨0, 0x10000000, on, by and_intros <;> decide +kernel⟩,
  ⟨{ valid := true }, req .rd, { pass := false }, by decide +kernel⟩⟩

end Sys2Proof.Tests
end

section
/-! SUPPORT. Posted and armed updates (R197 to R199, R460 to R463): what the register writes do, where an update's posting
and its taking effect are due, and the parts of a launch at which no slot is due. -/

namespace Sys2Proof.Machine

/-! ### Writes of the update registers -/

/-- While the core's registers answer, a control-port access acts (R448). -/
theorem State.ctl_of_awake {s : State} (f : State → State) (h : s.awake = true) : s.ctl f = f s := by
  simp [State.ctl, h]

theorem exec_updStrobe_of_awake {s : State} {data : Word} (h : s.awake = true) (hd : strobeMask data ≠ 0) :
    exec (.updStrobe data) s = .next (s.postNow (strobeMask data)) := by
  change Host.Outcome.next (s.ctl (·.strobeUpd data)) = _
  simp only [State.ctl_of_awake _ h, State.strobeUpd, if_neg hd]

theorem exec_updAtArm_of_awake {s : State} (h : s.awake = true) : exec .updAtArm s = .next s.armAt :=
  congrArg _ (State.ctl_of_awake _ h)

theorem exec_updAtCancel_of_awake {s : State} (h : s.awake = true) : exec .updAtCancel s = .next s.cancelAt :=
  congrArg _ (State.ctl_of_awake _ h)

/-! ### When an update is due -/

theorem State.posted_mem_dues {s : State} {p : Posting} (h : p ∈ s.regs.posted) : p.at_ ∈ s.dues := by
  simp only [State.dues, List.mem_append]
  exact .inl <| .inl <| .inl <| .inl <| .inl (List.mem_map_of_mem h)

theorem State.armed_mem_dues {s : State} (h : s.regs.atPend = true) : s.atTide - 1024 ∈ s.dues := by
  simp [State.dues, h]

/-- A pending armed update is posted by the launch 1,024 tide units ahead of its tide value, where nothing is due before. -/
theorem exec_updAtPost_launch {s : State} (ht : s.ticking = true) (hp : s.regs.atPend = true)
    (hT : s.tide + 1024 < s.atTide) (hd : ∀ d ∈ s.dues, s.atTide - 1024 ≤ d) :
    exec .updAtPost s = .next (s.launch (s.atTide - 1024) []) := by
  change Host.Outcome.next (s.await (if s.regs.atPend then some (s.atTide - 1024) else none)) = _
  rw [if_pos hp, State.await_launch s _ ht (by omega) (State.armed_mem_dues hp) hd]

theorem exec_updAtPost_of_not_pending {s : State} (h : s.regs.atPend = false) : exec .updAtPost s = .next s := by
  change Host.Outcome.next (s.await (if s.regs.atPend then some (s.atTide - 1024) else none)) = _
  rw [h]; rfl

/-- The first of the posted updates takes effect by the launch of its tide value, where nothing is due before. -/
theorem exec_updateTakesEffect_launch {s : State} {p : Posting} (ht : s.ticking = true) (hp : p ∈ s.regs.posted)
    (hT : s.tide < p.at_) (hd : ∀ d ∈ s.dues, p.at_ ≤ d) :
    exec .updateTakesEffect s = .next (s.launch p.at_ []) := by
  have first : earliest (s.regs.posted.map (·.at_)) = some p.at_ := by
    refine earliest_eq _ _ (List.mem_map_of_mem hp) fun x hx => ?_
    obtain ⟨q, hq, rfl⟩ := List.mem_map.mp hx
    exact hd _ (State.posted_mem_dues hq)
  change Host.Outcome.next (s.await (earliest (s.regs.posted.map (·.at_)))) = _
  rw [first, State.await_launch s _ ht hT (State.posted_mem_dues hp) hd]

theorem exec_updateTakesEffect_of_none_posted {s : State} (h : s.regs.posted = []) :
    exec .updateTakesEffect s = .next s := by
  change Host.Outcome.next (s.await (earliest (s.regs.posted.map (·.at_)))) = _
  rw [h]; rfl

/-! ### The parts of a launch -/

/-- No posted slot of any kind is reached while all of them lie ahead. -/
theorem State.reached_eq_nil {s : State} (h : ∀ e ∈ s.cad.posted, s.tide < e.at_) (kind : Nat) : s.reached kind = [] := by
  simp only [State.reached, List.filter_eq_nil_iff, Bool.and_eq_true, decide_eq_true_eq, not_and]
  intro e he _
  have := h e he
  omega

/-- No subchannel takes a slot while all posted slots lie ahead, and they stay posted. -/
theorem State.allSlots_none {s : State} (h : ∀ e ∈ s.cad.posted, s.tide < e.at_) : s.allSlots = s := by
  have stay : (s.cad.posted.filter fun e => !decide (e.at_ ≤ s.tide)) = s.cad.posted :=
    List.filter_eq_self.mpr fun e he => by simp [h e he]
  simp [State.allSlots, State.reached_eq_nil h, stay]

/-- Where only the armed update's posting time has come, the postings are that update's. -/
theorem State.posts_armed {s : State} (h : ∀ k n, s.cad.next.at k = some n → s.tide + 1024 < n)
    (ha : s.regs.atPend = true) (hT : s.atTide ≤ s.tide + 1024) : s.posts = s.postArmed := by
  have slots : ∀ k, s.postDue k = s := fun k => by
    unfold State.postDue
    split
    next T hk => rw [if_neg (by have := h k T hk; omega)]
    next => rfl
  simp [State.posts, foldl_fix _ _ slots, ha, hT]

/-- With nothing posted before, the armed update is the one posted. -/
theorem State.postArmed_of_none_posted {s : State} (h : s.regs.posted = []) :
    s.postArmed = { s with regs := { s.regs with
      atPend := false, atPosted := true
      posted := [{ groups := strobeMask (s.prog 0x038), at_ := s.atTide, armed := true }] } } := by
  simp only [State.postArmed, State.post, h, List.nil_append]

/-- A single posted update that is due takes effect, and is kept among those of this CCLK. -/
theorem State.takeUpdates_single {s : State} {p : Posting} (h : s.regs.posted = [p]) (hT : p.at_ = s.tide) :
    s.takeUpdates =
      ({ s with regs := { s.regs with posted := [], lately := s.regs.lately ++ [p] } } : State).takeUpdate p := by
  simp [State.takeUpdates, h, ← hT]

/-- A launch off the sync marks at which no posted slot is due: no cut takes place. -/
theorem State.launch_no_slot {s : State} {T : Nat} (hT : s.tide < T) (hm : T % 4096 ≠ 0)
    (hc : ∀ e ∈ s.cad.posted, T < e.at_) :
    s.launch T [] = (s.advance T).takeUpdates.posts.allSlots.gates.settleAll.sweepFails := by
  obtain ⟨tide, cad, -⟩ := State.advance_frame s T hT
  have cuts : (s.advance T).cuts = s.advance T :=
    State.cuts_none _ (State.reached_eq_nil (by rwa [tide, cad]) 3)
  simp only [State.launch_eq s T hT, if_neg hm, cuts]

/-- A launch at which an armed update's posting is the only thing due posts it. -/
theorem State.launch_posts_armed {s : State} {T : Nat} (hT : s.tide < T) (hm : T % 4096 ≠ 0)
    (hn : ∀ k n, s.cad.next.at k = some n → T + 1024 < n) (hc : ∀ e ∈ s.cad.posted, T < e.at_)
    (hu : s.regs.posted = []) (hg : ∀ n, (s.chan n).gate = none) (ha : s.regs.atPend = true)
    (hat : (s.advance T).atTide = T + 1024) :
    s.launch T [] = (s.advance T).postArmed.settleAll.sweepFails := by
  obtain ⟨tide, cad, -, posted, pend, gates⟩ := State.advance_frame s T hT
  have posts : (s.advance T).posts = (s.advance T).postArmed :=
    State.posts_armed (by rwa [tide, cad]) (pend.trans ha) (by omega)
  have slots : (s.advance T).postArmed.allSlots = (s.advance T).postArmed :=
    State.allSlots_none (s := (s.advance T).postArmed) (by
      change ∀ e ∈ (s.advance T).cad.posted, (s.advance T).tide < e.at_
      rwa [tide, cad])
  have noGates : (s.advance T).postArmed.gates = (s.advance T).postArmed :=
    State.gates_none _ fun n => (gates n).trans (hg n)
  rw [State.launch_no_slot hT hm hc, State.takeUpdates_none _ (posted.trans hu), posts, slots, noGates]

/-- A launch at which the only posted update is due, and no posted slot: the update takes effect there. -/
theorem State.launch_takes_update {s : State} {p : Posting} (hT : s.tide < p.at_) (hm : p.at_ % 4096 ≠ 0)
    (hc : ∀ e ∈ s.cad.posted, p.at_ < e.at_) (hp : s.regs.posted = [p]) :
    s.launch p.at_ [] =
      (({ s.advance p.at_ with regs := { (s.advance p.at_).regs with
          posted := [], lately := (s.advance p.at_).regs.lately ++ [p] } } : State).takeUpdate
        p).posts.allSlots.gates.settleAll.sweepFails := by
  obtain ⟨tide, -, -, posted, -⟩ := State.advance_frame s p.at_ hT
  rw [State.launch_no_slot hT hm hc, State.takeUpdates_single (posted.trans hp) tide.symm]

/-! ### A register takes its shadow -/

theorem State.install_live_self {s : State} (key : Nat) (h : s.regs.live.wf resetWord = true) :
    (s.install key).live key = blend (regInfo key).rws (s.live key) (s.prog key) :=
  State.setLive_live s key _ h

theorem State.install_live_ne (s : State) {key k : Nat} (h : k ≠ key) : (s.install key).live k = s.live k :=
  State.setLive_live_ne s _ h

end Sys2Proof.Machine
end

section
/-! CERTIFICATE. Updates are posted and take effect. -/

namespace Sys2Proof.Machine

/-- Settles O16: a write of UPD_STROBE or UPD_AT by its own equation, a posting and an update's taking effect as the launch of
the tide value at which they are the first thing due, and that launch part by part where nothing else is due there. -/
theorem updates : Obligations.Updates := by
  unfold Obligations.Updates
  refine ⟨⟨?strobe, ?arm, ?cancel, ?postLaunch, ?postAlone, ?notPending⟩,
    ⟨?takeLaunch, ?takeAlone, ?install, ?others, ?nonePosted⟩⟩
  case strobe => exact fun data s hs hd => exec_updStrobe_of_awake hs hd
  case arm =>
    intro s hs
    simp only [exec_updAtArm_of_awake hs, State.armAt, Bool.or_eq_true]
  case cancel => exact fun s hs => exec_updAtCancel_of_awake hs
  case postLaunch => exact fun s ht hp hT hd => exec_updAtPost_launch ht hp hT hd
  case postAlone =>
    intro s v ht hp hT hm hd hn hc hu hg hv hat
    rw [hv] at hat ⊢
    obtain ⟨-, -, -, posted, -⟩ := State.advance_frame s (s.atTide - 1024) (by omega)
    rw [exec_updAtPost_launch ht hp hT hd, State.launch_posts_armed (by omega) hm
      (fun k n hk => by have := hn k n hk; omega) hc hu hg hp (by omega),
      State.postArmed_of_none_posted (posted.trans hu), hat]
  case notPending => exact fun s h => exec_updAtPost_of_not_pending h
  case takeLaunch => exact fun p s ht hp hT hd => exec_updateTakesEffect_launch ht hp hT hd
  case takeAlone =>
    rintro p s v ht hp hT hm hd hc rfl
    have mem : p ∈ s.regs.posted := by simp [hp]
    rw [exec_updateTakesEffect_launch ht mem hT hd, State.launch_takes_update hT hm hc hp]
    rfl
  case install =>
    rintro s key ⟨⟨-, live, -⟩, -⟩
    exact State.install_live_self key live
  case others => exact fun s key k h => State.install_live_ne s h
  case nonePosted => exact fun s h => exec_updateTakesEffect_of_none_posted h

end Sys2Proof.Machine
end

section
/-! SUPPORT. What enters and leaves a host port (chapter 2): requests, write data and response credits taken in, turned away
or lost, and the beat that a port sends. -/

namespace Sys2Proof.Machine

/-! ### Clean words, and what an injection leaves alone -/

@[simp] theorem acts_none : acts none = false := rfl

@[simp] theorem State.readG_none (s : State) (src : Nat) : s.readG src none = s := rfl

@[simp] theorem State.spendG_fcol (s : State) (b : Option Bad) : (s.spendG b).fcol = s.fcol := by
  cases b <;> rfl

/-- Reading beats without a bad byte changes nothing. -/
theorem State.foldl_readG_of_clean (s : State) {data : List Beat} (src : Nat) (h : ∀ x ∈ data, x.bad = none) :
    data.foldl (fun (t : State) (x : Beat) => t.readG src x.bad) s = s := by
  induction data with
  | nil => rfl
  | cons x data ih =>
    rw [List.foldl_cons, h x List.mem_cons_self, State.readG_none]
    exact ih fun y hy => h y (List.mem_cons_of_mem x hy)

/-! ### Requests (R39, R46, R72, R486) -/

theorem Port.mode_ne_safe_of_checks {q : Port} (h : q.checks = true) : q.mode ≠ .safe := by
  intro e
  simp [Port.checks, e] at h

/-- All eight request commands take the word on the wires (R41). -/
theorem exec_requestCmds {p : PortId} {w : BitVec 144} {par : BitVec 18} {i : Instr} (s : State)
    (h : i ∈ requestCmds p w par) : exec i s = .next ((s.takeRequest p w par).portAfter p) := by
  simp only [requestCmds, List.mem_cons, List.not_mem_nil, or_false] at h
  obtain rfl | rfl | rfl | rfl | rfl | rfl | rfl | rfl := h <;> rfl

section Requests
variable {s : State} {p : PortId} {w : BitVec 144} {par : BitVec 18}

theorem State.takeRequest_of_ok {o : Opc} (hc : (s.port p).checks = true) (he : reqError (s.port p) w par = none)
    (ho : opcOf (field w 3 0) = some o) :
    s.takeRequest p w par =
      (if s.fcol.safe then (s.bufferRequest p (reqOf o w)).modPort p Port.answerBuffered
        else s.bufferRequest p (reqOf o w)).updFlood p := by
  have safe : (s.bufferRequest p (reqOf o w)).fcol.safe = s.fcol.safe := by simp [State.bufferRequest]
  simp only [State.takeRequest, if_neg (Port.mode_ne_safe_of_checks hc), if_pos hc, he, ho, safe]

theorem State.takeRequest_of_error {reason : Nat} (hc : (s.port p).checks = true)
    (he : reqError (s.port p) w par = some reason) :
    s.takeRequest p w par = (s.portErr p reason (tagOf w)).updFlood p := by
  simp only [State.takeRequest, if_neg (Port.mode_ne_safe_of_checks hc), if_pos hc, he]

theorem State.takeRequest_of_safe (hm : (s.port p).mode = .safe) : s.takeRequest p w par = s.safeRequest p w := by
  simp only [State.takeRequest, if_pos hm]

theorem State.takeRequest_of_unchecked (hm : (s.port p).mode ≠ .safe) (hc : (s.port p).checks = false) :
    s.takeRequest p w par = s := by
  simp [State.takeRequest, hm, hc]

theorem State.safeRequest_of_no_credit (hq : (s.port p).reqCrd = 0) : s.safeRequest p w = s := by
  simp only [State.safeRequest, if_pos hq]

/-- A SAFE port answers what is neither a NOP nor reserved (R486). -/
theorem State.safeRequest_answers {o : Opc} (hq : 0 < (s.port p).reqCrd) (ho : opcOf (field w 3 0) = some o)
    (hn : o ≠ .nop) :
    s.safeRequest p w = ((s.modPort p Port.passCredit).modPort p fun q =>
      { q with flights := q.flights ++ [flightOf s.nextId (reqOf o w) .absent] }).stamp := by
  simp only [State.safeRequest, if_neg (Nat.ne_of_gt hq), ho]

/-- A SAFE port passes the credit of a NOP and of a reserved opcode (R486). -/
theorem State.safeRequest_passes (hq : 0 < (s.port p).reqCrd)
    (ho : opcOf (field w 3 0) = none ∨ opcOf (field w 3 0) = some .nop) :
    s.safeRequest p w = s.modPort p Port.passCredit := by
  obtain ho | ho := ho <;> simp only [State.safeRequest, if_neg (Nat.ne_of_gt hq), ho]

end Requests

/-! ### Write data and response credits (R46, R54, R71, R486) -/

section Beats
variable {s : State} {p : PortId} {d : Line} {par : BitVec 64} {last : Bool}

theorem State.takeBeat_of_ok (hc : (s.port p).checks = true) (hw : (s.port p).wdCrd ≠ 0) (hp : parityOk d par = true) :
    s.takeBeat p d par last = (((s.modPort p fun q =>
      { q with
        wdCrd := q.wdCrd - 1
        wdOpen := if last then [] else q.wdOpen ++ [{ data := d, bad := s.armedG 1 p.val }]
        wdGroups := if last then q.wdGroups ++ [q.wdOpen ++ [{ data := d, bad := s.armedG 1 p.val }]]
          else q.wdGroups }).spendG (s.armedG 1 p.val)).updFlood p) := by
  simp only [State.takeBeat, if_neg (Port.mode_ne_safe_of_checks hc), if_pos hc, if_neg hw, hp, Bool.not_true,
    Bool.false_eq_true, if_false]

/-- The missing credit is found before the wrong parity (R74). -/
theorem State.takeBeat_of_error (hc : (s.port p).checks = true) (h : (s.port p).wdCrd = 0 ∨ parityOk d par = false) :
    s.takeBeat p d par last = s.portErr p (if (s.port p).wdCrd = 0 then 9 else 14) 0 := by
  simp only [State.takeBeat, if_neg (Port.mode_ne_safe_of_checks hc), if_pos hc]
  by_cases hw : (s.port p).wdCrd = 0
  · simp only [if_pos hw]
  · simp only [if_neg hw, h.resolve_left hw, Bool.not_false, if_true]

theorem State.takeBeat_of_safe (hm : (s.port p).mode = .safe) (hw : (s.port p).wdCrd ≠ 0) :
    s.takeBeat p d par last =
      s.modPort p fun q => { q with wdCrd := q.wdCrd - 1 }.returnWd 1 s.mill.withhold := by
  simp only [State.takeBeat, if_pos hm, if_neg hw]

theorem State.takeBeat_of_safe_no_credit (hm : (s.port p).mode = .safe) (hw : (s.port p).wdCrd = 0) :
    s.takeBeat p d par last = s := by
  simp only [State.takeBeat, if_pos hm, if_pos hw]

theorem State.takeBeat_of_unchecked (hm : (s.port p).mode ≠ .safe) (hc : (s.port p).checks = false) :
    s.takeBeat p d par last = s := by
  simp [State.takeBeat, hm, hc]

end Beats

theorem State.takeRspCredit_counts {s : State} {p : PortId} (hm : (s.port p).mode ≠ .closed)
    (hr : (s.port p).rspCrd < 4095) : s.takeRspCredit p = s.modPort p fun q => { q with rspCrd := q.rspCrd + 1 } := by
  simp only [State.takeRspCredit, if_neg hm, if_neg (Nat.not_le.mpr hr)]

theorem State.takeRspCredit_of_error {s : State} {p : PortId} (hc : (s.port p).checks = true)
    (hr : 4095 ≤ (s.port p).rspCrd) : s.takeRspCredit p = s.portErr p 10 0 := by
  have notClosed : (s.port p).mode ≠ .closed := fun e => by simp [Port.checks, e] at hc
  simp only [State.takeRspCredit, if_neg notClosed, if_pos hr, if_pos hc]

theorem State.takeRspCredit_of_closed {s : State} {p : PortId} (hm : (s.port p).mode = .closed) :
    s.takeRspCredit p = s := by
  simp only [State.takeRspCredit, if_pos hm]

theorem State.takeRspCredit_of_unchecked {s : State} {p : PortId} (hc : (s.port p).checks = false)
    (hr : 4095 ≤ (s.port p).rspCrd) : s.takeRspCredit p = s := by
  simp [State.takeRspCredit, hr, hc]

/-! ### Response beats (R48, R471) -/

theorem Port.countBeat_eq (q : Port) (o : RspOut) :
    q.countBeat o = { q with rdCnt := if countsRead o then q.rdCnt + 1 else q.rdCnt } := by
  unfold Port.countBeat
  split <;> rfl

theorem exec_responseBeat_of_choice {s : State} {p : PortId} {f : Flight} {b : Rsp} (hs : s.maySend p = true)
    (hc : s.chooseBeat p = some (f, b)) : exec (.responseBeat p) s = .next ((s.sendBeat p f b).portAfter p) := by
  change execResponseBeat p s = _
  simp only [execResponseBeat, if_pos hs, hc]

end Sys2Proof.Machine
end

section
/-! CERTIFICATE. Requests, write data, credits and response beats at a host port; every command answers. -/

namespace Sys2Proof.Machine

/-- Settles O3, by the equation of a request that fails no check. -/
theorem requestEntersBuffer : Obligations.RequestEntersBuffer := by
  unfold Obligations.RequestEntersBuffer
  intro p w par i o s hi hc he ho
  rw [exec_requestCmds s hi, State.takeRequest_of_ok hc he ho]
  rfl

/-- Settles O4: the error, the SAFE port with and without credit, and the port that checks nothing, each by its equation. -/
theorem requestsTurnedAway : Obligations.RequestsTurnedAway := by
  unfold Obligations.RequestsTurnedAway
  refine ⟨?error, ?answered, ?passed, ?lost⟩
  case error =>
    intro p w par i reason s hi hc he
    rw [exec_requestCmds s hi, State.takeRequest_of_error hc he]
    rfl
  case answered =>
    intro p w par i o s hi hm hq ho hn
    rw [exec_requestCmds s hi, State.takeRequest_of_safe hm, State.safeRequest_answers hq ho hn]
    rfl
  case passed =>
    intro p w par i s hi hm hq ho
    rw [exec_requestCmds s hi, State.takeRequest_of_safe hm, State.safeRequest_passes hq ho]
    rfl
  case lost =>
    rintro p w par i s hi (⟨hm, hq⟩ | ⟨hm, hc⟩)
    · rw [exec_requestCmds s hi, State.takeRequest_of_safe hm, State.safeRequest_of_no_credit hq]
    · rw [exec_requestCmds s hi, State.takeRequest_of_unchecked hm hc]

/-- Settles O5: a write-data beat and a returning response credit by the equation of each case. -/
theorem writeBeatsAndResponseCredits : Obligations.WriteBeatsAndResponseCredits := by
  unfold Obligations.WriteBeatsAndResponseCredits
  have beat (p : PortId) (d : Line) (par : BitVec 64) (last : Bool) (s : State) :
      exec (.writeDataBeat p d par last) s = .next ((s.takeBeat p d par last).portAfter p) := rfl
  have credit (p : PortId) (s : State) :
      exec (.responseCreditReturn p) s = .next ((s.takeRspCredit p).portAfter p) := rfl
  refine ⟨?enters, ?error, ?dropped, ?lost, ?counted, ?tooMany, ?ignored⟩
  case enters =>
    intro p d par last s hc hw hp
    rw [beat, State.takeBeat_of_ok hc hw hp]
  case error =>
    intro p d par last s hc h
    rw [beat, State.takeBeat_of_error hc h]
  case dropped =>
    intro p d par last s hm hw
    rw [beat, State.takeBeat_of_safe hm hw]
  case lost =>
    rintro p d par last s (⟨hm, hw⟩ | ⟨hm, hc⟩)
    · rw [beat, State.takeBeat_of_safe_no_credit hm hw]
    · rw [beat, State.takeBeat_of_unchecked hm hc]
  case counted =>
    intro p s hm hr
    rw [credit, State.takeRspCredit_counts hm hr]
  case tooMany =>
    intro p s hc hr
    rw [credit, State.takeRspCredit_of_error hc hr]
  case ignored =>
    rintro p s (hm | ⟨hc, hr⟩)
    · rw [credit, State.takeRspCredit_of_closed hm]
    · rw [credit, State.takeRspCredit_of_unchecked hc hr]

/-- Settles O7, by the equation of a port that may send and has chosen its beat. -/
theorem responseBeatLeaves : Obligations.ResponseBeatLeaves := by
  unfold Obligations.ResponseBeatLeaves
  intro p f b s hs hc
  simp only [exec_responseBeat_of_choice hs hc, State.sendBeat, Port.countBeat_eq]

/-- Settles O47: a command answers by the law of what every command keeps, a step by that and by the tick of an empty
queue. -/
theorem commandsAnswerNext : Obligations.CommandsAnswerNext := by
  unfold Obligations.CommandsAnswerNext
  have answers (i : Instr) (s : State) : ∃ t, exec i s = .next t := by
    obtain ⟨t, ht, -⟩ := exec_passed i s
    exact ⟨t, ht⟩
  refine ⟨answers, fun s => ?_⟩
  unfold step
  split
  next => exact ⟨s.tick, rfl⟩
  next c rest _ => exact answers c { s with pending := rest }

end Sys2Proof.Machine
end

section
/-! SUPPORT. Admission at a host port (R56 to R58, R65, R88, R111): when the head of the request buffer stays, and what each
part of its leaving does under the decision made. -/

namespace Sys2Proof.Machine

/-! ### Which requests touch lines -/

theorem Req.touches_of_isWrite {r : Req} (h : r.opc.isWrite = true) : r.touches = true := by
  simp [Req.touches, h]

theorem Req.touches_of_fence {r : Req} (h : r.opc = .efence ∨ r.opc = .pfence) : r.touches = false := by
  obtain h | h := h <;> simp [Req.touches, h, Opc.isRead, Opc.isWrite]

theorem Req.ne_nop_of_touches {r : Req} (h : r.touches = true) : r.opc ≠ .nop := fun e => by
  simp [Req.touches, e, Opc.isRead, Opc.isWrite] at h

theorem Req.ne_efence_of_touches {r : Req} (h : r.touches = true) : r.opc ≠ .efence := fun e => by
  simp [Req.touches, e, Opc.isRead, Opc.isWrite] at h

/-! ### The decision and what it leaves behind -/

section Decision
variable {s : State} {p : PortId} {r : Req} {d : WcuRes} {code : Option Code}

theorem State.decision_of_ne_efence (h : r.opc ≠ .efence) : s.decision p r = s.wcu p r := if_neg h

/-- A fence that its window does not deny meets a decision that passes (R88, R213). -/
theorem State.decision_passes_fence (h : r.opc = .efence ∨ (r.opc = .pfence ∧ (s.wcu p r).pass = true)) :
    (s.decision p r).pass = true := by
  obtain h | ⟨h, pass⟩ := h
  · simp [State.decision, h]
  · rwa [State.decision_of_ne_efence (by simp [h])]

/-- Conditions 1 to 4 of R58 do not answer a fence that passes. -/
theorem State.decideCode_of_not_touches (hs : s.fcol.safe = false) (ht : r.touches = false) (hd : d.pass = true) :
    s.decideCode r d = none := by
  obtain ⟨read, write⟩ : r.opc.isRead = false ∧ r.opc.isWrite = false := by simpa [Req.touches] using ht
  simp [State.decideCode, hs, hd, read, write]

theorem State.decideCode_denied (hs : s.fcol.safe = false) (he : r.opc ≠ .efence) (hd : d.pass = false) :
    s.decideCode r d = some .denied := by
  simp [State.decideCode, hs, he, hd]

theorem State.countWcu_of_pass (hd : d.pass = true) : s.countWcu p r d code = s.countWbx p r d := by
  simp [State.countWcu, hd]

theorem State.countWcu_denied (hd : d.pass = false) : s.countWcu p r d (some .denied) = s.violate p r d := by
  simp [State.countWcu, hd]

theorem State.countWbx_of_not_touches (ht : r.touches = false) : s.countWbx p r d = s := by
  obtain ⟨-, write⟩ : r.opc.isRead = false ∧ r.opc.isWrite = false := by simpa [Req.touches] using ht
  simp [State.countWbx, write]

theorem State.tellOverrun_of_ne_absent (h : code ≠ some .absent) : s.tellOverrun r code = s := by
  simp [State.tellOverrun, h]

theorem State.waitsRoom_of_empty {b : BufReq} (h : b.req.empty = true) : s.waitsRoom p b = false := by
  simp [State.waitsRoom, h]

theorem State.waitsRoom_of_not_touches {b : BufReq} (h : b.req.touches = false) : s.waitsRoom p b = false := by
  rw [Req.touches] at h
  simp [State.waitsRoom, h]

end Decision

/-! ### What enters the crossbar -/

@[simp] theorem State.toXbar_nil (s : State) : s.toXbar [] = s := by
  simp [State.toXbar]

section Crossing
variable {s : State} {p : PortId} {r : Req} {f : Flight} {code : Option Code} {data : List Beat}

theorem State.crossing_of_undecided (ht : r.touches = true) (he : r.empty = false) :
    s.crossing p r f none data = s.route (.hp p) r f.cls f.epoch (s.requestLines r data) := by
  simp [State.crossing, ht, he]

theorem State.crossing_of_decided (c : Code) : s.crossing p r f (some c) data = [] := by
  simp [State.crossing]

theorem State.crossing_of_empty (he : r.empty = true) : s.crossing p r f code data = [] := by
  simp [State.crossing, he]

theorem State.crossing_of_not_touches (ht : r.touches = false) : s.crossing p r f code data = [] := by
  simp [State.crossing, ht]

end Crossing

/-! ### The head stays, is dropped, is found bad, or is admitted -/

theorem exec_requestAdmit (p : PortId) (s : State) :
    exec (.requestAdmit p) s = .next ((s.admitFront p).portAfter p) := rfl

section Front
variable {s : State} {p : PortId} {b : BufReq} {rest : List BufReq}

theorem State.admitFront_of_buffer_empty (hb : (s.port p).reqBuf = []) : s.admitFront p = s := by
  simp only [State.admitFront, hb]

theorem State.admitFront_of_shut (hm : (s.port p).mode = .closed ∨ (s.port p).mode = .safe) : s.admitFront p = s := by
  cases hb : (s.port p).reqBuf with
  | nil => exact State.admitFront_of_buffer_empty hb
  | cons b rest => simp only [State.admitFront, hb, if_pos hm]

theorem State.admitFront_of_bad (hb : (s.port p).reqBuf = b :: rest) (hc : (s.port p).mode ≠ .closed)
    (hs : (s.port p).mode ≠ .safe) (ha : acts b.bad = true) :
    s.admitFront p = (s.hitG.modPort p fun q => { q with reqBuf := [] }).portErr p 13 b.req.tag := by
  simp only [State.admitFront, hb, if_neg (not_or.mpr ⟨hc, hs⟩), if_pos ha]

/-- A hold, or a crossbar without room, keeps a head with right parity (R56, R65, R76, R111). -/
theorem State.admitFront_stays (hb : (s.port p).reqBuf = b :: rest) (ha : acts b.bad = false)
    (h : s.holdCause p ≠ 0 ∨ (b.req.opc ≠ .nop ∧ s.waitsRoom p b = true)) : s.admitFront p = s := by
  by_cases hm : (s.port p).mode = .closed ∨ (s.port p).mode = .safe
  · exact State.admitFront_of_shut hm
  · simp only [State.admitFront, hb, if_neg hm, ha, Bool.false_eq_true, if_false]
    by_cases hh : s.holdCause p = 0
    · obtain ⟨hn, hw⟩ := h.resolve_left (not_not_intro hh)
      simp only [hh, ne_eq, not_true_eq_false, if_false, if_neg hn, if_pos hw]
    · rw [if_pos hh]

section Leaves
variable (hb : (s.port p).reqBuf = b :: rest) (hc : (s.port p).mode ≠ .closed) (hs : (s.port p).mode ≠ .safe)
  (hg : b.bad = none) (hh : s.holdCause p = 0)
include hb hc hs hg hh

/-- A NOP leaves for its credit (R45). -/
theorem State.admitFront_nop (hn : b.req.opc = .nop) :
    s.admitFront p = s.modPort p fun q => { q with reqBuf := rest }.payCredits 0 false := by
  have tail : (s.ports.at p).reqBuf.tail = rest := congrArg List.tail hb
  simp only [State.admitFront, hb, if_neg (not_or.mpr ⟨hc, hs⟩), hg, acts_none, Bool.false_eq_true, if_false, hh, ne_eq,
    not_true_eq_false, if_pos hn, State.dropNop, State.modPort, tail]

theorem State.admitFront_admits (hn : b.req.opc ≠ .nop) (hw : s.waitsRoom p b = false) :
    s.admitFront p = s.admitHead p b := by
  simp only [State.admitFront, hb, if_neg (not_or.mpr ⟨hc, hs⟩), hg, acts_none, Bool.false_eq_true, if_false, hh, ne_eq,
    not_true_eq_false, if_neg hn, hw, Option.isSome_none]

/-- The head that nothing keeps is admitted under its decision `d` and the CODE decided for it (R57, R58, R88). -/
theorem exec_requestAdmit_decided {d : WcuRes} {code : Option Code} (hn : b.req.opc ≠ .nop)
    (hw : s.waitsRoom p b = false) (hx : ∀ x ∈ b.data, x.bad = none) (hd : s.decision p b.req = d)
    (hk : s.decideCode b.req d = code) :
    exec (.requestAdmit p) s = .next (
      let f := s.newFlight p b.req d code
      ((((s.leaveBuffer p f b.data.length).countWcu p b.req d code).tellOverrun b.req code).toXbar
        (s.crossing p b.req f code b.data)).stamp.portAfter p) := by
  rw [exec_requestAdmit, State.admitFront_admits hb hc hs hg hh hn hw]
  simp only [State.admitHead, State.foldl_readG_of_clean s 528 hx, hd, hk]

end Leaves
end Front

end Sys2Proof.Machine
end

section
/-! CERTIFICATE. Admission at a host port. -/

namespace Sys2Proof.Machine

/-- Settles O6: the head that stays, the NOP and the bad word by their equations, every other head by the equation of an
admission under its decision, of which each case leaves the parts that it does not concern. -/
theorem admissionTakesHead : Obligations.AdmissionTakesHead := by
  unfold Obligations.AdmissionTakesHead
  refine ⟨?nop, ?crosses, ?emptyWrite, ?fence, ?denied, ?answered, ?badWord, ?nothing, ?kept⟩
  case nop =>
    intro p b rest s hb hc hs hg hh hn
    rw [exec_requestAdmit, State.admitFront_nop hb hc hs hg hh hn]
  case crosses =>
    intro p b rest s hb hc hs hg hh ht he hp hk hw hx
    rw [exec_requestAdmit_decided hb hc hs hg hh (Req.ne_nop_of_touches ht) hw hx
      (State.decision_of_ne_efence (Req.ne_efence_of_touches ht)) hk]
    simp only [State.countWcu_of_pass hp, State.tellOverrun_of_ne_absent (code := none) nofun,
      State.crossing_of_undecided ht he]
  case emptyWrite =>
    intro p b rest s hb hc hs hg hh hwr he hp hk hx
    have ht := Req.touches_of_isWrite hwr
    rw [exec_requestAdmit_decided hb hc hs hg hh (Req.ne_nop_of_touches ht) (State.waitsRoom_of_empty he) hx
      (State.decision_of_ne_efence (Req.ne_efence_of_touches ht)) hk]
    simp only [State.countWcu_of_pass hp, State.tellOverrun_of_ne_absent (code := none) nofun,
      State.crossing_of_empty he, State.toXbar_nil]
  case fence =>
    intro p b rest s hb hc hs hg hh hdata hsafe hf
    have ht : b.req.touches = false := Req.touches_of_fence (hf.imp_right And.left)
    have hn : b.req.opc ≠ .nop := by obtain h | ⟨h, -⟩ := hf <;> simp [h]
    have hd := State.decision_passes_fence hf
    rw [exec_requestAdmit_decided hb hc hs hg hh hn (State.waitsRoom_of_not_touches ht) (by simp [hdata]) rfl
      (State.decideCode_of_not_touches hsafe ht hd)]
    simp only [State.countWcu_of_pass hd, State.countWbx_of_not_touches ht,
      State.tellOverrun_of_ne_absent (code := none) nofun, State.crossing_of_not_touches ht, State.toXbar_nil, hdata,
      List.length_nil]
  case denied =>
    intro p b rest s hb hc hs hg hh hn he hp hsafe hw hx
    rw [exec_requestAdmit_decided hb hc hs hg hh hn hw hx (State.decision_of_ne_efence he)
      (State.decideCode_denied hsafe he hp)]
    simp only [State.countWcu_denied hp, State.tellOverrun_of_ne_absent (code := some .denied) nofun,
      State.crossing_of_decided, State.toXbar_nil]
  case answered =>
    intro p b rest code s hb hc hs hg hh ht hp hk hw hx
    rw [exec_requestAdmit_decided hb hc hs hg hh (Req.ne_nop_of_touches ht) hw hx
      (State.decision_of_ne_efence (Req.ne_efence_of_touches ht)) hk]
    simp only [State.countWcu_of_pass hp, State.crossing_of_decided, State.toXbar_nil]
  case badWord =>
    intro p b rest s hb hc hs ha
    rw [exec_requestAdmit, State.admitFront_of_bad hb hc hs ha]
  case nothing =>
    rintro p s (hb | hm)
    · rw [exec_requestAdmit, State.admitFront_of_buffer_empty hb]
    · rw [exec_requestAdmit, State.admitFront_of_shut hm]
  case kept =>
    intro p b rest s hb ha h
    rw [exec_requestAdmit, State.admitFront_stays hb ha h]

end Sys2Proof.Machine
end

section
/-! SUPPORT. Acceptance of taken writes (R117, R217, R248), admission and acknowledgement of the mirror stream (R253, R254) and
the resync engine (R268, R269). -/

namespace Sys2Proof.Machine

/-! ### Acceptance -/

section Accept
variable {s : State} {d : Dest}

theorem exec_writeAccept_of_none (h : (s.xbar.taken.find? fun e => e.dest == d) = none) :
    exec (.writeAccept d) s = .next s := by
  change execWriteAccept d s = _
  simp only [execWriteAccept, h]

theorem exec_writeAccept_of_strobe (h : s.pers.strobe = true) : exec (.writeAccept d) s = .next s := by
  cases ht : s.xbar.taken.find? fun e => e.dest == d with
  | none => exact exec_writeAccept_of_none ht
  | some e =>
    change execWriteAccept d s = _
    simp only [execWriteAccept, ht, h, Bool.true_or, if_true]

variable {e : XEntry} (ht : (s.xbar.taken.find? fun e => e.dest == d) = some e)
include ht

theorem exec_writeAccept_of_no_room (h : s.moRoom e = false) : exec (.writeAccept d) s = .next s := by
  change execWriteAccept d s = _
  simp only [execWriteAccept, ht, h, Bool.not_false, Bool.or_true, if_true]

theorem exec_writeAccept_accepts (hs : s.pers.strobe = false) (hr : s.moRoom e = true) :
    exec (.writeAccept d) s = .next (s.acceptWrite e) := by
  change execWriteAccept d s = _
  simp only [execWriteAccept, ht, hs, hr, Bool.not_true, Bool.or_false, Bool.false_eq_true, if_false]

end Accept

/-! ### Mirror-in admission (R253) -/

/-- A DATA packet stands for a write without a byte exactly when its MASK is all zeros (R43, R253). -/
theorem miReq_empty (p : Pkt) : (miReq p).empty = (p.mask == 0) := by
  by_cases h : p.mask = allOnes
  · simp [miReq, Req.empty, h, allOnes]
  · simp [miReq, Req.empty, h]

/-- The crossbar entries of a DATA packet's write, in class RT with the epoch in force; a resync copy of the poison pattern
with a full MASK is written as poison (R253, R281). -/
def State.miEntries (s : State) (p : Pkt) : List XEntry :=
  s.route .mi (miReq p) .rt s.pers.cur
    ((s.requestLines (miReq p) [{ data := p.data }]).map fun x =>
      { x with poison := p.rs && p.mask == allOnes && p.data == poisonLine })

section Mirror
variable {s : State} {l : Lane} {b : MiBeat}

theorem exec_miLineAdmit_in_turn {rest : List MiBeat} (hb : (s.mill.mi.at l).buf = b :: rest) (hp : b.pkt.ptype = 1)
    (hs : s.pers.strobe = false) (hf : s.fcol.safe = false) (he : b.epoch = s.mill.twin) :
    exec (.miLineAdmit l) s = .next (s.admitMi l b).miAfter := by
  change execMiLineAdmit l s = _
  simp [execMiLineAdmit, hb, hp, hs, hf, he]

theorem State.admitMi_of_bad {x : Bad} (hg : b.bad = some x) (hx : x.checkOnly = false) :
    s.admitMi l b = (s.readG 534 (some x)).streamBreak l 1 := by
  simp [State.admitMi, hg, acts, hx]

variable (hg : b.bad = none)
include hg

/-- A line that no channel can take counts as accepted (R379). -/
theorem State.admitMi_of_absent (ha : s.absentAt (miReq b.pkt) = true) :
    s.admitMi l b = ((s.freeMi l).dropMi (miReq b.pkt)).drainMi miPasses := by
  simp only [State.admitMi, hg, State.readG_none, acts_none, Bool.false_eq_true, if_false, if_pos ha]

variable (ha : s.absentAt (miReq b.pkt) = false)
include ha

/-- A line without a byte to write counts as accepted (R43, R121). -/
theorem State.admitMi_of_mask_zero (hm : b.pkt.mask = 0) : s.admitMi l b = (s.freeMi l).drainMi miPasses := by
  simp only [State.admitMi, hg, State.readG_none, acts_none, ha, Bool.false_eq_true, if_false, miReq_empty,
    beq_iff_eq.mpr hm, if_true]

theorem State.admitMi_enters (hm : b.pkt.mask ≠ 0) (hr : s.xbarRoom (s.miEntries b.pkt) = true) :
    s.admitMi l b = (
      let t := s.freeMi l
      let t : State := { t with
        xbar := { t.xbar with entries := t.xbar.entries ++ s.miEntries b.pkt }
        mill := { t.mill with flights := t.mill.flights ++ [{ id := t.nextId, twin := b.epoch, epoch := t.pers.cur }] } }
      t.stamp.drainMi miPasses) := by
  rw [State.miEntries] at hr
  simp only [State.admitMi, hg, State.readG_none, acts_none, ha, Bool.false_eq_true, if_false, miReq_empty,
    beq_false_of_ne hm, hr, Bool.not_true, State.miEntries]

end Mirror

/-! ### Acknowledgement (R254) -/

/-- A side that streams, or a linked SOLO, owes the ACK of the next twin epoch once the epoch's TRAILERs are taken and its
lines accepted (R254, R257). -/
theorem exec_ackDue_of_done {s : State} (hs : s.mill.streams = true ∨ (s.mill.st = .solo ∧ s.mill.linked = true))
    (h0 : s.mill.twin ≠ 0)
    (ht : s.mill.ackedTo + 1 < s.mill.twin ∨
      (s.mill.ackedTo + 1 = s.mill.twin ∧ ∀ k : Lane, k.val ∈ s.mill.trDone))
    (hf : ∀ f ∈ s.mill.flights, f.twin ≠ s.mill.ackedTo + 1) :
    exec .ackDue s = .next (s.modMill fun m =>
      { m with acks := m.acks ++ [m.ackedTo + 1], ackedTo := m.ackedTo + 1, applied := m.ackedTo + 1 }) := by
  have taking : (s.mill.streams || (s.mill.st == .solo && s.mill.linked)) = true := by simpa using hs
  have trailers : (decide (s.mill.ackedTo + 1 < s.mill.twin) || (s.mill.ackedTo + 1 == s.mill.twin &&
      allLanes.all fun k => s.mill.trDone.contains k.val)) = true := by
    simpa [allLanes] using ht
  have accepted : (s.mill.flights.any fun f => f.twin == s.mill.ackedTo + 1) = false := by simpa using hf
  change execAckDue s = _
  simp only [execAckDue, taking, trailers, accepted, bne_iff_ne.mpr h0, Bool.and_true, Bool.not_false, if_true]
  rfl

theorem exec_ackDue_of_unlinked {s : State} (hs : s.mill.streams = false) (hl : s.mill.linked = false) :
    exec .ackDue s = .next s := by
  change execAckDue s = _
  simp [execAckDue, hs, hl]

/-! ### The resync engine (R268, R269) -/

/-- The walk over a drift map without a bad word changes nothing. -/
theorem State.lookWalk_of_clean {s : State} (h : s.mill.driftBad = none) : s.lookWalk = s := by
  simp only [State.lookWalk, h]

section Engine
variable {s : State} (hst : s.mill.st = .resyncSrc) (ha : s.mill.rs.active = true) (he : s.mill.rs.ended = none)
  (hs : s.pers.strobe = false)
include hst ha he hs

theorem exec_resyncGranule_of_granule {g : Nat} (hg : s.mill.rs.gran = some g) :
    exec .resyncGranule s = .next (s.feedResync resyncBurst) := by
  change execResyncGranule s = _
  simp [execResyncGranule, hst, ha, he, hs, hg]

variable (hg : s.mill.rs.gran = none) (hb : s.mill.driftBad = none)
include hg hb

theorem exec_resyncGranule_takes {g : Nat} (hd : s.mill.drift.min? = some g) :
    exec .resyncGranule s = .next
      ((s.modMill fun m => { m with rs := { m.rs with gran := some g, next := 0 } }).feedResync resyncBurst) := by
  change execResyncGranule s = _
  simp [execResyncGranule, hst, ha, he, hs, hg, State.lookWalk_of_clean hb, hd]

theorem exec_resyncGranule_of_no_drift (hd : s.mill.drift.min? = none) : exec .resyncGranule s = .next s.endCopies := by
  change execResyncGranule s = _
  simp [execResyncGranule, hst, ha, he, hs, hg, State.lookWalk_of_clean hb, hd]

end Engine

/-- The granule's bit is cleared once all its reads have entered. -/
theorem State.feedResync_clears {s : State} {g : Nat} (n : Nat) (hg : s.mill.rs.gran = some g)
    (hn : driftLines ≤ s.mill.rs.next) :
    s.feedResync (n + 1) =
      ((s.writeDrift g false).modMill fun m => { m with rs := { m.rs with gran := none, next := 0 } }) := by
  simp only [State.feedResync, feedResyncReads, hg, if_pos hn, State.modMill]

theorem exec_resyncLineReturn_of_none {s : State} {g : Nat} {r : Fin 16384} {i : Fin 4}
    (hb : ∀ b ∈ s.mill.rs.back, b.1 ≠ 65536 * g + 4 * r.val + i.val) :
    exec (.resyncLineReturn g r i) s = .next s := by
  have noMatch : (s.mill.rs.back.find? fun b => b.1 == driftLines * g + 4 * r.val + i.val) = none :=
    List.find?_eq_none.mpr fun b hm => by simpa [driftLines] using hb b hm
  change execResyncLineReturn g r i s = _
  simp only [execResyncLineReturn, noMatch]

end Sys2Proof.Machine
end

section
/-! CERTIFICATE. Acceptance of taken writes; the mirror stream's admission and acknowledgement, and the resync engine. -/

namespace Sys2Proof.Machine

/-- Settles O9, by the equation of an acceptance and of each case where nothing is accepted. -/
theorem takenWriteIsAccepted : Obligations.TakenWriteIsAccepted := by
  unfold Obligations.TakenWriteIsAccepted
  refine ⟨?accepted, ?strobe, ?none, ?noRoom⟩
  case accepted => exact fun d e s ht hs hr => exec_writeAccept_accepts ht hs hr
  case strobe => exact fun d s hs => exec_writeAccept_of_strobe hs
  case none => exact fun d s ht => exec_writeAccept_of_none ht
  case noRoom => exact fun d e s ht hr => exec_writeAccept_of_no_room ht hr

/-- Settles O23: a DATA line in its turn by what admission makes of it, the ACK by its conditions, the resync engine by the
equation of a granule taken, of a read that enters and of a line that returns. -/
theorem mirrorInAdmissionAndResync : Obligations.MirrorInAdmissionAndResync := by
  unfold Obligations.MirrorInAdmissionAndResync
  refine ⟨⟨?enters, ?emptyMask, ?absent, ?bad, ?ack, ?unlinked⟩,
    ⟨?takes, ?goesOn, ?ends, ?reads, ?clears, ?copies, ?nothing⟩⟩
  case enters =>
    intro l b rest s hb hp hs hf he hg ha hm hr
    rw [exec_miLineAdmit_in_turn hb hp hs hf he, State.admitMi_enters hg ha hm hr]
    rfl
  case emptyMask =>
    intro l b rest s hb hp hs hf he hg ha hm
    rw [exec_miLineAdmit_in_turn hb hp hs hf he, State.admitMi_of_mask_zero hg ha hm]
    rfl
  case absent =>
    intro l b rest s hb hp hs hf he hg ha
    rw [exec_miLineAdmit_in_turn hb hp hs hf he, State.admitMi_of_absent hg ha]
    rfl
  case bad =>
    intro l b rest x s hb hp hs hf he hg hx
    rw [exec_miLineAdmit_in_turn hb hp hs hf he, State.admitMi_of_bad hg hx]
  case ack => exact fun s hs h0 ht hf => exec_ackDue_of_done hs h0 ht hf
  case unlinked => exact fun s hs hl => exec_ackDue_of_unlinked hs hl
  case takes => exact fun g s hst ha hg he hs hd hb => exec_resyncGranule_takes hst ha he hs hg hb hd
  case goesOn => exact fun g s hst ha hg he hs => exec_resyncGranule_of_granule hst ha he hs hg
  case ends => exact fun s hst ha hg he hs hd hb => exec_resyncGranule_of_no_drift hst ha he hs hg hb hd
  case reads =>
    intro n g s hg hn ha hr
    have more : ¬driftLines ≤ s.mill.rs.next := Nat.not_le.mpr hn
    simp only [State.feedResync, feedResyncReads, hg, if_neg more, ha, Bool.false_eq_true, if_false, if_pos hr]
  case clears => exact fun n g s hg hn => State.feedResync_clears n hg hn
  case copies =>
    intro g r i d more s hb
    have found : (s.mill.rs.back.find? fun b => b.1 == 65536 * g + 4 * r.val + i.val) =
        some (65536 * g + 4 * r.val + i.val, d) := by simp [hb]
    have left : (s.mill.rs.back.eraseP fun b => b.1 == 65536 * g + 4 * r.val + i.val) = more := by simp [hb]
    change execResyncLineReturn g r i s = _
    simp only [execResyncLineReturn, driftLines, found, State.modMill, left] <;> rfl
  case nothing => exact fun g r i s hb => exec_resyncLineReturn_of_none hb

end Sys2Proof.Machine
end

section
/-! SUPPORT. The window check unit (R81 to R95): which addresses a region takes in, which window decides, what the decision
is, and the violation record under a refusal and under a clearing write. -/

namespace Sys2Proof.Machine

/-! ### The addresses of a region (R83) -/

theorem field_lt {n : Nat} (w : BitVec n) (hi lo : Nat) : field w hi lo < 2 ^ (hi + 1 - lo) :=
  Nat.mod_lt _ (Nat.two_pow_pos _)

/-- BASE names a byte of the port address space. -/
theorem regionBase_lt (a b : Word) : regionBase a b < 2 ^ 46 := by
  have baseLo := field_lt a 31 12
  have baseHi := field_lt b 13 0
  unfold regionBase
  omega

/-- Two numbers of `m` bits agree from bit `k` up exactly when each of those bits does. -/
theorem shiftRight_eq_iff_testBit {x y m : Nat} (k : Nat) (hx : x < 2 ^ m) (hy : y < 2 ^ m) :
    x >>> k = y >>> k ↔ ∀ n, k ≤ n → n < m → x.testBit n = y.testBit n := by
  constructor
  · intro h n hk _
    have agree : (x >>> k).testBit (n - k) = (y >>> k).testBit (n - k) := by rw [h]
    simpa only [Nat.testBit_shiftRight, Nat.add_sub_cancel' hk] using agree
  · intro h
    refine Nat.eq_of_testBit_eq fun i => ?_
    rw [Nat.testBit_shiftRight, Nat.testBit_shiftRight]
    by_cases hi : k + i < m
    · exact h (k + i) (Nat.le_add_right k i) hi
    · have above : 2 ^ m ≤ 2 ^ (k + i) := Nat.pow_le_pow_right Nat.two_pos (Nat.not_lt.mp hi)
      rw [Nat.testBit_lt_two_pow (Nat.lt_of_lt_of_le hx above), Nat.testBit_lt_two_pow (Nat.lt_of_lt_of_le hy above)]

theorem regionMatch_iff {base size addr : Nat} :
    regionMatch base size addr = true ↔ 12 ≤ size ∧ size ≤ 46 ∧ addr >>> size = base >>> size := by
  simp only [regionMatch, Bool.and_eq_true, decide_eq_true_eq, beq_iff_eq, and_assoc]

theorem winMatch_iff {a b : Word} {addr : Nat} (h : addr < 2 ^ 46) :
    winMatch a b addr = true ↔
      flag a 0 = true ∧ 12 ≤ field b 19 14 ∧ field b 19 14 ≤ 46 ∧
        ∀ n, field b 19 14 ≤ n → n < 46 → addr.testBit n = (regionBase a b).testBit n := by
  rw [winMatch, Bool.and_eq_true, regionMatch_iff, shiftRight_eq_iff_testBit _ h (regionBase_lt a b)]

/-! ### The window that decides (R84) and its decision (R85, R88) -/

/-- The window found is the first that matches, with the words of its two registers. -/
theorem State.window_eq_find (s : State) (p : PortId) (addr : Nat) :
    s.window p addr =
      ((List.range 32).find? fun w =>
        winMatch (s.live (portKey p.val (8 * w))) (s.live (portKey p.val (8 * w + 4))) addr).map
        fun w => (w, s.live (portKey p.val (8 * w)), s.live (portKey p.val (8 * w + 4))) := by
  rw [State.window, List.find?_eq_findSome?_guard, List.map_findSome?]
  congr 1
  funext w
  by_cases h : winMatch (s.live (portKey p.val (8 * w))) (s.live (portKey p.val (8 * w + 4))) addr = true
  · simp [Option.guard, h]
  · simp [Option.guard, h]

theorem State.window_eq_some_iff {s : State} {p : PortId} {addr w : Nat} {a b : Word} :
    s.window p addr = some (w, a, b) ↔
      w < 32 ∧ winMatch a b addr = true ∧ a = s.live (portKey p.val (8 * w)) ∧ b = s.live (portKey p.val (8 * w + 4)) ∧
      ∀ v < w, winMatch (s.live (portKey p.val (8 * v))) (s.live (portKey p.val (8 * v + 4))) addr = false := by
  rw [State.window_eq_find, Option.map_eq_some_iff]
  simp only [List.find?_range_eq_some, List.mem_range, Bool.not_eq_true', Prod.mk.injEq]
  constructor
  · rintro ⟨_, ⟨hm, hw, hlow⟩, rfl, rfl, rfl⟩
    exact ⟨hw, hm, rfl, rfl, hlow⟩
  · rintro ⟨hw, hm, rfl, rfl, hlow⟩
    exact ⟨w, ⟨hm, hw, hlow⟩, rfl, rfl, rfl⟩

section Decision
variable {s : State} {p : PortId} {r : Req}

/-- A window that matches decides by the permission for the opcode alone, whoever asks (R85). -/
theorem State.wcu_of_window {w : Nat} {a b : Word} (h : s.window p r.addr = some (w, a, b)) :
    s.wcu p r =
      { pass := flag a (needBit r.opc).1, reason := if flag a (needBit r.opc).1 then 0 else (needBit r.opc).2, win := w,
        cache := BitVec.ofNat 2 (field b 21 20), order := flag b 22 } := by
  simp only [State.wcu, h]
  cases flag a (needBit r.opc).1 <;> rfl

/-- Without a window a request passes through the default map or not at all (R88). -/
theorem State.wcu_pass_of_no_window (h : s.window p r.addr = none) :
    (s.wcu p r).pass = (r.priv && (flag (s.port p).defmap 3 && (s.port p).inDefault r.addr)) := by
  simp only [State.wcu, h]
  cases r.priv
  case false => rfl
  case true => cases flag (s.port p).defmap 3 && (s.port p).inDefault r.addr <;> rfl

end Decision

/-! ### The violation record (R93, R94) -/

theorem Vstat.take_of_valid {v : Vstat} (r : Req) (d : WcuRes) (h : v.valid = true) :
    v.take r d = { v with count := min 255 (v.count + 1), seq := (v.seq + 1) % 16 } :=
  if_pos h

theorem Vstat.clear_of_seq {v : Vstat} {data : Word} (h : field data 31 28 = v.seq) : v.clear data = { seq := v.seq } :=
  if_pos h.symm

theorem Vstat.clear_of_other_seq {v : Vstat} {data : Word} (h : field data 31 28 ≠ v.seq) : v.clear data = v :=
  if_neg (Ne.symm h)

/-- An empty record reads as its SEQ alone, with both address registers 0. -/
theorem Vstat.word_of_seq (n : Nat) : ({ seq := n } : Vstat).word = place n 4 28 := by
  simp [Vstat.word, place, placeB]

theorem Vstat.lo_of_seq (n : Nat) : ({ seq := n } : Vstat).lo = 0 := by
  simp [Vstat.lo]

theorem Vstat.hi_of_seq (n : Nat) : ({ seq := n } : Vstat).hi = 0 := by
  simp [Vstat.hi, place]

theorem place_mod_two_pow (v n lo : Nat) : place v n lo % 2 ^ lo = 0 := by
  rw [place, Nat.shiftLeft_eq, Nat.mul_mod_left]

theorem exec_wcuVstatClear_of_awake {s : State} (p : PortId) (data : Word) (h : s.awake = true) :
    exec (.wcuVstatClear p data) s = .next (s.modPort p fun q => { q with vstat := q.vstat.clear data }) :=
  congrArg Host.Outcome.next (State.ctl_of_awake (·.clearVstat p data) h)

end Sys2Proof.Machine
end

section
/-! CERTIFICATE. When a window matches and what a missing permission does; the clearing of a violation record. -/

namespace Sys2Proof.Machine

/-- Settles O54, by the bits that two shifted numbers share, and by the decision with and without a window. -/
theorem windowsMatch : Obligations.WindowsMatch := by
  unfold Obligations.WindowsMatch
  refine ⟨?matching, ?denied, ?lowest, ?default⟩
  case matching =>
    intro a b addr h
    simpa only [Nat.lt_succ_iff] using winMatch_iff h
  case denied =>
    intro s p r w a b hw hf
    rw [State.wcu_of_window hw, State.wcu_of_window (r := { r with priv := !r.priv }) hw, hf]
    exact ⟨rfl, rfl, rfl, rfl⟩
  case lowest => exact fun s p r w a b hw => State.window_eq_some_iff.mp hw
  case default =>
    intro s p r hw
    rw [State.wcu_pass_of_no_window hw, Bool.and_eq_true, Bool.and_eq_true]

/-- Settles O60, by the record after a write with the current SEQ and with another, and after a further refusal. -/
theorem violationRecordClears : Obligations.ViolationRecordClears := by
  unfold Obligations.ViolationRecordClears
  refine ⟨?clears, ?stands, ?counts⟩
  case clears =>
    intro p data s ha hq
    refine ⟨_, exec_wcuVstatClear_of_awake p data ha, ?_⟩
    rw [State.modPort_port, Vstat.clear_of_seq hq, Vstat.word_of_seq]
    exact ⟨rfl, place_mod_two_pow _ 4 28, rfl, Vstat.lo_of_seq _, Vstat.hi_of_seq _,
      fun o ho => State.modPort_port_ne s _ ho⟩
  case stands =>
    intro p data s ha hq
    rw [exec_wcuVstatClear_of_awake p data ha, State.modPort_same (by rw [Vstat.clear_of_other_seq hq])]
  case counts =>
    intro v r d hv
    rw [Vstat.take_of_valid r d hv]
    exact ⟨rfl, rfl, rfl⟩

end Sys2Proof.Machine
end

section
/-! SUPPORT. The address map (R101, R103, R104): the fold of a page number, the page recovered from its set and set-local page,
and the placement of a line with its inverse. -/

namespace Sys2Proof.Machine

/-! ### The fold of a page number (R101) -/

theorem foldPairs_lt (n p : Nat) : foldPairs n p < 4 := by
  induction n generalizing p with
  | zero => exact Nat.zero_lt_succ 3
  | succ n ih => exact Nat.xor_lt_two_pow (n := 2) (Nat.mod_lt p (by decide)) (ih (p / 4))

/-- The fold is the exclusive-OR of the pairs, taken from the lowest up. -/
theorem foldl_xor_pairs (n p x : Nat) :
    (List.range n).foldl (fun x k => x ^^^ p / 2 ^ (2 * k) % 4) x = x ^^^ foldPairs n p := by
  induction n generalizing p x with
  | zero => exact (Nat.xor_zero x).symm
  | succ n ih =>
    have above : ∀ k, p / 2 ^ (2 * (k + 1)) = p / 4 / 2 ^ (2 * k) := fun k => by
      rw [Nat.div_div_eq_div_mul, Nat.mul_add, Nat.pow_add, Nat.mul_comm]
    rw [List.range_succ_eq_map, List.foldl_cons, List.foldl_map]
    simp only [Nat.succ_eq_add_one, above, ih, foldPairs, Nat.mul_zero, Nat.pow_zero, Nat.div_one, Nat.xor_assoc]

theorem setOfAddr_val (addr : Nat) : (setOfAddr addr).val = foldPairs 17 (addr / 4096) :=
  Nat.mod_eq_of_lt (foldPairs_lt 17 _)

theorem setOfAddr_val_eq_foldl (addr : Nat) :
    (setOfAddr addr).val = (List.range 17).foldl (fun x k => x ^^^ addr / 2 ^ (12 + 2 * k) % 4) 0 := by
  have pair : ∀ k, addr / 2 ^ (12 + 2 * k) = addr / 4096 / 2 ^ (2 * k) := fun k => by
    rw [Nat.div_div_eq_div_mul, Nat.pow_add]
  simp only [setOfAddr_val, pair, foldl_xor_pairs, Nat.zero_xor]

/-! ### Set-local addresses, and the page recovered (R101) -/

theorem localAddr_eq (addr : Nat) : localAddr addr = addr / 2 ^ 14 * 4096 + addr % 4096 := by
  unfold localAddr
  omega

theorem localAddr_div_page (addr : Nat) : localAddr addr / 4096 = addr / 2 ^ 14 := by
  rw [localAddr_eq]
  omega

theorem localAddr_mod_page (addr : Nat) : localAddr addr % 4096 = addr % 4096 := by
  rw [localAddr_eq]
  omega

theorem localAddr_mod_line (addr : Nat) : localAddr addr % 64 = addr % 64 := by
  have := localAddr_mod_page addr
  omega

theorem localAddr_idx (addr : Nat) : localAddr addr / 64 % 4 = addr / 64 % 4 := by
  have := localAddr_mod_page addr
  omega

/-- A page is recovered from its set and its set-local page: the fold of the upper pairs cancels. -/
theorem pageOf_setOfAddr (addr : Nat) : pageOf (setOfAddr addr) (addr / 2 ^ 14) = addr / 4096 := by
  have upper : addr / 4096 / 4 = addr / 2 ^ 14 := Nat.div_div_eq_div_mul addr 4096 4
  have low : (setOfAddr addr).val ^^^ foldPairs 16 (addr / 2 ^ 14) = addr / 4096 % 4 := by
    rw [setOfAddr_val, foldPairs, upper, Nat.xor_assoc, Nat.xor_self, Nat.xor_zero]
  rw [pageOf, low, Nat.mod_mod, ← upper, Nat.div_add_mod']

section Inverse
variable {a b : Nat} (hm : setOfAddr a = setOfAddr b)
include hm

/-- Addresses of one set and one set-local page share their page. -/
theorem page_eq_of_local (hl : localAddr a / 4096 = localAddr b / 4096) : a / 4096 = b / 4096 := by
  rw [localAddr_div_page, localAddr_div_page] at hl
  rw [← pageOf_setOfAddr a, ← pageOf_setOfAddr b, hm, hl]

theorem line_eq_of_local (hl : localAddr a / 64 = localAddr b / 64) : a / 64 = b / 64 := by
  have page := page_eq_of_local hm (by omega)
  have inPageA := localAddr_mod_page a
  have inPageB := localAddr_mod_page b
  omega

theorem addr_eq_of_local (hl : localAddr a = localAddr b) : a = b := by
  have line := line_eq_of_local hm (by rw [hl])
  have inLine : a % 64 = b % 64 := by rw [← localAddr_mod_line a, hl, localAddr_mod_line]
  omega

end Inverse

/-! ### Channels of a set and positions of a stripe (R23, R104) -/

theorem setOf_chanOf (m : SetId) (j : Nat) : setOf (chanOf m j) = m := by
  have position : j % 5 < 5 := Nat.mod_lt j (by decide)
  exact Fin.ext (show (5 * m.val + j % 5) / 5 = m.val by omega)

theorem posOf_chanOf (m : SetId) (j : Nat) : posOf (chanOf m j) = j % 5 := by
  rw [posOf, chanOf, Nat.mul_add_mod, Nat.mod_mod]

/-- Each data line of a stripe keeps off the parity position. -/
theorem chanOf_dataPos_ne_parPos (m : SetId) (stripe : Nat) {i : Nat} (h : i < 4) :
    chanOf m (dataPos stripe i) ≠ chanOf m (parPos stripe) := fun e => by
  have positions := congrArg posOf e
  rw [posOf_chanOf, posOf_chanOf, dataPos, parPos] at positions
  omega

/-! ### Placement of a line and its inverse (R103, R104) -/

section Placement
variable {span : SetId → Bool} {addr : Nat}

theorem spotOf_of_plain (h : span (setOfAddr addr) = false) :
    spotOf span addr =
      { set := setOfAddr addr, stripe := localAddr addr / 256, idx := addr / 64 % 4
        ch := chanOf (setOfAddr addr) (localAddr addr / 256 % 5)
        line := localAddr addr / 256 / 5 * 4 + addr / 64 % 4 } := by
  simp only [spotOf, h, localAddr_idx, Bool.false_eq_true, if_false]

theorem spotOf_of_span (h : span (setOfAddr addr) = true) :
    spotOf span addr =
      { set := setOfAddr addr, stripe := localAddr addr / 256, idx := addr / 64 % 4
        ch := chanOf (setOfAddr addr) (dataPos (localAddr addr / 256) (addr / 64 % 4))
        line := localAddr addr / 256 } := by
  simp only [spotOf, h, localAddr_idx, if_true]

theorem setOf_spotOf_ch (span : SetId → Bool) (addr : Nat) : setOf (spotOf span addr).ch = setOfAddr addr := by
  cases mode : span (setOfAddr addr) with
  | false => rw [spotOf_of_plain mode, setOf_chanOf]
  | true => rw [spotOf_of_span mode, setOf_chanOf]

/-- In a plain set the channel and the channel-local line give the set-local line back. -/
theorem localLine_of_plain (h : span (setOfAddr addr) = false) :
    localAddr addr / 64 =
      ((spotOf span addr).line / 4 * 5 + posOf (spotOf span addr).ch) * 4 + (spotOf span addr).line % 4 := by
  have idx := localAddr_idx addr
  simp only [spotOf_of_plain h, posOf_chanOf]
  omega

/-- In a span set the channel-local line is the stripe, and the channel's distance from the parity position the data line. -/
theorem localLine_of_span (h : span (setOfAddr addr) = true) :
    localAddr addr / 64 =
      (spotOf span addr).line * 4 + (posOf (spotOf span addr).ch + 4 - parPos (spotOf span addr).line) % 5 := by
  have idx := localAddr_idx addr
  simp only [spotOf_of_span h, posOf_chanOf, dataPos, parPos]
  omega

end Placement

/-- The channel and the channel-local line of a placement determine the line of the port address. -/
theorem spotOf_inj {span : SetId → Bool} {a b : Nat} (hc : (spotOf span a).ch = (spotOf span b).ch)
    (hl : (spotOf span a).line = (spotOf span b).line) : a / 64 = b / 64 := by
  have sets : setOfAddr a = setOfAddr b := by rw [← setOf_spotOf_ch span a, hc, setOf_spotOf_ch]
  refine line_eq_of_local sets ?_
  cases mode : span (setOfAddr a) with
  | false => rw [localLine_of_plain mode, localLine_of_plain (sets ▸ mode), hc, hl]
  | true => rw [localLine_of_span mode, localLine_of_span (sets ▸ mode), hc, hl]

end Sys2Proof.Machine
end

section
/-! CERTIFICATE. The address map is the rules' and has an inverse. -/

namespace Sys2Proof.Machine

/-- Settles O53, by the page recovered from its set and set-local page, and by the set-local line recovered from a placement. -/
theorem addressMap : Obligations.AddressMap := by
  unfold Obligations.AddressMap
  refine ⟨?page, ?placement, ?parity, ?localInjective, ?placementInjective⟩
  case page => exact fun addr _ => ⟨setOfAddr_val_eq_foldl addr, localAddr_eq addr, pageOf_setOfAddr addr⟩
  case placement =>
    intro span addr
    have inLine := localAddr_mod_line addr
    have idx := localAddr_idx addr
    cases mode : span (setOfAddr addr) with
    | false =>
      simp only [spotOf_of_plain mode, true_and]
      exact ⟨fun _ => ⟨congrArg _ (Nat.mod_mod _ 5), by omega⟩, nofun⟩
    | true =>
      simp only [spotOf_of_span mode, true_and]
      exact ⟨nofun, fun _ => ⟨congrArg _ (Nat.mod_mod _ 5),
        chanOf_dataPos_ne_parPos _ _ (Nat.mod_lt _ (by decide)), by omega⟩⟩
  case parity => exact fun s => rfl
  case localInjective => exact fun a b _ _ hm hl => addr_eq_of_local hm hl
  case placementInjective => exact fun span a b _ _ hc hl => spotOf_inj hc hl

end Sys2Proof.Machine
end

section
/-! SUPPORT. The crossbar's choice and its transfers (R112 to R114), the expiries of the gathering buffers (R124, R125), internal
reads that return (R127) and the return queue (R136, R288). -/

namespace Sys2Proof.Machine

/-! ### The choice and the transfer (R112, R113) -/

section Crossbar
variable {s : State} {d : Dest}

/-- The entry chosen is a head that the destination can hold and that nothing of its source stands before; it is past the wait
limit itself, or leaves alone the room of every head that is. -/
theorem State.chooseEntry_spec {e : XEntry} (h : s.chooseEntry d = some e) :
    e ∈ s.heads d ∧ s.canHold e = true ∧ s.behind e = false ∧
    (e.stuck = true ∨ ∀ t ∈ s.heads d, t.stuck = true → s.sharesRoom t e = false) := by
  have candidate := pick_mem _ _ _ h
  simp only [List.mem_filter, Bool.and_eq_true, Bool.or_eq_true, Bool.not_eq_true', List.any_eq_false, Bool.not_eq_true,
    and_imp] at candidate
  obtain ⟨⟨head, holds, front⟩, room⟩ := candidate
  exact ⟨head, holds, front, room⟩

theorem exec_crossbarTransfer_takes {e : XEntry} (hs : s.pers.strobe = false) (h : s.chooseEntry d = some e) :
    exec (.crossbarTransfer d) s = .next ((s.takeEntry d e).feedResync 2).updMiFlood.settleAll.sweepFails := by
  change execCrossbarTransfer d s = _
  simp only [execCrossbarTransfer, hs, h, Bool.false_eq_true, if_false]

theorem exec_crossbarTransfer_stands (h : s.chooseEntry d = none ∨ s.pers.strobe = true) :
    exec (.crossbarTransfer d) s = .next s := by
  change execCrossbarTransfer d s = _
  obtain h | h := h
  · simp only [execCrossbarTransfer, h, ite_self]
  · simp only [execCrossbarTransfer, h, if_true]

theorem exec_crossbarHeadWaitLimit_marks {e : XEntry} {rest : List XEntry}
    (h : ((s.heads d).filter fun e => !e.stuck && !s.canHold e) = e :: rest) :
    exec (.crossbarHeadWaitLimit d) s = .next { s with xbar := { s.xbar with
      entries := s.xbar.entries.map fun o => if o.id = e.id ∧ o.dest = e.dest then { o with stuck := true } else o } } := by
  change execCrossbarHeadWaitLimit d s = _
  simp only [execCrossbarHeadWaitLimit, h]

end Crossbar

/-! ### Releases and internal reads (R124, R125, R127) -/

section Gathering
variable {s : State}

theorem exec_eddyLwinExpiry_releases {c : ChanId} {line : Nat} {e : EddyE}
    (h : ((s.chan c).eddy.find? fun e => e.stripe.isNone && e.line == line) = some e) :
    exec (.eddyLwinExpiry c line) s = .next (s.releaseLine c e).settleAll.sweepFails := by
  change execEddyLwinExpiry c line s = _
  simp only [execEddyLwinExpiry, h]

theorem exec_stripeSwinExpiry_releases {m : SetId} {stripe : Nat} {r : StripeRec}
    (h : ((s.span m).recs.find? fun r => r.stripe == stripe) = some r) :
    exec (.stripeSwinExpiry m stripe) s = .next (s.releaseRec m r).settleAll.sweepFails := by
  change execStripeSwinExpiry m stripe s = _
  simp only [execStripeSwinExpiry, h]

theorem exec_internalReadReturn_gives {c : ChanId} {r : IntRet} {rest : List IntRet} (h : (s.chan c).intRet = r :: rest) :
    exec (.internalReadReturn c) s = .next
      ((s.modChan c fun k => { k with intRet := rest }).giveForm r.f r.k r.res).settleAll.sweepFails := by
  change execInternalReadReturn c s = _
  simp only [execInternalReadReturn, h]

end Gathering

/-! ### The return queue (R136, R288 code 6) -/

section ReturnQueue
variable {s : State} {c : ChanId} {e : RetE}

theorem State.sendLine_of_clean (h : e.bad = none) :
    s.sendLine c e = s.giveBeat e.src e.rid { lidx := e.lidx, code := e.code, corr := e.corr, data := e.data } := by
  have noHit : (s.modChan c fun k => k.hitC none) = s := State.modChan_same rfl
  simp only [State.sendLine, h, noHit, acts_none, Bool.false_eq_true, if_false]

theorem State.sendLine_of_bad (h : acts e.bad = true) :
    s.sendLine c e = ((s.modChan c fun k => k.hitC e.bad).raiseChan c 20).giveBeat e.src e.rid
      { lidx := e.lidx, code := .poison, data := poisonLine } := by
  simp only [State.sendLine, h, if_true]

theorem exec_returnLine_sends {rest : List RetE} (h : (s.chan c).ret = e :: rest) :
    exec (.returnLine c) s = .next ((s.modChan c fun k => { k with ret := rest }).sendLine c e).settleAll := by
  change execReturnLine c s = _
  simp only [execReturnLine, h]

end ReturnQueue

end Sys2Proof.Machine
end

section
/-! CERTIFICATE. The crossbar's transfers; the gathering buffers' releases and the return queue. -/

namespace Sys2Proof.Machine

/-- Settles O8, by what makes an entry the chosen one and by the equation of a transfer and of a head past its wait limit. -/
theorem crossbarTakesHead : Obligations.CrossbarTakesHead := by
  unfold Obligations.CrossbarTakesHead
  refine ⟨?takes, ?stands, ?marks⟩
  case takes =>
    intro d e s hs h
    obtain ⟨head, holds, front, room⟩ := State.chooseEntry_spec h
    exact ⟨head, holds, front, room, exec_crossbarTransfer_takes hs h⟩
  case stands => exact fun d s h => exec_crossbarTransfer_stands h
  case marks => exact fun d e rest s h => exec_crossbarHeadWaitLimit_marks h

/-- Settles O10, by the release of the expired entry, the form that an internal read reaches, and the beat that a line of the
return queue becomes. -/
theorem buffersReleaseAndReturn : Obligations.BuffersReleaseAndReturn := by
  unfold Obligations.BuffersReleaseAndReturn
  refine ⟨?lwin, ?swin, ?internal, ?line, ?badLine⟩
  case lwin => exact fun c line e s h => exec_eddyLwinExpiry_releases h
  case swin => exact fun m stripe r s h => exec_stripeSwinExpiry_releases h
  case internal => exact fun c r rest s h => exec_internalReadReturn_gives h
  case line =>
    intro c e rest s h clean
    rw [exec_returnLine_sends h, State.sendLine_of_clean clean]
  case badLine =>
    intro c e rest s h bad
    rw [exec_returnLine_sends h, State.sendLine_of_bad bad]

end Sys2Proof.Machine
end

section
/-! SUPPORT. The refresh-management counts of a subchannel's banks (R163): what a list of counts gives each bank after a bank's
own count has changed, and after every covered bank's has been lowered; the lookup of a key whose pairs were replaced. -/

namespace Sys2Proof.Machine

/-! ### One key of a list of pairs replaced -/

/-- In a list of pairs whose pairs of one key have been replaced by `m`, that key is looked up in `m`, another first in what was
there. -/
theorem find_key_replaced {α β : Type} [DecidableEq α] (l m : List (α × β)) (b d : α) :
    ((l.filter fun e => e.1 != b) ++ m).find? (fun e => e.1 == d) =
      if d = b then m.find? fun e => e.1 == d else (l.find? fun e => e.1 == d).or (m.find? fun e => e.1 == d) := by
  rw [List.find?_append, List.find?_filter]
  by_cases h : d = b
  · have gone : l.find? (fun e => decide ((e.1 != b) = true ∧ (e.1 == d) = true)) = none := by simp [h]
    rw [gone, if_pos h, Option.none_or]
  · have same : (fun e : α × β => decide ((e.1 != b) = true ∧ (e.1 == d) = true)) = fun e => e.1 == d := by
      funext e
      by_cases he : e.1 = d <;> simp [he, h]
    rw [same, if_neg h]

section RefreshManagement
variable {l : List (Bank × Nat)} {b d : Bank}

theorem rfmOf_cons (e : Bank × Nat) (l : List (Bank × Nat)) (d : Bank) :
    rfmOf (e :: l) d = if e.1 = d then e.2 else rfmOf l d := by
  by_cases h : e.1 = d <;> simp [rfmOf, h]

theorem rfmOf_of_not_mem (h : d ∉ l.map Prod.fst) : rfmOf l d = 0 := by
  induction l with
  | nil => rfl
  | cons e l ih =>
    obtain ⟨head, tail⟩ := not_or.mp fun hd => h (List.mem_cons.mpr hd)
    rw [rfmOf_cons, if_neg (Ne.symm head), ih tail]

/-! ### One bank's count changes -/

theorem rfmOf_countRfm (f : Nat → Nat) (b : Bank) (l : List (Bank × Nat)) (d : Bank) :
    rfmOf (countRfm f b l) d = if d = b then f (rfmOf l d) else rfmOf l d := by
  change (((_ ++ if f (rfmOf l b) = 0 then [] else [(b, f (rfmOf l b))]).find? fun e => e.1 == d).map Prod.snd).getD 0 = _
  rw [find_key_replaced]
  by_cases h : d = b
  · subst h
    by_cases zero : f (rfmOf l d) = 0 <;> simp [zero]
  · have other : (if f (rfmOf l b) = 0 then [] else [(b, f (rfmOf l b))]).find? (fun e => e.1 == d) = none := by
      split <;> simp [Ne.symm h]
    rw [if_neg h, if_neg h, other, Option.or_none]
    rfl

theorem keys_countRfm_nodup (f : Nat → Nat) (b : Bank) (h : (l.map Prod.fst).Nodup) :
    ((countRfm f b l).map Prod.fst).Nodup := by
  have kept : ((l.filter fun e => e.1 != b).map Prod.fst).Nodup := h.sublist (List.filter_sublist.map _)
  unfold countRfm
  simp only
  split
  · rwa [List.append_nil]
  · rw [List.map_append, List.nodup_append]
    exact ⟨kept, by simp, by simp⟩

/-! ### The counts of several banks fall -/

/-- The counts of the banks that pass `p` fall by `n`, and a count that has become zero leaves the list. -/
def lowerRfm (p : Bank → Bool) (n : Nat) (l : List (Bank × Nat)) : List (Bank × Nat) :=
  (l.map fun e => if p e.1 then (e.1, e.2 - n) else e).filter fun e => 0 < e.2

theorem keys_lowerRfm_sublist (p : Bank → Bool) (n : Nat) (l : List (Bank × Nat)) :
    ((lowerRfm p n l).map Prod.fst).Sublist (l.map Prod.fst) := by
  have keys : (l.map fun e => if p e.1 then (e.1, e.2 - n) else e).map Prod.fst = l.map Prod.fst := by
    rw [List.map_map]
    refine List.map_congr_left fun e _ => ?_
    simp only [Function.comp]
    split <;> rfl
  exact keys ▸ List.filter_sublist.map _

theorem keys_lowerRfm_nodup (p : Bank → Bool) (n : Nat) (h : (l.map Prod.fst).Nodup) :
    ((lowerRfm p n l).map Prod.fst).Nodup := h.sublist (keys_lowerRfm_sublist p n l)

theorem lowerRfm_cons (p : Bank → Bool) (n : Nat) (e : Bank × Nat) (l : List (Bank × Nat)) :
    lowerRfm p n (e :: l) =
      (if (if p e.1 then e.2 - n else e.2) = 0 then [] else [(e.1, if p e.1 then e.2 - n else e.2)]) ++ lowerRfm p n l := by
  unfold lowerRfm
  rw [List.map_cons, List.filter_cons]
  by_cases h : p e.1 = true <;> simp only [h, if_true] <;> grind

theorem rfmOf_append_unless_zero (h : b ∉ l.map Prod.fst) (n : Nat) (d : Bank) :
    rfmOf ((if n = 0 then [] else [(b, n)]) ++ l) d = if b = d then n else rfmOf l d := by
  by_cases zero : n = 0
  · rw [if_pos zero, List.nil_append]
    by_cases hd : b = d
    · rw [if_pos hd, zero, rfmOf_of_not_mem (hd ▸ h)]
    · rw [if_neg hd]
  · rw [if_neg zero, List.singleton_append, rfmOf_cons]

theorem rfmOf_lowerRfm (p : Bank → Bool) (n : Nat) (h : (l.map Prod.fst).Nodup) (d : Bank) :
    rfmOf (lowerRfm p n l) d = if p d then rfmOf l d - n else rfmOf l d := by
  induction l with
  | nil => simp [lowerRfm, rfmOf]
  | cons e l ih =>
    obtain ⟨head, tail⟩ := List.nodup_cons.mp h
    have absent : e.1 ∉ (lowerRfm p n l).map Prod.fst := fun hm => head ((keys_lowerRfm_sublist p n l).subset hm)
    rw [lowerRfm_cons, rfmOf_append_unless_zero absent, rfmOf_cons, ih tail]
    by_cases hd : e.1 = d
    · rw [if_pos hd, if_pos hd, hd]
    · rw [if_neg hd, if_neg hd]

/-! ### A command counts -/

section Count
variable {s : State} {c : ChanId} {x : Sub} {m : Cmd}

@[simp] theorem State.modSel_sel (s : State) (c : ChanId) (x : Sub) (f : Sel → Sel) :
    (s.modSel c x f).sel c x = f (s.sel c x) := by
  simp [State.sel, State.modSel]

theorem State.countCmd_other (h : m.kind ≠ .act) (href : m.kind.isRef = false) : s.countCmd c x m = s := by
  unfold State.countCmd
  cases hk : m.kind <;> simp_all [Kind.isRef]

variable (hen : flag (s.agent c 0x034) 0 = true)
include hen

theorem State.countCmd_act (h : m.kind = .act) :
    s.countCmd c x m = s.modSel c x fun l => { l with rfm := countRfm (· + 1) m.bank l.rfm } := by
  simp only [State.countCmd, hen, h, Bool.not_true, Bool.false_eq_true, if_false]

theorem State.countCmd_refresh (h : m.kind = .refab ∨ m.kind = .refsb) :
    s.countCmd c x m = s.modSel c x fun l => { l with rfm := lowerRfm m.covers (s.tim c 34) l.rfm } := by
  obtain h | h := h <;> simp only [State.countCmd, hen, h, Bool.not_true, Bool.false_eq_true, if_false] <;> rfl

theorem State.countCmd_rfm (h : m.kind = .rfmab ∨ m.kind = .rfmsb) :
    s.countCmd c x m = s.modSel c x fun l => { l with rfm := lowerRfm m.covers (s.tim c 32) l.rfm } := by
  obtain h | h := h <;> simp only [State.countCmd, hen, h, Bool.not_true, Bool.false_eq_true, if_false] <;> rfl

end Count

end RefreshManagement
end Sys2Proof.Machine
end

section
/-! CERTIFICATE. The refresh-management count of a bank. -/

namespace Sys2Proof.Machine

/-- Settles O58, by what the list of counts gives each bank after each kind of command. -/
theorem refreshManagementCount : Obligations.RefreshManagementCount := by
  unfold Obligations.RefreshManagementCount
  intro s c x m b hen one
  cases hk : m.kind
  case act =>
    rw [State.countCmd_act hen hk, State.modSel_sel]
    exact ⟨keys_countRfm_nodup _ _ one, rfmOf_countRfm (· + 1) _ _ b⟩
  case refab | refsb =>
    rw [State.countCmd_refresh hen (by simp [hk]), State.modSel_sel]
    exact ⟨keys_lowerRfm_nodup _ _ one, rfmOf_lowerRfm _ _ one b⟩
  case rfmab | rfmsb =>
    rw [State.countCmd_rfm hen (by simp [hk]), State.modSel_sel]
    exact ⟨keys_lowerRfm_nodup _ _ one, rfmOf_lowerRfm _ _ one b⟩
  all_goals
    rw [State.countCmd_other (by simp [hk]) (by simp [hk, Kind.isRef])]
    exact ⟨one, rfl⟩

end Sys2Proof.Machine
end

section
/-! SUPPORT. What a command slot does where nothing may issue (R141, R149, R150, R168), and the timers of a selector (R145, R151,
R154). -/

namespace Sys2Proof.Machine

section Selector
variable {s : State} {c : ChanId} {x : Sub}

theorem State.modSel_congr {f g : Sel → Sel} (h : f (s.sel c x) = g (s.sel c x)) : s.modSel c x f = s.modSel c x g :=
  State.modChan_congr (congrArg (fun l => { s.chan c with sel := (s.chan c).sel.put x l }) h)

/-! ### Command slots -/

theorem exec_commandSlot_of_on (h : s.slotOn c = true) : exec (.commandSlot c x) s = .next (s.slot c x) :=
  congrArg Host.Outcome.next (if_pos h)

theorem exec_commandSlot_of_off (h : s.slotOn c = false) : exec (.commandSlot c x) s = .next s :=
  congrArg Host.Outcome.next (if_neg (by rw [h]; exact Bool.false_ne_true))

theorem State.choose_of_full (h : (s.sel c x).ostate = .running) (full : 32 ≤ (s.sel c x).unacked) :
    s.choose c x = desChoice := by
  simp [State.choose, h, full]

theorem State.choose_of_shut (h : (s.sel c x).ostate = .running) (due : s.dueCmd c x = none)
    (shut : (s.sel c x).selfRef = true ∨ (s.sel c x).pauseOpen = true) : s.choose c x = desChoice := by
  simp [State.choose, h, due, shut]

theorem State.choose_of_stopped (h : (s.sel c x).ostate = .stopped) : s.choose c x = desChoice := by
  simp [State.choose, h]

theorem State.choose_of_waiting (h : (s.sel c x).ostate = .recovery) (wait : (s.sel c x).rcvrDone = false) :
    s.choose c x = desChoice := by
  simp [State.choose, State.redoCmd, h, wait]

/-- A DES slot moves the clock and the wires alone. -/
theorem State.issue_des : s.issue c x desChoice =
    s.modSel c x fun l => { l with dclk := l.dclk + 1, out := some (desChoice.cmd, none) } := by
  rw [State.issue, if_pos (show desChoice.cmd.kind = .des from rfl)]
  exact State.modSel_congr rfl

/-! ### Timers -/

theorem exec_candidateAged (id : Nat) : exec (.candidateAged c id) s = .next (s.modChan c fun k =>
    { k with rq := k.rq.map fun e => if e.id = id then { e with aged := true } else e
             wq := k.wq.map fun w => if w.id = id then { w with aged := true } else w
             sel := k.sel.each fun l => if id = 0 ∧ l.hold ≠ [] then { l with holdAged := true } else l }) := by
  change execCandidateAged c id s = _
  simp only [execCandidateAged, Bool.not_eq_true', List.isEmpty_eq_false_iff]

theorem exec_pageIdleExpiry (b : Bank) : exec (.pageIdleExpiry c x b) s = .next (
    if field (s.agent c 0x028) 27 16 ≠ 0 ∧ ((s.sel c x).openRow b).isSome = true ∧ b ∉ (s.sel c x).idleDue then
      s.modSel c x fun l => { l with idleDue := l.idleDue ++ [b] }
    else s) := by
  change execPageIdleExpiry c x b s = _
  simp only [execPageIdleExpiry, Bool.not_eq_true', List.contains_eq_mem, decide_eq_false_iff_not]

end Selector

end Sys2Proof.Machine
end

section
/-! CERTIFICATE. What a command slot and the selector's timers do. -/

namespace Sys2Proof.Machine

/-- Settles O11, by the equation of a slot, by the states of a subchannel in which DES is chosen, and by the equation of each
timer. -/
theorem slotsAndTimers : Obligations.SlotsAndTimers := by
  unfold Obligations.SlotsAndTimers
  refine ⟨⟨?runs, ?off, ?nothing⟩, ⟨?aged, ?share, ?idle⟩⟩
  case runs => exact fun c x s h => exec_commandSlot_of_on h
  case off => exact fun c x s h => exec_commandSlot_of_off h
  case nothing =>
    intro c x s h
    have des : s.choose c x = desChoice := by
      obtain ⟨run, full⟩ | stopped | ⟨recovery, wait⟩ | ⟨run, due, shut⟩ := h
      · exact State.choose_of_full run full
      · exact State.choose_of_stopped stopped
      · exact State.choose_of_waiting recovery wait
      · exact State.choose_of_shut run due shut
    rw [des]
    exact ⟨rfl, State.issue_des⟩
  case aged => exact fun c id s => exec_candidateAged id
  case share => exact fun c x s => rfl
  case idle => exact fun c x b s => exec_pageIdleExpiry b

end Sys2Proof.Machine
end

section
/-! SUPPORT. Which command an acknowledgement reaches and what it does (R168, R169); the steps of an alert's recovery (R170 to
R172). -/

namespace Sys2Proof.Machine

/-! ### The command acknowledged -/

/-- The acknowledged command is the first that is neither acknowledged nor marked; it keeps its place. -/
theorem ackOx_of_first {pre rest : List Ox} {o : Ox} (past : ∀ q ∈ pre, q.acked = true ∨ q.marked = true)
    (ha : o.acked = false) (hm : o.marked = false) :
    ackOx (pre ++ o :: rest) = (pre ++ { o with acked := true } :: rest, some o.cmd) := by
  induction pre with
  | nil => simp [ackOx, ha, hm]
  | cons q pre ih =>
    obtain ⟨head, tail⟩ := List.forall_mem_cons.mp past
    simp [ackOx, head, ih tail]

theorem ackOx_of_none_awaits {ox : List Ox} (past : ∀ q ∈ ox, q.acked = true ∨ q.marked = true) : (ackOx ox).2 = none := by
  induction ox with
  | nil => rfl
  | cons q ox ih =>
    obtain ⟨head, tail⟩ := List.forall_mem_cons.mp past
    simp [ackOx, head, ih tail]

section Acknowledgement
variable {s : State} {c : ChanId} {x : Sub}

@[simp] theorem State.modSel_chan (s : State) (c : ChanId) (x : Sub) (f : Sel → Sel) :
    (s.modSel c x f).chan c = (s.chan c).modSel x f := State.modChan_chan s c _

@[simp] theorem Chan.modSel_wq (k : Chan) (x : Sub) (f : Sel → Sel) : (k.modSel x f).wq = k.wq := rfl

theorem exec_commandAck_acks (h : (s.sel c x).ostate = .running ∨ (s.sel c x).ostate = .replay) :
    exec (.commandAck c x) s = .next ((s.ack c x).after c).slumberStep := by
  change execCommandAck c x s = _
  rw [execCommandAck, if_pos (by rw [← or_assoc]; exact .inl h)]

theorem exec_commandAck_waits (h : (s.sel c x).ostate = .recovery ∨ (s.sel c x).ostate = .stopped)
    (wait : (s.sel c x).rcvrDone = false) : exec (.commandAck c x) s = .next s := by
  change execCommandAck c x s = _
  rw [execCommandAck, if_neg (by obtain h | h := h <;> simp [h, wait])]

theorem State.ack_of_none_awaits (past : ∀ q ∈ (s.sel c x).ox, q.acked = true ∨ q.marked = true) : s.ack c x = s := by
  have none := ackOx_of_none_awaits past
  unfold State.ack
  split
  · rfl
  · simp_all

section First
variable {pre rest : List Ox} {o : Ox} (hox : (s.sel c x).ox = pre ++ o :: rest)
  (past : ∀ q ∈ pre, q.acked = true ∨ q.marked = true) (ha : o.acked = false) (hm : o.marked = false)
include hox past ha hm

theorem State.ack_plain (wr : o.cmd.kind.isWr = false) (mrw : o.cmd.kind ≠ .mrw) (mrr : o.cmd.kind ≠ .mrr)
    (sre : o.cmd.kind ≠ .sre) :
    s.ack c x = s.modSel c x fun l => { l with ox := pre ++ { o with acked := true } :: rest } := by
  simp [State.ack, hox, ackOx_of_first past ha hm, wr, mrw, mrr, sre]

theorem State.ack_write {w : WrE} (wr : o.cmd.kind.isWr = true) (sre : o.cmd.kind ≠ .sre)
    (hw : ((s.chan c).wq.find? fun w => w.id == o.cmd.ent && w.issued) = some w) :
    s.ack c x = ((s.modSel c x fun l => { l with ox := pre ++ { o with acked := true } :: rest }).modChan c fun k =>
      { k with wq := k.wq.filter fun q => q.id != w.id }).wrAcked c w := by
  simp [State.ack, hox, ackOx_of_first past ha hm, wr, sre, hw]

end First
end Acknowledgement

/-! ### Alerts and recovery -/

section Alerts
variable {s : State} {c : ChanId} {x : Sub}

theorem exec_caParityAlert_of_on (h : s.slotOn c = true) :
    exec (.caParityAlert c x) s = .next (s.alert c x).sweepFails :=
  congrArg Host.Outcome.next (if_pos h)

/-- No alert is seen while the subchannel is stopped, or before ALERT_n has been high again. -/
theorem State.alert_of_seen (h : (s.sel c x).ostate = .running ∨ (s.sel c x).ostate = .replay) :
    ¬((s.sel c x).ostate = .stopped ∨ ((s.sel c x).ostate = .recovery ∧ (!(s.sel c x).alertSeenHigh) = true)) := by
  obtain h | h := h <;> simp [h]

theorem exec_alertRelease_notes (h : (s.sel c x).ostate = .recovery) :
    exec (.alertRelease c x) s = .next (s.modSel c x fun l => { l with alertSeenHigh := true }) :=
  congrArg Host.Outcome.next (if_pos h)

theorem exec_alertRcvrExpiry_begins (h : (s.sel c x).ostate = .recovery) (high : (s.sel c x).alertSeenHigh = true)
    (wait : (s.sel c x).rcvrDone = false) :
    exec (.alertRcvrExpiry c x) s = .next (s.beginReplay c x).sweepFails := by
  change execAlertRcvrExpiry c x s = _
  rw [execAlertRcvrExpiry, if_pos (by simp [h, high, wait])]

theorem State.beginReplay_of_clean (clean : ∀ o ∈ (s.sel c x).ox, o.bad = none) :
    s.beginReplay c x = s.modSel c x fun l =>
      { l with rcvrDone := true
               redo := (s.geom c).ranks.map fun r => ({ kind := .preab, bank := ⟨r, 0, 0, 0⟩, use := .recover } : Cmd) } := by
  have bads : ((s.sel c x).ox.filter (·.marked)).filterMap (·.bad) = [] :=
    List.filterMap_eq_nil_iff.mpr fun o ho => clean o (List.mem_filter.mp ho).1
  simp [State.beginReplay, bads]

theorem exec_alertStuckTimeout_stops (h : (s.sel c x).ostate = .recovery) (low : (s.sel c x).alertSeenHigh = false) :
    exec (.alertStuckTimeout c x) s = .next (s.stopSub c x).sweepFails := by
  change execAlertStuckTimeout c x s = _
  rw [execAlertStuckTimeout, if_pos (by simp [h, low])]

end Alerts

end Sys2Proof.Machine
end

section
/-! CERTIFICATE. Acknowledgement and alert recovery. -/

namespace Sys2Proof.Machine

/-- Settles O12, by the command that an acknowledgement reaches in the oxbow buffer, and by the equation of each step of a
recovery. -/
theorem acknowledgementsAndAlerts : Obligations.AcknowledgementsAndAlerts := by
  unfold Obligations.AcknowledgementsAndAlerts
  refine ⟨⟨?acks, ?waits, ?plain, ?write, ?none⟩, ⟨?alert, ?release, ?expiry, ?stuck⟩⟩
  case acks => exact fun c x s h => exec_commandAck_acks h
  case waits => exact fun c x s h wait => exec_commandAck_waits h wait
  case plain => exact fun c x pre o rest s hox past ha hm wr mrw mrr sre => State.ack_plain hox past ha hm wr mrw mrr sre
  case write => exact fun c x pre o rest w s hox past ha hm wr sre hw => State.ack_write hox past ha hm wr sre hw
  case none => exact fun c x s past => State.ack_of_none_awaits past
  case alert =>
    intro c x s on h
    rw [exec_caParityAlert_of_on on, State.alert, if_neg (State.alert_of_seen h)]
    rfl
  case release => exact fun c x s h => exec_alertRelease_notes h
  case expiry =>
    intro c x s h high wait clean
    rw [exec_alertRcvrExpiry_begins h high wait, State.beginReplay_of_clean clean]
  case stuck => exact fun c x s h low => exec_alertStuckTimeout_stops h low

end Sys2Proof.Machine
end

section
/-! SUPPORT. The data of the earliest issued read (R142): what is captured, what their decoding does to the read (R173 to R175,
R276, R277), and the counts of decodes (R285). -/

namespace Sys2Proof.Machine

section Capture
variable {s : State} {c : ChanId} {x : Sub} {raw : Stored} {e : RdE}

theorem exec_readDataDecode (c : ChanId) (x : Sub) (raw : Stored) (s : State) :
    exec (.readDataDecode c x raw) s = .next ((s.capture c x raw).after c) := rfl

/-! ### What is captured -/

theorem State.capture_of_none (h : s.nextData c x = none) : s.capture c x raw = s := by
  simp only [State.capture, h]

section Next
variable (h : s.nextData c x = some e)
include h

theorem State.capture_mrr (hp : e.purp = .mrr) :
    s.capture c x raw = ((s.noteCaptured c x e.id).modChan c fun k => { k with rq := k.rq.map fun o =>
      if o.id = e.id then { o with got := some raw } else o }).endMrr c x e.id := by
  simp [State.capture, h, hp]

theorem State.capture_dropped (hp : e.purp = .mrrDropped) :
    s.capture c x raw = (s.noteCaptured c x e.id).dropRead c e.id := by
  simp [State.capture, h, hp]

theorem State.capture_decodes (hm : e.purp ≠ .mrr) (hd : e.purp ≠ .mrrDropped) :
    s.capture c x raw = (s.noteCaptured c x e.id).decodeRead c x e raw := by
  simp [State.capture, h, hm, hd]

end Next

theorem exec_readDataDecode_decodes (h : s.nextData c x = some e) (hm : e.purp ≠ .mrr) (hd : e.purp ≠ .mrrDropped) :
    exec (.readDataDecode c x raw) s = .next (((s.noteCaptured c x e.id).decodeRead c x e raw).after c) := by
  rw [exec_readDataDecode, State.capture_decodes h hm hd]

/-! ### What decoding does -/

/-- What is noted of the captured command erases no device. -/
@[simp] theorem State.noteCaptured_erasedAt (s : State) (c : ChanId) (x : Sub) (id loc : Nat) :
    (s.noteCaptured c x id).erasedAt c loc = s.erasedAt c loc := by
  rfl

@[simp] theorem State.countEcc_clean (s : State) (c : ChanId) (x : Sub) : s.countEcc c x .clean = s := rfl
@[simp] theorem State.countEcc_poison (s : State) (c : ChanId) (x : Sub) : s.countEcc c x .poison = s := rfl
@[simp] theorem State.countEcc_uncorrectable (s : State) (c : ChanId) (x : Sub) :
    s.countEcc c x .uncorrectable = s := rfl

theorem State.countEcc_corrected_untold {d : Nat} (thr : field (s.agentRw c 0x090) 31 16 = 0) :
    s.countEcc c x (.corrected d) = s.modChan c fun k =>
      { k with eccDev := k.eccDev.put (devIx x d) (satAdd 65535 ((s.chan c).eccDev.at (devIx x d)) 1)
               eccTold := k.eccTold.put (devIx x d) (k.eccTold.at (devIx x d)) } := by
  simp [State.countEcc, thr]

section Decode
variable {r : DecRes} (hr : decodeStored (s.erasedAt c e.loc) raw = r)
include hr

theorem State.decodeRead_data (hp : r.out ≠ .poison) (hu : r.out ≠ .uncorrectable) :
    s.decodeRead c x e raw = ((s.countEcc c x r.out).dropRead c e.id).deliver c e (.data r.data r.out) := by
  unfold State.decodeRead
  cases ho : r.out <;> simp_all

theorem State.decodeRead_poison (ho : r.out = .poison) :
    s.decodeRead c x e raw = (s.dropRead c e.id).deliver c e .poison := by
  simp [State.decodeRead, hr, ho]

theorem State.decodeRead_again (ho : r.out = .uncorrectable) (first : e.again = false) :
    s.decodeRead c x e raw = s.modChan c fun k => { k with rq := k.rq.map fun o =>
      if o.id = e.id then { o with issued := false, reread := true, again := true } else o } := by
  simp [State.decodeRead, hr, ho, first]

theorem State.decodeRead_bad (ho : r.out = .uncorrectable) (second : e.again = true) (kept : e.purp.inRdue = true) :
    s.decodeRead c x e raw =
      (((s.recordRdue c e.home).dropRead c e.id).deliver c e .bad).tieRecon c e.home s.nextId := by
  simp [State.decodeRead, hr, ho, second, kept]

end Decode

/-! ### A host read's line -/

/-- With no injection armed at the return queue, a host read's decoded line joins it as it is. -/
theorem State.deliver_host_data {src : Src} {rid lidx : Nat} {d : Line} {out : Decoded} (hp : e.purp = .host src rid lidx)
    (unarmed : (s.chan c).armedC 6 = none) :
    s.deliver c e (.data d out) = s.modChan c fun k => { k.spendC none with ret := k.ret ++
      [{ src := src, rid := rid, lidx := lidx, tag := e.orig.tag, cls := e.cls, epoch := e.epoch, code := .ok
         corr := e.again || out != .clean, data := d, bad := none }] } := by
  simp only [State.deliver, hp, State.hostGot, State.pushRet]
  refine State.modChan_congr ?_
  simp only [unarmed]

end Capture

end Sys2Proof.Machine
end

section
/-! CERTIFICATE. The data of the earliest issued read are decoded. -/

namespace Sys2Proof.Machine

/-- Settles O13, by what is captured of each purpose of read, and by the equation of each outcome of its decoding. -/
theorem readDataDecoded : Obligations.ReadDataDecoded := by
  unfold Obligations.ReadDataDecoded
  refine ⟨?nothing, ?data, ?poison, ?again, ?bad, ?mrr, ?dropped, ?host, ?device, ?clean⟩
  case nothing =>
    intro c x raw s h
    rw [exec_readDataDecode, State.capture_of_none h]
  case data =>
    intro c x raw e s h hm hd hp hu
    rw [exec_readDataDecode_decodes h hm hd, State.decodeRead_data (s := s.noteCaptured c x e.id) rfl hp hu,
      State.noteCaptured_erasedAt]
  case poison =>
    intro c x raw e s h hm hd ho
    rw [exec_readDataDecode_decodes h hm hd, State.decodeRead_poison (s := s.noteCaptured c x e.id) rfl ho]
  case again =>
    intro c x raw e s h hm hd ho first
    rw [exec_readDataDecode_decodes h hm hd, State.decodeRead_again (s := s.noteCaptured c x e.id) rfl ho first]
  case bad =>
    intro c x raw e s h hm hd ho second kept
    rw [exec_readDataDecode_decodes h hm hd, State.decodeRead_bad (s := s.noteCaptured c x e.id) rfl ho second kept]
    rfl
  case mrr =>
    intro c x raw e s h hp
    rw [exec_readDataDecode, State.capture_mrr h hp]
  case dropped =>
    intro c x raw e s h hp
    rw [exec_readDataDecode, State.capture_dropped h hp]
  case host => exact fun c e src rid lidx d out s hp unarmed => State.deliver_host_data hp unarmed
  case device => exact fun c x d s thr => State.countEcc_corrected_untold thr
  case clean => exact fun c x s => State.countEcc_clean s c x

end Sys2Proof.Machine
end

section
/-! SUPPORT. Refresh windows and retraining pauses at a subchannel (R157 to R161, R189, R190, R361 to R365): the launch of a posted
slot, the plan that a window or a pause makes, and what the trials of a pause do. -/

namespace Sys2Proof.Machine

/-! ### The launch of a posted slot -/

section Posted
variable {s v : State} {c : ChanId} {x : Sub} {e : PostedSlot} {k : Nat}

theorem State.await_slot_of_none (h : ∀ e ∈ s.cad.posted, e.kind = k → e.names c x = false) :
    s.await (earliest ((s.cad.posted.filter fun e => e.kind == k && e.names c x).map (·.at_))) = s := by
  rw [State.slot_none s k c x h]
  rfl

section Due
variable (ht : s.ticking = true) (mem : e ∈ s.cad.posted) (names : e.names c x = true) (hT : s.tide < e.at_)
  (hd : ∀ d ∈ s.dues, e.at_ ≤ d)
include ht mem names hT hd

/-- A posted slot before which nothing is due is launched at its tide value. -/
theorem State.await_slot (kind : e.kind = k) :
    s.await (earliest ((s.cad.posted.filter fun e => e.kind == k && e.names c x).map (·.at_))) = s.launch e.at_ [] := by
  obtain ⟨first, due⟩ := State.slot_due s k c x e mem kind names hd
  rw [first, State.await_launch s _ ht hT due hd]

theorem exec_refreshWindow_launch (kind : e.kind = 1) : exec (.refreshWindow c x) s = .next (s.launch e.at_ []) :=
  congrArg Host.Outcome.next (State.await_slot ht mem names hT hd kind)

theorem exec_retrainPause_launch (fl up dn : BitVec 4) (kind : e.kind = 2) :
    exec (.retrainPause c x fl up dn) s = .next ((s.launch e.at_ []).rtrOutcome c x ⟨fl, up, dn⟩).sweepFails :=
  congrArg (fun t : State => Host.Outcome.next (t.rtrOutcome c x ⟨fl, up, dn⟩).sweepFails)
    (State.await_slot ht mem names hT hd kind)

end Due

theorem exec_refreshWindow_of_none (h : ∀ e ∈ s.cad.posted, e.kind = 1 → e.names c x = false) :
    exec (.refreshWindow c x) s = .next s :=
  congrArg Host.Outcome.next (State.await_slot_of_none h)

theorem exec_retrainPause_of_none (fl up dn : BitVec 4) (h : ∀ e ∈ s.cad.posted, e.kind = 2 → e.names c x = false) :
    exec (.retrainPause c x fl up dn) s = .next (s.rtrOutcome c x ⟨fl, up, dn⟩).sweepFails :=
  congrArg (fun t : State => Host.Outcome.next (t.rtrOutcome c x ⟨fl, up, dn⟩).sweepFails) (State.await_slot_of_none h)

theorem State.reached_of_single (hp : s.cad.posted = [e]) (hT : e.at_ ≤ s.tide) :
    s.reached k = if e.kind = k then [e] else [] := by
  by_cases h : e.kind = k <;> simp [State.reached, hp, h, hT]

/-- A slot that is the only one posted and names one subchannel alone is taken there, as a window or as a pause. -/
theorem State.allSlots_single (hp : s.cad.posted = [e]) (hT : e.at_ ≤ s.tide) (kind : e.kind = 1 ∨ e.kind = 2)
    (one : ∀ n y, e.names n y = true ↔ n = c ∧ y = x) (hv : v = { s with cad := { s.cad with posted := [] } })
    (valid : (v.chan c).tideValid = true) (on : v.slotOn c = true) :
    s.allSlots = if e.kind = 1 then v.window_ c x else v.pause c x false := by
  have named : e.names c x = true := (one c x).mpr ⟨rfl, rfl⟩
  have others (n : ChanId) (y : Sub) (h : ¬(n = c ∧ y = x)) : e.names n y = false :=
    Bool.eq_false_iff.mpr fun hn => h ((one n y).mp hn)
  have taken : (s.cad.posted.filter fun e => !decide (e.at_ ≤ s.tide)) = [] := by simp [hp, hT]
  unfold State.allSlots
  simp only [State.reached_of_single hp hT, taken, ← hv]
  rw [State.takeSlots_one _ _ _ c x]
  · obtain h | h := kind <;> simp [h, State.takeSlots, valid, on, named]
  · intro n y h
    obtain h' | h' := kind <;> simp [h', others n y h]

/-- The launch of a slot that is all there is due, and names one subchannel alone. -/
theorem State.launch_slot_single (hp : s.cad.posted = [e]) (kind : e.kind = 1 ∨ e.kind = 2)
    (one : ∀ n y, e.names n y = true ↔ n = c ∧ y = x) (hT : s.tide < e.at_) (hm : e.at_ % 4096 ≠ 0)
    (hn : ∀ k n, s.cad.next.at k = some n → e.at_ + 1024 < n) (hu : s.regs.posted = []) (ha : s.regs.atPend = false)
    (hv : v = { s.advance e.at_ with cad := { s.cad with posted := [] } })
    (valid : (v.chan c).tideValid = true) (on : v.slotOn c = true) :
    s.launch e.at_ [] =
      (if e.kind = 1 then v.window_ c x else v.pause c x false).gates.settleAll.sweepFails := by
  obtain ⟨tide, cad, -⟩ := State.advance_frame s e.at_ hT
  rw [State.launch_slot s e hp (by omega) hT hm hn hu ha,
    State.allSlots_single (v := v) (by rw [cad, hp]) (by omega) kind one (by rw [cad]; exact hv) valid on]

end Posted

/-! ### Refresh windows -/

section Windows
variable {s : State} {c : ChanId} {x : Sub}

theorem State.progRank_of_not_prog (h : (s.chan c).ppr.prog = false) (cs : Nat) : s.progRank c x cs = false := by
  simp [State.progRank, h]

/-- A window that every rank takes. -/
theorem State.window_of_taken (takes : (s.sel c x).missesWindow = false)
    (free : ∀ r ∈ (s.geom c).ranks, s.progRank c x r = false) :
    s.window_ c x =
      let sb := flag (s.agent c 0x030) 1
      let t := (s.modSel c x fun l =>
        { l with plan := l.plan.filter (fun p => p.use != .pprEnd)
                   ++ windowPlan (s.geom c).ranks (s.sel c x) sb (flag (s.agent c 0x030) 2) (dclks (s.tim c 3))
                   ++ l.plan.filter fun p => p.use == .pprEnd }).suspend c
      if sb then t.modSel c x fun l => { l with refIx := (l.refIx + 1) % 2 ^ (s.geom c).ba } else t := by
  have kept : ((s.geom c).ranks.filter fun r => s.progRank c x r) = [] :=
    List.filter_eq_nil_iff.mpr fun r hr => by simp [free r hr]
  have taken : ((s.geom c).ranks.filter fun r => !s.progRank c x r) = (s.geom c).ranks :=
    List.filter_eq_self.mpr fun r hr => by simp [free r hr]
  unfold State.window_
  simp only [takes, kept, taken, Bool.false_eq_true, if_false, List.foldl_nil]
  rfl

/-- A missed all-bank window that is not doubled is owed by every rank. -/
theorem State.window_of_missed (misses : (s.sel c x).missesWindow = true) (sb : flag (s.agent c 0x030) 1 = false)
    (x2 : flag (s.agent c 0x030) 2 = false) :
    s.window_ c x =
      (s.geom c).ranks.foldl (fun (t : State) (r : Nat) => t.owe c x r (s.sel c x).refIx false) s := by
  simp [State.window_, misses, sb, x2]

section Owe
variable {cs : Nat} (free : s.progRank c x cs = false)
include free

theorem State.owe_fifth (ba : Nat) (sb : Bool)
    (four : 4 ≤ (s.sel c x).owes cs - (s.sel c x).owedIn.toList.getD cs 0) : s.owe c x cs ba sb = s.raiseChan c 3 := by
  simp only [State.owe, free, four, Bool.false_eq_true, if_false, if_true]

theorem State.owe_allBank (ba : Nat) (hcs : cs < 4)
    (fewer : (s.sel c x).owes cs - (s.sel c x).owedIn.toList.getD cs 0 < 4) :
    s.owe c x cs ba false = s.modSel c x fun l => { l with owed := l.owed.put ⟨cs, hcs⟩ (l.owed.at ⟨cs, hcs⟩ + 1) } := by
  simp only [State.owe, free, Nat.not_le.mpr fewer, hcs, Bool.false_eq_true, if_false, dif_pos]

end Owe
end Windows

/-! ### Retraining pauses -/

section Pauses
variable {s : State} {c : ChanId} {x : Sub} {step : Nat}

theorem State.pause_left_out (w : Bool)
    (h : flag (s.agent c 0x010) 0 = false ∨ s.pers.strobe = true ∨ (s.sel c x).missesWindow = true ∨
      (s.chan c).cmarkDue = true ∨ (s.sel c x).pauseDue ≠ none) : s.pause c x w = s := by
  refine if_pos ?_
  obtain h | h | h | h | h := h <;> simp [h, Option.isSome_iff_ne_none]

section Taken
variable (en : flag (s.agent c 0x010) 0 = true) (strobe : s.pers.strobe = false) (mark : (s.chan c).cmarkDue = false)
  (takes : (s.sel c x).missesWindow = false) (due : (s.sel c x).pauseDue = none) (runs : (s.pauseStep c x).isSome = true)
include en strobe mark takes due runs

theorem State.pause_taken (w : Bool) :
    s.pause c x w = if (s.sel c x).inClosure then s.modSel c x fun l => { l with pauseDue := some !w }
      else s.beginPause c x := by
  refine if_neg ?_
  simp [en, strobe, mark, takes, due, Option.isSome_iff_ne_none.mp runs]

theorem State.pause_waits (w : Bool) (shut : (s.sel c x).inClosure = true) :
    s.pause c x w = s.modSel c x fun l => { l with pauseDue := some !w } := by
  rw [State.pause_taken en strobe mark takes due runs, if_pos shut]

theorem State.pause_begins (w : Bool) (shut : (s.sel c x).inClosure = false) : s.pause c x w = s.beginPause c x := by
  rw [State.pause_taken en strobe mark takes due runs, if_neg (Bool.eq_false_iff.mp shut)]

end Taken

/-- A pause of a step that no rank is kept from. -/
theorem State.beginPause_of_step (hstep : s.pauseStep c x = some step) (free : (s.chan c).ppr.prog = false) :
    s.beginPause c x =
      (s.modSel c x fun l =>
        let l := l.passOver (2 ^ (s.geom c).cs) step
        { l with plan := l.plan ++
                   ((((s.geom c).ranks.filter fun cs => (s.sel c x).banks.any fun e => e.1.cs == cs).map fun cs =>
                     ({ kind := .preab, bank := ⟨cs, 0, 0, 0⟩, use := .pause } : Cmd)) ++ rtrCmds (s.geom c) step)
                 pauseOpen := true, rtrStep := some step, rtrFound := none
                 rtrNext := (step + 1) % rtrSteps (2 ^ (s.geom c).cs) }).pauseGrant c := by
  have noRank := State.progRank_of_not_prog (x := x) free
  have all : ((rtrCmds (s.geom c) step).filter fun _ => true) = rtrCmds (s.geom c) step :=
    List.filter_eq_self.mpr fun _ _ => rfl
  simp only [State.beginPause, hstep, State.pauseKept, noRank, Bool.and_false, Bool.false_eq_true, if_false, Bool.not_false,
    Bool.true_and, Bool.true_or, all]

/-- A pause ends with what its trials found. -/
theorem State.endPause_of_found {t : Trial} (opened : (s.sel c x).pauseOpen = true) (issued : (s.sel c x).plan = [])
    (shut : (s.sel c x).shutUntil ≤ (s.sel c x).dclk) (hstep : (s.sel c x).rtrStep = some step)
    (found : (s.sel c x).rtrFound = some t) :
    s.endPause c x = (s.modSel c x fun l =>
      { l with pauseOpen := false, rtr := l.rtrNext, rtrStep := none, rtrFound := none }).rtrTrial c x step t := by
  simp [State.endPause, opened, issued, shut, hstep, found]

/-- Trials that all pass at the centre, and move no delay past its limit. -/
theorem State.rtrTrial_of_passed {t : Trial} (tunes : step < 20 * 2 ^ (s.geom c).cs) (pass : t.fails = 0)
    (within : ((s.chan c).phy.retrain (rtrKey (2 ^ (s.geom c).cs) x step) (step % 10) t).2.2 = false) :
    s.rtrTrial c x step t =
      let r := (s.chan c).phy.retrain (rtrKey (2 ^ (s.geom c).cs) x step) (step % 10) t
      (s.modSel c x fun l => { l with failed := l.failed.filter (· != step) }).modChan c fun k =>
        { k with phy := { r.1 with moves := satAdd 1023 r.1.moves r.2.1, fails := satAdd 255 r.1.fails 0 } } := by
  simp [State.rtrTrial, Nat.not_le.mpr tunes, pass, within]

end Pauses

/-! ### Delays -/

section Delays
variable (p : Phy) (d : Delay)

theorem Phy.setDelay_delay (v : Int) (e : Delay) : (p.setDelay d v).delay e = if e = d then v else p.delay e := by
  unfold Phy.delay Phy.setDelay
  simp only
  rw [find_key_replaced]
  by_cases h : e = d
  · simp [h]
  · simp [h, Ne.symm h]

variable {p d} {up : Bool}

theorem Phy.nudge_within
    (h : d.range.1 ≤ p.delay d + (if up then 1 else -1) ∧ p.delay d + (if up then 1 else -1) ≤ d.range.2) :
    p.nudge d up = (p.setDelay d (p.delay d + if up then 1 else -1), false) := if_pos h

theorem Phy.nudge_at_limit
    (h : ¬(d.range.1 ≤ p.delay d + (if up then 1 else -1) ∧ p.delay d + (if up then 1 else -1) ≤ d.range.2)) :
    p.nudge d up = (p, true) := if_neg h

end Delays

end Sys2Proof.Machine
end

section
/-! CERTIFICATE. Refresh windows and retraining pauses. -/

namespace Sys2Proof.Machine

/-- Settles O14: a slot's command by its launch, which reaches the subchannel that it names; there a window by who takes it and
who owes it, a pause by whether it begins, waits or is left out, and its end by its trials and the delays that they move. -/
theorem refreshAndRetrain : Obligations.RefreshAndRetrain := by
  unfold Obligations.RefreshAndRetrain
  refine ⟨⟨?noWindow, ?windowDue, ?windowAlone, ?missed, ?fifth, ?owes⟩,
    ⟨?noPause, ?pauseDue, ?pauseAlone, ?outcome, ?ends, ?trial, ?nudge, ?leftOut, ?waits⟩⟩
  case noWindow => exact fun c x s h => exec_refreshWindow_of_none h
  case windowDue =>
    intro c x e s ht mem kind names hT hd
    rw [exec_refreshWindow_launch ht mem names hT hd kind, State.launch_eq s _ hT]
  case windowAlone =>
    intro c x e s v ht hp kind one hT hm hd hn hu ha hv valid on takes free
    rw [exec_refreshWindow_launch ht (by simp [hp]) ((one c x).mpr ⟨rfl, rfl⟩) hT hd kind,
      State.launch_slot_single hp (.inl kind) one hT hm hn hu ha hv valid on, if_pos kind, State.window_of_taken takes free]
  case missed => exact fun c x s misses sb x2 => State.window_of_missed misses sb x2
  case fifth => exact fun c x cs ba sb s free four => State.owe_fifth free ba sb four
  case owes => exact fun c x cs ba s free fewer => State.owe_allBank free ba cs.isLt fewer
  case noPause => exact fun c x fl up dn s h => exec_retrainPause_of_none fl up dn h
  case pauseDue =>
    intro c x fl up dn e s ht mem kind names hT hd
    rw [exec_retrainPause_launch ht mem names hT hd fl up dn kind, State.launch_eq s _ hT]
  case pauseAlone =>
    intro c x fl up dn e step s v ht hp kind one hT hm hd hn hu ha hv valid on takes en strobe mark due shut hstep free
    rw [exec_retrainPause_launch ht (by simp [hp]) ((one c x).mpr ⟨rfl, rfl⟩) hT hd fl up dn kind,
      State.launch_slot_single hp (.inr kind) one hT hm hn hu ha hv valid on, if_neg (by omega),
      State.pause_begins en strobe mark takes due (by simp [hstep]) false shut, State.beginPause_of_step hstep free]
  case outcome => exact fun c x t s => rfl
  case ends => exact fun c x step t s opened issued shut hstep found => State.endPause_of_found opened issued shut hstep found
  case trial => exact fun c x step t s tunes pass within => State.rtrTrial_of_passed tunes pass within
  case nudge =>
    refine fun p d up => ⟨fun within => ?_, fun beyond => Phy.nudge_at_limit beyond⟩
    rw [Phy.nudge_within within]
    exact ⟨by rw [Phy.setDelay_delay, if_pos rfl], rfl, fun e he => by rw [Phy.setDelay_delay, if_neg he]⟩
  case leftOut => exact fun c x w s h => State.pause_left_out w h
  case waits =>
    exact fun c x w s en strobe mark takes due runs shut => State.pause_waits en strobe mark takes due runs w shut

end Sys2Proof.Machine
end

section
/-! SUPPORT. The tide (R178 to R182, R184 to R187, R207): when a CCLK and a row launch, what a sync mark does to a tide copy, the
posting of a cadence slot and the epoch cut. -/

namespace Sys2Proof.Machine

/-! ### What is due, and the launch of the first of it -/

theorem State.next_mem_dues {s : State} {k : Fin 8} {T : Nat} (h : s.cad.next.at k = some T) : T - 1024 ∈ s.dues := by
  have slot : some T ∈ s.cad.next.toList := by
    rw [← h]
    exact Vector.mem_toList_iff.mpr (Vector.getElem_mem k.isLt)
  have listed : T ∈ s.cad.next.toList.filterMap id := List.mem_filterMap.mpr ⟨_, slot, rfl⟩
  simp only [State.dues, List.mem_append]
  exact .inl <| .inl <| .inl <| .inr <| List.mem_map_of_mem listed

/-- Something is due by `T` where the earliest due tide value is at most `T`. -/
theorem State.nextDue_any_iff (s : State) (T : Nat) :
    (s.nextDue.any fun d => decide (d ≤ T)) = true ↔ ∃ d ∈ s.dues, d ≤ T := by
  obtain ⟨least, empty⟩ := pick_min s.dues
  change ((pick (fun (a b : Nat) => decide (a < b)) s.dues).any fun d => decide (d ≤ T)) = true ↔ _
  cases h : pick (fun (a b : Nat) => decide (a < b)) s.dues with
  | none => simp [empty h]
  | some d =>
    obtain ⟨mem, le⟩ := least d h
    rw [Option.any_some, decide_eq_true_eq]
    exact ⟨fun hd => ⟨d, mem, hd⟩, fun ⟨x, hx, hT⟩ => Nat.le_trans (le x hx) hT⟩

/-- Where nothing is due before `T`, time passes up to it in one launch. -/
theorem State.runTo_launch {s : State} {T : Nat} (hd : ∀ d ∈ s.dues, T ≤ d) (n : Nat) (seen : List (ChanId × Nat)) :
    s.runTo n T seen = s.launch T seen := by
  cases n with
  | zero => rfl
  | succ n =>
    unfold State.runTo
    split
    next d h => rw [if_neg (Nat.not_lt.mpr (hd d ((pick_min s.dues).1 d h).1))]
    next => rfl

/-! ### A CCLK of an empty queue (R178, log entry 2) -/

section Tick
variable {s : State}

theorem State.tick_of_stopped (h : s.ticking = false) : s.tick = s.sledFalls 1 := by
  simp [State.tick, h]

theorem State.tick_launches (h : s.ticking = true) (hd : (∃ d ∈ s.dues, d ≤ s.tide + 1) ∨ (s.tide + 1) % 4096 = 0) :
    s.tick = s.launch (s.tide + 1) [] := by
  rw [← State.nextDue_any_iff] at hd
  simp only [State.tick, h, Bool.not_true, Bool.false_eq_true, if_false, Bool.or_eq_true, decide_eq_true_eq, if_pos hd]

theorem State.tick_counts (h : s.ticking = true) (hd : ∀ d ∈ s.dues, s.tide + 1 < d) (hm : (s.tide + 1) % 4096 ≠ 0) :
    s.tick = (({ s with tide := s.tide + 1 } : State).nextCclk.landHeld).sledFalls 1 := by
  have idle : ¬((s.nextDue.any fun d => decide (d ≤ s.tide + 1)) = true ∨ (s.tide + 1) % 4096 = 0) := by
    rw [State.nextDue_any_iff]
    rintro (⟨d, mem, le⟩ | mark)
    · exact absurd (hd d mem) (Nat.not_lt.mpr le)
    · exact hm mark
  have one : s.tide + 1 - s.tide = 1 := Nat.add_sub_cancel_left ..
  simp only [State.tick, h, Bool.not_true, Bool.false_eq_true, if_false, Bool.or_eq_true, decide_eq_true_eq, if_neg idle]
  rw [State.advance_lt s _ (Nat.lt_succ_self _), one]

end Tick

/-! ### The sync mark (R180 to R182) -/

theorem State.copyNum_eq (s : State) (c : ChanId) : s.copyNum c =
    (s.chan c).copyBase + 64 * ((s.tide - (s.chan c).copyFrom) * (s.chan c).phy.mul / 64) :=
  congrArg ((s.chan c).copyBase + ·) (Nat.mul_comm ..)

theorem aligned_iff (n T mul : Nat) : aligned n T mul = true ↔ n < T * mul + 64 ∧ T * mul < n + 64 := by
  simp [aligned]

section SyncMark
variable {k : Chan} {n T : Nat}

theorem Chan.syncMark_of_stopped (h : k.phy.lock = false) : k.syncMark n T = k := by
  simp [Chan.syncMark, h]

theorem Chan.syncMark_loads (h : k.phy.lock = true) (hv : k.tideValid = false) : k.syncMark n T =
    { k with tideValid := true, tideReload := false, copyBase := T * k.phy.mul, copyFrom := T
             skew := if k.tideReload then satAdd 255 k.skew 1 else k.skew } := by
  simp [Chan.syncMark, h, hv]

theorem Chan.syncMark_of_aligned (h : k.phy.lock = true) (hv : k.tideValid = true) (ha : aligned n T k.phy.mul = true) :
    k.syncMark n T = { k with copyBase := n, copyFrom := T } := by
  simp [Chan.syncMark, h, hv, ha]

theorem Chan.syncMark_of_skewed (h : k.phy.lock = true) (hv : k.tideValid = true) (ha : aligned n T k.phy.mul = false) :
    k.syncMark n T = { k with tideValid := false, tideReload := true } := by
  simp [Chan.syncMark, h, hv, ha]

variable {s : State} {c : ChanId} {seen : List (ChanId × Nat)}
  (hn : n = ((seen.find? fun e => e.1 == c).map Prod.snd).getD (s.copyNum c))
include hn

/-- A stopped, an invalid and an aligned copy raise nothing. -/
theorem State.syncMark_silent
    (h : (s.chan c).phy.lock = false ∨ (s.chan c).tideValid = false ∨ aligned n s.tide (s.chan c).phy.mul = true) :
    s.syncMark seen c = s.modChan c fun k => k.syncMark n s.tide := by
  subst hn
  refine if_neg ?_
  obtain h | h | h := h <;> simp [h]

theorem State.syncMark_raises (h : (s.chan c).phy.lock = true) (hv : (s.chan c).tideValid = true)
    (ha : aligned n s.tide (s.chan c).phy.mul = false) :
    s.syncMark seen c = (s.modChan c fun k => k.syncMark n s.tide).raiseChan c 0 := by
  subst hn
  refine if_pos ?_
  simp [h, hv, ha]

end SyncMark

/-- A mark at one copy touches neither the tide nor the cadence nor what chapter 7 keeps. -/
theorem State.syncMark_frame (s : State) (seen : List (ChanId × Nat)) (c : ChanId) :
    (s.syncMark seen c).tide = s.tide ∧ (s.syncMark seen c).cad = s.cad ∧ (s.syncMark seen c).pers = s.pers := by
  unfold State.syncMark
  dsimp only
  split <;> exact ⟨rfl, rfl, rfl⟩

theorem State.sendMark_frame (s : State) (seen : List (ChanId × Nat)) :
    (s.sendMark seen).tide = s.tide ∧ (s.sendMark seen).cad = s.cad ∧ (s.sendMark seen).pers = s.pers := by
  refine List.foldlRecOn (motive := fun t : State => t.tide = s.tide ∧ t.cad = s.cad ∧ t.pers = s.pers) allChans _
    ⟨rfl, rfl, rfl⟩ ?_
  rintro t ⟨tide, cad, pers⟩ c -
  obtain ⟨tide', cad', pers'⟩ := State.syncMark_frame t seen c
  exact ⟨tide'.trans tide, cad'.trans cad, pers'.trans pers⟩

/-- The sync mark's row is the launch of the next multiple of 4,096, where nothing is due before it. -/
theorem exec_tideSyncMark_launch {s : State} (seen : List (ChanId × Nat)) (ht : s.ticking = true)
    (hd : ∀ d ∈ s.dues, (s.tide / 4096 + 1) * 4096 ≤ d) :
    exec (.tideSyncMark seen) s = .next (s.launch ((s.tide / 4096 + 1) * 4096) seen) := by
  change Host.Outcome.next (if s.ticking then s.runTo _ _ seen else s) = _
  rw [if_pos ht, State.runTo_launch hd]

theorem State.launch_mark (s : State) {T : Nat} (seen : List (ChanId × Nat)) (h : s.tide < T) (hm : T % 4096 = 0) :
    s.launch T seen =
      ((s.advance T).sendMark seen).cuts.takeUpdates.posts.allSlots.gates.settleAll.sweepFails := by
  simp only [State.launch, (State.advance_frame s T h).1, if_pos hm]

/-! ### Cadence slots (R184 to R187, R196) -/

theorem exec_slotPost_launch {s : State} {k : Fin 8} {T : Nat} (ht : s.ticking = true) (hk : s.cad.next.at k = some T)
    (hT : s.tide + 1024 < T) (hd : ∀ d ∈ s.dues, T - 1024 ≤ d) :
    exec (.slotPost k) s = .next (s.launch (T - 1024) []) := by
  change Host.Outcome.next (s.await ((s.cad.next.at k).map (· - 1024))) = _
  rw [hk, Option.map_some, State.await_launch s _ ht (by omega) (State.next_mem_dues hk) hd]

theorem exec_slotPost_of_none {s : State} {k : Fin 8} (h : s.cad.next.at k = none) : exec (.slotPost k) s = .next s := by
  change Host.Outcome.next (s.await ((s.cad.next.at k).map (· - 1024))) = _
  rw [h]; rfl

/-- A fold in which one element of the list acts, and the others act neither before it nor after it. -/
theorem foldl_once {α β : Type} {f : α → β → α} {l : List β} {b : β} {s : α} (one : l.Nodup) (mem : b ∈ l)
    (before : ∀ a, a ≠ b → f s a = s) (after : ∀ a, a ≠ b → f (f s b) a = f s b) : l.foldl f s = f s b := by
  obtain ⟨l₁, l₂, rfl⟩ := List.append_of_mem mem
  have fixed {t : α} {r : List β} (away : b ∉ r) (h : ∀ a, a ≠ b → f t a = t) : r.foldl f t = t := by
    refine List.foldlRecOn (motive := (· = t)) r f rfl ?_
    rintro _ rfl a ha
    exact h a fun e => away (e ▸ ha)
  obtain ⟨-, tail, apart⟩ := List.nodup_append.mp one
  rw [List.foldl_append, fixed (fun hb => apart b hb b List.mem_cons_self rfl) before, List.foldl_cons,
    fixed (List.nodup_cons.mp tail).1 after]

theorem State.postDue_of_later {s : State} {k : Fin 8} (h : ∀ n, s.cad.next.at k = some n → s.tide + 1024 < n) :
    s.postDue k = s := by
  unfold State.postDue
  split
  next T hk => exact if_neg (Nat.not_le.mpr (h T hk))
  next => rfl

theorem State.postSlot_next_ne (s : State) {j k : Fin 8} (T : Nat) (h : j ≠ k) :
    (s.postSlot k T).cad.next.at j = s.cad.next.at j := Tab.at_put_ne _ _ h

theorem State.postSlot_chan (s : State) (k : Fin 8) (T : Nat) (c : ChanId) : (s.postSlot k T).chan c = s.chan c := rfl

/-- Where the posting time of one entry's slot alone has come, the postings are that slot's. -/
theorem State.posts_slot {s : State} {k : Fin 8} {T : Nat} (hk : s.cad.next.at k = some T) (hT : T ≤ s.tide + 1024)
    (others : ∀ j n, j ≠ k → s.cad.next.at j = some n → s.tide + 1024 < n) (ha : s.regs.atPend = false) :
    s.posts = s.postSlot k T := by
  have acts : s.postDue k = s.postSlot k T := by
    simp only [State.postDue, hk, if_pos hT]
  have slots : (List.finRange 8).foldl State.postDue s = s.postSlot k T := by
    rw [← acts]
    refine foldl_once (List.nodup_finRange 8) (List.mem_finRange k) (fun j hj => State.postDue_of_later fun n => others j n hj)
      fun j hj => State.postDue_of_later ?_
    rw [acts, State.postSlot_next_ne s T hj]
    exact fun n => others j n hj
  have unarmed : (s.postSlot k T).regs.atPend = false := ha
  simp only [State.posts, slots, unarmed, Bool.false_and, Bool.false_eq_true, if_false]

/-- A slot that has just been posted lies ahead, so that no subchannel takes it yet. -/
theorem State.allSlots_postSlot {s : State} {T : Nat} (k : Fin 8) (hT : s.tide < T)
    (h : ∀ e ∈ s.cad.posted, s.tide < e.at_) : (s.postSlot k T).allSlots = s.postSlot k T := by
  refine State.allSlots_none fun e he => ?_
  change e ∈ (if (s.slotOf k T).kind = 2 ∧ s.pers.strobe = true then s.cad.posted else s.cad.posted ++ [s.slotOf k T]) at he
  split at he
  · exact h e he
  · obtain he | he := List.mem_append.mp he
    · exact h e he
    · exact (List.mem_singleton.mp he) ▸ hT

/-- A launch at which the posting of one entry's slot is the only thing due posts it. -/
theorem State.launch_posts_slot {s : State} {k : Fin 8} {T : Nat} (hk : s.cad.next.at k = some T) (hT : s.tide + 1024 < T)
    (hm : (T - 1024) % 4096 ≠ 0) (others : ∀ j n, j ≠ k → s.cad.next.at j = some n → T < n)
    (hc : ∀ e ∈ s.cad.posted, T - 1024 < e.at_) (hu : s.regs.posted = []) (ha : s.regs.atPend = false)
    (hg : ∀ n, (s.chan n).gate = none) :
    s.launch (T - 1024) [] = ((s.advance (T - 1024)).postSlot k T).settleAll.sweepFails := by
  obtain ⟨tide, cad, -, posted, pend, gates⟩ := State.advance_frame s (T - 1024) (by omega)
  have lead : (s.advance (T - 1024)).tide + 1024 = T := by omega
  have posts : (s.advance (T - 1024)).posts = (s.advance (T - 1024)).postSlot k T :=
    State.posts_slot (by rw [cad, hk]) (Nat.le_of_eq lead.symm) (by rwa [lead, cad]) (pend.trans ha)
  have slots : ((s.advance (T - 1024)).postSlot k T).allSlots = (s.advance (T - 1024)).postSlot k T :=
    State.allSlots_postSlot k (by omega) (by rwa [tide, cad])
  have noGates : ((s.advance (T - 1024)).postSlot k T).gates = (s.advance (T - 1024)).postSlot k T :=
    State.gates_none _ fun n => by rw [State.postSlot_chan, gates, hg]
  rw [State.launch_no_slot (by omega) hm hc, State.takeUpdates_none _ (posted.trans hu), posts, slots, noGates]

/-! ### The epoch cut (R207 to R209, R256) -/

section Cut
variable {s : State} {e : PostedSlot}

theorem exec_epochCut_launch (ht : s.ticking = true) (he : e ∈ s.cad.posted) (kind : e.kind = 3) (hT : s.tide < e.at_)
    (hd : ∀ d ∈ s.dues, e.at_ ≤ d) : exec .epochCut s = .next (s.launch e.at_ []) := by
  have due {q : PostedSlot} (hq : q ∈ s.cad.posted) : q.at_ ∈ s.dues := by
    simp only [State.dues, List.mem_append]
    exact .inl <| .inl <| .inl <| .inl <| .inr (List.mem_map_of_mem hq)
  have first : earliest ((s.cad.posted.filter fun e => e.kind == 3).map (·.at_)) = some e.at_ := by
    refine earliest_eq _ _ (List.mem_map_of_mem (List.mem_filter.mpr ⟨he, by simp [kind]⟩)) fun x hx => ?_
    obtain ⟨q, hq, rfl⟩ := List.mem_map.mp hx
    exact hd _ (due (List.mem_filter.mp hq).1)
  change Host.Outcome.next (s.await (earliest ((s.cad.posted.filter fun e => e.kind == 3).map (·.at_)))) = _
  rw [first, State.await_launch s _ ht hT (due he) hd]

theorem State.cuts_of_reached (he : e ∈ s.cad.posted) (kind : e.kind = 3) (hT : e.at_ ≤ s.tide)
    (strobe : s.pers.strobe = false) : s.cuts = s.cut := by
  have reached : e ∈ s.reached 3 := List.mem_filter.mpr ⟨he, by simp [kind, hT]⟩
  have due : (s.reached 3).isEmpty = false := List.isEmpty_eq_false_iff.mpr (List.ne_nil_of_mem reached)
  simp only [State.cuts, due, strobe, Bool.or_self, Bool.false_eq_true, if_false]

theorem State.cuts_of_strobe (strobe : s.pers.strobe = true) : s.cuts = s := by
  simp [State.cuts, strobe]

/-- As the tide reaches `T`, the sync mark included, the tide, the cadence and what chapter 7 keeps are as before. -/
theorem State.marked_frame (s : State) {T : Nat} (h : s.tide < T) :
    let t := if T % 4096 = 0 then (s.advance T).sendMark [] else s.advance T
    t.tide = T ∧ t.cad = s.cad ∧ t.pers = s.pers := by
  obtain ⟨tide, cad, pers, -⟩ := State.advance_frame s T h
  obtain ⟨tide', cad', pers'⟩ := State.sendMark_frame (s.advance T) []
  dsimp only
  split
  · exact ⟨tide'.trans tide, cad'.trans cad, pers'.trans pers⟩
  · exact ⟨tide, cad, pers⟩

/-- The launch of a posted epoch cut closes the open epoch there. -/
theorem State.launch_cut (he : e ∈ s.cad.posted) (kind : e.kind = 3) (hT : s.tide < e.at_) (strobe : s.pers.strobe = false) :
    s.launch e.at_ [] =
      (let t := s.advance e.at_
       let t := if e.at_ % 4096 = 0 then t.sendMark [] else t
       t.cut.takeUpdates.posts.allSlots.gates.settleAll.sweepFails) := by
  obtain ⟨tide, cad, pers⟩ := State.marked_frame s hT
  simp only [State.launch_eq s _ hT, State.cuts_of_reached (cad ▸ he) kind (Nat.le_of_eq tide.symm) (pers ▸ strobe)]

/-- After the strobe a launch holds no cut (R216). -/
theorem State.launch_of_strobe (hT : s.tide < e.at_) (strobe : s.pers.strobe = true) :
    s.launch e.at_ [] =
      (let t := s.advance e.at_
       let t := if e.at_ % 4096 = 0 then t.sendMark [] else t
       t.takeUpdates.posts.allSlots.gates.settleAll.sweepFails) := by
  obtain ⟨-, -, pers⟩ := State.marked_frame s hT
  simp only [State.launch_eq s _ hT, State.cuts_of_strobe (pers ▸ strobe)]

end Cut

/-! ### Completion (R208, R209) -/

theorem State.advanceLoc_frame (s : State) :
    s.advanceLoc.mill = s.mill ∧ s.advanceLoc.pers.cur = s.pers.cur ∧ s.advanceLoc.pers.dur = s.pers.dur := by
  unfold State.advanceLoc
  dsimp only
  split <;> exact ⟨rfl, rfl, rfl⟩

theorem State.settle_cur (s : State) : s.settle.pers.cur = s.pers.cur := by
  obtain ⟨-, cur, -⟩ := State.advanceLoc_frame s
  exact cur

theorem State.settle_dur_ge (s : State) : s.pers.dur ≤ s.settle.pers.dur := by
  obtain ⟨-, -, dur⟩ := State.advanceLoc_frame s
  exact dur ▸ Nat.le_max_left ..

/-- Where the side stands alone, what is locally complete is durable (R209). -/
theorem State.settle_dur_of_alone {s : State} (h : s.mill.st = .off ∨ s.mill.st = .solo ∨ s.mill.st = .resyncSrc)
    (hd : s.pers.dur ≤ s.settle.pers.loc) : s.settle.pers.dur = s.settle.pers.loc := by
  obtain ⟨mill, -, dur⟩ := State.advanceLoc_frame s
  have target : s.settle.pers.dur = max s.advanceLoc.pers.dur s.advanceLoc.pers.loc := by
    obtain h | h | h := h <;> simp only [State.settle, State.advanceDur, mill, h]
  rw [target, dur]
  exact Nat.max_eq_right hd

/-! ### The limits of a period and the entries that act (R184, R185) -/

theorem cadPeriod_of_cut (per : Nat) :
    cadPeriod 3 per = if per < 3200 then 3200 else if per > 102400 then 102400 else per := by
  rw [cadPeriod, if_pos rfl]
  split
  · omega
  · split <;> omega

theorem cadPeriod_of_not_cut {kind : Nat} (per : Nat) (h : kind ≠ 3) :
    cadPeriod kind per = if per < 1024 then 1024 else per := by
  rw [cadPeriod, if_neg h]
  split <;> omega

section Acts
variable {s : State} {k : Nat}

theorem State.cadActs_of_unused (h : s.cadKind k = 0) : s.cadActs k = false := by
  simp [State.cadActs, h]

theorem State.cadActs_cut_iff (h : s.cadKind k = 3) : s.cadActs k = true ↔ ∀ j < k, s.cadKind j ≠ 3 := by
  simp [State.cadActs, h]

theorem State.cadActs_of_not_cut (h0 : s.cadKind k ≠ 0) (h3 : s.cadKind k ≠ 3) : s.cadActs k = true := by
  simp [State.cadActs, h0, h3]

theorem State.cadKind_ne_zero_iff : s.cadKind k ≠ 0 ↔
    flag (s.live (0x8000 + 0x20 * k)) 0 = true ∧ field (s.live (0x8000 + 0x20 * k)) 2 1 ≠ 0 := by
  simp [State.cadKind]

end Acts

/-! ### The reset state (R39, R178, R206, R397) -/

theorem State.reset_port (p : PortId) : State.reset.port p = {} := Tab.at_all ({} : Port) p

theorem State.reset_chan (c : ChanId) : State.reset.chan c = {} := Tab.at_all ({} : Chan) c

theorem State.reset_inv : State.reset.Inv := by
  have canonical : State.reset.canonical := ⟨Cells.empty_wf _, Cells.empty_wf _, Cells.empty_wf _⟩
  have bounded : State.reset.bounded := ⟨Nat.zero_le _, Nat.zero_le _, Nat.zero_le _⟩
  exact ⟨canonical, bounded⟩

end Sys2Proof.Machine
end

section
/-! CERTIFICATE. The step and the reset state; the tide, its sync mark, the cadence and the epoch cut. -/

namespace Sys2Proof.Machine

/-- Settles O1: the queue's front by the definition of a step, a CCLK by whether the tide runs and something is due. -/
theorem stepRunsFrontCommand : Obligations.StepRunsFrontCommand := by
  unfold Obligations.StepRunsFrontCommand
  refine ⟨?front, ?empty, ?counts, ?launches, ?stopped⟩
  case front => exact fun c rest s => rfl
  case empty =>
    intro s h
    simp only [step, h]
  case counts => exact fun s ht hd hm => State.tick_counts ht hd hm
  case launches => exact fun s ht hd => State.tick_launches ht hd
  case stopped => exact fun s ht => State.tick_of_stopped ht

/-- Settles O2, by the reset value of each part of the state. -/
theorem resetState : Obligations.ResetState := by
  unfold Obligations.ResetState
  refine ⟨rfl, rfl, rfl, ?ports, ?channels, rfl, rfl, rfl, rfl, rfl, rfl, rfl, ?registers, State.reset_inv⟩
  case ports => exact fun p => by rw [State.reset_port]
  case channels => exact fun c => by rw [State.reset_chan]
  case registers => exact fun k => ⟨rfl, rfl⟩

/-- Settles O15: a row by the launch of the tide value at which it is the first thing due; there the mark at each copy by what
the copy shows, the posting of an entry's slot, and the cut by the strobe. -/
theorem tideSlotsAndCuts : Obligations.TideSlotsAndCuts := by
  unfold Obligations.TideSlotsAndCuts
  refine ⟨⟨?mark, ?loads, ?goesOn, ?skewed, ?stopped, ?copy⟩, ⟨?postLaunch, ?postAlone, ?noSlot⟩,
    ⟨?cut, ?strobed, ?completion, ?durable⟩⟩
  case mark =>
    intro seen s ht hd
    rw [exec_tideSyncMark_launch seen ht hd, State.launch_mark s seen (by omega) (Nat.mul_mod_left ..)]
    rfl
  case loads =>
    intro seen c s h hv
    rw [State.syncMark_silent rfl (.inr (.inl hv))]
    exact State.modChan_congr (Chan.syncMark_loads h hv)
  case goesOn =>
    intro seen c n s h hv hn above below
    have ha := (aligned_iff n s.tide (s.chan c).phy.mul).mpr ⟨above, below⟩
    rw [State.syncMark_silent hn (.inr (.inr ha))]
    exact State.modChan_congr (Chan.syncMark_of_aligned h hv ha)
  case skewed =>
    intro seen c n s h hv hn far
    have ha : aligned n s.tide (s.chan c).phy.mul = false := by
      rw [Bool.eq_false_iff, Ne, aligned_iff]
      omega
    rw [State.syncMark_raises hn h hv ha]
    exact congrArg (State.raiseChan · c 0) (State.modChan_congr (Chan.syncMark_of_skewed h hv ha))
  case stopped =>
    intro seen c s h
    rw [State.syncMark_silent rfl (.inl h)]
    exact State.modChan_same (Chan.syncMark_of_stopped h)
  case copy => exact fun c s => State.copyNum_eq s c
  case postLaunch => exact fun k T s ht hk hT hd => exec_slotPost_launch ht hk hT hd
  case postAlone =>
    intro k T s v ht hk hT hm hd others hc hu ha hg hv
    obtain ⟨-, cad, pers, -⟩ := State.advance_frame s (T - 1024) (by omega)
    rw [exec_slotPost_launch ht hk hT hd, State.launch_posts_slot hk hT hm others hc hu ha hg, hv, State.postSlot, cad, pers]
  case noSlot => exact fun k s h => exec_slotPost_of_none h
  case cut =>
    intro e s ht he kind hT hd strobe
    rw [exec_epochCut_launch ht he kind hT hd, State.launch_cut he kind hT strobe]
    rfl
  case strobed =>
    intro e s ht he kind hT hd strobe
    rw [exec_epochCut_launch ht he kind hT hd, State.launch_of_strobe hT strobe]
  case completion => exact fun s => ⟨State.settle_cur s, State.settle_dur_ge s⟩
  case durable => exact fun s alone hd => State.settle_dur_of_alone alone hd

/-- Settles O57, by the limits of a period and by what makes an entry act. -/
theorem cadencePeriods : Obligations.CadencePeriods := by
  unfold Obligations.CadencePeriods
  refine ⟨?other, ?cut, ?unused, ?lowest, ?acts, ?inUse⟩
  case other => exact fun kind per h => cadPeriod_of_not_cut per h
  case cut => exact fun per => cadPeriod_of_cut per
  case unused => exact fun s k h => State.cadActs_of_unused h
  case lowest => exact fun s k h => State.cadActs_cut_iff h
  case acts => exact fun s k h0 h3 => State.cadActs_of_not_cut h0 h3
  case inUse => exact fun s k => State.cadKind_ne_zero_iff

end Sys2Proof.Machine
end

section
/-! SUPPORT. Power failure and the sag guard (R214 to R232): PWR_FAIL_N and the sluice's end, the clearing of a tally line; and
what a step that begins outside core reset leaves standing (R215). -/

namespace Sys2Proof.Machine

/-! ### PWR_FAIL_N and the sluice's end (R214, R216, R227) -/

section Pins
variable {s : State} (on : s.phase ≠ .off)
include on

theorem exec_pwrFail_falls (high : s.sbm.pfPin = true) :
    exec .pwrFail s = .next (
      let t : State := { s with sbm := { s.sbm with pfPin := false } }
      if flag t.sagCfg 4 && t.ticking then (t.strobe 3).sweepFails else t) := by
  change execPwrFail s = _
  simp only [execPwrFail, if_neg on, high, Bool.not_true, Bool.true_and]

theorem exec_pwrFail_rises (low : s.sbm.pfPin = false) :
    exec .pwrFail s = .next { s with sbm := { s.sbm with pfPin := true } } := by
  change execPwrFail s = _
  simp only [execPwrFail, if_neg on, low, Bool.not_false, Bool.false_and, Bool.false_eq_true, if_false]

end Pins

theorem State.strobe_of_strobed {s : State} (cause : Nat) (h : s.pers.strobe = true) : s.strobe cause = s :=
  if_pos h

theorem exec_sluiceDone_of_over {s : State} (h : s.sluiceOver = true) :
    exec .sluiceDone s = .next ({ s with pers := { s.pers with done := true } } : State).resetDue :=
  congrArg Host.Outcome.next (if_pos h)

theorem exec_sluiceDone_of_not_over {s : State} (h : s.sluiceOver = false) : exec .sluiceDone s = .next s :=
  congrArg Host.Outcome.next (if_neg (Bool.eq_false_iff.mp h))

/-! ### The clearing of a tally line (R230 to R232, R288) -/

theorem State.markQueued_of_plain {s : State} {m : SetId} (h : s.spanMode m = false) : s.markQueued m = s := by
  simp only [State.markQueued, h, Bool.not_false, if_true]

theorem State.readMark_of_good (s : State) (m : SetId) {e : Mark} (good : e.bad = none) : s.readMark m e = (s, e) := by
  simp only [State.readMark, good]

theorem State.readMark_of_bad (s : State) (m : SetId) {e : Mark} {b : Bad} (bad : e.bad = some b)
    (acted : b.checkOnly = false) :
    s.readMark m e = ((s.readG 531 (some b)).modSpan m fun sp => { sp with marks := sp.marks.map fun x =>
        if x.t = e.t then { e with bad := none, bits := BitVec.allOnes 512 } else x },
      { e with bad := none, bits := BitVec.allOnes 512 }) := by
  simp only [State.readMark, bad, acted, Bool.false_eq_true, if_false]

/-- A tally line stands while stripe lines of it are to come or not durable, in the sluice, and while its clear is under way. -/
def State.tallyStands (s : State) (e : Mark) : Prop :=
  e.count ≠ 0 ∨ s.pers.dur < e.emax ∨ s.pers.strobe = true ∨ e.clearing = true

theorem State.not_tallyStands {s : State} {e : Mark} (issued : e.count = 0) (durable : e.emax ≤ s.pers.dur)
    (running : s.pers.strobe = false) (idle : e.clearing = false) : ¬ s.tallyStands e := by
  simp only [State.tallyStands, issued, running, idle, ne_eq, not_true_eq_false, Bool.false_eq_true, or_false, false_or]
  omega

section Tally
variable {s : State} {m : SetId} {t : Nat} {e : Mark}
  (found : (((s.markQueued m).span m).marks.find? fun e => e.t == t) = some e)
include found

theorem exec_tallyClear_of_stands (stands : s.tallyStands e) : exec (.tallyClear m t) s = .next s := by
  change execTallyClear m t s = _
  unfold State.tallyStands at stands
  simp only [execTallyClear, found, if_pos stands]

variable (free : ¬ s.tallyStands e)
include free

/-- The mark-list word reads as it was written: the clear goes out. -/
theorem exec_tallyClear_clears {u : State} {x : Mark} (read : (s.markQueued m).readMark m e = (u, x))
    (same : x.bits = e.bits) :
    exec (.tallyClear m t) s = .next ((u.modSpan m fun sp => { sp with marks := sp.marks.map fun o =>
      if o.t = t then { o with clearing := true } else o }).pushTally m { x with clearing := true } false .bulk) := by
  change execTallyClear m t s = _
  unfold State.tallyStands at free
  simp only [execTallyClear, found, if_neg free, read, same, ne_eq, not_true_eq_false, if_false]

/-- The mark-list word reads otherwise than it was written: the line is written again as it reads. -/
theorem exec_tallyClear_rewrites {u : State} {x : Mark} (read : (s.markQueued m).readMark m e = (u, x))
    (other : x.bits ≠ e.bits) : exec (.tallyClear m t) s = .next (u.pushTally m x true .bulk) := by
  change execTallyClear m t s = _
  unfold State.tallyStands at free
  simp only [execTallyClear, found, if_neg free, read, if_pos other]

end Tally

/-! ### What a step outside core reset leaves standing (R215) -/

theorem plain_or_supply_or_row (i : Instr) :
    plain i = true ∨ i = .aonPowerUp ∨ i = .aonPowerLoss ∨ i = .bringBackRow := by
  unfold plain
  split <;> simp

/-- From outside core reset a command keeps what every effect keeps, or ends in core reset, as the rise and the fall of the
always-on supply do where they act; a row of the bring-back table that begins there undoes nothing. -/
theorem exec_kept_or_inReset (i : Instr) {s : State} (out : s.inReset = false) :
    ∃ t, exec i s = .next t ∧ (t.inReset = true ∨ Kept s t) := by
  obtain plain | rfl | rfl | rfl := plain_or_supply_or_row i
  case inl =>
    obtain ⟨t, e, kept⟩ := exec_kept i s plain
    exact ⟨t, e, .inr kept⟩
  case inr.inl =>
    obtain ⟨t, e, -, rfl | reset⟩ := execAonPowerUp_passed s
    · exact ⟨t, e, .inr (Kept.refl t)⟩
    · exact ⟨t, e, .inl reset⟩
  case inr.inr.inl =>
    obtain ⟨t, e, -, reset⟩ := execAonPowerLoss_passed s
    exact ⟨t, e, .inl reset⟩
  case inr.inr.inr =>
    obtain ⟨t, e, -, -, reset | kept⟩ := execBringBackRow_passed s
    · exact absurd reset (Bool.eq_false_iff.mp out)
    · exact ⟨t, e, .inr kept⟩

/-- A step keeps what its command, or the tick of an empty queue, keeps of the state behind the command taken. -/
theorem step_kept_or_inReset {s t : State} (h : step s = .next t) (out : s.inReset = false) :
    t.inReset = true ∨ Kept { s with pending := s.pending.tail } t := by
  cases queue : s.pending with
  | nil =>
    simp only [step, queue] at h
    cases h
    have same : { s with pending := [] } = s := by rw [← queue]
    rw [List.tail_nil, same]
    exact .inr s.tick_kept
  | cons i rest =>
    simp only [step, queue] at h
    obtain ⟨u, e, k⟩ := exec_kept_or_inReset i (s := { s with pending := rest }) out
    cases e.symm.trans h
    exact k

end Sys2Proof.Machine
end

section
/-! CERTIFICATE. What only core reset undoes; PWR_FAIL_N, the sluice's end and the clearing of a tally line; the sag guard's
decisions. -/

namespace Sys2Proof.Machine

/-- Settles O50: a step that ends outside core reset keeps what every effect keeps; the second clause is the first where the
step would end outside core reset. -/
theorem onlyResetUndoes : Obligations.OnlyResetUndoes := by
  unfold Obligations.OnlyResetUndoes
  have stands : ∀ s t : State, step s = .next t → s.inReset = false → t.inReset = false →
      s.tide ≤ t.tide ∧ s.regs.cinch &&& t.regs.cinch = s.regs.cinch ∧
      (s.pers.strobe = true → t.pers.strobe = true) ∧ (s.fcol.safe = true → t.fcol.safe = true) := by
    intro s t h out out'
    obtain reset | kept := step_kept_or_inReset h out
    · exact absurd reset (Bool.eq_false_iff.mp out')
    · exact kept.mono out'
  refine ⟨stands, fun s t h out strobed left => ?_⟩
  cases out' : t.inReset with
  | true => rfl
  | false =>
    obtain ⟨-, -, keepsStrobe, -⟩ := stands s t h out out'
    exact absurd (keepsStrobe strobed) (Bool.eq_false_iff.mp left)

/-- Settles O17: the pin and the sluice's end by their equations, a tally line by whether it stands and by how its mark-list word
reads. -/
theorem sluiceAndTally : Obligations.SluiceAndTally := by
  unfold Obligations.SluiceAndTally
  refine ⟨⟨?falls, ?rises, ?again, ?ended, ?goesOn⟩, ⟨?clears, ?allOnes, ?stands, ?noStripes⟩⟩
  case falls => exact fun s on high => exec_pwrFail_falls on high
  case rises => exact fun s on low => exec_pwrFail_rises on low
  case again => exact fun cause s h => State.strobe_of_strobed cause h
  case ended => exact fun s h => exec_sluiceDone_of_over h
  case goesOn => exact fun s h => exec_sluiceDone_of_not_over h
  case clears =>
    intro m t e s found good issued durable running idle
    exact exec_tallyClear_clears found (State.not_tallyStands issued durable running idle) (State.readMark_of_good _ m good) rfl
  case allOnes =>
    intro m t e b s found bad acted bits issued durable running idle
    exact exec_tallyClear_rewrites found (State.not_tallyStands issued durable running idle)
      (State.readMark_of_bad _ m bad acted) bits.symm
  case stands => exact fun m t e s found h => exec_tallyClear_of_stands found h
  case noStripes => exact fun m s h => State.markQueued_of_plain h

/-- Settles O18, by the samples' and the timeout's commands in a supplied core, the warn decision standing or not. -/
theorem sagDecisions : Obligations.SagDecisions := by
  unfold Obligations.SagDecisions
  refine ⟨?warn, ?crit, ?falls, ?none⟩
  case warn =>
    intro pinLow droop s on
    change execSagWarn pinLow droop s = _
    simp only [execSagWarn, if_neg on, Bool.or_eq_true, Bool.not_eq_true']
  case crit =>
    intro pinLow droop s on
    exact congrArg Host.Outcome.next (if_neg on)
  case falls =>
    intro s raised
    change execWarnClearTimeout s = _
    simp only [execWarnClearTimeout, raised, Bool.not_true, Bool.false_eq_true, if_false]
  case none =>
    intro s clear
    change execWarnClearTimeout s = _
    simp only [execWarnClearTimeout, clear, Bool.not_false, if_true]

end Sys2Proof.Machine
end

section
/-! SUPPORT. Sets of ranges: which members they have when a range is taken out, put in, or joined to its neighbour (R267,
R293). -/

namespace Sys2Proof.Machine

/-! ### Members of a list of ranges -/

theorem ISet.mem_nil (x : Nat) : ¬(⟨[]⟩ : ISet).mem x = true := by simp [ISet.mem]

theorem ISet.mem_cons (a b : Nat) (l : List (Nat × Nat)) (x : Nat) :
    (⟨(a, b) :: l⟩ : ISet).mem x = true ↔ (a ≤ x ∧ x < b) ∨ (⟨l⟩ : ISet).mem x = true := by
  simp [ISet.mem]

theorem ISet.mem_append (l m : List (Nat × Nat)) (x : Nat) :
    (⟨l ++ m⟩ : ISet).mem x = true ↔ (⟨l⟩ : ISet).mem x = true ∨ (⟨m⟩ : ISet).mem x = true := by
  simp only [ISet.mem, List.any_append, Bool.or_eq_true]

/-- The list of one range, left out where it is empty. -/
theorem ISet.mem_single (a b x : Nat) :
    (⟨if a < b then [(a, b)] else []⟩ : ISet).mem x = true ↔ a ≤ x ∧ x < b := by
  split
  next => simp [ISet.mem_cons, ISet.mem_nil]
  next empty => exact iff_of_false (ISet.mem_nil x) (by omega)

/-! ### The three passes over the list -/

theorem ISet.mem_cut (a b : Nat) (l : List (Nat × Nat)) (x : Nat) :
    (⟨ISet.cut a b l⟩ : ISet).mem x = true ↔ (⟨l⟩ : ISet).mem x = true ∧ ¬(a ≤ x ∧ x < b) := by
  induction l with
  | nil => simp [ISet.cut, ISet.mem_nil]
  | cons r l ih =>
    obtain ⟨u, v⟩ := r
    have outside : (u ≤ x ∧ x < min v a) ∨ (max u b ≤ x ∧ x < v) ↔ (u ≤ x ∧ x < v) ∧ ¬(a ≤ x ∧ x < b) := by omega
    simp only [ISet.cut, ISet.mem_append, ISet.mem_single, ISet.mem_cons, ih, or_and_right, outside]

theorem ISet.mem_put (a b : Nat) (l : List (Nat × Nat)) (x : Nat) :
    (⟨ISet.put a b l⟩ : ISet).mem x = true ↔ (a ≤ x ∧ x < b) ∨ (⟨l⟩ : ISet).mem x = true := by
  induction l with
  | nil => simp only [ISet.put, ISet.mem_cons]
  | cons r l ih =>
    obtain ⟨u, v⟩ := r
    simp only [ISet.put]
    split
    · simp only [ISet.mem_cons]
    · simp only [ISet.mem_cons, ih, or_left_comm]

/-- Every range of the list has a member: what joining needs to lose nothing, and what taking a range out leaves. -/
def ISet.proper (l : List (Nat × Nat)) : Prop := ∀ r ∈ l, r.1 < r.2

theorem ISet.proper_cons {r : Nat × Nat} {l : List (Nat × Nat)} : ISet.proper (r :: l) ↔ r.1 < r.2 ∧ ISet.proper l :=
  List.forall_mem_cons

theorem ISet.cut_proper (a b : Nat) (l : List (Nat × Nat)) : ISet.proper (ISet.cut a b l) := by
  induction l with
  | nil => simp [ISet.proper, ISet.cut]
  | cons r l ih =>
    obtain ⟨u, v⟩ := r
    have single (c d : Nat) : ISet.proper (if c < d then [(c, d)] else []) := by
      split
      next h => exact ISet.proper_cons.mpr ⟨h, fun _ m => absurd m List.not_mem_nil⟩
      next => exact fun _ m => absurd m List.not_mem_nil
    exact List.forall_mem_append.mpr ⟨List.forall_mem_append.mpr ⟨single _ _, single _ _⟩, ih⟩

theorem ISet.put_proper {a b : Nat} (hab : a < b) {l : List (Nat × Nat)} (h : ISet.proper l) :
    ISet.proper (ISet.put a b l) := by
  induction l with
  | nil => exact ISet.proper_cons.mpr ⟨hab, h⟩
  | cons r l ih =>
    obtain ⟨u, v⟩ := r
    obtain ⟨huv, hl⟩ := ISet.proper_cons.mp h
    simp only [ISet.put]
    split
    · exact ISet.proper_cons.mpr ⟨hab, h⟩
    · exact ISet.proper_cons.mpr ⟨huv, ih hl⟩

theorem ISet.join_proper {l : List (Nat × Nat)} (h : ISet.proper l) : ISet.proper (ISet.join l) := by
  induction l with
  | nil => exact h
  | cons r l ih =>
    obtain ⟨u, v⟩ := r
    obtain ⟨huv, hl⟩ := ISet.proper_cons.mp h
    have joined := ih hl
    simp only [ISet.join]
    cases hj : ISet.join l with
    | nil => exact ISet.proper_cons.mpr ⟨huv, fun _ m => absurd m List.not_mem_nil⟩
    | cons t l' =>
      obtain ⟨c, d⟩ := t
      rw [hj] at joined
      obtain ⟨hcd, hl'⟩ := ISet.proper_cons.mp joined
      dsimp only at huv hcd ⊢
      split
      · exact ISet.proper_cons.mpr ⟨by dsimp only; omega, hl'⟩
      · exact ISet.proper_cons.mpr ⟨huv, joined⟩

theorem ISet.mem_join {l : List (Nat × Nat)} (h : ISet.proper l) (x : Nat) :
    (⟨ISet.join l⟩ : ISet).mem x = true ↔ (⟨l⟩ : ISet).mem x = true := by
  induction l with
  | nil => exact Iff.rfl
  | cons r l ih =>
    obtain ⟨u, v⟩ := r
    obtain ⟨huv, hl⟩ := ISet.proper_cons.mp h
    have joined := ISet.join_proper hl
    rw [ISet.mem_cons, ← ih hl]
    simp only [ISet.join]
    cases hj : ISet.join l with
    | nil => exact ISet.mem_cons ..
    | cons t l' =>
      obtain ⟨c, d⟩ := t
      rw [hj] at joined
      obtain ⟨hcd, -⟩ := ISet.proper_cons.mp joined
      dsimp only at huv hcd ⊢
      split
      next meet =>
        have both : (u ≤ x ∧ x < d) ↔ (u ≤ x ∧ x < v) ∨ (c ≤ x ∧ x < d) := by omega
        simp only [ISet.mem_cons, both, or_assoc]
      next => exact ISet.mem_cons ..

/-! ### A range added and removed -/

theorem ISet.mem_add (t : ISet) (a b x : Nat) : (t.add a b).mem x = true ↔ t.mem x = true ∨ (a ≤ x ∧ x < b) := by
  unfold ISet.add
  split
  next hab =>
    rw [ISet.mem_join (ISet.put_proper hab (ISet.cut_proper _ _ _)), ISet.mem_put, ISet.mem_cut, or_comm]
    by_cases inside : a ≤ x ∧ x < b
    · exact iff_of_true (.inr inside) (.inr inside)
    · exact or_congr (and_iff_left inside) Iff.rfl
  next => simp only [iff_self_or]; omega

theorem ISet.mem_del (t : ISet) (a b x : Nat) : (t.del a b).mem x = true ↔ t.mem x = true ∧ ¬(a ≤ x ∧ x < b) := by
  unfold ISet.del
  split
  next => exact ISet.mem_cut a b t.ranges x
  next => simp only [iff_self_and]; omega

end Sys2Proof.Machine
end

section
/-! CERTIFICATE. Ranges added to a set and removed from it. -/

namespace Sys2Proof.Machine

/-- Settles O55, by the members that a set has once a range is added and once one is removed. -/
theorem rangeSets : Obligations.RangeSets := by
  unfold Obligations.RangeSets
  intro t a b x
  refine ⟨Bool.eq_iff_iff.mpr ?_, Bool.eq_iff_iff.mpr ?_⟩
  · simp only [ISet.mem_add, Bool.or_eq_true, Bool.and_eq_true, decide_eq_true_iff]
  · simp only [ISet.mem_del, Bool.not_eq_true', ← Bool.not_eq_true, Bool.and_eq_true, decide_eq_true_iff]

end Sys2Proof.Machine
end

section
/-! SUPPORT. MI's fill for flood (R243), and the beats of a mirror-out lane (R241 to R251, R288 code 12). -/

namespace Sys2Proof.Machine

/-! ### MI's fill (R243) -/

theorem State.laneFill_le_miFill (s : State) (n : Lane) : sixteenths (s.mill.mi.at n).buf.length 1024 ≤ s.miFill := by
  have largest := (foldl_max_le (s.mill.mi.toList.map fun l => l.buf.length) 0).2 _
    (List.mem_map_of_mem (Vector.mem_toList_iff.mpr (Vector.getElem_mem n.isLt)))
  exact Nat.div_le_div_right (Nat.mul_le_mul_right 16 largest)

theorem State.miFill_attained (s : State) : ∃ n : Lane, s.miFill = sixteenths (s.mill.mi.at n).buf.length 1024 := by
  obtain zero | mem := foldl_max_mem (s.mill.mi.toList.map fun l => l.buf.length) 0
  · refine ⟨0, Nat.le_antisymm ?_ (State.laneFill_le_miFill s 0)⟩
    simp [State.miFill, zero, sixteenths]
  · obtain ⟨q, hq, len⟩ := List.mem_map.mp mem
    obtain ⟨n, hn, rfl⟩ := Vector.mem_iff_getElem.mp (Vector.mem_toList_iff.mp hq)
    exact ⟨⟨n, hn⟩, by simp only [State.miFill, ← len, Tab.at]⟩

/-! ### A beat of a mirror-out lane -/

section Beat
variable {s : State} {l : Lane}

theorem exec_moBeatSend_of_quiet (h : s.moDrives l = false) :
    exec (.moBeatSend l) s = .next (s.modMo l fun q => { q with out := none }) := by
  change execMoBeatSend l s = _
  simp only [execMoBeatSend, h, Bool.not_false, if_true]

variable (h : s.moDrives l = true)
include h

theorem exec_moBeatSend_drives (good : (s.endCopies.moNext l).bad = false) :
    exec (.moBeatSend l) s = .next
      ((s.endCopies.readFor (s.endCopies.moNext l)).moBeat l (s.endCopies.moNext l)).settle.updWithhold.settleAll := by
  change execMoBeatSend l s = _
  simp only [execMoBeatSend, h, good, Bool.not_true, Bool.false_eq_true, if_false]

/-- A bad line of the MO buffer is read, and not driven (R288 code 12). -/
theorem exec_moBeatSend_of_bad {x : MoLine} {b : Bad} (next : s.endCopies.moNext l = .live x) (bad : x.bad = some b)
    (acted : b.checkOnly = false) :
    exec (.moBeatSend l) s = .next
      (((s.endCopies.readG 533 (some b)).modMo l fun q => { q with out := none }).loseLink 3).settle.updWithhold.settleAll := by
  change execMoBeatSend l s = _
  simp only [execMoBeatSend, h, next, MoNext.bad, State.readFor, bad, acts, acted, Bool.not_true, Bool.not_false,
    Bool.false_eq_true, if_false, if_true]

end Beat

/-- A SEVER that is due comes before everything (R257). -/
theorem State.moNext_of_sever {s : State} {l : Lane} {c : Nat} (h : (s.mill.mo.at l).sever = some c) :
    s.moNext l = .sever c := by
  simp only [State.moNext, h]

end Sys2Proof.Machine
end

section
/-! CERTIFICATE. MI's fill for flood; the beats of a mirror-out lane. -/

namespace Sys2Proof.Machine

/-- Settles O59, by the greatest of the lanes' occupancies. -/
theorem miFill : Obligations.MiFill := by
  unfold Obligations.MiFill
  exact fun s => ⟨State.laneFill_le_miFill s, State.miFill_attained s⟩

/-- Settles O20, by the equation of a quiet lane, of a lane that drives and of a bad line, and by what sending each packet
does. -/
theorem mirrorOutBeat : Obligations.MirrorOutBeat := by
  unfold Obligations.MirrorOutBeat
  refine ⟨?quiet, ?drives, ?bad, ?sever, ?header, ?live, ?trailer⟩
  case quiet => exact fun l s h => exec_moBeatSend_of_quiet h
  case drives => exact fun l s h good => exec_moBeatSend_drives h good
  case bad => exact fun l x b s h next bad acted => exec_moBeatSend_of_bad h next bad acted
  case sever => exact fun l s c due => ⟨State.moNext_of_sever due, rfl, fun crc => rfl⟩
  case header => exact fun l e crc s => rfl
  case live => exact fun l x crc s => rfl
  case trailer => exact fun l e crc s => rfl

end Sys2Proof.Machine
end

section
/-! SUPPORT. The beats that arrive on mirror-in (R252): the check that a beat fails, what a break does, what a good beat does
by its type, and the SEVER (R262). -/

namespace Sys2Proof.Machine

/-! ### Updates of a lane -/

theorem Tab.put_put {α : Type} {n : Nat} (t : Tab α n) (i : Fin n) (x y : α) : (t.put i x).put i y = t.put i y :=
  Vector.set_set ..

theorem State.modMi_modMi (s : State) (l : Lane) (f g : MiLane → MiLane) :
    (s.modMi l f).modMi l g = s.modMi l fun q => g (f q) := by
  simp only [State.modMi, Tab.at_put_same, Tab.put_put]

theorem State.modMill_congr {s : State} {f g : Mill → Mill} (h : f s.mill = g s.mill) : s.modMill f = s.modMill g := by
  simp only [State.modMill, h]

/-- Completing epochs leaves the millrace alone (R208, R209). -/
theorem State.settle_mill (s : State) : s.settle.mill = s.mill := by
  obtain ⟨mill, -, -⟩ := State.advanceLoc_frame s
  exact mill

/-! ### The check that a beat fails (R252) -/

section Reason
variable {l : Lane} {q : MiLane} {m : Mill} {p : Pkt}

theorem miReason_of_wrong_sequence {n : Nat} (last : q.pseq = some n) (h : p.pseq ≠ (n + 1) % 2 ^ 16) :
    miReason l q m p true = some 2 := by
  simp only [miReason, last, beq_false_of_ne h, Bool.not_true, Bool.not_false, Bool.false_eq_true, if_false, if_true]

/-- A beat in sequence is checked for its type, then on a linked side against the stream. -/
theorem miReason_in_sequence (h : ∀ n, q.pseq = some n → p.pseq = (n + 1) % 2 ^ 16) :
    miReason l q m p true =
      if 9 ≤ p.ptype then some 3 else if m.linked = true then miCheck l q m.lastAck m.trSent p else none := by
  cases last : q.pseq with
  | none => simp only [miReason, last, Bool.not_true, Bool.false_eq_true, if_false]
  | some n => simp only [miReason, last, h n last, beq_self_eq_true, Bool.not_true, Bool.false_eq_true, if_false]

end Reason

section Check
variable {l : Lane} {q : MiLane} {a c e : Nat} {p : Pkt}

theorem miCheck_data (type : p.ptype = 1) (isOpen : q.isOpen = some e) (epoch : p.elo = e % 2 ^ 16) :
    miCheck l q a c p = if q.crd = 0 then some 7 else if p.laddr % 4 = l.val then none else some 8 := by
  simp only [miCheck, type, isOpen, epoch, beq_self_eq_true, Bool.not_true, Bool.false_eq_true, if_false]
  split <;> simp

theorem miCheck_of_closed (type : p.ptype = 1 ∨ p.ptype = 3 ∨ p.ptype = 8) (closed : q.isOpen = none) :
    miCheck l q a c p = some 4 := by
  obtain type | type | type := type <;> simp only [miCheck, type, closed]

theorem miCheck_header_of_open (type : p.ptype = 2) (isOpen : q.isOpen = some e) : miCheck l q a c p = some 4 := by
  simp only [miCheck, type, isOpen, Option.isSome_some, Bool.true_or, if_true]

theorem miCheck_trailer (type : p.ptype = 3) (isOpen : q.isOpen = some e) (full : payload p.data 7 0 = e)
    (epoch : p.elo = e % 2 ^ 16) :
    miCheck l q a c p =
      if payload p.data 11 8 ≠ q.lines then some 5
      else if payload p.data 15 12 ≠ (digestOf q.lines q.digest).toNat then some 6
      else if q.crd = 0 then some 7 else none := by
  simp only [miCheck, type, isOpen, full, epoch, ne_eq, not_true_eq_false, beq_self_eq_true, Bool.not_true,
    Bool.false_eq_true, or_self, if_false]

theorem miCheck_ack (type : p.ptype = 4) :
    miCheck l q a c p = if payload p.data 7 0 < a ∨ c < payload p.data 7 0 then some 9 else none := by
  simp only [miCheck, type]

end Check

/-! ### A beat that is discarded, breaks the stream, or is good (R252) -/

/-- The received sequence number is kept. -/
def State.keepSeq (s : State) (l : Lane) (p : Pkt) : State := s.modMi l fun q => { q with pseq := some p.pseq }

/-- All nine commands of MI take the beat on the wires. -/
theorem exec_miBeats {l : Lane} {d : Line} {ctl : BitVec 192} {i : Instr} (s : State) (h : i ∈ miBeats l d ctl) :
    exec i s = .next (s.miBeat l d ctl).miAfter := by
  simp only [miBeats, List.mem_cons, List.not_mem_nil, or_false] at h
  obtain rfl | rfl | rfl | rfl | rfl | rfl | rfl | rfl | rfl := h <;> rfl

section Beat
variable {s : State} {l : Lane} {d : Line} {ctl : BitVec 192}

theorem State.miBeat_of_running (on : s.mill.st ≠ .off) (clk : s.mill.wiclk = true) (ticks : s.ticking = true) :
    s.miBeat l d ctl = s.checkBeat l (pktOf d ctl) (BitVec.ofNat 32 (field ctl 191 160)) (crcHolds d ctl) := by
  simp only [State.miBeat, beq_false_of_ne on, clk, ticks, Bool.not_true, Bool.or_false, Bool.false_eq_true, if_false]

theorem State.miBeat_of_stopped (h : s.mill.st = .off ∨ s.mill.wiclk = false ∨ s.ticking = false) :
    s.miBeat l d ctl = s := by
  unfold State.miBeat
  exact if_pos (by simpa [or_assoc] using h)

variable {p : Pkt} {crc : Word} {ok : Bool}

/-- After a break all is discarded but a SEVER or a HELLO whose CRC is right. -/
theorem State.checkBeat_discards (broken : (s.mill.mi.at l).broken = true)
    (h : ok = false ∨ (p.ptype ≠ 5 ∧ p.ptype ≠ 6)) :
    s.checkBeat l p crc ok = if ok = true then s.keepSeq l p else s := by
  have discarded : ((s.mill.mi.at l).broken && !(ok && (s.mill.takes p.ptype && (p.ptype == 6 || p.ptype == 5)))) = true := by
    obtain h | ⟨h5, h6⟩ := h <;> simp [*]
  simp only [State.checkBeat, if_pos discarded, State.keepSeq]

variable (whole : (s.mill.mi.at l).broken = false)
include whole

theorem State.checkBeat_breaks {r : Nat} (h : miReason l (s.mill.mi.at l) s.mill p ok = some r) :
    s.checkBeat l p crc ok = (if ok = true then s.keepSeq l p else s).streamBreak l r := by
  simp only [State.checkBeat, whole, h, Bool.false_and, Bool.false_eq_true, if_false, State.keepSeq]

theorem State.checkBeat_good (h : miReason l (s.mill.mi.at l) s.mill p true = none) :
    s.checkBeat l p crc true = (s.keepSeq l p).goodBeat l p crc (s.mill.takes p.ptype) := by
  simp only [State.checkBeat, whole, h, Bool.false_and, Bool.false_eq_true, if_false, if_true, State.keepSeq]

end Beat

/-! ### A good beat (R252, R257) -/

section Good
variable {s : State} {l : Lane} {d : Line} {ctl : BitVec 192} {k : Nat} {i : Instr}

theorem GoodBeat.on (h : GoodBeat l d ctl k s) : s.mill.st ≠ .off := by
  obtain ⟨on, -⟩ := h
  exact on

theorem GoodBeat.ptype (h : GoodBeat l d ctl k s) : (pktOf d ctl).ptype = k := by
  obtain ⟨-, -, -, -, -, type, -⟩ := h
  exact type

theorem GoodBeat.miBeat (h : GoodBeat l d ctl k s) :
    s.miBeat l d ctl = (s.keepSeq l (pktOf d ctl)).goodBeat l (pktOf d ctl) (BitVec.ofNat 32 (field ctl 191 160))
      (s.mill.takes k) := by
  obtain ⟨on, clk, ticks, whole, crcOk, type, known, seq, stream⟩ := h
  have passes : miReason l (s.mill.mi.at l) s.mill (pktOf d ctl) true = none := by
    rw [miReason_in_sequence seq, if_neg (by omega)]
    exact ite_eq_right_iff.mpr stream
  rw [State.miBeat_of_running on clk ticks, crcOk, State.checkBeat_good whole passes, type]

variable (hi : i ∈ miBeats l d ctl) (h : GoodBeat l d ctl k s)
include hi h

theorem exec_goodBeat_taken (takes : s.mill.takes k = true) :
    exec i s = .next
      (((beatTold l (pktOf d ctl) s).takePkt l (pktOf d ctl) (BitVec.ofNat 32 (field ctl 191 160))).drainMi
        miPasses).miAfter := by
  rw [exec_miBeats s hi, h.miBeat, takes]
  rfl

theorem exec_goodBeat_passed (takes : s.mill.takes k = false) :
    exec i s = .next
      ((beatTold l (pktOf d ctl) s).passBeat l (pktOf d ctl) (BitVec.ofNat 32 (field ctl 191 160))).miAfter := by
  rw [exec_miBeats s hi, h.miBeat, takes]
  rfl

end Good

/-- IDLE is no state's to take (R257). -/
theorem Mill.takes_idle (m : Mill) : m.takes 0 = false := by
  cases h : m.st <;> simp [Mill.takes, h]

/-- A SEVER is taken in every state but OFF (R257). -/
theorem Mill.takes_sever {m : Mill} (on : m.st ≠ .off) : m.takes 6 = true := by
  cases h : m.st <;> simp_all [Mill.takes]

/-! ### What taking a beat does, by its type (R246, R255, R258, R267) -/

section Take
variable {s : State} {l : Lane} {p : Pkt} {crc : Word}

theorem State.takePkt_data (type : p.ptype = 1) :
    s.takePkt l p crc = (s.bufferMi l p ((s.mill.mi.at l).isOpen.getD 0)).modMi l fun q =>
      { q with lines := q.lines + 1, digest := digestStep q.digest crc } := by
  simp only [State.takePkt, MiLane.follow, type]

theorem State.takePkt_header (type : p.ptype = 2) :
    s.takePkt l p crc = (s.modMi l fun q =>
      { q with isOpen := some (payload p.data 7 0), lines := 0, digest := 0xFFFFFFFF }).bufferMi l p (payload p.data 7 0) := by
  simp only [State.takePkt, MiLane.follow, type]

theorem State.takePkt_trailer (type : p.ptype = 3) :
    s.takePkt l p crc = (s.modMi l fun q =>
      { q with isOpen := none, lastTr := some (payload p.data 7 0) }).bufferMi l p (payload p.data 7 0) := by
  simp only [State.takePkt, MiLane.follow, type]

theorem State.takePkt_ack (type : p.ptype = 4) : s.takePkt l p crc = s.takeAck (payload p.data 7 0) := by
  simp only [State.takePkt, type]

theorem State.takePkt_hello (type : p.ptype = 5) :
    s.takePkt l p crc = ((s.modMi l fun q => { q with hello := some (helloOf p.data) }).modMill fun m =>
      { m with peerLast := (helloOf p.data).peerLast, peerInfo := (helloOf p.data).info }).tryPair := by
  simp only [State.takePkt, type]

theorem State.takePkt_sever (type : p.ptype = 6) : s.takePkt l p crc = s.takeSever := by
  simp only [State.takePkt, type]

theorem State.takePkt_buffers (type : p.ptype = 7 ∨ p.ptype = 8) :
    s.takePkt l p crc = s.bufferMi l p (payload p.data 7 0) := by
  obtain type | type := type <;> simp only [State.takePkt, type]

/-- An ACK that ends no resync: the granule log's entries and EPOCH_DUR follow it (R255). -/
theorem State.takeAck_streams {e : Nat} (clean : s.mill.logBad = none)
    (h : s.mill.st ≠ .resyncSrc ∨ s.mill.rs.ended = none) :
    s.takeAck e = (s.modMill fun m =>
      { m with acked := e, lastAck := e, log := m.log.filter fun g => decide (e < g.2) }).settle := by
  have stays : (s.modMill fun m =>
      { m with acked := e, lastAck := e, log := m.log.filter fun g => decide (e < g.2), logBad := none }) =
      s.modMill fun m => { m with acked := e, lastAck := e, log := m.log.filter fun g => decide (e < g.2) } :=
    State.modMill_congr (by simp only [clean])
  simp only [State.takeAck, clean, State.readG_none, stays, State.settle_mill]
  split
  next r st ended =>
    obtain h | none := h
    · exact absurd st h
    · cases none.symm.trans ended
  next => rfl

theorem State.takeHead_drift {b : MiBeat} {rest : List MiBeat} (head : (s.mill.mi.at l).buf = b :: rest)
    (type : b.pkt.ptype = 7) : s.takeHead l = some (s.takeDrift l b) := by
  simp only [State.takeHead, head, type]

theorem State.takeDrift_of_good {b : MiBeat} (good : b.bad = none) :
    s.takeDrift l b =
      (((List.range 512).filter fun i => b.pkt.data.getLsbD i).foldl (fun (u : State) (i : Nat) =>
        u.markDrift (512 * (b.pkt.laddr % 2 ^ 14) + i)) (s.freeMi l)).modMill fun m =>
          { m with driftGot := m.driftGot + 1, driftOk := decide (10240 ≤ m.driftGot + 1) } := by
  simp only [State.takeDrift, good, State.readG_none, acts_none, Bool.false_eq_true, if_false]

/-- On a linked side the lane follows a credited beat that the state does not take, and its credit goes back at once. -/
theorem State.passBeat_linked (linked : s.mill.linked = true) (costs : credited p.ptype = true) :
    s.passBeat l p crc = (s.modMi l fun q => { q.follow p crc with crd := q.crd - 1 }).modMo l fun q =>
      { q with ret := q.ret + 1 } := by
  simp only [State.passBeat, linked, costs, Bool.and_self, if_true]

theorem State.passBeat_of_uncredited (h : ¬(s.mill.linked = true ∧ credited p.ptype = true)) : s.passBeat l p crc = s :=
  if_neg (by simpa using h)

end Take

/-! ### The SEVER (R262) -/

section Sever
variable {s : State}

theorem State.takeSever_mirrored (h : s.mill.st = .mirrored) :
    s.takeSever = ((((s.markSplit.modMill fun m => { m with why := 4 }).raise 540).toSolo).noteMill .mirrored 0) := by
  simp only [State.takeSever, h]

theorem State.takeSever_frozen (h : s.mill.st = .frozen) (standing : s.pers.strobe = false) :
    s.takeSever = ((s.modMill fun m => { m with why := 4 }).toSolo).noteMill .frozen 0 := by
  simp only [State.takeSever, h, standing, Bool.false_eq_true, if_false]

theorem State.takeSever_target (h : s.mill.st = .resyncTgt) :
    s.takeSever = ((s.modMill fun m => { m with why := 4 }).toSolo).noteMill .resyncTgt 0 := by
  simp only [State.takeSever, h]

theorem State.takeSever_of_unmirrored
    (h : s.mill.st = .solo ∨ s.mill.st = .fenced ∨ s.mill.st = .handshake ∨ s.mill.st = .resyncSrc) : s.takeSever = s := by
  obtain h | h | h | h := h <;> simp only [State.takeSever, h]

end Sever

end Sys2Proof.Machine
end

section
/-! CERTIFICATE. Mirror-in beats that break the stream, that are taken, and the end of a mirror by SEVER. -/

namespace Sys2Proof.Machine

/-- Settles O21: a beat by whether MI runs and has broken and by the check it fails, each check by its own equation. -/
theorem mirrorInBreak : Obligations.MirrorInBreak := by
  unfold Obligations.MirrorInBreak
  refine ⟨?breaks, ?discards, ?brk, ?crc, ?sequence, ?type, ?stream, ?data, ?closed, ?header, ?trailer, ?ack, ?stopped⟩
  case breaks =>
    intro l d ctl i r s hi on clk ticks whole reason
    rw [exec_miBeats s hi, State.miBeat_of_running on clk ticks, State.checkBeat_breaks whole reason]
    rfl
  case discards =>
    intro l d ctl i s hi on clk ticks broken h
    rw [exec_miBeats s hi, State.miBeat_of_running on clk ticks, State.checkBeat_discards broken h]
    rfl
  case brk => exact fun l r s => rfl
  case crc => exact fun l q m p => rfl
  case sequence => exact fun l q m p n last h => miReason_of_wrong_sequence last h
  case type => exact fun l q m p h unknown => (miReason_in_sequence h).trans (if_pos unknown)
  case stream => exact fun l q m p h known => (miReason_in_sequence h).trans (if_neg (Nat.not_le.mpr known))
  case data => exact fun l q a c e p type isOpen epoch => miCheck_data type isOpen epoch
  case closed => exact fun l q a c p type closed => miCheck_of_closed type closed
  case header => exact fun l q a c e p type isOpen => miCheck_header_of_open type isOpen
  case trailer => exact fun l q a c e p type isOpen full epoch => miCheck_trailer type isOpen full epoch
  case ack => exact fun l q a c p type => miCheck_ack type
  case stopped =>
    intro l d ctl i s hi h
    rw [exec_miBeats s hi, State.miBeat_of_stopped h]

/-- Settles O22: a good beat by what taking its type does, or by its passing where the state does not take it; the SEVER by the
state that it finds. -/
theorem mirrorInTakesBeatAndSever : Obligations.MirrorInTakesBeatAndSever := by
  unfold Obligations.MirrorInTakesBeatAndSever
  refine ⟨⟨?data, ?header, ?trailer, ?rsEnd, ?ackStreams, ?ack, ?hello, ?sever, ?drift, ?chunk, ?idle, ?passed,
    ?mirroredAck⟩, ⟨?mirrored, ?frozen, ?target, ?stands, ?severs⟩⟩
  case data =>
    intro l d ctl s good takes
    rw [exec_goodBeat_taken (by simp [miBeats]) good takes, State.takePkt_data good.ptype]
    rfl
  case header =>
    intro l d ctl s good takes
    rw [exec_goodBeat_taken (by simp [miBeats]) good takes, State.takePkt_header good.ptype, State.bufferMi,
      State.modMi_modMi]
    rfl
  case trailer =>
    intro l d ctl s good takes
    rw [exec_goodBeat_taken (by simp [miBeats]) good takes, State.takePkt_trailer good.ptype, State.bufferMi,
      State.modMi_modMi]
    rfl
  case rsEnd =>
    intro l d ctl s good takes
    rw [exec_goodBeat_taken (by simp [miBeats]) good takes, State.takePkt_buffers (.inr good.ptype)]
    rfl
  case ackStreams =>
    intro l d ctl s good takes ended clean
    rw [exec_goodBeat_taken (by simp [miBeats]) good takes, State.takePkt_ack good.ptype,
      State.takeAck_streams (s := beatTold l (pktOf d ctl) s) clean (.inr ended)]
  case ack =>
    intro l d ctl s good takes
    rw [exec_goodBeat_taken (by simp [miBeats]) good takes, State.takePkt_ack good.ptype]
  case hello =>
    intro l d ctl s good takes
    rw [exec_goodBeat_taken (by simp [miBeats]) good takes, State.takePkt_hello good.ptype]
  case sever =>
    intro l d ctl s good
    rw [exec_goodBeat_taken (by simp [miBeats]) good (Mill.takes_sever good.on), State.takePkt_sever good.ptype]
  case drift =>
    intro l d ctl s good takes
    rw [exec_goodBeat_taken (by simp [miBeats]) good takes, State.takePkt_buffers (.inl good.ptype)]
    rfl
  case chunk =>
    intro l b rest s head type good
    rw [State.takeHead_drift head type, State.takeDrift_of_good good]
    rfl
  case idle =>
    intro l d ctl s good
    rw [exec_goodBeat_passed (by simp [miBeats]) good (Mill.takes_idle _),
      State.passBeat_of_uncredited (by simp [good.ptype, credited])]
  case passed =>
    intro l d ctl k i s hi good takes
    rw [exec_goodBeat_passed hi good takes]
    split
    next costs => rw [State.passBeat_linked (s := beatTold l (pktOf d ctl) s) costs.1 (good.ptype ▸ costs.2)]
    next free => rw [State.passBeat_of_uncredited (s := beatTold l (pktOf d ctl) s) (good.ptype ▸ free)]
  case mirroredAck =>
    intro l p crc s type st empty clean
    rw [State.takePkt_ack type, State.takeAck_streams clean (.inl (by simp [st]))]
    exact congrArg State.settle (State.modMill_congr (by simp only [empty, List.filter_nil]))
  case mirrored => exact fun s h => State.takeSever_mirrored h
  case frozen => exact fun s h standing => State.takeSever_frozen h standing
  case target => exact fun s h => State.takeSever_target h
  case stands => exact fun s h => State.takeSever_of_unmirrored h
  case severs => exact fun l p crc s type => State.takePkt_sever type

end Sys2Proof.Machine
end

section
/-! SUPPORT. The millrace's links (R240, R257 to R261, R270) and the decision of FROZEN (R263 to R266). -/

namespace Sys2Proof.Machine

/-! ### Links -/

section Links
variable {s : State} {mo mi : Bool}

@[simp] theorem State.linkFall_none (s : State) : s.linkFall false false = s := rfl
@[simp] theorem State.linkRise_none (s : State) : s.linkRise false false = s := rfl

theorem not_both_low_of_high (h : mo = true ∨ mi = true) : ¬(!mo && !mi) = true := by
  obtain rfl | rfl := h <;> simp

theorem State.linkFall_some (h : mo = true ∨ mi = true) :
    s.linkFall mo mi = ((s.modMill fun m =>
      { m with moUp := m.moUp && !mo, miUp := m.miUp && !mi
               mo := if mo then m.mo.each fun l => { l with sever := none, out := none } else m.mo }).loseLink 1).settleAll :=
  if_neg (not_both_low_of_high h)

theorem State.linkRise_some (h : mo = true ∨ mi = true) :
    s.linkRise mo mi = s.modMill fun m =>
      { m with moUp := m.moUp || mo, miUp := m.miUp || mi, barred := false
               mo := if mo then m.mo.each fun l => { l with pseq := 0, greeted := false } else m.mo
               mi := if mi then m.mi.each fun l => { l with pseq := none, hello := none } else m.mi } :=
  if_neg (not_both_low_of_high h)

/-- The inputs that were low rise, and their lanes start afresh (R240, R244). -/
theorem State.linkRise_of_low (h : s.mill.moUp = false ∨ s.mill.miUp = false) :
    s.linkRise (!s.mill.moUp) (!s.mill.miUp) = s.modMill fun m =>
      { m with moUp := true, miUp := true, barred := false
               mo := if !m.moUp then m.mo.each fun l => { l with pseq := 0, greeted := false } else m.mo
               mi := if !m.miUp then m.mi.each fun l => { l with pseq := none, hello := none } else m.mi } := by
  rw [State.linkRise_some (h.imp (fun low => by simp [low]) fun low => by simp [low])]
  exact State.modMill_congr (by simp only [Bool.or_not_self])

/-- Both inputs high: those that were low rise, none falls, and an enabled mirror leaves OFF (R257). -/
theorem exec_linkUp (s : State) :
    exec .linkUp s = .next (s.linkRise (!s.mill.moUp) (!s.mill.miUp)).tryEnable.settleAll := by
  change execLinkUp s = _
  simp only [execLinkUp, State.linkLevels, Bool.not_true, Bool.and_false, State.linkFall_none, Bool.true_and, Bool.and_self,
    if_true]

/-- With an input low no mirror leaves OFF (R257). -/
theorem exec_linkDown_of_low (h : mo = false ∨ mi = false) :
    exec (.linkDown mo mi) s = .next ((s.linkFall (s.mill.moUp && !mo) (s.mill.miUp && !mi)).linkRise
      (mo && !s.mill.moUp) (mi && !s.mill.miUp)) := by
  change execLinkDown mo mi s = _
  refine congrArg Host.Outcome.next (if_neg ?_)
  obtain rfl | rfl := h
  · exact Bool.false_ne_true
  · rw [Bool.and_false]
    exact Bool.false_ne_true

theorem exec_lossTimeout_of_streaming (l : Lane) (h : s.mill.streams = true) :
    exec (.lossTimeout l) s = .next (s.loseLink 2).settleAll :=
  congrArg Host.Outcome.next (if_pos h)

theorem exec_lossTimeout_of_idle (l : Lane) (h : s.mill.streams = false) : exec (.lossTimeout l) s = .next s :=
  congrArg Host.Outcome.next (if_neg (Bool.eq_false_iff.mp h))

theorem State.loseLink_mirrored (why : Nat) (h : s.mill.st = .mirrored) : s.loseLink why = s.toFrozen why := by
  simp only [State.loseLink, h]

theorem State.loseLink_source (why : Nat) (h : s.mill.st = .resyncSrc) :
    s.loseLink why = (s.modMill fun m => { m with why := why }).toSolo := by
  simp only [State.loseLink, h, State.modMill]

theorem State.loseLink_target (why : Nat) (h : s.mill.st = .resyncTgt) :
    s.loseLink why = (s.modMill fun m => { m with why := why }).toFenced := by
  simp only [State.loseLink, h, State.modMill]

end Links

/-! ### The decision of FROZEN (R263, R266) -/

section Split
variable {s : State}

theorem State.settleSplit_decides (solo : Bool) (action : Nat) (frozen : s.mill.st = .frozen)
    (standing : s.pers.strobe = false) :
    s.settleSplit solo action = ((if solo then s.toSolo else s.toFenced).noteMill .frozen action).settleAll :=
  if_pos ⟨frozen, by simp [standing]⟩

/-- Outside FROZEN and after the strobe nothing decides (R266). -/
theorem State.settleSplit_stands (solo : Bool) (action : Nat) (h : s.mill.st ≠ .frozen ∨ s.pers.strobe = true) :
    s.settleSplit solo action = s :=
  if_neg fun ⟨frozen, standing⟩ => by
    obtain h | h := h
    · exact h frozen
    · simp [h] at standing

/-- A rise of WITNESS_GRANT that was seen low decides in WMODE 1 (R263). -/
theorem exec_witnessGrant_rises (wmode : s.wmode = 1) (low : s.mill.grantLow = true) :
    exec (.witnessGrant true) s = .next ((s.modMill fun m => { m with grantPin := true }).settleSplit true 0) := by
  have seen : (s.modMill fun m => { m with grantPin := true, grantLow := m.grantLow || !true }) =
      s.modMill fun m => { m with grantPin := true } := State.modMill_congr (by simp)
  have decides : (true && (s.modMill fun m => { m with grantPin := true }).wmode == 1 &&
      (s.modMill fun m => { m with grantPin := true }).mill.grantLow) = true := by
    simp only [Bool.true_and, Bool.and_eq_true, beq_iff_eq]
    exact ⟨wmode, low⟩
  change execWitnessGrant true s = _
  simp only [execWitnessGrant, seen, decides, if_true]

theorem exec_witnessGrant_falls (s : State) :
    exec (.witnessGrant false) s = .next (s.modMill fun m => { m with grantPin := false, grantLow := true }) := by
  change execWitnessGrant false s = _
  simp only [execWitnessGrant, Bool.not_false, Bool.or_true, Bool.false_and, Bool.false_eq_true, if_false]

/-! ### Actions of MILL_CMD (R265) -/

theorem State.not_refused_of_actOk {n : Nat} (h : s.actOk n = true) : ¬(!s.actOk n) = true := by simp [h]

theorem State.millAct_of_refused {n : Nat} (h : s.actOk n = false) : s.millAct n = s :=
  if_pos (by simp [h])

end Split

end Sys2Proof.Machine
end

section
/-! CERTIFICATE. The millrace's links and the decision of a split. -/

namespace Sys2Proof.Machine

/-- Settles O24: the levels of the link-up inputs by which of them rise and fall, a lost link by the state that it finds, and a
split by who decides it. -/
theorem linksAndSplit : Obligations.LinksAndSplit := by
  unfold Obligations.LinksAndSplit
  refine ⟨⟨?stay, ?bothRise, ?moRises, ?miRises, ?falls, ?levels, ?some, ?loss, ?noLoss, ?mirrored, ?source, ?target⟩,
    ⟨?timeout, ?noSplit, ?granted, ?grantLow, ?resync, ?solo, ?fence, ?witness, ?deny, ?refused⟩⟩
  case stay =>
    intro s mo mi
    rw [exec_linkUp, mo, mi]
    rfl
  case bothRise =>
    intro s mo mi
    rw [exec_linkUp, State.linkRise_of_low (.inl mo)]
    exact congrArg (fun t : State => Host.Outcome.next t.tryEnable.settleAll) (State.modMill_congr (by simp [mo, mi]))
  case moRises =>
    intro s mo mi
    rw [exec_linkUp, State.linkRise_of_low (.inl mo)]
    exact congrArg (fun t : State => Host.Outcome.next t.tryEnable.settleAll) (State.modMill_congr (by simp [mo, mi]))
  case miRises =>
    intro s mo mi
    rw [exec_linkUp, State.linkRise_of_low (.inr mi)]
    exact congrArg (fun t : State => Host.Outcome.next t.tryEnable.settleAll) (State.modMill_congr (by simp [mo, mi]))
  case falls => exact fun mo mi s low => exec_linkDown_of_low low
  case levels => exact fun s => ⟨rfl, State.linkFall_none s, State.linkRise_none s⟩
  case some => exact fun mo mi s h => ⟨State.linkFall_some h, State.linkRise_some h⟩
  case loss => exact fun l s h => exec_lossTimeout_of_streaming l h
  case noLoss => exact fun l s h => exec_lossTimeout_of_idle l h
  case mirrored => exact fun why s h => State.loseLink_mirrored why h
  case source => exact fun why s h => State.loseLink_source why h
  case target => exact fun why s h => State.loseLink_target why h
  case timeout =>
    exact fun s frozen standing => congrArg Host.Outcome.next (State.settleSplit_decides _ 0 frozen standing)
  case noSplit => exact fun s h => congrArg Host.Outcome.next (State.settleSplit_stands _ 0 h)
  case granted =>
    intro s frozen standing wmode low
    rw [exec_witnessGrant_rises wmode low,
      State.settleSplit_decides (s := s.modMill fun m => { m with grantPin := true }) true 0 frozen standing, if_pos rfl]
  case grantLow => exact exec_witnessGrant_falls
  case resync => exact fun s taken => congrArg Host.Outcome.next (if_neg (State.not_refused_of_actOk taken))
  case solo => exact fun s taken => congrArg Host.Outcome.next (if_neg (State.not_refused_of_actOk taken))
  case fence => exact fun s taken => congrArg Host.Outcome.next (if_neg (State.not_refused_of_actOk taken))
  case witness => exact fun s taken => congrArg Host.Outcome.next (if_neg (State.not_refused_of_actOk taken))
  case deny => exact fun s taken => congrArg Host.Outcome.next (if_neg (State.not_refused_of_actOk taken))
  case refused => exact fun n s h => State.millAct_of_refused h

end Sys2Proof.Machine
end

section
/-! SUPPORT. GF(2^8) of the saddle code (R274): multiplication by α and the product over exclusive-OR, the values of polynomials
and of a product of (x − r). -/

namespace Sys2Proof.Machine

/-! ### Exclusive-OR of symbols -/

theorem xor_lt_256 {a b : Nat} (ha : a < 256) (hb : b < 256) : a ^^^ b < 256 := Nat.xor_lt_two_pow (n := 8) ha hb

theorem two_mul_xor (a b : Nat) : 2 * (a ^^^ b) = 2 * a ^^^ 2 * b := by
  simpa [Nat.shiftLeft_eq, Nat.mul_comm] using Nat.shiftLeft_xor_distrib (i := 1) (a := a) (b := b)

theorem xor_xor_comm (a b c d : Nat) : a ^^^ b ^^^ (c ^^^ d) = a ^^^ c ^^^ (b ^^^ d) := by
  rw [Nat.xor_assoc, ← Nat.xor_assoc b, Nat.xor_comm b c, Nat.xor_assoc c, ← Nat.xor_assoc a]

theorem xor_xor_self_right (a b : Nat) : a ^^^ b ^^^ b = a := by
  rw [Nat.xor_assoc, Nat.xor_self, Nat.xor_zero]

theorem xor_xor_self_left (a b : Nat) : a ^^^ (a ^^^ b) = b := by
  rw [← Nat.xor_assoc, Nat.xor_self, Nat.zero_xor]

theorem xor_xor_swap_right (a b c : Nat) : a ^^^ b ^^^ c = a ^^^ c ^^^ b := by
  rw [Nat.xor_assoc, Nat.xor_comm b, ← Nat.xor_assoc]

/-- A map of symbols that exclusive-OR passes through. -/
def XorMap (f : Nat → Nat) : Prop := ∀ x y, x < 256 → y < 256 → f (x ^^^ y) = f x ^^^ f y

theorem XorMap.zero {f : Nat → Nat} (hf : XorMap f) : f 0 = 0 := by
  simpa using hf 0 0 (by decide) (by decide)

/-- A symbol with bit n as its highest is that bit and a smaller symbol. -/
theorem xor_two_pow_lt {n x : Nat} (hx : x < 2 ^ (n + 1)) (top : x.testBit n = true) : x ^^^ 2 ^ n < 2 ^ n := by
  refine Nat.lt_pow_two_of_testBit _ fun i hi => ?_
  rw [Nat.testBit_xor, Nat.testBit_two_pow]
  obtain rfl | h := Nat.eq_or_lt_of_le hi
  · simp [top]
  · rw [Nat.testBit_lt_two_pow (Nat.lt_of_lt_of_le hx (Nat.pow_le_pow_right (by decide) h)), decide_eq_false (by omega)]; rfl

/-- Two such maps that agree on the eight powers of two agree on every symbol. -/
theorem XorMap.ext {f g : Nat → Nat} (hf : XorMap f) (hg : XorMap g) (basis : ∀ i : Fin 8, f (2 ^ i.val) = g (2 ^ i.val))
    {x : Nat} (hx : x < 256) : f x = g x := by
  suffices upTo : ∀ n ≤ 8, ∀ x < 2 ^ n, f x = g x from upTo 8 (Nat.le_refl 8) x hx
  intro n
  induction n with
  | zero =>
    intro _ x hx
    obtain rfl : x = 0 := by omega
    rw [hf.zero, hg.zero]
  | succ n ih =>
    intro hn x hx
    have fits : 2 ^ n < 256 := Nat.pow_lt_pow_right (n := 8) (by decide) hn
    cases top : x.testBit n with
    | true =>
      have low := xor_two_pow_lt hx top
      have lowFits := Nat.lt_trans low fits
      have split : x ^^^ 2 ^ n ^^^ 2 ^ n = x := xor_xor_self_right x (2 ^ n)
      rw [← split, hf _ _ lowFits fits, hg _ _ lowFits fits, ih (by omega) _ low, basis ⟨n, hn⟩]
    | false =>
      refine ih (by omega) x (Nat.lt_pow_two_of_testBit x fun i hi => ?_)
      obtain rfl | h := Nat.eq_or_lt_of_le hi
      · exact top
      · exact Nat.testBit_lt_two_pow (Nat.lt_of_lt_of_le hx (Nat.pow_le_pow_right (by decide) h))

/-! ### Multiplication by α (R274) -/

theorem gfDouble_eq {a : Nat} (ha : a < 256) : gfDouble a = 2 * a ^^^ 0x11D * (a / 128) := by
  unfold gfDouble
  split
  next => rw [show a / 128 = 1 by omega]
  next => rw [show a / 128 = 0 by omega, Nat.mul_zero, Nat.xor_zero]

@[simp] theorem gfDouble_zero : gfDouble 0 = 0 := rfl

theorem gfDouble_xor : XorMap gfDouble := by
  intro a b ha hb
  have carry : ∀ p < 2, ∀ q < 2, 0x11D * (p ^^^ q) = 0x11D * p ^^^ 0x11D * q := by decide
  have top : (a ^^^ b) / 128 = a / 128 ^^^ b / 128 := Nat.xor_div_two_pow (n := 7)
  rw [gfDouble_eq (xor_lt_256 ha hb), gfDouble_eq ha, gfDouble_eq hb, two_mul_xor, top, carry _ (by omega) _ (by omega),
    xor_xor_comm]

theorem gfDouble_lt {a : Nat} (ha : a < 256) : gfDouble a < 256 := by
  unfold gfDouble
  split
  next =>
    have high : (2 * a ^^^ 0x11D) / 256 = 2 * a / 256 ^^^ 1 := Nat.xor_div_two_pow (n := 8)
    rw [show 2 * a / 256 = 1 by omega, Nat.xor_self] at high
    omega
  next => omega

/-! ### The product (R274) -/

section Product
variable {a b : Nat}

theorem gfMulN_lt (n b : Nat) (ha : a < 256) : gfMulN n a b < 256 := by
  induction n generalizing a b with
  | zero => exact Nat.zero_lt_succ 255
  | succ n ih =>
    rw [gfMulN]
    exact xor_lt_256 (by split <;> omega) (ih _ (gfDouble_lt ha))

theorem gfMulN_xor_right (n a b c : Nat) : gfMulN n a (b ^^^ c) = gfMulN n a b ^^^ gfMulN n a c := by
  induction n generalizing a b c with
  | zero => exact (Nat.xor_self 0).symm
  | succ n ih =>
    have low : (if (b ^^^ c) % 2 = 1 then a else 0) = (if b % 2 = 1 then a else 0) ^^^ (if c % 2 = 1 then a else 0) := by
      simp only [Nat.xor_mod_two_eq_one]
      by_cases hb : b % 2 = 1 <;> by_cases hc : c % 2 = 1 <;> simp [hb, hc]
    simp only [gfMulN, low, Nat.xor_div_two, ih, xor_xor_comm]

theorem gfMulN_xor_left (n c : Nat) : XorMap fun a => gfMulN n a c := by
  intro a b ha hb
  induction n generalizing a b c with
  | zero => exact (Nat.xor_self 0).symm
  | succ n ih =>
    have low : (if c % 2 = 1 then a ^^^ b else 0) = (if c % 2 = 1 then a else 0) ^^^ (if c % 2 = 1 then b else 0) := by
      split <;> rfl
    simp only [gfMulN, low, gfDouble_xor a b ha hb, ih _ _ _ (gfDouble_lt ha) (gfDouble_lt hb), xor_xor_comm]

theorem gfMulN_gfDouble_left (n b : Nat) (ha : a < 256) : gfMulN n (gfDouble a) b = gfDouble (gfMulN n a b) := by
  induction n generalizing a b with
  | zero => rfl
  | succ n ih =>
    have low : (if b % 2 = 1 then gfDouble a else 0) = gfDouble (if b % 2 = 1 then a else 0) := by split <;> rfl
    rw [gfMulN, gfMulN, low, ih _ (gfDouble_lt ha), gfDouble_xor _ _ (by split <;> omega) (gfMulN_lt n _ (gfDouble_lt ha))]

theorem gfMulN_zero_left (n b : Nat) : gfMulN n 0 b = 0 := by
  induction n generalizing b with
  | zero => rfl
  | succ n ih => simp [gfMulN, ih]

theorem gfMulN_zero_right (n a : Nat) : gfMulN n a 0 = 0 := by
  induction n generalizing a with
  | zero => rfl
  | succ n ih => simp [gfMulN, ih]

theorem gfMul_lt (b : Nat) (ha : a < 256) : gfMul a b < 256 := gfMulN_lt 8 b ha

theorem gfMul_xor_left (c : Nat) : XorMap fun a => gfMul a c := gfMulN_xor_left 8 c

theorem gfMul_xor_right (a : Nat) : XorMap (gfMul a) := fun b c _ _ => gfMulN_xor_right 8 a b c

@[simp] theorem gfMul_zero_left (b : Nat) : gfMul 0 b = 0 := gfMulN_zero_left 8 b

@[simp] theorem gfMul_zero_right (a : Nat) : gfMul a 0 = 0 := gfMulN_zero_right 8 a

@[simp] theorem gfMul_one (a : Nat) : gfMul a 1 = a := by
  simp [gfMul, gfMulN]

/-- Both sides pass exclusive-OR through in each factor, so the 64 products of powers of two decide. -/
theorem gfMul_comm (ha : a < 256) (hb : b < 256) : gfMul a b = gfMul b a := by
  have basis : ∀ i j : Fin 8, gfMul (2 ^ i.val) (2 ^ j.val) = gfMul (2 ^ j.val) (2 ^ i.val) := by decide
  exact (gfMul_xor_left b).ext (gfMul_xor_right b)
    (fun i => (gfMul_xor_right _).ext (gfMul_xor_left _) (fun j => basis i j) hb) ha

theorem gfMul_gfDouble (ha : a < 256) (hb : b < 256) : gfMul a (gfDouble b) = gfDouble (gfMul a b) :=
  calc gfMul a (gfDouble b)
    _ = gfMul (gfDouble b) a := gfMul_comm ha (gfDouble_lt hb)
    _ = gfDouble (gfMul b a) := gfMulN_gfDouble_left 8 a hb
    _ = gfDouble (gfMul a b) := by rw [gfMul_comm hb ha]

theorem gfMul_gfMulN (n c : Nat) (ha : a < 256) (hb : b < 256) : gfMul a (gfMulN n b c) = gfMulN n (gfMul a b) c := by
  induction n generalizing b c with
  | zero => exact gfMul_zero_right a
  | succ n ih =>
    have low : gfMul a (if c % 2 = 1 then b else 0) = if c % 2 = 1 then gfMul a b else 0 := by split <;> simp
    rw [gfMulN, gfMulN, gfMul_xor_right a _ _ (by split <;> omega) (gfMulN_lt n _ (gfDouble_lt hb)), low,
      ih _ (gfDouble_lt hb), gfMul_gfDouble ha hb]

theorem gfMul_assoc (c : Nat) (ha : a < 256) (hb : b < 256) : gfMul (gfMul a b) c = gfMul a (gfMul b c) :=
  (gfMul_gfMulN 8 c ha hb).symm

theorem gfPow_lt (n : Nat) : gfPow n < 256 := by
  induction n with
  | zero => decide
  | succ n ih => exact gfDouble_lt ih

end Product

/-! ### Lists of symbols -/

/-- Every entry is a symbol. -/
def Symbols (p : List Nat) : Prop := ∀ c ∈ p, c < 256

theorem Symbols.cons {c : Nat} {p : List Nat} (hc : c < 256) (hp : Symbols p) : Symbols (c :: p) :=
  List.forall_mem_cons.mpr ⟨hc, hp⟩

theorem Symbols.append {p q : List Nat} (hp : Symbols p) (hq : Symbols q) : Symbols (p ++ q) :=
  List.forall_mem_append.mpr ⟨hp, hq⟩

theorem Symbols.zeros (n : Nat) : Symbols (List.replicate n 0) := fun _ h => by simp [List.eq_of_mem_replicate h]

theorem Symbols.map_gfMul {t : Nat} (ht : t < 256) (p : List Nat) : Symbols (p.map (gfMul t)) :=
  List.forall_mem_map.mpr fun c _ => gfMul_lt c ht

theorem xorList_symbols {p q : List Nat} (hp : Symbols p) (hq : Symbols q) : Symbols (xorList p q) := by
  intro c hc
  rw [xorList, ← List.map_uncurry_zip_eq_zipWith] at hc
  obtain ⟨⟨a, b⟩, hab, rfl⟩ := List.mem_map.mp hc
  obtain ⟨ha, hb⟩ := List.of_mem_zip hab
  exact xor_lt_256 (hp a ha) (hq b hb)

@[simp] theorem xorList_cons (a b : Nat) (p q : List Nat) : xorList (a :: p) (b :: q) = (a ^^^ b) :: xorList p q := rfl

@[simp] theorem xorList_length (p q : List Nat) : (xorList p q).length = min p.length q.length := List.length_zipWith

theorem xorList_append {p q : List Nat} (h : p.length = q.length) (p' q' : List Nat) :
    xorList (p ++ p') (q ++ q') = xorList p q ++ xorList p' q' := List.zipWith_append h

theorem xorList_zeros (p : List Nat) : xorList p (List.replicate p.length 0) = p := by
  induction p with
  | nil => rfl
  | cons c p ih => simp [List.replicate_succ, ih]

theorem xorList_cancel {p q : List Nat} (h : p.length = q.length) : xorList (xorList p q) q = p := by
  induction p generalizing q with
  | nil => rfl
  | cons a p ih =>
    cases q with
    | nil => cases h
    | cons b q => rw [xorList_cons, xorList_cons, ih (Nat.succ.inj h), xor_xor_self_right]

theorem xorList_right_comm (p q r : List Nat) : xorList (xorList p q) r = xorList (xorList p r) q := by
  induction p generalizing q r with
  | nil => rfl
  | cons a p ih =>
    cases q with
    | nil => cases r <;> rfl
    | cons b q =>
      cases r with
      | nil => rfl
      | cons c r => simp only [xorList_cons, ih q r, xor_xor_swap_right a b c]

/-! ### Values of polynomials -/

section Values
variable {p q : List Nat} {x : Nat}

@[simp] theorem gfEval_nil (x : Nat) : gfEval [] x = 0 := rfl

@[simp] theorem gfEval_cons (c : Nat) (p : List Nat) (x : Nat) : gfEval (c :: p) x = gfMul (gfEval p x) x ^^^ c := rfl

theorem gfEval_lt (hp : Symbols p) (x : Nat) : gfEval p x < 256 := by
  induction p with
  | nil => exact Nat.zero_lt_succ 255
  | cons c p ih =>
    obtain ⟨hc, hp⟩ := List.forall_mem_cons.mp hp
    exact xor_lt_256 (gfMul_lt x (ih hp)) hc

theorem gfEval_xorList (hp : Symbols p) (hq : Symbols q) (h : p.length = q.length) (x : Nat) :
    gfEval (xorList p q) x = gfEval p x ^^^ gfEval q x := by
  induction p generalizing q with
  | nil =>
    obtain rfl := List.eq_nil_of_length_eq_zero h.symm
    exact (Nat.xor_self 0).symm
  | cons a p ih =>
    obtain ⟨b, q, rfl⟩ := List.exists_cons_of_length_eq_add_one h.symm
    obtain ⟨-, hp⟩ := List.forall_mem_cons.mp hp
    obtain ⟨-, hq⟩ := List.forall_mem_cons.mp hq
    have product : gfMul (gfEval p x ^^^ gfEval q x) x = gfMul (gfEval p x) x ^^^ gfMul (gfEval q x) x :=
      gfMul_xor_left x _ _ (gfEval_lt hp x) (gfEval_lt hq x)
    rw [xorList_cons, gfEval_cons, gfEval_cons, gfEval_cons, ih hp hq (Nat.succ.inj h), product, xor_xor_comm]

theorem gfEval_append_zeros (p : List Nat) (n x : Nat) : gfEval (p ++ List.replicate n 0) x = gfEval p x := by
  induction p with
  | nil =>
    induction n with
    | zero => rfl
    | succ n ih => simpa [List.replicate_succ] using congrArg (gfMul · x) ih
  | cons c p ih => rw [List.cons_append, gfEval_cons, ih, gfEval_cons]

theorem gfEval_map_gfMul {t : Nat} (ht : t < 256) (hp : Symbols p) (x : Nat) :
    gfEval (p.map (gfMul t)) x = gfMul t (gfEval p x) := by
  induction p with
  | nil => exact (gfMul_zero_right t).symm
  | cons c p ih =>
    obtain ⟨hc, hp⟩ := List.forall_mem_cons.mp hp
    have hE := gfEval_lt hp x
    rw [List.map_cons, gfEval_cons, gfEval_cons, ih hp, gfMul_assoc x ht hE, gfMul_xor_right t _ _ (gfMul_lt x hE) hc]

/-! ### The product of (x − r) over the roots r -/

theorem gfTimesRoot_symbols {r : Nat} (hr : r < 256) (hp : Symbols p) : Symbols (gfTimesRoot r p) :=
  xorList_symbols (hp.cons (by decide)) ((Symbols.map_gfMul hr p).append (Symbols.zeros 1))

theorem gfEval_gfTimesRoot {r : Nat} (hr : r < 256) (hp : Symbols p) (x : Nat) :
    gfEval (gfTimesRoot r p) x = gfMul (gfEval p x) x ^^^ gfMul r (gfEval p x) := by
  have length : (0 :: p).length = (p.map (gfMul r) ++ [0]).length := by simp
  calc gfEval (gfTimesRoot r p) x
    _ = gfEval (0 :: p) x ^^^ gfEval (p.map (gfMul r) ++ List.replicate 1 0) x :=
      gfEval_xorList (hp.cons (by decide)) ((Symbols.map_gfMul hr p).append (Symbols.zeros 1)) length x
    _ = gfMul (gfEval p x) x ^^^ gfMul r (gfEval p x) := by
      rw [gfEval_append_zeros, gfEval_map_gfMul hr hp, gfEval_cons, Nat.xor_zero]

theorem foldl_gfTimesRoot_symbols {rs : List Nat} (hrs : Symbols rs) (hp : Symbols p) :
    Symbols (rs.foldl (fun p r => gfTimesRoot r p) p) := by
  induction rs generalizing p with
  | nil => exact hp
  | cons r rs ih =>
    obtain ⟨hr, hrs⟩ := List.forall_mem_cons.mp hrs
    exact ih hrs (gfTimesRoot_symbols hr hp)

theorem gfRoots_symbols {rs : List Nat} (hrs : Symbols rs) : Symbols (gfRoots rs) :=
  foldl_gfTimesRoot_symbols hrs (Symbols.cons (by decide) (Symbols.zeros 0))

theorem gfEval_foldl_gfTimesRoot {rs : List Nat} (hrs : Symbols rs) (hp : Symbols p) (hx : x ∈ rs ∨ gfEval p x = 0) :
    gfEval (rs.foldl (fun p r => gfTimesRoot r p) p) x = 0 := by
  induction rs generalizing p with
  | nil => exact hx.resolve_left List.not_mem_nil
  | cons r rs ih =>
    obtain ⟨hr, hrs⟩ := List.forall_mem_cons.mp hrs
    refine ih hrs (gfTimesRoot_symbols hr hp) ?_
    rw [gfEval_gfTimesRoot hr hp]
    obtain hx | zero := hx
    · obtain rfl | hx := List.mem_cons.mp hx
      · right
        rw [gfMul_comm (gfEval_lt hp x) hr, Nat.xor_self]
      · exact .inl hx
    · simp [zero]

theorem gfEval_gfRoots {rs : List Nat} (hrs : Symbols rs) (hx : x ∈ rs) : gfEval (gfRoots rs) x = 0 :=
  gfEval_foldl_gfTimesRoot hrs (Symbols.cons (by decide) (Symbols.zeros 0)) (.inl hx)

theorem gfTimesRoot_monic (r : Nat) (p : List Nat) : ∃ q, gfTimesRoot r (p ++ [1]) = q ++ [1] ∧ q.length = p.length + 1 := by
  refine ⟨xorList (0 :: p) ((p ++ [1]).map (gfMul r)), ?_, by simp⟩
  exact xorList_append (p := 0 :: p) (q := (p ++ [1]).map (gfMul r)) (by simp) [1] [0]

theorem foldl_gfTimesRoot_monic (rs p : List Nat) :
    ∃ q, rs.foldl (fun p r => gfTimesRoot r p) (p ++ [1]) = q ++ [1] ∧ q.length = p.length + rs.length := by
  induction rs generalizing p with
  | nil => exact ⟨p, rfl, rfl⟩
  | cons r rs ih =>
    obtain ⟨q, monic, length⟩ := gfTimesRoot_monic r p
    obtain ⟨q', monic', length'⟩ := ih q
    refine ⟨q', ?_, ?_⟩
    · rw [List.foldl_cons, monic, monic']
    · rw [length', length, List.length_cons]; omega

theorem gfRoots_monic (rs : List Nat) : ∃ q, gfRoots rs = q ++ [1] ∧ q.length = rs.length := by
  simpa [gfRoots] using foldl_gfTimesRoot_monic rs []

end Values

end Sys2Proof.Machine
end

section
/-! SUPPORT. The saddle code (R273 to R276, R281): the division that makes the check symbols, the syndromes of what the encoder
and the poison signature store, and the codeword read back from a stored line. -/

namespace Sys2Proof.Machine

/-! ### The generator and the check symbols (R274) -/

/-- The roots of the generator polynomial: α^0 to α^15. -/
def saddleRoots : List Nat := (List.range 16).map gfPow

theorem saddleRoots_symbols : Symbols saddleRoots := List.forall_mem_map.mpr fun n _ => gfPow_lt n

theorem saddleGen_of_monic {q : List Nat} (monic : gfRoots saddleRoots = q ++ [1]) (length : q.length = 16) :
    saddleGen = q := by
  have gen : saddleGen = (gfRoots saddleRoots).take 16 := rfl
  rw [gen, monic, List.take_left' length]

theorem saddleGen_length : saddleGen.length = 16 := by
  obtain ⟨q, monic, length⟩ := gfRoots_monic saddleRoots
  rw [saddleGen_of_monic monic length]
  exact length

theorem gfRoots_saddleRoots : gfRoots saddleRoots = saddleGen ++ [1] := by
  obtain ⟨q, monic, length⟩ := gfRoots_monic saddleRoots
  rw [saddleGen_of_monic monic length, monic]

theorem saddleGen_symbols : Symbols (saddleGen ++ [1]) :=
  gfRoots_saddleRoots ▸ gfRoots_symbols saddleRoots_symbols

theorem gfEval_saddleGen {x : Nat} (root : x ∈ saddleRoots) : gfEval (saddleGen ++ [1]) x = 0 :=
  gfRoots_saddleRoots ▸ gfEval_gfRoots saddleRoots_symbols root

theorem exists_concat_of_length {n : Nat} {r : List Nat} (h : r.length = n + 1) : ∃ q t, r = q ++ [t] ∧ q.length = n := by
  have ne : r ≠ [] := List.ne_nil_of_length_eq_add_one h
  exact ⟨r.dropLast, r.getLast ne, (List.dropLast_concat_getLast ne).symm, by rw [List.length_dropLast, h]; rfl⟩

theorem saddleStep_concat {q : List Nat} (hq : q.length = 15) (t m : Nat) :
    saddleStep (q ++ [t]) m = xorList (0 :: q) (saddleGen.map (gfMul (t ^^^ m))) := by
  simp only [saddleStep, List.getLastD_concat, List.take_left' hq, xorList]

theorem saddleStep_length {r : List Nat} (h : r.length = 16) (m : Nat) : (saddleStep r m).length = 16 := by
  obtain ⟨q, t, rfl, hq⟩ := exists_concat_of_length h
  simp [saddleStep_concat hq, saddleGen_length, hq]

theorem saddleStep_symbols {r : List Nat} {m : Nat} (h : r.length = 16) (hr : Symbols r) (hm : m < 256) :
    Symbols (saddleStep r m) := by
  obtain ⟨q, t, rfl, hq⟩ := exists_concat_of_length h
  obtain ⟨hqs, ht⟩ := List.forall_mem_append.mp hr
  rw [saddleStep_concat hq]
  exact xorList_symbols (Symbols.cons (by decide) hqs) (Symbols.map_gfMul (xor_lt_256 (ht t (by simp)) hm) _)

/-- x · (r, M) less a multiple of g: the remainder takes in m, and M moves up by one. -/
theorem saddleStep_append {q M : List Nat} (hq : q.length = 15) (t m : Nat) :
    saddleStep (q ++ [t]) m ++ m :: M =
      xorList (0 :: (q ++ [t] ++ M)) ((saddleGen ++ [1]).map (gfMul (t ^^^ m)) ++ List.replicate M.length 0) := by
  have lengths : (0 :: q).length = (saddleGen.map (gfMul (t ^^^ m))).length := by simp [hq, saddleGen_length]
  have cancel : t ^^^ (t ^^^ m) = m := xor_xor_self_left t m
  have split := xorList_append lengths (t :: M) ((t ^^^ m) :: List.replicate M.length 0)
  rw [xorList_cons, xorList_zeros, cancel] at split
  rw [saddleStep_concat hq, ← split]
  simp

theorem gfEval_saddleStep {r M : List Nat} {m x : Nat} (h : r.length = 16) (hr : Symbols r) (hm : m < 256) (hM : Symbols M)
    (root : x ∈ saddleRoots) :
    gfEval (saddleStep r m ++ m :: M) x = gfMul (gfEval (r ++ M) x) x := by
  obtain ⟨q, t, rfl, hq⟩ := exists_concat_of_length h
  obtain ⟨-, ht⟩ := List.forall_mem_append.mp hr
  have top : t ^^^ m < 256 := xor_lt_256 (ht t (by simp)) hm
  rw [saddleStep_append hq, gfEval_xorList ((hr.append hM).cons (by decide))
    ((Symbols.map_gfMul top _).append (Symbols.zeros _)) (by simp [hq, saddleGen_length]; omega), gfEval_append_zeros,
    gfEval_map_gfMul top saddleGen_symbols, gfEval_saddleGen root, gfMul_zero_right, Nat.xor_zero, gfEval_cons, Nat.xor_zero]

@[simp] theorem saddleCheck_cons (m : Nat) (M : List Nat) : saddleCheck (m :: M) = saddleStep (saddleCheck M) m := by
  simp [saddleCheck, List.foldl_reverse]

theorem saddleCheck_length (M : List Nat) : (saddleCheck M).length = 16 := by
  induction M with
  | nil => rfl
  | cons m M ih => rw [saddleCheck_cons, saddleStep_length ih]

theorem saddleCheck_symbols {M : List Nat} (hM : Symbols M) : Symbols (saddleCheck M) := by
  induction M with
  | nil => exact Symbols.zeros 16
  | cons m M ih =>
    obtain ⟨hm, hM⟩ := List.forall_mem_cons.mp hM
    rw [saddleCheck_cons]
    exact saddleStep_symbols (saddleCheck_length M) (ih hM) hm

theorem gfEval_saddleCheck {M : List Nat} {x : Nat} (hM : Symbols M) (root : x ∈ saddleRoots) :
    gfEval (saddleCheck M ++ M) x = 0 := by
  induction M with
  | nil => exact gfEval_append_zeros [] 16 x
  | cons m M ih =>
    obtain ⟨hm, hM⟩ := List.forall_mem_cons.mp hM
    rw [saddleCheck_cons, gfEval_saddleStep (saddleCheck_length M) (saddleCheck_symbols hM) hm hM root,
      ih hM, gfMul_zero_left]

/-! ### Syndromes (R276) -/

theorem syndromes_eq_zero_iff {c : List Nat} : syndromes c = List.replicate 16 0 ↔ ∀ x ∈ saddleRoots, gfEval c x = 0 := by
  rw [List.eq_replicate_iff]
  simp [syndromes, saddleRoots]

theorem syndromes_saddleCheck {M : List Nat} (hM : Symbols M) : syndromes (saddleCheck M ++ M) = List.replicate 16 0 :=
  syndromes_eq_zero_iff.mpr fun _ root => gfEval_saddleCheck hM root

theorem syndromes_xorList_of_codeword {p q : List Nat} (hp : Symbols p) (hq : Symbols q) (h : p.length = q.length)
    (zero : syndromes p = List.replicate 16 0) : syndromes (xorList p q) = syndromes q := by
  refine List.map_congr_left fun k hk => ?_
  rw [gfEval_xorList hp hq h, syndromes_eq_zero_iff.mp zero _ (List.mem_map_of_mem hk), Nat.zero_xor]

theorem poison_syndromes_ne_zero : syndromes (poisonP ++ List.replicate 64 0) ≠ List.replicate 16 0 := by
  intro zero
  have first := syndromes_eq_zero_iff.mp zero (gfPow 0) (List.mem_map_of_mem (List.mem_range.mpr (by decide)))
  rw [gfEval_append_zeros] at first
  exact absurd first (by decide)

/-! ### The line as stored (R273, R274) -/

theorem natBytes_succ (x n : Nat) : natBytes x (n + 1) = x % 256 :: natBytes (x / 256) n := by
  simp only [natBytes, List.range_succ_eq_map, List.map_cons, List.map_map]
  congr 1
  refine List.map_congr_left fun i _ => ?_
  simp only [Function.comp, Nat.shiftRight_eq_div_pow, Nat.div_div_eq_div_mul]
  congr 2
  rw [Nat.mul_succ, Nat.pow_add, Nat.mul_comm]

@[simp] theorem natBytes_length (x n : Nat) : (natBytes x n).length = n := by simp [natBytes]

theorem natBytes_symbols (x n : Nat) : Symbols (natBytes x n) :=
  List.forall_mem_map.mpr fun _ _ => Nat.mod_lt _ (by decide)

theorem bytesNat_lt {p : List Nat} (hp : Symbols p) : bytesNat p < 256 ^ p.length := by
  induction p with
  | nil => exact Nat.zero_lt_one
  | cons c p ih =>
    obtain ⟨hc, hp⟩ := List.forall_mem_cons.mp hp
    have below := ih hp
    rw [bytesNat, List.length_cons, Nat.pow_succ]
    omega

theorem natBytes_bytesNat {p : List Nat} (hp : Symbols p) : natBytes (bytesNat p) p.length = p := by
  induction p with
  | nil => rfl
  | cons c p ih =>
    obtain ⟨hc, hp⟩ := List.forall_mem_cons.mp hp
    rw [bytesNat, List.length_cons, natBytes_succ, show (c + 256 * bytesNat p) % 256 = c by omega,
      show (c + 256 * bytesNat p) / 256 = bytesNat p by omega, ih hp]

section Stored
variable {check : List Nat}

theorem storedOf_toNat (d : Line) (hs : Symbols check) (h : check.length = 16) :
    (storedOf d check).toNat = d.toNat + bytesNat check * 2 ^ 512 := by
  have low := d.isLt
  have high := bytesNat_lt hs
  rw [h] at high
  rw [storedOf, BitVec.toNat_ofNat]
  omega

theorem storedOf_data (d : Line) (hs : Symbols check) (h : check.length = 16) :
    (storedOf d check).toNat % 2 ^ 512 = d.toNat := by
  have low := d.isLt
  rw [storedOf_toNat d hs h]
  omega

theorem storedOf_check (d : Line) (hs : Symbols check) (h : check.length = 16) :
    (storedOf d check).toNat >>> 512 = bytesNat check := by
  have low := d.isLt
  rw [storedOf_toNat d hs h, Nat.shiftRight_eq_div_pow]
  omega

theorem codeword_storedOf (d : Line) (hs : Symbols check) (h : check.length = 16) :
    codeword (storedOf d check) = xorList check storeK ++ natBytes d.toNat 64 := by
  have bytes : natBytes (bytesNat check) 16 = check := h ▸ natBytes_bytesNat hs
  rw [codeword, storedOf_check d hs h, storedOf_data d hs h, bytes]

end Stored

theorem storeK_symbols : Symbols storeK := by unfold Symbols; decide

theorem poisonP_symbols : Symbols poisonP := by unfold Symbols; decide

theorem storedCheck_symbols (d : Line) : Symbols (xorList (saddleCheck (natBytes d.toNat 64)) storeK) :=
  xorList_symbols (saddleCheck_symbols (natBytes_symbols _ _)) storeK_symbols

theorem storedCheck_length (d : Line) : (xorList (saddleCheck (natBytes d.toNat 64)) storeK).length = 16 := by
  rw [xorList_length, saddleCheck_length]; rfl

theorem codeword_encodeLine (d : Line) :
    codeword (encodeLine d) = saddleCheck (natBytes d.toNat 64) ++ natBytes d.toNat 64 := by
  rw [encodeLine, codeword_storedOf d (storedCheck_symbols d) (storedCheck_length d), xorList_cancel (saddleCheck_length _)]

theorem encodeLine_data (d : Line) : (encodeLine d).toNat % 2 ^ 512 = d.toNat :=
  storedOf_data d (storedCheck_symbols d) (storedCheck_length d)

theorem codeword_poisonStored :
    codeword poisonStored = xorList (codeword (encodeLine poisonLine)) (poisonP ++ List.replicate 64 0) := by
  have keep : xorList (natBytes poisonLine.toNat 64) (List.replicate 64 0) = natBytes poisonLine.toNat 64 := by
    simpa using xorList_zeros (natBytes poisonLine.toNat 64)
  have lengths : (saddleCheck (natBytes poisonLine.toNat 64)).length = poisonP.length := saddleCheck_length _
  rw [poisonStored, codeword_storedOf _ (xorList_symbols (storedCheck_symbols _) poisonP_symbols)
    (by rw [xorList_length, storedCheck_length]; decide), codeword_encodeLine, xorList_append lengths, keep, xorList_right_comm,
    xorList_cancel (saddleCheck_length _)]

theorem syndromes_encodeLine (d : Line) : syndromes (codeword (encodeLine d)) = List.replicate 16 0 := by
  rw [codeword_encodeLine]
  exact syndromes_saddleCheck (natBytes_symbols _ _)

theorem syndromes_poisonStored : syndromes (codeword poisonStored) = syndromes (poisonP ++ List.replicate 64 0) := by
  have symbols : Symbols (codeword (encodeLine poisonLine)) := by
    rw [codeword_encodeLine]
    exact (saddleCheck_symbols (natBytes_symbols _ _)).append (natBytes_symbols _ _)
  have length : (codeword (encodeLine poisonLine)).length = (poisonP ++ List.replicate 64 0).length := by
    rw [codeword_encodeLine, List.length_append, saddleCheck_length, natBytes_length, List.length_append,
      List.length_replicate]; rfl
  rw [codeword_poisonStored]
  exact syndromes_xorList_of_codeword symbols (poisonP_symbols.append (Symbols.zeros 64)) length
    (syndromes_encodeLine poisonLine)

/-! ### The decoder's first two questions (R276) -/

theorem decodeStored_of_zero_syndromes {w : Stored} (er : Option (Nat × Nat))
    (zero : syndromes (codeword w) = List.replicate 16 0) :
    decodeStored er w = ⟨.clean, BitVec.ofNat 512 (w.toNat % 2 ^ 512), 0⟩ :=
  if_pos zero

theorem decodeStored_of_poison_syndromes {w : Stored} (er : Option (Nat × Nat))
    (poison : syndromes (codeword w) = syndromes (poisonP ++ List.replicate 64 0)) :
    decodeStored er w = ⟨.poison, poisonLine, 0⟩ := by
  have nonzero : syndromes (codeword w) ≠ List.replicate 16 0 := by
    rw [poison]
    exact poison_syndromes_ne_zero
  exact (if_neg nonzero).trans (if_pos poison)

end Sys2Proof.Machine
end

section
/-! CERTIFICATE. What the saddle code encodes it decodes. -/

namespace Sys2Proof.Machine

/-- Settles O56: a line as encoded has no syndrome, and the poison signature has those of the poison mask alone. -/
theorem saddleRoundTrip : Obligations.SaddleRoundTrip := by
  unfold Obligations.SaddleRoundTrip
  refine ⟨fun d er => ?_, fun er => decodeStored_of_poison_syndromes er syndromes_poisonStored⟩
  rw [decodeStored_of_zero_syndromes er (syndromes_encodeLine d), encodeLine_data, BitVec.ofNat_toNat, BitVec.setWidth_eq]

end Sys2Proof.Machine
end

section
/-! SUPPORT. The injection window of a channel agent (R289, R290): a command that the agent takes up or ignores, and the end of a
raw access. -/

namespace Sys2Proof.Machine

section Inject
variable {s : State} {c : ChanId} {i : Instr} {op : Nat}

theorem State.agentCtl_of_answering (f : State → State) (awake : s.awake = true) (safe : s.fcol.safe = false) :
    s.agentCtl f = f s :=
  (State.ctl_of_awake _ awake).trans (if_pos (by simp [State.reachable, safe]))

theorem State.agentCtl_of_silent (f : State → State) (silent : s.awake = false ∨ s.fcol.safe = true) : s.agentCtl f = s := by
  obtain asleep | safe := silent
  · simp [State.agentCtl, State.ctl, asleep]
  · simp [State.agentCtl, State.ctl, State.reachable, safe]

/-- INJ_CTL's command `i` with OP `op` (R289). -/
def InjectOp (c : ChanId) (i : Instr) (op : Nat) : Prop :=
  (i = .injEncode c ∧ op = 1) ∨ (i = .injWriteRaw c ∧ op = 2) ∨ (i = .injReadRaw c ∧ op = 3) ∨ (i = .injDecode c ∧ op = 4)

theorem exec_of_injectOp (h : InjectOp c i op) (s : State) : exec i s = .next (s.agentCtl (·.injGo c op)) := by
  obtain ⟨rfl, rfl⟩ | ⟨rfl, rfl⟩ | ⟨rfl, rfl⟩ | ⟨rfl, rfl⟩ := h <;> rfl

theorem InjectOp.of_mem (h : i ∈ [.injEncode c, .injWriteRaw c, .injReadRaw c, .injDecode c]) : ∃ op, InjectOp c i op := by
  simp only [List.mem_cons, List.not_mem_nil, or_false] at h
  obtain rfl | rfl | rfl | rfl := h
  · exact ⟨1, .inl ⟨rfl, rfl⟩⟩
  · exact ⟨2, .inr (.inl ⟨rfl, rfl⟩)⟩
  · exact ⟨3, .inr (.inr (.inl ⟨rfl, rfl⟩))⟩
  · exact ⟨4, .inr (.inr (.inr ⟨rfl, rfl⟩))⟩

section Go
variable (idle : (s.chan c).inj.busy = false)
include idle

theorem State.injGo_encode : s.injGo c 1 = (s.setProg (agentKey c.val 0x120) 1).injEncode c :=
  if_neg (by simp [idle])

theorem State.injGo_decode : s.injGo c 4 = (s.setProg (agentKey c.val 0x120) 4).injDecode c :=
  if_neg (by simp [idle])

theorem State.injGo_raw (raw : op = 2 ∨ op = 3) :
    s.injGo c op = (s.setProg (agentKey c.val 0x120) (BitVec.ofNat 32 op)).injRaw c op := by
  obtain rfl | rfl := raw <;> exact if_neg (by simp [idle])

end Go

theorem State.injGo_of_busy (op : Nat) (busy : (s.chan c).inj.busy = true) : s.injGo c op = s := if_pos busy

theorem exec_injectOp_ignored (h : InjectOp c i op)
    (ignored : s.awake = false ∨ s.fcol.safe = true ∨ (s.chan c).inj.busy = true) : exec i s = .next s := by
  rw [exec_of_injectOp h]
  cases awake : s.awake with
  | false => rw [State.agentCtl_of_silent _ (.inl awake)]
  | true =>
    cases safe : s.fcol.safe with
    | true => rw [State.agentCtl_of_silent _ (.inr safe)]
    | false =>
      have busy : (s.chan c).inj.busy = true := by simpa [awake, safe] using ignored
      rw [State.agentCtl_of_answering _ awake safe, State.injGo_of_busy op busy]

/-! ### The end of a raw access (R290) -/

theorem Chan.rawWriting_of_none {k : Chan} (backs : ∀ w ∈ k.backs, w.purp ≠ .rawWrite)
    (wq : ∀ w ∈ k.wq, w.purp ≠ .rawWrite) :
    k.rawWriting = false := by
  have noBack : (k.backs.any fun w => w.purp == .rawWrite) = false := by simpa using backs
  have noEntry : (k.wq.any fun w => w.purp == .rawWrite) = false := by simpa using wq
  rw [Chan.rawWriting, noBack, noEntry, Bool.or_false]

section Complete
variable (raw : Stored) (busy : (s.chan c).inj.busy = true) (sent : (s.chan c).inj.sent = true)
include busy sent

theorem exec_injRawComplete_written (write : (s.chan c).inj.op = 2) (done : (s.chan c).rawWriting = false) :
    exec (.injRawComplete c raw) s = .next (s.modChan c fun k =>
      { k with inj := { k.inj with busy := false, sent := false, err := 0 } }) := by
  change execInjRawComplete c raw s = _
  simp [execInjRawComplete, busy, sent, write, done]

theorem exec_injRawComplete_read {e : RdE} (read : (s.chan c).inj.op = 3) (entry : (s.chan c).rawEntry = some e) :
    exec (.injRawComplete c raw) s = .next ((s.setInjBuf c raw).modChan c fun k =>
      { k with rq := k.rq.filter fun o => o.id != e.id
               inj := { k.inj.report (decodeStored (s.erasedAt c e.loc) raw) with
                 busy := false, sent := false, err := 0 } }) := by
  change execInjRawComplete c raw s = _
  simp [execInjRawComplete, busy, sent, read, entry]

end Complete
end Inject

end Sys2Proof.Machine
end

section
/-! CERTIFICATE. The commands of the injection buffer; armed injections, the error counts and the fresh fill. -/

namespace Sys2Proof.Machine

/-- Settles O25, by what INJ_CTL's operation is in an agent that answers and is idle, by its being ignored in another, and by the
end of a raw write and of a raw read. -/
theorem injectionCommands : Obligations.InjectionCommands := by
  unfold Obligations.InjectionCommands
  refine ⟨?encode, ?decode, ?raw, ?ignored, ?written, ?read⟩
  case encode =>
    intro c s awake safe idle
    rw [exec_of_injectOp (.inl ⟨rfl, rfl⟩), State.agentCtl_of_answering _ awake safe, State.injGo_encode idle]
    rfl
  case decode =>
    intro c s awake safe idle
    rw [exec_of_injectOp (.inr (.inr (.inr ⟨rfl, rfl⟩))), State.agentCtl_of_answering _ awake safe, State.injGo_decode idle]
    rfl
  case raw =>
    intro c i op s h awake safe idle
    have command : InjectOp c i op := h.elim (fun h => .inr (.inl h)) fun h => .inr (.inr (.inl h))
    rw [exec_of_injectOp command, State.agentCtl_of_answering _ awake safe, State.injGo_raw idle (h.imp And.right And.right)]
    rfl
  case ignored =>
    intro c i s h ignored
    obtain ⟨op, command⟩ := InjectOp.of_mem h
    exact exec_injectOp_ignored command ignored
  case written =>
    intro c raw s busy sent write backs wq
    exact exec_injRawComplete_written raw busy sent write (Chan.rawWriting_of_none backs wq)
  case read =>
    intro c raw e s busy sent read entry
    exact exec_injRawComplete_read raw busy sent read entry

/-- Settles O26: each register write by its operation in a core, or an agent, that answers; the fill by whether every port is
closed. -/
theorem armsCountsAndFill : Obligations.ArmsCountsAndFill := by
  unfold Obligations.ArmsCountsAndFill
  refine ⟨?arm, ?garm, ?clear, ?fill, ?refused, ?filled⟩
  case arm => exact fun c s awake safe => congrArg Host.Outcome.next (State.agentCtl_of_answering (·.armChan c) awake safe)
  case garm => exact fun s awake => congrArg Host.Outcome.next (State.ctl_of_awake (·.armGlobal) awake)
  case clear => exact fun c s awake safe => congrArg Host.Outcome.next (State.agentCtl_of_answering (·.clearEcc c) awake safe)
  case fill =>
    exact fun s awake closed => congrArg Host.Outcome.next ((State.ctl_of_awake (·.freshGo) awake).trans (if_pos closed))
  case refused =>
    intro s awake opened
    exact congrArg Host.Outcome.next ((State.ctl_of_awake (·.freshGo) awake).trans (if_neg (by simp [opened])))
  case filled => exact fun s => rfl

end Sys2Proof.Machine
end

section
/-! SUPPORT. What a step passes on from the state behind the command it takes. -/

namespace Sys2Proof.Machine

theorem step_passed {s t : State} (h : step s = .next t) : Passed { s with pending := s.pending.tail } t := by
  cases queue : s.pending with
  | nil =>
    obtain rfl : s.tick = t := by simpa [step, queue] using h
    have same : { s with pending := [] } = s := by rw [← queue]
    rw [List.tail_nil, same]
    exact s.tick_kept.passed
  | cons i rest =>
    obtain ⟨u, answer, passed⟩ := exec_passed i { s with pending := rest }
    obtain rfl : u = t := by simpa [step, queue, answer] using h
    exact passed

end Sys2Proof.Machine
end

section
/-! SUPPORT. The weir (R304 to R311): what a request does in each state of the weir, and a release. -/

namespace Sys2Proof.Machine

theorem State.modChan_modChan (s : State) (c : ChanId) (f g : Chan → Chan) :
    (s.modChan c f).modChan c g = s.modChan c fun k => g (f k) := by
  simp only [State.modChan, Tab.at_put_same, Tab.put_put]

theorem State.modWeir_modWeir (s : State) (c : ChanId) (f g : Weir → Weir) :
    (s.modWeir c f).modWeir c g = s.modWeir c fun w => g (f w) := State.modChan_modChan ..

theorem State.modWeir_chan (s : State) (c : ChanId) (f : Weir → Weir) :
    (s.modWeir c f).chan c = { s.chan c with weir := f (s.chan c).weir } := State.modChan_chan ..

@[simp] theorem State.modWeir_weir (s : State) (c : ChanId) (f : Weir → Weir) :
    ((s.modWeir c f).chan c).weir = f (s.chan c).weir := by rw [State.modWeir_chan]

@[simp] theorem State.modWeir_ladder (s : State) (c : ChanId) (f : Weir → Weir) :
    ((s.modWeir c f).chan c).ladder = (s.chan c).ladder := by rw [State.modWeir_chan]

@[simp] theorem State.modWeir_dclk (s : State) (c : ChanId) (f : Weir → Weir) :
    ((s.modWeir c f).chan c).dclk = (s.chan c).dclk := by
  rw [State.modWeir_chan]
  rfl

@[simp] theorem State.modWeir_running (s : State) (c : ChanId) (f : Weir → Weir) :
    (s.modWeir c f).running c = s.running c := by
  simp only [State.running, State.schEn, State.modWeir_chan]
  rfl

/-! ### A request -/

section Request
variable {s : State} {c : ChanId} {r : Fin 10} {h : Nat}

theorem State.request_of_stopped (stopped : s.running c = false) :
    s.request c r = s.modWeir c fun w => { w with want := w.want.put r true } := if_pos (by simp [stopped])

section Running
variable (running : s.running c = true)
include running

theorem State.request_of_free (free : (s.chan c).weir.holder = none) : s.request c r = s.grant c r := by
  simp [State.request, running, free]

theorem State.request_outranks {h : Fin 10} (holds : (s.chan c).weir.holder = some h.val) (other : h ≠ r) (stays : h.val ≠ 2)
    (now : (s.chan c).weir.at_ = (s.chan c).dclk)
    (before : ranksBefore (r.val, (s.chan c).weir.exps.at r) (h.val, (s.chan c).weir.rank) = true) :
    s.request c r = (((s.dropUnit c h.val).modWeir c fun w =>
      { w with holder := none, exps := w.exps.put h (s.chan c).weir.rank }).lose c h).grant c r := by
  have otherVal : h.val ≠ r.val := Fin.val_ne_of_ne other
  simp [State.request, running, holds, now, stays, otherVal, before]

theorem State.request_debug_again (holds : (s.chan c).weir.holder = some 0) :
    s.request c 0 = s.modWeir c fun w => { w with want := w.want.put 0 true } := by
  simp [State.request, running, holds]

section Earlier
variable (holds : (s.chan c).weir.holder = some h) (earlier : (s.chan c).weir.at_ ≠ (s.chan c).dclk)
include holds earlier

theorem State.request_debug_revokes (other : h ≠ 0) (stoppable : (s.chan c).unstoppable = false) :
    s.request c 0 = (s.revoke c h).grant c 0 := by
  simp [State.request, running, holds, earlier, other, stoppable]

theorem State.request_debug_waits (other : h ≠ 0) (unstoppable : (s.chan c).unstoppable = true) :
    s.request c 0 = s.modWeir c fun w => { w with revokeDue := some 0 } := by
  simp [State.request, running, holds, earlier, other, unstoppable]

theorem State.request_loses (ordinary : r.val ≠ 0) : s.request c r = s.lose c r := by
  simp [State.request, running, holds, earlier, ordinary]

end Earlier
end Running

theorem State.ask_eq_request (work : s.hasWork c r.val = true) (holds : (s.chan c).weir.holder ≠ some r.val)
    (quiet : (s.chan c).weir.want.at r = false) : s.ask c r = s.request c r := by
  simp [State.ask, work, holds, quiet]

theorem State.ask_of_quiet (quiet : s.hasWork c r.val = false ∨ (s.chan c).weir.holder = some r.val ∨
    (s.chan c).weir.want.at r = true) : s.ask c r = s := by
  obtain work | holds | waits := quiet
  · simp [State.ask, work]
  · simp [State.ask, holds]
  · simp [State.ask, waits]

/-! ### The commands that ask, and the quantum's end -/

theorem exec_weirRequest_of_asks (asks : asksWeir r.val = true) : exec (.weirRequest c r) s = .next (s.ask c r) :=
  congrArg Host.Outcome.next (if_pos asks)

theorem exec_weirRequest_ignored (ignored : asksWeir r.val = false ∨ s.hasWork c r.val = false ∨
    (s.chan c).weir.holder = some r.val ∨ (s.chan c).weir.want.at r = true) : exec (.weirRequest c r) s = .next s := by
  obtain mute | quiet := ignored
  · exact congrArg Host.Outcome.next (if_neg (by simp [mute]))
  · cases asks : asksWeir r.val with
    | false => exact congrArg Host.Outcome.next (if_neg (by simp [asks]))
    | true => rw [exec_weirRequest_of_asks asks, State.ask_of_quiet quiet]

theorem exec_backoffExpiry_of_none (calm : (s.chan c).weir.want.at r = false) : exec (.backoffExpiry c r) s = .next s :=
  congrArg Host.Outcome.next (if_pos (by simp [calm]))

section BackOff
variable (waits : (s.chan c).weir.want.at r = true)
include waits

theorem exec_backoffExpiry_requests (work : s.hasWork c r.val = true ∨ r = 0) :
    exec (.backoffExpiry c r) s = .next (s.request c r) := by
  change execBackoffExpiry c r s = _
  simp [execBackoffExpiry, waits, work]

theorem exec_backoffExpiry_drops (work : s.hasWork c r.val = false) (ordinary : r ≠ 0) :
    exec (.backoffExpiry c r) s = .next (s.modWeir c fun w => { w with want := w.want.put r false }) := by
  change execBackoffExpiry c r s = _
  simp [execBackoffExpiry, waits, work, ordinary]

end BackOff

theorem exec_quantumExpiry_of_waiting (quantum : field (s.agent c 0x074) 7 0 ≠ 0)
    (holds : (s.chan c).weir.holder.isSome = true) (waits : (s.chan c).weir.want.toList.any id = true) :
    exec (.quantumExpiry c) s = .next (s.modWeir c fun w => { w with quantumOver := true }) :=
  congrArg Host.Outcome.next (if_pos ⟨quantum, holds, waits⟩)

theorem exec_quantumExpiry_ignored (ignored : field (s.agent c 0x074) 7 0 = 0 ∨ (s.chan c).weir.holder = none) :
    exec (.quantumExpiry c) s = .next s := by
  refine congrArg Host.Outcome.next (if_neg ?_)
  rintro ⟨quantum, holds, -⟩
  obtain zero | free := ignored
  · exact quantum zero
  · simp [free] at holds

end Request

/-! ### A release -/

section Release
variable {s : State} {c : ChanId} {r : Nat}

theorem State.carry_of_nothing (nothing : (s.chan c).ladder.carried = []) : s.carry c = s := by
  rw [State.carry, nothing]
  refine State.modChan_same ?_
  rw [← nothing]

theorem State.carry_single {d : Carried} (one : (s.chan c).ladder.carried = [d]) :
    s.carry c = (s.modChan c fun k => { k with ladder := { k.ladder with carried := [] } }).degrade c d := by
  rw [State.carry, one, List.foldl_cons, List.foldl_nil]

section Turn
variable (span : s.spanMode (setOf c) = true) (on : (s.span (setOf c)).reb.on = true)
  (mine : chanOf (setOf c) (s.span (setOf c)).pos = c)
include span on mine

theorem State.carryTurn_begins (turn : (s.span (setOf c)).reb.turn = 1) :
    s.carryTurn c = (s.modSpan (setOf c) fun sp => { sp with reb := { sp.reb with turn := 0 } }).beginWalk (setOf c) := by
  simp [State.carryTurn, span, on, mine, turn]

theorem State.carryTurn_ends (turn : (s.span (setOf c)).reb.turn = 2) :
    s.carryTurn c = (s.modSpan (setOf c) fun sp => { sp with reb := { sp.reb with turn := 0 } }).endRebuild (setOf c) := by
  simp [State.carryTurn, span, on, mine, turn]

end Turn

section Checkpoint
variable (holds : (s.chan c).weir.holder = some r)
include holds

theorem exec_weirRelease_at_checkpoint (idle : s.unitBusy c r = false) (stoppable : (s.chan c).unstoppable = false)
    (done : (s.chan c).weir.quantumOver = true ∨ s.moreWork c r = false) :
    exec (.weirRelease c) s = .next (s.release c).settleAll.sweepFails := by
  change execWeirRelease c s = _
  simp [execWeirRelease, holds, idle, stoppable, done]

theorem exec_weirRelease_between (busy : s.unitBusy c r = true ∨ (s.chan c).unstoppable = true) :
    exec (.weirRelease c) s = .next s := by
  change execWeirRelease c s = _
  obtain busy | unstoppable := busy
  · simp [execWeirRelease, holds, busy]
  · simp [execWeirRelease, holds, unstoppable]

section Uncarried
variable (noWash : r ≠ 8) (noRebuild : r ≠ 4) (nothing : (s.chan c).ladder.carried = [])
  (earlier : (s.chan c).weir.lostAt ≠ (s.chan c).dclk)
include noWash noRebuild nothing earlier

/-- A release whose DCLK has no request left to choose from frees the weir (R307). -/
theorem State.release_frees (quiet : (s.chan c).weir.want.at 0 = false) :
    s.release c = s.modWeir c fun w => { w with holder := none, susp := false, quantumOver := false } := by
  simp [State.release, holds, noWash, noRebuild, State.carry_of_nothing, nothing, quiet, earlier, pick]

/-- The debug port's waiting request, the only one of the release's DCLK, is granted then (R305, R309). -/
theorem State.release_to_debug (waits : (s.chan c).weir.want.at 0 = true) (other : r ≠ 0) (running : s.running c = true) :
    s.release c = s.modWeir c fun w => { w with
      holder := some 0, susp := false, quantumOver := false, want := w.want.put 0 false, rank := 8
      exps := (w.exps.put 0 8).put 0 0, at_ := (s.chan c).dclk
      lost := w.lost.filter fun b => b.1 != 0 } := by
  simp [State.release, State.grant, holds, noWash, noRebuild, State.carry_of_nothing, nothing, waits, pick, earlier,
    State.modWeir_modWeir, other.symm, running]

end Uncarried
end Checkpoint
end Release

end Sys2Proof.Machine
end

section
/-! SUPPORT. The retire list, keepsake programs (R326), and the ends of a PPR programming interval and of a PMIC change (R311). -/

namespace Sys2Proof.Machine

theorem exec_retirePop_of_awake {s : State} (awake : s.awake = true) : exec .retirePop s = .next s.popRetire :=
  congrArg Host.Outcome.next (State.ctl_of_awake _ awake)

theorem exec_ladderClr_of_awake {s : State} (awake : s.awake = true) : exec .ladderClr s = .next s.clearLadder :=
  congrArg Host.Outcome.next (State.ctl_of_awake _ awake)

theorem State.mayProgram_iff {s : State} : s.mayProgram = true ↔ s.sbm.warn = false ∨ s.flash.under = true := by
  simp [State.mayProgram]

section Keepsake
variable {s : State} {o : KsOp} {rest : List KsOp}

theorem exec_keepsakeProgramDone_ignored {ok : Bool} (ignored : s.mayProgram = false ∨ s.flash.ksQ = []) :
    exec (.keepsakeProgramDone ok) s = .next s := by
  refine congrArg Host.Outcome.next (if_pos ?_)
  obtain barred | empty := ignored
  · simp [barred]
  · simp [empty]

theorem exec_keepsakeProgramDone_of_queued {ok : Bool} (may : s.mayProgram = true) (queue : s.flash.ksQ = o :: rest) :
    exec (.keepsakeProgramDone ok) s = .next (s.programmed.ksDone ok).settleAll.sweepFails :=
  congrArg Host.Outcome.next (if_neg (by simp [may, queue]))

section Done
variable (queue : s.flash.ksQ = o :: rest)
include queue

theorem State.ksDone_true : s.ksDone true = (
    let t := s.writeKs o.ch true
    let t : State := { t with flash := { t.flash with ksQ := rest } }
    (t.modPatch o.ch fun p => { p with ksPend := rest.any fun q => q.ch == o.ch, ksBad := false }).afterKs o true) := by
  simp only [State.ksDone, queue, if_true]

theorem State.ksDone_false_first (first : o.retried = false) : s.ksDone false = (
    let t := s.writeKs o.ch false
    { t with flash := { t.flash with ksQ := { o with retried := true } :: rest } }) := by
  simp [State.ksDone, queue, first]

theorem State.ksDone_false_again (again : o.retried = true) : s.ksDone false = (
    let t := s.writeKs o.ch false
    let t := ({ t with flash := { t.flash with ksQ := rest } } : State).modPatch o.ch fun p =>
      { p with ksPend := rest.any fun q => q.ch == o.ch, ksBad := true }
    (t.raise 556).afterKs o false) := by
  simp [State.ksDone, queue, again]

end Done
end Keepsake

theorem Chan.ksRecord_crc (k : Chan) (c : ChanId) (gen : Nat) :
    (k.ksRecord c gen).crc = crc32c ({ (k.ksRecord c gen) with crc := 0 }.bytes c) := rfl

theorem exec_pprProgramEnd_of_prog {s : State} {c : ChanId} (prog : (s.chan c).ppr.prog = true) :
    exec (.pprProgramEnd c) s = .next (
      let p := (s.geom c).place (s.chan c).ppr.row
      let close : List Cmd :=
        [{ kind := .pre, bank := p.bank, row := p.row, use := .pprEnd },
         { kind := .mrw, bank := ⟨p.bank.cs, 0, 0, 0⟩, use := .pprEnd, mr := 23, val := 0 }]
      ((s.modPpr c fun q => { q with prog := false, pos := 1 }).modSel c p.sub fun l =>
        { l with plan := l.plan ++ close }).lateRevoke c) :=
  congrArg Host.Outcome.next (if_neg (by simp [prog]))

theorem exec_pmicSettled_of_pmicSet {s : State} {c : ChanId} {u : Cur} (settling : (s.chan c).settling = true)
    (current : s.cmp.cur = some u) (opc : u.opc = 0x14) (target : u.ch = c) :
    exec (.pmicSettled c) s = .next
      (((s.modChan c fun k => { k with settling := false }).replyCur stOk 0 []).lateRevoke c) := by
  change execPmicSettled c s = _
  simp [execPmicSettled, settling, current, opc, target]

theorem State.lateRevoke_of_none {s : State} {c : ChanId} (nothing : (s.chan c).weir.revokeDue = none) :
    s.lateRevoke c = s.modWeir c fun w => { w with revokeDue := none } := by
  simp only [State.lateRevoke, nothing]

end Sys2Proof.Machine
end

section
/-! CERTIFICATE. The invariant; the weir; the retire list, keepsake programs, PPR programming and PMIC settling. -/

namespace Sys2Proof.Machine

/-- Settles O48: what every command, and the tick of an empty queue, passes on includes the invariant, which does not speak of
the queue. -/
theorem stepKeepsInvariant : Obligations.StepKeepsInvariant := by
  unfold Obligations.StepKeepsInvariant
  intro s t inv h
  have behindFront : { s with pending := s.pending.tail }.Inv := inv
  exact (step_passed h).inv behindFront

/-- Settles O27: a request by the equation of each state of the weir that it can find, the commands that ask by whether they do,
a release by the requests of its DCLK. -/
theorem weir : Obligations.Weir := by
  unfold Obligations.Weir
  refine ⟨⟨?free, ?stopped, ?revokes, ?held, ?debugFree, ?debugAgain, ?outranks, ?grants, ?loses, ?ignored, ?drops, ?retries,
    ?calm⟩, ⟨?quantum, ?noQuantum, ?frees, ?toDebug, ?turn, ?carry, ?between⟩⟩
  case free => exact fun c r s running free => State.request_of_free running free
  case stopped => exact fun c r s stopped => State.request_of_stopped stopped
  case revokes =>
    exact fun c h s running holds other stoppable earlier =>
      congrArg Host.Outcome.next (State.request_debug_revokes running holds earlier other stoppable)
  case held =>
    exact fun c h s running holds other unstoppable earlier =>
      congrArg Host.Outcome.next (State.request_debug_waits running holds earlier other unstoppable)
  case debugFree => exact fun c s running free => congrArg Host.Outcome.next (State.request_of_free running free)
  case debugAgain =>
    intro c s cannot
    refine congrArg Host.Outcome.next ?_
    cases running : s.running c with
    | false => exact State.request_of_stopped running
    | true => exact State.request_debug_again running (cannot.resolve_left (by simp [running]))
  case outranks =>
    exact fun c r h s running holds other stays now before => State.request_outranks running holds other stays now before
  case grants =>
    intro c code s running asks work free quiet
    rw [exec_weirRequest_of_asks asks, State.ask_eq_request work (by simp [free]) quiet, State.request_of_free running free]
    rfl
  case loses =>
    intro c code h s running asks work ordinary holds other quiet earlier
    rw [exec_weirRequest_of_asks asks, State.ask_eq_request work (by simp [holds, other]) quiet,
      State.request_loses running holds earlier ordinary]
    rfl
  case ignored => exact fun c code s ignored => exec_weirRequest_ignored ignored
  case drops => exact fun c code s waits work ordinary => exec_backoffExpiry_drops waits work ordinary
  case retries => exact fun c code s waits work => exec_backoffExpiry_requests waits work
  case calm => exact fun c code s calm => exec_backoffExpiry_of_none calm
  case quantum => exact fun c s quantum holds waits => exec_quantumExpiry_of_waiting quantum holds waits
  case noQuantum => exact fun c s ignored => exec_quantumExpiry_ignored ignored
  case frees =>
    intro c r s holds idle stoppable done quiet earlier noWash noRebuild nothing
    rw [exec_weirRelease_at_checkpoint holds idle stoppable done,
      State.release_frees holds noWash noRebuild nothing earlier quiet]
  case toDebug =>
    intro c r s holds idle stoppable done waits earlier noWash noRebuild other running nothing
    rw [exec_weirRelease_at_checkpoint holds idle stoppable done,
      State.release_to_debug holds noWash noRebuild nothing earlier waits other running]
  case turn => exact fun c s span on mine => ⟨State.carryTurn_begins span on mine, State.carryTurn_ends span on mine⟩
  case carry => exact fun c d s one => State.carry_single one
  case between => exact fun c r s holds busy => exec_weirRelease_between holds busy

/-- Settles O28: the register writes in a core that answers, a keepsake program by its outcome and attempt, the ends of a PPR
program and of a PMIC change by their equations. -/
theorem retireKeepsakesAndProgrammes : Obligations.RetireKeepsakesAndProgrammes := by
  unfold Obligations.RetireKeepsakesAndProgrammes
  refine ⟨⟨?pop, ?clear, ?programmed, ?first, ?again, ?ignored, ?crc⟩, ⟨?ppr, ?pmic, ?nothing⟩⟩
  case pop => exact fun s awake => exec_retirePop_of_awake awake
  case clear => exact fun s awake => exec_ladderClr_of_awake awake
  case programmed =>
    intro o rest s may queue
    rw [exec_keepsakeProgramDone_of_queued (State.mayProgram_iff.mpr may) queue, State.ksDone_true (s := s.programmed) queue]
    simp only [State.programmed]
  case first =>
    intro o rest s may queue first
    rw [exec_keepsakeProgramDone_of_queued (State.mayProgram_iff.mpr may) queue,
      State.ksDone_false_first (s := s.programmed) queue first]
    simp only [State.programmed]
  case again =>
    intro o rest s may queue again
    rw [exec_keepsakeProgramDone_of_queued (State.mayProgram_iff.mpr may) queue,
      State.ksDone_false_again (s := s.programmed) queue again]
    simp only [State.programmed]
  case ignored =>
    exact fun ok s ignored =>
      exec_keepsakeProgramDone_ignored (ignored.imp_left fun barred => by simp [State.mayProgram, barred])
  case crc => exact fun k c gen => Chan.ksRecord_crc k c gen
  case ppr => exact fun c s prog => exec_pprProgramEnd_of_prog prog
  case pmic => exact fun c u s settling current opc target => exec_pmicSettled_of_pmicSet settling current opc target
  case nothing => exact fun c s nothing => State.lateRevoke_of_none nothing

end Sys2Proof.Machine
end

section
/-! SUPPORT. The PLLs of the core and of the channels, and calibration (R356, R385, R474). -/

namespace Sys2Proof.Machine

theorem State.raiseOn_of_ticking {s : State} (src : Nat) (ticks : s.ticking = true) : s.raiseOn src = s.raise src :=
  if_pos ticks

section Pll
variable {s : State} {c : ChanId}

section Unlocked
variable (started : (s.chan c).phy.started = true) (unlocked : (s.chan c).phy.lock = false) (ticks : s.ticking = true)
include started unlocked ticks

theorem exec_channelPllLock_of_unlocked : exec (.channelPllLock c) s = .next (
    let t := s.modChan c fun k => { k with phy := { k.phy with lock := true } }
    if (s.chan c).pwrst = 3 then t.modChan c fun k =>
      { k with sel := k.sel.each fun l => { l with plan := l.plan ++ (s.geom c).exitPlan l.dclk } }
    else t) :=
  congrArg Host.Outcome.next (if_neg (by simp [started, unlocked, ticks]))

theorem exec_channelPllLock_of_not_leaving (stays : (s.chan c).pwrst ≠ 3) :
    exec (.channelPllLock c) s = .next (s.modChan c fun k => { k with phy := { k.phy with lock := true } }) := by
  rw [exec_channelPllLock_of_unlocked started unlocked ticks]
  exact congrArg Host.Outcome.next (if_neg stays)

theorem exec_channelPllLock_of_leaving (leaving : (s.chan c).pwrst = 3) :
    exec (.channelPllLock c) s = .next ((s.modChan c fun k => { k with phy := { k.phy with lock := true } }).modChan c fun k =>
      { k with sel := k.sel.each fun l => { l with plan := l.plan ++ (s.geom c).exitPlan l.dclk } }) := by
  rw [exec_channelPllLock_of_unlocked started unlocked ticks]
  exact congrArg Host.Outcome.next (if_pos leaving)

theorem exec_pllLockTimeout_channel_of_unlocked : exec (.pllLockTimeout (.channel c)) s = .next (s.raiseChan c 23) := by
  have waits : (s.chan c).phy.started = true ∧ (!(s.chan c).phy.lock) = true := by simp [started, unlocked]
  exact congrArg Host.Outcome.next ((if_pos waits).trans (State.raiseOn_of_ticking _ ticks))

end Unlocked

section Locked
variable (started : (s.chan c).phy.started = true) (locked : (s.chan c).phy.lock = true)
include started locked

theorem exec_phyCalDone_of_locked (enabled : s.phyEn c = true) :
    exec (.phyCalDone c) s = .next (s.modChan c fun k => { k with phy := { k.phy with cal := true } }) :=
  congrArg Host.Outcome.next (if_pos (by simp [started, locked, enabled]))

theorem exec_pllUnlock_channel_of_locked : exec (.pllUnlock (.channel c)) s = .next
    ((s.modChan c fun k => { k with failDue := 2, phy := { k.phy with lock := false } }).raiseChan c 23).sweepFails :=
  congrArg Host.Outcome.next (if_pos ⟨started, locked⟩)

end Locked

theorem exec_mirrorInPllLock_of_on (on : s.mill.st ≠ .off) (ticks : s.ticking = true) :
    exec .mirrorInPllLock s = .next { s with mill := { s.mill with wiclk := true } } :=
  congrArg Host.Outcome.next (if_neg (by simp [on, ticks]))

theorem exec_pllUnlock_mirrorIn_of_running (ticks : s.ticking = true) (clk : s.mill.wiclk = true) :
    exec (.pllUnlock .mirrorIn) s = .next (({ s with mill := { s.mill with wiclk := false } }).raise 565) :=
  congrArg Host.Outcome.next ((if_pos clk).trans (State.raiseOn_of_ticking 565 ticks))

end Pll

end Sys2Proof.Machine
end

section
/-! SUPPORT. The I3C bus of a channel, what a finished transfer does, and the module that PMIC_ENABLE has in hand (R225, R353 to
R355, R419). -/

namespace Sys2Proof.Machine

/-! ### The bus -/

/-- Only PMIC writes that the warn decision holds back are passed by (R225). -/
theorem sendFirst_append {warn : Bool} {pre rest : List Xfer} {x : Xfer}
    (held : ∀ y ∈ pre, warn = true ∧ y.use.pmic = true) (goes : warn = false ∨ x.use.pmic = false) :
    sendFirst warn (pre ++ x :: rest) = pre ++ { x with sent := true } :: rest := by
  induction pre with
  | nil =>
    refine if_neg ?_
    obtain calm | other := goes
    · simp [calm]
    · simp [other]
  | cons y pre ih =>
    obtain ⟨⟨warned, pmic⟩, others⟩ := List.forall_mem_cons.mp held
    have stays : (warn && y.use.pmic) = true := by rw [warned, pmic, Bool.and_self]
    exact (if_pos stays).trans (congrArg (y :: ·) (ih others))

theorem Chan.nextXfer_of_busy {k : Chan} (warn : Bool) (busy : k.i3c.any (·.sent) = true) : k.nextXfer warn = k := if_pos busy

theorem Chan.nextXfer_of_free {k : Chan} (warn : Bool) (free : ∀ y ∈ k.i3c, y.sent = false) :
    k.nextXfer warn = { k with i3c := sendFirst warn k.i3c } := if_neg (by simpa using free)

section Bus
variable {s : State} {c : ChanId}

theorem exec_tempPoll_of_polling (awake : s.awake = true) (enabled : flag (s.tempCtl c) 0 = true)
    (powered : (s.chan c).svc.pwrOn = true) :
    exec (.tempPoll c) s = .next (s.askXfers c
      ((s.slots c).flatMap fun slot => [0, 1, 2].map fun t => { slot := slot, target := t, use := .temp })) :=
  congrArg Host.Outcome.next (if_neg (by simp [awake, enabled, powered]))

theorem exec_tempPoll_ignored (ignored : s.awake = false ∨ flag (s.tempCtl c) 0 = false ∨ (s.chan c).svc.pwrOn = false) :
    exec (.tempPoll c) s = .next s := by
  refine congrArg Host.Outcome.next (if_pos ?_)
  obtain asleep | disabled | unpowered := ignored
  · simp [asleep]
  · simp [disabled]
  · simp [unpowered]

theorem exec_i3cTransferDone_of_sent {ack : Bool} {bytes : List Byte} {x : Xfer}
    (sent : (s.chan c).i3c.find? (·.sent) = some x) (awake : s.awake = true) :
    exec (.i3cTransferDone c ack bytes) s = .next (
      let t := s.modChan c fun k => { k with i3c := k.i3c.filter fun x => !x.sent }
      ((((if ack then t else t.raiseChan c 15).xferDone c x ack bytes).askXfers c []).after c).slumberStep) := by
  change execI3cTransferDone c ack bytes s = _
  simp [execI3cTransferDone, sent, awake]

theorem exec_i3cTransferDone_ignored {ack : Bool} {bytes : List Byte}
    (ignored : (∀ x ∈ (s.chan c).i3c, x.sent = false) ∨ s.awake = false) :
    exec (.i3cTransferDone c ack bytes) s = .next s := by
  change execI3cTransferDone c ack bytes s = _
  cases sent : (s.chan c).i3c.find? (·.sent) with
  | none => simp only [execI3cTransferDone, sent]
  | some x =>
    have asleep : s.awake = false := ignored.resolve_left fun free => by
      simpa [free x (List.mem_of_find?_eq_some sent)] using List.find?_some sent
    simp [execI3cTransferDone, sent, asleep]

/-! ### Ends of transfers -/

theorem State.xferDone_i3cRead {x : Xfer} {u : Cur} (ack : Bool) (bytes : List Byte) (use : x.use = .i3cRead)
    (current : s.cmp.cur = some u) (opc : u.opc = 0x12) (target : u.ch = c) :
    s.xferDone c x ack bytes =
      if ack then s.replyCur stOk 0 (byteWords (bytes.take x.len) 12) else s.replyCur stFailed 14 [] := by
  simp [State.xferDone, use, current, opc, target]

theorem State.xferDone_pmicSet_acknowledged {x : Xfer} (bytes : List Byte) (use : x.use = .pmicSet) :
    s.xferDone c x true bytes = s.modChan c fun k => { k with settling := true } := by
  simp [State.xferDone, use]

/-- R355: HOT rises at HOT_C, falls 2 °C below it and keeps its level between them; source 16 is raised as it rises. -/
theorem State.readTemp_eq (s : State) (c : ChanId) (x : Fin 2) (t : Nat) :
    let hotC := field (s.tempCtl c) 16 9
    let now := if flag (s.tempCtl c) 0 = false then (s.chan c).hot.at x
      else if hotC ≤ t then true else if t + 2 ≤ hotC then false else (s.chan c).hot.at x
    s.readTemp c x t = (
      let u := s.modChan c fun k =>
        { k with t0 := if x = 0 then min 255 t else k.t0, t1 := if x = 1 then min 255 t else k.t1, hot := k.hot.put x now }
      if now = true ∧ (s.chan c).hot.at x = false then u.raiseChan c 16 else u) := by
  simp only [State.readTemp, Bool.and_eq_true, Bool.not_eq_true']

/-! ### PMIC_ENABLE -/

section Enable
variable {slot1 good : Bool} {j : Fin 8} {slot : Nat} {rest : List (ChanId × Nat)}

theorem exec_pmicEnableSpacing_of_job (job : ((List.finRange 8).find? fun j => (s.job j).runs 0x13) = some j) :
    exec (.pmicEnableSpacing c slot1 good) s = .next (s.enableStep j c slot1 good) := by
  change execPmicEnableSpacing c slot1 good s = _
  simp only [execPmicEnableSpacing, job]

theorem exec_pmicEnableSpacing_of_none (idle : ((List.finRange 8).find? fun j => (s.job j).runs 0x13) = none) :
    exec (.pmicEnableSpacing c slot1 good) s = .next s := by
  change execPmicEnableSpacing c slot1 good s = _
  simp only [execPmicEnableSpacing, idle]

theorem State.enableStep_in_hand (hand : (s.job j).todo = (c, slot) :: rest) (same : (slot == 1) = slot1) :
    s.enableStep j c slot1 good =
      if (s.job j).flag then (if s.sbm.warn then s else s.enabled j c)
      else if good = true ∧ (s.chan c).svc.pwrOn = true then s.modJob j fun b => { b with flag := true }
      else if (s.job j).polls + 1 < 10 then s.modJob j fun b => { b with polls := b.polls + 1 }
      else if s.sbm.warn then s
      else s.givenUp j c slot := by
  have mine : ¬(c ≠ c ∨ (slot == 1) ≠ slot1) := by simp [same]
  simp only [State.enableStep, hand, Bool.and_eq_true]
  exact if_neg mine

end Enable

end Bus

end Sys2Proof.Machine
end

section
/-! CERTIFICATE. PLLs and calibration; the I3C bus, temperatures and PMIC_ENABLE. -/

namespace Sys2Proof.Machine

/-- Settles O29, by what each PLL command does to a PLL in the state that the clause names. -/
theorem pllsAndCalibration : Obligations.PllsAndCalibration := by
  unfold Obligations.PllsAndCalibration
  refine ⟨?lock, ?exit, ?calibrate, ?mirrorIn, ?core, ?timeout, ?unlock, ?mirrorLoss⟩
  case lock => exact fun c s started unlocked ticks stays => exec_channelPllLock_of_not_leaving started unlocked ticks stays
  case exit => exact fun c s started unlocked ticks leaving => exec_channelPllLock_of_leaving started unlocked ticks leaving
  case calibrate => exact fun c s started locked enabled => exec_phyCalDone_of_locked started locked enabled
  case mirrorIn => exact fun s on ticks => exec_mirrorInPllLock_of_on on ticks
  case core =>
    intro s ticks
    have source (src : Nat) : Host.Outcome.next (s.raiseOn src) = (.next (s.raise src) : Host.Outcome State Fault Refusal) :=
      congrArg _ (State.raiseOn_of_ticking src ticks)
    exact ⟨source 564, source 565, source 564, source 565⟩
  case timeout => exact fun c s ticks started unlocked => exec_pllLockTimeout_channel_of_unlocked started unlocked ticks
  case unlock => exact fun c s started locked => exec_pllUnlock_channel_of_locked started locked
  case mirrorLoss => exact fun s ticks clk => exec_pllUnlock_mirrorIn_of_running ticks clk

/-- Settles O30: the bus by the transfer that goes next and the one under way, a reading by its equation, and PMIC_ENABLE by the
step of the module in hand. -/
theorem i3cAndPmicEnable : Obligations.I3cAndPmicEnable := by
  unfold Obligations.I3cAndPmicEnable
  refine ⟨⟨?poll, ?unpolled, ?busy, ?next, ?done, ?quiet, ?reading, ?read, ?set⟩, ⟨?enable, ?none⟩⟩
  case poll => exact fun c s awake enabled powered => exec_tempPoll_of_polling awake enabled powered
  case unpolled => exact fun c s ignored => exec_tempPoll_ignored ignored
  case busy => exact fun k warn busy => Chan.nextXfer_of_busy warn busy
  case next =>
    intro k x pre rest warn queue free held goes
    rw [Chan.nextXfer_of_free warn free, queue, sendFirst_append held goes]
  case done => exact fun c ack bytes x s sent awake => exec_i3cTransferDone_of_sent sent awake
  case quiet => exact fun c ack bytes s ignored => exec_i3cTransferDone_ignored ignored
  case reading => exact fun c x t s => State.readTemp_eq s c x t
  case read =>
    intro c bytes x u s use current opc target
    exact ⟨State.xferDone_i3cRead true bytes use current opc target, State.xferDone_i3cRead false bytes use current opc target⟩
  case set => exact fun c bytes x s use => State.xferDone_pmicSet_acknowledged bytes use
  case enable =>
    intro c slot1 good j slot rest s job hand same
    rw [exec_pmicEnableSpacing_of_job job, State.enableStep_in_hand hand same]
  case none => exact fun c slot1 good s idle => exec_pmicEnableSpacing_of_none idle

end Sys2Proof.Machine
end

section
/-! CERTIFICATE. What a step leaves of the stores, and EHOLD; the frame of the housekeeping. -/

namespace Sys2Proof.Machine

/-- Settles O49, by what every step passes on of the state behind the command it takes. -/
theorem stepKeepsStores : Obligations.StepKeepsStores := by
  unfold Obligations.StepKeepsStores
  intro s t h
  have passed := step_passed h
  exact ⟨passed.pending, passed.otp, passed.kf⟩

theorem exec_keeps_ehold {i : Instr} {s t : State} (noRise : i ≠ .aonPowerUp) (noFall : i ≠ .aonPowerLoss)
    (h : exec i s = .next t) (stands : s.fcol.ehold = true) : t.fcol.ehold = true := by
  obtain plain | rfl | rfl | rfl := plain_or_supply_or_row i
  case inl =>
    obtain ⟨u, answer, kept⟩ := exec_kept i s plain
    cases answer.symm.trans h
    exact kept.ehold stands
  case inr.inl => exact absurd rfl noRise
  case inr.inr.inl => exact absurd rfl noFall
  case inr.inr.inr =>
    obtain ⟨u, answer, -, keeps, -⟩ := execBringBackRow_passed s
    cases answer.symm.trans h
    exact keeps stands

/-- Settles O51: the tick of an empty queue keeps EHOLD, and so does every command but the two of the supply. -/
theorem eholdOnlyPowerClears : Obligations.EholdOnlyPowerClears := by
  unfold Obligations.EholdOnlyPowerClears
  intro s t noRise noFall h stands
  cases queue : s.pending with
  | nil =>
    obtain rfl : s.tick = t := by simpa [step, queue] using h
    exact s.tick_kept.ehold stands
  | cons i rest =>
    simp only [step, queue] at h
    simp only [queue, List.head?_cons, ne_eq, Option.some.injEq] at noRise noFall
    exact exec_keeps_ehold noRise noFall h stands

/-- Settles O52, by the one relation that all the housekeeping keeps. -/
theorem housekeepingFrame : Obligations.HousekeepingFrame := by
  unfold Obligations.HousekeepingFrame
  intro s t h
  have tame : Tame s t := by
    obtain settled | swept | mirrored | ⟨c, after⟩ | ⟨p, after⟩ := h
    · exact settled ▸ s.settleAll_tame
    · exact swept ▸ s.sweepFails_tame
    · exact mirrored ▸ s.miAfter_tame
    · exact after ▸ s.after_tame c
    · exact after ▸ s.portAfter_tame p
  obtain ⟨pending, phase, tide, otp, cad, live, cinch, posted, fstat, fseq, safe, ehold, lines, cur, strobe, dur, mill, busy,
    refused, sbm, boot, kf, circ⟩ := tame
  exact ⟨pending, phase, tide, otp, cad, live, cinch, posted, fstat, fseq, safe, ehold, lines, cur, strobe, dur, mill, busy,
    refused, sbm, boot, kf, circ⟩

end Sys2Proof.Machine
end

section
/-! SUPPORT. Buttons, presence and sled power (R368, R369, R371, R380). -/

namespace Sys2Proof.Machine

section Presence
variable {s : State} {c : ChanId}

section Powered
variable (powered : (s.chan c).svc.pwrOn = true)
include powered

theorem exec_presenceLoss_of_ticking (ticks : s.ticking = true) :
    exec (.presenceLoss c) s = .next (((s.sever c 1).raiseChan c 18).sweepFails).slumberStep :=
  congrArg Host.Outcome.next ((if_neg (by simp [powered])).trans (if_pos ticks))

theorem exec_presenceLoss_of_stopped (stopped : s.ticking = false) :
    exec (.presenceLoss c) s = .next (s.sbmSever c) :=
  congrArg Host.Outcome.next ((if_neg (by simp [powered])).trans (if_neg (by simp [stopped])))

end Powered

theorem exec_presenceLoss_of_unpowered (unpowered : (s.chan c).svc.pwrOn = false) : exec (.presenceLoss c) s = .next s :=
  congrArg Host.Outcome.next (if_pos (by simp [unpowered]))

theorem exec_sledPowerOn_of_waiting (on : s.phase ≠ .off) (lowest : allChans.find? s.waitsPower = some c) :
    exec .sledPowerOn s = .next (s.powerOn c) := by
  change execSledPowerOn s = _
  simp only [execSledPowerOn, if_neg on, lowest]

theorem exec_sledPowerOn_ignored (ignored : s.phase = .off ∨ ∀ c, s.waitsPower c = false) :
    exec .sledPowerOn s = .next s := by
  change execSledPowerOn s = _
  by_cases off : s.phase = .off
  · simp only [execSledPowerOn, if_pos off]
  · have nobody : allChans.find? s.waitsPower = none :=
      List.find?_eq_none.mpr fun c _ => Bool.eq_false_iff.mp (ignored.resolve_left off c)
    simp only [execSledPowerOn, if_neg off, nobody]

end Presence

end Sys2Proof.Machine
end

section
/-! CERTIFICATE. Buttons, presence and sled power. -/

namespace Sys2Proof.Machine

/-- Settles O31, by whether the always-on supply stands, the sled has power and the core runs. -/
theorem buttonsAndPresence : Obligations.ButtonsAndPresence := by
  unfold Obligations.ButtonsAndPresence
  refine ⟨?press, ?pressOff, ?change, ?same, ?lossRuns, ?lossStopped, ?lossUnpowered, ?power, ?noPower⟩
  case press => exact fun c s on => congrArg Host.Outcome.next (if_neg on)
  case pressOff => exact fun c s off => congrArg Host.Outcome.next (if_pos off)
  case change =>
    exact fun c present s on changed => congrArg Host.Outcome.next (if_neg (by simp [on, changed]))
  case same => exact fun c present s ignored => congrArg Host.Outcome.next (if_pos ignored)
  case lossRuns => exact fun c s powered ticks => exec_presenceLoss_of_ticking powered ticks
  case lossStopped => exact fun c s powered stopped => exec_presenceLoss_of_stopped powered stopped
  case lossUnpowered => exact fun c s unpowered => exec_presenceLoss_of_unpowered unpowered
  case power => exact fun c s on lowest => exec_sledPowerOn_of_waiting on lowest
  case noPower => exact fun s ignored => exec_sledPowerOn_ignored ignored

end Sys2Proof.Machine
end

section
/-! SUPPORT. CORE_RST_N (R482) and what core reset leaves as it is (R397, R436). -/

namespace Sys2Proof.Machine

section Reset
variable {s : State}

theorem exec_coreRst_enters (supplied : s.supplied = true) (notHeld : s.phase ≠ .held)
    (ends : s.pers.strobe = false ∨ s.pers.done = true) :
    exec .coreRst s = .next ({ s with sbm := { s.sbm with rstLow := true } }).enterReset := by
  have noSluice : ¬(s.pers.strobe && !s.pers.done) = true := by
    obtain calm | done := ends
    · simp [calm]
    · simp [done]
  exact congrArg Host.Outcome.next ((if_neg (by simp [supplied, notHeld])).trans (if_neg noSluice))

theorem exec_coreRst_waits (supplied : s.supplied = true) (notHeld : s.phase ≠ .held) (strobed : s.pers.strobe = true)
    (running : s.pers.done = false) :
    exec .coreRst s = .next { s with sbm := { s.sbm with rstLow := true, rstPend := true } } :=
  congrArg Host.Outcome.next ((if_neg (by simp [supplied, notHeld])).trans (if_pos (by simp [strobed, running])))

theorem exec_coreResetTimeout_of_pending (strobed : s.pers.strobe = true)
    (pending : s.fcol.corePend = true ∨ s.sbm.rstPend = true) : exec .coreResetTimeout s = .next s.enterReset :=
  congrArg Host.Outcome.next (if_pos (by simpa [strobed] using pending))

end Reset

end Sys2Proof.Machine
end

section
/-! CERTIFICATE. CORE_RST_N, core reset and what it leaves. -/

namespace Sys2Proof.Machine

/-- Settles O19, by the phase and the sluice in which the pin is found; what core reset leaves and what it takes back stand in its
definition. -/
theorem coreResetPin : Obligations.CoreResetPin := by
  unfold Obligations.CoreResetPin
  refine ⟨?enters, ?waits, ?restarts, ?rises, ?timeout, ?leaves⟩
  case enters => exact fun s supplied notHeld ends => exec_coreRst_enters supplied notHeld ends
  case waits => exact fun s supplied notHeld strobed running => exec_coreRst_waits supplied notHeld strobed running
  case restarts => exact fun s held => congrArg Host.Outcome.next (if_pos held)
  case rises => exact fun s notHeld => congrArg Host.Outcome.next (if_neg notHeld)
  case timeout => exact fun s strobed pending => exec_coreResetTimeout_of_pending strobed pending
  case leaves => exact fun s => ⟨rfl, rfl, rfl, rfl, rfl, rfl, rfl, rfl, rfl, rfl⟩

end Sys2Proof.Machine
end

section
/-! SUPPORT. The gate of a prepare and of an entry to IDLE (R375, R383), power-off at step 6 of a prepare, and the wake of an IDLE
channel (R384). -/

namespace Sys2Proof.Machine

/-! ### A gate is reached -/

section Gate
variable {s : State} {c : ChanId} {g : Nat}

theorem State.gate_mem_dues (gate : (s.chan c).gate = some g) : g ∈ s.dues := by
  have listed : g ∈ allChans.filterMap fun c => (s.chan c).gate := List.mem_filterMap.mpr ⟨c, List.mem_finRange c, gate⟩
  simp only [State.dues, List.mem_append]
  exact .inl (.inr listed)

section Due
variable (gate : (s.chan c).gate = some g) (ticks : s.ticking = true) (ahead : s.tide < g) (first : ∀ d ∈ s.dues, g ≤ d)
include gate ticks ahead first

theorem exec_prepareGate_launches (preparing : (s.chan c).svc.st = 3) : exec (.prepareGate c) s = .next (s.launch g []) := by
  change Host.Outcome.next (s.await (if (s.chan c).svc.st = 3 then (s.chan c).gate else none)) = _
  rw [if_pos preparing, gate, State.await_launch s g ticks ahead (State.gate_mem_dues gate) first]

theorem exec_idleGate_launches (entering : (s.chan c).pwrst = 1) : exec (.idleGate c) s = .next (s.launch g []) := by
  change Host.Outcome.next (s.await (if (s.chan c).pwrst = 1 then (s.chan c).gate else none)) = _
  rw [if_pos entering, gate, State.await_launch s g ticks ahead (State.gate_mem_dues gate) first]

end Due

theorem exec_prepareGate_ignored (ignored : (s.chan c).svc.st ≠ 3 ∨ (s.chan c).gate = none) :
    exec (.prepareGate c) s = .next s := by
  have noGate : (if (s.chan c).svc.st = 3 then (s.chan c).gate else none) = none := by
    obtain other | none := ignored
    · exact if_neg other
    · rw [none, ite_self]
  exact congrArg (fun T => Host.Outcome.next (s.await T)) noGate

theorem exec_idleGate_ignored (ignored : (s.chan c).pwrst ≠ 1 ∨ (s.chan c).gate = none) : exec (.idleGate c) s = .next s := by
  have noGate : (if (s.chan c).pwrst = 1 then (s.chan c).gate else none) = none := by
    obtain other | none := ignored
    · exact if_neg other
    · rw [none, ite_self]
  exact congrArg (fun T => Host.Outcome.next (s.await T)) noGate

theorem State.gateDue_none (h : (s.chan c).gate = none) : s.gateDue c = s := by
  simp only [State.gateDue, h]

theorem State.gateDue_reached (gate : (s.chan c).gate = some g) (reached : g ≤ s.tide) : s.gateDue c = s.passGate c := by
  simp only [State.gateDue, gate, if_pos reached]

/-- The channels in order, those before one of them apart. -/
theorem allChans_split (c : ChanId) : allChans = allChans.take c.val ++ c :: allChans.drop (c.val + 1) := by
  revert c
  decide

theorem val_lt_of_mem_take {c n : ChanId} (h : n ∈ allChans.take c.val) : n.val < c.val := by
  obtain ⟨i, hi, rfl⟩ := List.getElem_of_mem h
  simp only [List.length_take, allChans, List.length_finRange] at hi
  simp only [allChans, List.getElem_take, List.getElem_finRange, Fin.val_cast]
  omega

theorem foldl_gateDue_none (l : List ChanId) (h : ∀ n ∈ l, (s.chan n).gate = none) : l.foldl State.gateDue s = s := by
  induction l with
  | nil => rfl
  | cons n l ih =>
    obtain ⟨head, tail⟩ := List.forall_mem_cons.mp h
    rw [List.foldl_cons, State.gateDue_none head]
    exact ih tail

/-- Gates are passed in the order of the channels: of those reached, the lowest channel's is the first. -/
theorem State.gates_from (gate : (s.chan c).gate = some g) (reached : g ≤ s.tide)
    (lowest : ∀ n, n.val < c.val → (s.chan n).gate = none) :
    s.gates = (allChans.drop (c.val + 1)).foldl State.gateDue (s.passGate c) := by
  unfold State.gates
  conv_lhs => rw [allChans_split c]
  rw [List.foldl_append, foldl_gateDue_none _ fun n hn => lowest n (val_lt_of_mem_take hn), List.foldl_cons,
    State.gateDue_reached gate reached]

/-- A launch at which gates alone are due. -/
theorem State.launch_gates (ahead : s.tide < g) (noMark : g % 4096 ≠ 0)
    (slots : ∀ k n, s.cad.next.at k = some n → g + 1024 < n) (posted : ∀ e ∈ s.cad.posted, g < e.at_)
    (updates : s.regs.posted = []) (armed : s.regs.atPend = false) :
    s.launch g [] = (s.advance g).gates.settleAll.sweepFails := by
  obtain ⟨tide, cad, -, updates', armed', -⟩ := State.advance_frame s g ahead
  rw [State.launch_no_slot ahead noMark posted, State.takeUpdates_none _ (updates'.trans updates),
    State.posts_none _ (by rwa [tide, cad]) (armed'.trans armed), State.allSlots_none (by rwa [tide, cad])]

/-- A launch at the gate of the lowest channel that has one, gates alone being due. -/
theorem State.launch_gate (gate : (s.chan c).gate = some g) (ahead : s.tide < g) (noMark : g % 4096 ≠ 0)
    (lowest : ∀ n, n.val < c.val → (s.chan n).gate = none)
    (slots : ∀ k n, s.cad.next.at k = some n → g + 1024 < n) (posted : ∀ e ∈ s.cad.posted, g < e.at_)
    (updates : s.regs.posted = []) (armed : s.regs.atPend = false) :
    s.launch g [] =
      ((allChans.drop (c.val + 1)).foldl State.gateDue ((s.advance g).passGate c)).settleAll.sweepFails := by
  obtain ⟨tide, -, -, -, -, gates⟩ := State.advance_frame s g ahead
  rw [State.launch_gates ahead noMark slots posted updates armed,
    State.gates_from ((gates c).trans gate) (Nat.le_of_eq tide.symm) fun n hn => (gates n).trans (lowest n hn)]

/-- The passing of time changes nothing of a channel but how long its sled's power still takes to fall. -/
theorem State.advance_chan (ahead : s.tide < g) (n : ChanId) :
    (s.advance g).chan n = { s.chan n with svc := { (s.chan n).svc with fall := (s.chan n).svc.fall - (g - s.tide) } } := by
  rw [State.advance_lt s g ahead]
  obtain ⟨-, -, -, chans, -, -⟩ := State.landHeld_frame (({ s with tide := g } : State).nextCclk)
  simp only [State.sledFalls, State.chan, Tab.at_each, chans]
  rfl

end Gate

/-! ### Step 6 of a prepare, and the wake -/

section Wake
variable {s : State} {c : ChanId}

theorem exec_preparePowerOff_of_drained (preparing : (s.chan c).svc.st = 3) (step : (s.chan c).prepStep = 5) :
    exec (.preparePowerOff c) s = .next (
      let t := s.modChan c fun k =>
        { k with prepStep := 7, forceOff := true, schOn := false, pwrst := 0
                 svc := { k.svc with st := 4, pwrOn := false, req := false } }
      (t.leds c 2 0 true).askKs c .prepare) :=
  congrArg Host.Outcome.next (if_neg (by simp [preparing, step]))

theorem exec_idleWake_ignored (ignored : s.calls c = false ∨ (s.chan c).dead = true ∨ s.pers.strobe = true) :
    exec (.idleWake c) s = .next s := by
  refine congrArg Host.Outcome.next (if_pos ?_)
  obtain quiet | dead | strobed := ignored
  · simp [quiet]
  · simp [dead]
  · simp [strobed]

section Called
variable (alive : (s.chan c).dead = false) (calm : s.pers.strobe = false) (called : s.calls c = true)
include alive calm called

theorem exec_idleWake_in_idle (idle : (s.chan c).pwrst = 2) : exec (.idleWake c) s = .next (s.beginExit c) :=
  congrArg Host.Outcome.next ((if_neg (by simp [alive, calm, called])).trans (if_pos idle))

theorem exec_idleWake_entering (entering : (s.chan c).pwrst = 1) (past : (s.chan c).drain = .idle) :
    exec (.idleWake c) s = .next (s.leaveEntry c) :=
  congrArg Host.Outcome.next ((if_neg (by simp [alive, calm, called])).trans
    ((if_neg (by simp [entering])).trans (if_pos ⟨entering, past⟩)))

end Called
end Wake

end Sys2Proof.Machine
end

section
/-! CERTIFICATE. The gates of a prepare and of an entry to IDLE, and the exit on a request. -/

namespace Sys2Proof.Machine

/-- Settles O32: a gate by the launch at its tide value, in which the gates are passed from the lowest channel on; the wake by the
stage of IDLE in which it finds the channel. -/
theorem prepareAndIdle : Obligations.PrepareAndIdle := by
  unfold Obligations.PrepareAndIdle
  refine ⟨?prepare, ?prepared, ?noPrepare, ?off, ?noOff, ?idle, ?idled, ?noIdle, ?exit, ?remembered, ?aborted, ?ignored⟩
  case prepare =>
    exact fun c g s gate preparing ticks ahead first => exec_prepareGate_launches gate ticks ahead first preparing
  case prepared =>
    rintro c g s v gate preparing ticks ahead first noMark lowest slots posted updates armed rfl
    have preparing' : ((s.advance g).chan c).svc.st = 3 := by rw [State.advance_chan ahead, ← preparing]
    rw [exec_prepareGate_launches gate ticks ahead first preparing,
      State.launch_gate gate ahead noMark lowest slots posted updates armed, State.passGate, if_pos preparing']
    rfl
  case noPrepare => exact fun c s ignored => exec_prepareGate_ignored ignored
  case off => exact fun c s preparing step => exec_preparePowerOff_of_drained preparing step
  case noOff => exact fun c s ignored => congrArg Host.Outcome.next (if_pos ignored)
  case idle => exact fun c g s gate entering ticks ahead first => exec_idleGate_launches gate ticks ahead first entering
  case idled =>
    rintro c g s v gate entering other ticks ahead first noMark lowest slots posted updates armed rfl
    have entering' : ((s.advance g).chan c).pwrst = 1 := by rw [State.advance_chan ahead, ← entering]
    have other' : ((s.advance g).chan c).svc.st ≠ 3 := by rwa [State.advance_chan ahead]
    rw [exec_idleGate_launches gate ticks ahead first entering,
      State.launch_gate gate ahead noMark lowest slots posted updates armed, State.passGate, if_neg other', if_pos entering']
    rfl
  case noIdle => exact fun c s ignored => exec_idleGate_ignored ignored
  case exit => exact fun c s alive calm called idle => exec_idleWake_in_idle alive calm called idle
  case remembered =>
    intro c s alive calm called entering past issued
    rw [exec_idleWake_entering alive calm called entering past, State.leaveEntry, if_pos issued]
  case aborted =>
    intro c s alive calm called entering past unissued
    rw [exec_idleWake_entering alive calm called entering past, State.leaveEntry, if_neg (Bool.eq_false_iff.mp unissued)]
  case ignored => exact fun c s ignored => exec_idleWake_ignored ignored

end Sys2Proof.Machine
end

section
/-! SUPPORT. The rule table (R390, R391), the commit window (R387) and the polls of SLUMBER (R389). -/

namespace Sys2Proof.Machine

/-! ### The rule that acts -/

theorem findSome?_ite {α β : Type} (p : α → Bool) (g : α → β) (l : List α) :
    (l.findSome? fun x => if p x then some (g x) else none) = (l.find? p).map g := by
  induction l with
  | nil => rfl
  | cons x l ih =>
    rw [List.findSome?_cons, List.find?_cons, ih]
    cases p x <;> rfl

section Rules
variable {s : State} {cls ch v k act : Nat}

/-- The rule that an event hits is the lowest of the 32 that matches it (R390). -/
theorem State.ruleHit_spec (hit : s.ruleHit cls ch v = some (k, act)) :
    k < 32 ∧ ruleMatches (s.prog (0x6200 + 4 * k)) cls ch v = true ∧ act = field (s.prog (0x6200 + 4 * k)) 18 17 ∧
    ∀ j, j < k → ruleMatches (s.prog (0x6200 + 4 * j)) cls ch v = false := by
  have found := (findSome?_ite (fun k => ruleMatches (s.prog (0x6200 + 4 * k)) cls ch v)
    (fun k => (k, field (s.prog (0x6200 + 4 * k)) 18 17)) (List.range 32)).symm.trans hit
  obtain ⟨i, first, pair⟩ := Option.map_eq_some_iff.mp found
  obtain ⟨rfl, rfl⟩ := Prod.mk.inj pair
  obtain ⟨hits, mem, before⟩ := List.find?_range_eq_some.mp first
  exact ⟨List.mem_range.mp mem, hits, rfl, fun j hj => by simpa using before j hj⟩

theorem State.ruleEvent_ignored
    (ignored : s.sbm.eval = false ∨ s.ruleHit cls ch v = none ∨ ∃ k, s.ruleHit cls ch v = some (k, 0)) :
    s.ruleEvent cls ch v = s := by
  cases eval : s.sbm.eval with
  | false => simp [State.ruleEvent, eval]
  | true =>
    obtain unused | none | ⟨k, nothing⟩ := ignored
    · simp [eval] at unused
    · simp [State.ruleEvent, eval, none]
    · simp [State.ruleEvent, eval, nothing]

theorem State.raiseOn_phase (s : State) (src : Nat) : (s.raiseOn src).phase = s.phase := by
  unfold State.raiseOn
  split <;> rfl

theorem State.alarmOn_phase (s : State) : s.alarmOn.phase = s.phase := by
  unfold State.alarmOn
  split
  · rfl
  · exact State.raiseOn_phase ..

theorem State.alarmOn_of_off (off : s.sbm.alarm = false) :
    s.alarmOn = ({ s with sbm := { s.sbm with alarm := true } }).raiseOn 566 := if_neg (by simp [off])

theorem State.alarmOn_of_on (on : s.sbm.alarm = true) : s.alarmOn = s := if_pos on

section Evaluated
variable (eval : s.sbm.eval = true)
include eval

theorem State.ruleEvent_alarms (hit : s.ruleHit cls ch v = some (k, 2)) : s.ruleEvent cls ch v = s.alarmOn := by
  simp [State.ruleEvent, eval, hit]

theorem State.ruleEvent_wakes (asleep : s.phase = .slumber) (hit : s.ruleHit cls ch v = some (k, 1)) :
    s.ruleEvent cls ch v = s.wake k cls ch := by
  simp [State.ruleEvent, eval, hit, asleep]

theorem State.ruleEvent_wakes_with_alarm (asleep : s.phase = .slumber) (hit : s.ruleHit cls ch v = some (k, 3)) :
    s.ruleEvent cls ch v = s.alarmOn.wake k cls ch := by
  simp [State.ruleEvent, eval, hit, State.alarmOn_phase, asleep]

end Evaluated

theorem State.levelEvents_of_no_pin (high : s.sbm.wakeLow = 0) :
    s.levelEvents = (
      let t : State := { s with freeIx := s.freeIx + 1 }
      let t := if t.sbm.warn then t.ruleEvent 7 0 0 else t
      if t.sbm.crit then t.ruleEvent 7 0 1 else t) := by
  simp [State.levelEvents, high]

end Rules

/-! ### The commands -/

section Slumber
variable {s : State}

theorem State.ctl_of_asleep (f : State → State) (asleep : s.awake = false) : s.ctl f = s := if_neg (by simp [asleep])

theorem State.slumberStep_of_not_on (notOn : s.phase ≠ .on) : s.slumberStep = s := by
  unfold State.slumberStep
  split
  · rfl
  · exact if_pos (.inr notOn)

theorem exec_slumberCommit_of_commit (window : s.phase = .commit) :
    exec .slumberCommit s = .next (
      let t := s.coreReset
      let t : State := { t with phase := .slumber, sbm := { t.sbm with
        powerReq := false, corePg := false, rstPend := false, lastPoll := Tab.all 20 none } }
      let t := t.levelEvents
      { t with sbm := { t.sbm with wakeLow := 0 } }) := by
  change execSlumberCommit s = _
  have noStep : s.slumberStep = s := State.slumberStep_of_not_on (by simp [window])
  have inWindow : ¬s.phase ≠ .commit := not_not_intro window
  simp only [execSlumberCommit, noStep, if_neg inWindow]

theorem exec_wakePin_of_not_commit (n : Fin 2) (noWindow : s.phase ≠ .commit) :
    exec (.wakePin n) s = .next (s.ruleEvent 1 n.val 0) :=
  congrArg (fun t : State => Host.Outcome.next (t.ruleEvent 1 n.val 0)) (if_neg noWindow)

theorem exec_wakePin_of_commit (n : Fin 2) (window : s.phase = .commit) :
    exec (.wakePin n) s = .next (({ s with sbm := { s.sbm with
      wakeLow := s.sbm.wakeLow ||| BitVec.ofNat 2 (2 ^ n.val) } }).ruleEvent 1 n.val 0) :=
  congrArg (fun t : State => Host.Outcome.next (t.ruleEvent 1 n.val 0)) (if_pos window)

section Poll
variable {c : ChanId} {temp : Nat}

theorem exec_sbmTempPoll_ignored {ack : Bool} (ignored : s.phase ≠ .slumber ∨ (s.chan c).phy.level ≠ 2) :
    exec (.sbmTempPoll c ack temp) s = .next s := congrArg Host.Outcome.next (if_pos ignored)

section Retained
variable (asleep : s.phase = .slumber) (retained : (s.chan c).phy.level = 2)
include asleep retained

theorem exec_sbmTempPoll_reads_again {last : Nat} (read : s.sbm.lastPoll.at c = some (some last)) :
    exec (.sbmTempPoll c true temp) s = .next (({ s with sbm := { s.sbm with
      lastPoll := s.sbm.lastPoll.put c (some (some temp)) } }).ruleEvent 5 c.val (min last temp)) := by
  change execSbmTempPoll c true temp s = _
  simp [execSbmTempPoll, asleep, retained, read]

theorem exec_sbmTempPoll_fails_again (failed : s.sbm.lastPoll.at c = some none) :
    exec (.sbmTempPoll c false temp) s = .next (({ s with sbm := { s.sbm with
      lastPoll := s.sbm.lastPoll.put c (some none) } }).ruleEvent 6 c.val 0) := by
  change execSbmTempPoll c false temp s = _
  simp [execSbmTempPoll, asleep, retained, failed]

theorem exec_sbmTempPoll_kept {ack : Bool}
    (alone : s.sbm.lastPoll.at c = none ∨ (ack = true ∧ s.sbm.lastPoll.at c = some none) ∨
      (ack = false ∧ ∃ last, s.sbm.lastPoll.at c = some (some last))) :
    exec (.sbmTempPoll c ack temp) s = .next { s with sbm := { s.sbm with
      lastPoll := s.sbm.lastPoll.put c (some (if ack then some temp else none)) } } := by
  change execSbmTempPoll c ack temp s = _
  obtain noneBefore | ⟨rfl, failed⟩ | ⟨rfl, last, read⟩ := alone
  · simp [execSbmTempPoll, asleep, retained, noneBefore]
  · simp [execSbmTempPoll, asleep, retained, failed]
  · simp [execSbmTempPoll, asleep, retained, read]

end Retained
end Poll
end Slumber

end Sys2Proof.Machine
end

section
/-! CERTIFICATE. SLUMBER, the wake rules and the alarm. -/

namespace Sys2Proof.Machine

/-- Settles O33: an event by the rule that it hits and that rule's ACT; a poll by the two in a row. -/
theorem slumberAndWake : Obligations.SlumberAndWake := by
  unfold Obligations.SlumberAndWake
  refine ⟨?commit, ?goesOn, ?levels, ?pin, ?pinKept, ?pulse, ?unused, ?pulseWakes, ?wakes, ?wakesAlarmed, ?wake, ?alarms,
    ?alarmRises, ?alarmStands, ?nothing, ?lowest, ?readAgain, ?failAgain, ?kept, ?notPolled, ?clear, ?silent⟩
  case commit => exact fun s window => exec_slumberCommit_of_commit window
  case goesOn => exact fun s noWindow => congrArg Host.Outcome.next (if_pos noWindow)
  case levels => exact fun s high => State.levelEvents_of_no_pin high
  case pin => exact fun n s noWindow => exec_wakePin_of_not_commit n noWindow
  case pinKept => exact fun n s window => exec_wakePin_of_commit n window
  case pulse => exact fun s => rfl
  case unused =>
    intro n s unused noWindow
    rw [exec_wakePin_of_not_commit n noWindow, State.ruleEvent_ignored (.inl unused)]
    exact ⟨rfl, congrArg Host.Outcome.next (State.ruleEvent_ignored (.inl unused))⟩
  case pulseWakes => exact fun k s eval asleep hit => congrArg Host.Outcome.next (State.ruleEvent_wakes eval asleep hit)
  case wakes => exact fun cls ch v k s eval asleep hit => State.ruleEvent_wakes eval asleep hit
  case wakesAlarmed => exact fun cls ch v k s eval asleep hit => State.ruleEvent_wakes_with_alarm eval asleep hit
  case wake => exact fun k cls ch s => rfl
  case alarms => exact fun cls ch v k s eval hit => State.ruleEvent_alarms eval hit
  case alarmRises => exact fun s off => State.alarmOn_of_off off
  case alarmStands => exact fun s on => State.alarmOn_of_on on
  case nothing => exact fun cls ch v s ignored => State.ruleEvent_ignored ignored
  case lowest => exact fun cls ch v k act s hit => State.ruleHit_spec hit
  case readAgain => exact fun c temp last s asleep retained read => exec_sbmTempPoll_reads_again asleep retained read
  case failAgain => exact fun c temp s asleep retained failed => exec_sbmTempPoll_fails_again asleep retained failed
  case kept => exact fun c ack temp s asleep retained alone => exec_sbmTempPoll_kept asleep retained alone
  case notPolled => exact fun c ack temp s ignored => exec_sbmTempPoll_ignored ignored
  case clear => exact fun s awake => congrArg Host.Outcome.next (State.ctl_of_awake State.dropAlarm awake)
  case silent => exact fun s asleep => congrArg Host.Outcome.next (State.ctl_of_asleep State.dropAlarm asleep)

end Sys2Proof.Machine
end

section
/-! SUPPORT. CORE_PG at its limit (R395). -/

namespace Sys2Proof.Machine

section Rows
variable {s : State}

theorem exec_corePgTimeout_of_low (row : s.phase = .bring 3) (low : s.sbm.corePg = false) :
    exec .corePgTimeout s = .next ({ s with
      phase := .slumber
      sbm := { s.sbm with powerReq := false, eval := true, lastPoll := Tab.all 20 none, wakeCause := { s.sbm.wakeCause with
        fail := true, seq := nextSeq s.sbm.wakeCause.seq } } }).levelEvents :=
  congrArg Host.Outcome.next (if_pos (by simp [row, low]))

end Rows

end Sys2Proof.Machine
end

section
/-! CERTIFICATE. The always-on supply and the rows of the bring-back table. -/

namespace Sys2Proof.Machine

/-- Settles O34, by the phase that the supply's commands and a row's end find. -/
theorem bringBack : Obligations.BringBack := by
  unfold Obligations.BringBack
  refine ⟨?rises, ?stands, ?falls, ?row1, ?row2, ?row3, ?row4, ?row5, ?row6, ?row7, ?corePg, ?timeout⟩
  case rises => exact fun s off => congrArg Host.Outcome.next (if_pos off)
  case stands => exact fun s on => congrArg Host.Outcome.next (if_neg on)
  case falls => exact fun s => rfl
  case row1 | row2 | row3 | row4 | row5 | row6 =>
    intro s row
    change execBringBackRow s = _
    simp only [execBringBackRow, row]
  case row7 =>
    intro s row
    change execBringBackRow s = _
    simp only [execBringBackRow, row, State.bringDone]
  case corePg => exact fun s row => congrArg Host.Outcome.next (if_pos row)
  case timeout => exact fun s row low => exec_corePgTimeout_of_low row low

end Sys2Proof.Machine
end

section
/-! SUPPORT. The latch of the fault collector (R426 to R434): which sources latch, what a latch does, and which reactions act. -/

namespace Sys2Proof.Machine

/-! ### The sources that latch -/

theorem mem_latching {srcs : List (Fin 576)} {n : Nat} :
    n ∈ latching srcs ↔ n < 576 ∧ (∃ o ∈ srcs, o.val = n) ∧ srcClass n ≠ 7 := by
  simp [latching]

theorem latching_singleton {src : Fin 576} (used : srcClass src.val ≠ 7) : latching [src] = [src.val] := by
  have latches (n : Nat) : (([src].any fun o => o.val == n) && srcClass n != 7) = (n == src.val) := by
    rw [Bool.eq_iff_iff]
    simp only [List.any_cons, List.any_nil, Bool.or_false, Bool.and_eq_true, beq_iff_eq, bne_iff_ne]
    exact ⟨fun ⟨same, _⟩ => same.symm, fun same => ⟨same.symm, same ▸ used⟩⟩
  have once : List.count src.val (List.range 576) = 1 :=
    List.count_eq_one_of_mem List.nodup_range (List.mem_range.mpr src.isLt)
  rw [latching, List.filter_congr fun n _ => latches n, List.filter_beq, once]
  rfl

section Latch
variable {s : State}

theorem State.flashFault_of_own {srcs : List (Fin 576)} (own : (∀ o ∈ srcs, o.val ≠ 556) ∨ 556 ∈ s.fcol.lines) :
    s.flashFault (latching srcs) = s := by
  refine if_neg ?_
  simp only [Bool.and_eq_true, List.contains_iff_mem, Bool.not_eq_true', mem_latching]
  rintro ⟨⟨-, ⟨o, mem, is556⟩, -⟩, fromFlash⟩
  obtain none | waits := own
  · exact none o mem is556
  · simp [waits] at fromFlash

theorem State.flashFault_of_flash {srcs : List (Fin 576)} (named : ∃ o ∈ srcs, o.val = 556) (fromFlash : 556 ∉ s.fcol.lines) :
    s.flashFault (latching srcs) = { s with flash := { s.flash with failed := true } } := by
  have latches : 556 ∈ latching srcs := mem_latching.mpr ⟨by decide, named, by decide⟩
  exact if_pos (by simp [latches, fromFlash])

theorem exec_faultLatch_of_ticking (srcs : List (Fin 576)) (ticks : s.ticking = true) :
    exec (.faultLatch srcs) s = .next (
      let t := s.flashFault (latching srcs)
      (((latching srcs).foldl State.latch t).reactTo ((latching srcs).map fun n => (n, t.react n))).settleAll.sweepFails) :=
  congrArg Host.Outcome.next (if_neg (by simp [ticks]))

/-! ### A latch -/

section Own
variable {src : Nat} (notHalt : src ≠ 538) (notSelf : src ≠ 575)
include notHalt notSelf

/-- A latch of a source with no rule of its own at the FCOL: the bit, the record of a 0-to-1 change, EHOLD of class E. -/
theorem State.latch_eq : s.latch src = (
    let t := if s.fcol.fstat.getLsbD src = false ∧ (s.react src).testBit 6 = true then (s.latchBit src).faultRecord src
      else s.latchBit src
    if srcClass src = 4 then { t with fcol := { t.fcol with ehold := true } } else t) := by
  simp [State.latch, notHalt, notSelf]

theorem State.latch_of_class_E (classE : srcClass src = 4) : s.latch src = (
    let t := if s.fcol.fstat.getLsbD src = false ∧ (s.react src).testBit 6 = true then (s.latchBit src).faultRecord src
      else s.latchBit src
    { t with fcol := { t.fcol with ehold := true } }) := by
  rw [State.latch_eq notHalt notSelf]
  exact if_pos classE

section Other
variable (otherClass : srcClass src ≠ 4)
include otherClass

theorem State.latch_with_record (rises : s.fcol.fstat.getLsbD src = false) (records : (s.react src).testBit 6 = true) :
    s.latch src = (s.latchBit src).faultRecord src := by
  rw [State.latch_eq notHalt notSelf]
  exact (if_neg otherClass).trans (if_pos ⟨rises, records⟩)

theorem State.latch_without_record (quiet : s.fcol.fstat.getLsbD src = true ∨ (s.react src).testBit 6 = false) :
    s.latch src = s.latchBit src := by
  rw [State.latch_eq notHalt notSelf]
  refine (if_neg otherClass).trans (if_neg ?_)
  rintro ⟨rises, records⟩
  obtain stands | silent := quiet
  · simp [stands] at rises
  · simp [silent] at records

end Other
end Own

/-! ### Reactions -/

theorem State.reactTo_outside_safe {srcs : List (Nat × Nat)} (outside : s.fcol.safe = false)
    (enters : ∀ e ∈ srcs, entersSafe e.1 e.2 = false) :
    s.reactTo srcs = srcs.foldl (fun (u : State) (e : Nat × Nat) => u.unitReactions e.1 e.2) s := by
  have stays : ¬(s.fcol.safe || srcs.any fun e => entersSafe e.1 e.2) = true := by simpa [outside] using enters
  exact if_neg stays

theorem State.reactTo_enters_safe {src react : Nat} (enters : entersSafe src react = true) :
    s.reactTo [(src, react)] =
      if srcClass src ≠ 0 ∧ src ≠ 575 ∧ react.testBit 5 = true then
        ({ s.enterSafe src with fcol := { (s.enterSafe src).fcol with corePend := true } } : State).resetDue
      else s.enterSafe src := by
  simp [State.reactTo, enters, wantsCore, and_assoc]

section Unit
variable {src react : Nat}

theorem State.unitReactions_of_none (none : srcClass src = 0) : s.unitReactions src react = s := if_pos none

theorem State.unitReactions_of_class (used : srcClass src ≠ 0) :
    s.unitReactions src react = (
      let used := match chanOfSrc src with | some c => s.severable c | none => false
      let t := if react.testBit 4 = true then s.severReact src else s
      if react.testBit 3 = true then t.unitReact src used else t) := if_neg used

theorem State.unitReact_of_chan {c : ChanId} (chan : chanOfSrc src = some c) (used : Bool) :
    s.unitReact src used = if used then (s.sever c 4).resetAgent c else s := by
  simp only [State.unitReact, chan]

end Unit
end Latch

end Sys2Proof.Machine
end

section
/-! CERTIFICATE. A fault line latches and reacts. -/

namespace Sys2Proof.Machine

/-- Settles O35: the sources that latch are those named and not reserved; a latch by its source's class and bit, the reactions by
whether one of them enters the safe state. -/
theorem faultsLatch : Obligations.FaultsLatch := by
  unfold Obligations.FaultsLatch
  refine ⟨?lines, ?watchdog, ?one, ?own, ?flash, ?latching, ?inReset, ?bit, ?record, ?noRecord, ?classE, ?units, ?unit, ?channel,
    ?reserved, ?safe⟩
  case lines =>
    intro s ticks
    exact ⟨congrArg _ (State.raiseOn_of_ticking 563 ticks), congrArg _ (State.raiseOn_of_ticking 559 ticks)⟩
  case watchdog =>
    intro s running notHalted ticks
    exact congrArg Host.Outcome.next (if_pos (by simp [running, notHalted, ticks]))
  case one =>
    intro src s ticks used notFlash
    rw [exec_faultLatch_of_ticking [src] ticks, State.flashFault_of_own (.inl (by simpa using notFlash)),
      latching_singleton used]
    rfl
  case own =>
    intro srcs s ticks own
    rw [exec_faultLatch_of_ticking srcs ticks, State.flashFault_of_own own]
  case flash =>
    intro srcs s ticks named fromFlash
    rw [exec_faultLatch_of_ticking srcs ticks, State.flashFault_of_flash named fromFlash]
    rfl
  case latching => exact fun srcs n => mem_latching
  case inReset => exact fun srcs s stopped => congrArg Host.Outcome.next (if_pos (by simp [stopped]))
  case bit => exact fun src s => ⟨rfl, rfl⟩
  case record =>
    exact fun src s notHalt notSelf other rises records => State.latch_with_record notHalt notSelf other rises records
  case noRecord => exact fun src s notHalt notSelf other quiet => State.latch_without_record notHalt notSelf other quiet
  case classE => exact fun src s notHalt notSelf classE => State.latch_of_class_E notHalt notSelf classE
  case units => exact fun srcs s outside enters => State.reactTo_outside_safe outside enters
  case unit => exact fun src react s used => State.unitReactions_of_class used
  case channel => exact fun src c s chan => ⟨State.unitReact_of_chan chan true, State.unitReact_of_chan chan false⟩
  case reserved => exact fun src react s none => State.unitReactions_of_none none
  case safe => exact fun src react s enters => State.reactTo_enters_safe enters

end Sys2Proof.Machine
end

section
/-! SUPPORT. The event recorder: programs of its records (R225, R439, R442), and fetches (R444). -/

namespace Sys2Proof.Machine

section Recorder
variable {s : State}

theorem exec_evrRecordProgram_barred (warned : s.sbm.warn = true) (noneUnder : s.flash.under = false) :
    exec .evrRecordProgram s = .next s := congrArg Host.Outcome.next (if_pos (by simp [State.mayProgram, warned, noneUnder]))

section May
variable (may : s.mayProgram = true) (ticks : s.ticking = true)
include may ticks

theorem exec_evrRecordProgram_of_may (queued : s.evr.buf ≠ []) :
    exec .evrRecordProgram s =
      .next (if s.flash.failed then s.programmed.flashTold else s.programmed.programRecord.slumberStep) :=
  congrArg Host.Outcome.next ((if_neg (by simp [may, ticks])).trans (if_neg (by simpa using queued)))

theorem exec_evrRecordProgram_failed (queued : s.evr.buf ≠ []) (failed : s.flash.failed = true) :
    exec .evrRecordProgram s = .next { s with flash := { s.flash with under := false, failed := false } } := by
  rw [exec_evrRecordProgram_of_may may ticks queued, if_pos failed]
  rfl

section Works
variable {r : EvRec} {bad : Option Bad} {rest : List (EvRec × Option Bad)}
  (queue : s.evr.buf = (r, bad) :: rest) (works : s.flash.failed = false)
include queue works

theorem exec_evrRecordProgram_takes :
    exec .evrRecordProgram s = .next (
      let t := ({ s with evr := { s.evr with buf := rest }, flash := { s.flash with under := false } } : State).readG 537 bad
      (if acts bad then { t with evr := { t.evr with lost := satAdd 65535 t.evr.lost 1, lostBefore := true } }
        else { t with flash := t.flash.put r } : State).slumberStep) := by
  rw [exec_evrRecordProgram_of_may may ticks (by simp [queue]), works]
  simp only [Bool.false_eq_true, if_false, State.programRecord, State.programmed, queue]

end Works
end May

/-! ### The areas of the flash -/

theorem Flash.put_circ {f : Flash} {r : EvRec} (room : f.circ.length < 512) : (f.put r).circ = r :: f.circ :=
  congrArg (r :: ·) (if_neg (Nat.not_le.mpr room))

theorem Flash.put_kf_of_room {f : Flash} {r : EvRec} (room : f.kf.length < 256) (noClear : r.type ≠ 9) :
    (f.put r).kf = f.kf ++ [r] := if_pos ⟨room, noClear⟩

theorem Flash.put_kf_same {f : Flash} {r : EvRec} (full : 256 ≤ f.kf.length ∨ r.type = 9) : (f.put r).kf = f.kf := by
  refine if_neg ?_
  rintro ⟨room, noClear⟩
  exact full.elim (Nat.not_le.mpr room) noClear

/-! ### The hour counter, and fetches -/

theorem exec_hourTick_of_running (running : s.phase = .on ∨ s.phase = .commit) :
    exec .hourTick s = .next ({ s with evr := { s.evr with hours := (s.evr.hours + 1) % 2 ^ 32 } }).writeCounter := by
  change execHourTick s = _
  obtain on | window := running
  · simp only [execHourTick, on]
  · simp only [execHourTick, window]

section Fetch
variable (busy : s.evr.busy = true)
include busy

theorem exec_evrFetchDone_finds {r : EvRec} {bad : Option Bad} (found : s.fetched = some (r, bad)) :
    exec .evrFetchDone s = .next (
      let t := s.readG 537 bad
      if acts bad then { t with evr := { t.evr.dropBad r with busy := false, valid := false } }
      else { t with evr := { t.evr with busy := false, valid := true, rcd := r.bytes } }) := by
  change execEvrFetchDone s = _
  simp [execEvrFetchDone, busy, found]

theorem exec_evrFetchDone_finds_none (none : s.fetched = none) :
    exec .evrFetchDone s = .next { s with evr := { s.evr with busy := false, valid := false } } := by
  change execEvrFetchDone s = _
  simp [execEvrFetchDone, busy, none]

end Fetch
end Recorder

theorem acts_some {b : Bad} (acted : b.checkOnly = false) : acts (some b) = true := by simp [acts, acted]

end Sys2Proof.Machine
end

section
/-! CERTIFICATE. The event recorder. -/

namespace Sys2Proof.Machine

/-- Settles O36: a program by whether the flash may and does take it and by the record's buffer byte; a fetch by what it finds. -/
theorem eventRecorder : Obligations.EventRecorder := by
  unfold Obligations.EventRecorder
  refine ⟨?programmed, ?lost, ?failed, ?barred, ?circ, ?kept, ?notKept, ?hour, ?select, ?served, ?dropped, ?none⟩
  case programmed =>
    intro r rest s queue works may ticks
    rw [exec_evrRecordProgram_takes (State.mayProgram_iff.mpr may) ticks queue works]
    rfl
  case lost =>
    intro r b rest s queue acted works may ticks
    rw [exec_evrRecordProgram_takes (State.mayProgram_iff.mpr may) ticks queue works]
    simp only [acts_some acted, if_true]
  case failed =>
    exact fun s queued failed may ticks => exec_evrRecordProgram_failed (State.mayProgram_iff.mpr may) ticks queued failed
  case barred => exact fun s warned noneUnder => exec_evrRecordProgram_barred warned noneUnder
  case circ => exact fun r f room => Flash.put_circ room
  case kept => exact fun r f room noClear => Flash.put_kf_of_room room noClear
  case notKept => exact fun r f full => Flash.put_kf_same full
  case hour => exact fun s running => exec_hourTick_of_running running
  case select => exact fun data s awake => congrArg Host.Outcome.next (State.ctl_of_awake (·.selRecord data) awake)
  case served =>
    intro r s busy found
    rw [exec_evrFetchDone_finds busy found]
    rfl
  case dropped =>
    intro r b s busy found acted
    rw [exec_evrFetchDone_finds busy found]
    simp only [acts_some acted, if_true, Evr.dropBad]
  case none => exact fun s busy none => exec_evrFetchDone_finds_none busy none

end Sys2Proof.Machine
end

section
/-! SUPPORT. The register interface (R449 to R462): clears of a record by its SEQ (R457), the stitch check, writes through a view,
and IND_DATA. -/

namespace Sys2Proof.Machine

section Registers
variable {s : State}

/-! ### Clears -/

/-- A register write that would leave the state as it is changes nothing, whether the registers answer or not. -/
theorem State.ctl_of_fixed {f : State → State} (fixed : f s = s) : s.ctl f = s := by rw [State.ctl, fixed, ite_self]

theorem State.agentCtl_of_fixed {f : State → State} (fixed : f s = s) : s.agentCtl f = s :=
  State.ctl_of_fixed (by rw [fixed, ite_self])

theorem State.clearFault_of_current {data : Word} (word : field data 4 0 < 18)
    (current : s.fcol.fseq.at ⟨field data 4 0, word⟩ = field data 8 5) :
    s.clearFault data = { s with fcol := { s.fcol with
      fstat := s.fcol.fstat &&& ~~~(BitVec.ofNat 576 (0xFFFFFFFF * 2 ^ (32 * field data 4 0))) } } :=
  (dif_pos word).trans (if_pos current)

theorem State.clearFault_of_other {data : Word}
    (other : ∀ h : field data 4 0 < 18, s.fcol.fseq.at ⟨field data 4 0, h⟩ ≠ field data 8 5) : s.clearFault data = s := by
  by_cases word : field data 4 0 < 18
  · exact (dif_pos word).trans (if_neg (other word))
  · exact dif_neg word

/-! ### The stitch check and the mailbox -/

theorem State.sweepStitch_commits (asked : s.regs.stPend = true) (nothingPosted : s.posted = 0) :
    s.sweepStitch = State.takeStitch { s with regs := { s.regs with stSweeps := satAdd 65535 s.regs.stSweeps 1 } } :=
  (if_pos asked).trans (if_pos nothingPosted)

theorem State.sweepStitch_compares (notAsked : s.regs.stPend = false) (armed : s.regs.stArmed = true)
    (outside : s.fcol.safe = false) :
    s.sweepStitch = State.compareStitch { s with regs := { s.regs with stSweeps := satAdd 65535 s.regs.stSweeps 1 } } :=
  (if_neg (by simp [notAsked])).trans (if_pos (by simp [armed, outside]))

theorem State.endSnap_of_busy (busy : s.regs.snapBusy = true) :
    s.endSnap = match s.snapValue s.regs.snapItem with
      | none => { s with regs := { s.regs with snapBusy := false, snapErr := true } }
      | some n => { s with regs := { s.regs with
          snapBusy := false, snapValid := true, snapLo := BitVec.ofNat 32 n, snapHi := BitVec.ofNat 32 (n / 2 ^ 32) } } :=
  if_neg (by simp [busy])

/-! ### Writes -/

section Write
variable {v : View} {addr : BitVec 22} {data : Word}

theorem State.cpWrite_of_unmapped (unmapped : mappedBlock (addr.toNat / 4 * 4) = false) :
    s.cpWrite v addr data = s.cpAnswer 0 true := by
  simp [State.cpWrite, unmapped]

theorem State.cpWrite_of_mapped (mapped : mappedBlock (addr.toNat / 4 * 4) = true) (other : addr.toNat / 4 * 4 ≠ 0x014) :
    s.cpWrite v addr data = (
      let t := s.cpAnswer 0 false
      t.writeGlobal (addr.toNat / 4 * 4) (viewWrite v (t.oldWord (addr.toNat / 4 * 4)) data)) := by
  simp [State.cpWrite, mapped, other]

theorem State.cpWrite_indData (indData : addr.toNat / 4 * 4 = 0x014) :
    s.cpWrite v addr data = (s.cpAnswer 0 false).indWrite v data := by
  have mapped : mappedBlock 0x014 = true := by decide
  simp [State.cpWrite, indData, mapped]

theorem State.writeGlobal_of_plain {addr : Nat} {w : RegWrite} (low : addr < 0x10000) (noSvc : svcChan addr = none)
    (plain : addr ∉ ownWrites) : s.writeGlobal addr w = s.store addr w.val := by
  unfold State.writeGlobal
  rw [if_neg (Nat.not_le.mpr low), noSvc]
  dsimp only
  split
  case h_22 => rfl
  all_goals exact absurd (by decide) plain

end Write

section Store
variable {key : Nat} {val : Word}

theorem State.store_at_once (free : (regInfo key).rws = 0 ∨ s.holds (regInfo key).groups = false) :
    s.store key val
      = s.setProg key (blend (((regInfo key).rw ||| (regInfo key).rws ||| (regInfo key).rwc) &&& s.open_ (regInfo key))
          (s.shadow key) val) := by
  refine if_neg ?_
  simp only [ne_eq, Bool.and_eq_true, decide_eq_true_eq, not_and]
  intro shadowed holds
  obtain none | free := free
  · exact shadowed none
  · simp [free] at holds

theorem State.store_held (shadowed : (regInfo key).rws ≠ 0) (holds : s.holds (regInfo key).groups = true) :
    s.store key val = { s with regs := { s.regs with held := s.regs.held ++
      [{ key := key, until_ := s.holdTime (regInfo key).groups
         val := blend (((regInfo key).rw ||| (regInfo key).rws ||| (regInfo key).rwc) &&& s.open_ (regInfo key))
          (s.shadow key) val }] } } :=
  if_pos (by simpa [holds] using shadowed)

end Store

/-! ### IND_DATA -/

theorem State.advanceInd_of_fixed (fixed : flag (s.prog 0x010) 24 = false) : s.advanceInd = s := if_neg (by simp [fixed])

theorem State.advanceInd_of_ainc (ainc : flag (s.prog 0x010) 24 = true) :
    s.advanceInd = s.setProg 0x010
      ((s.prog 0x010 &&& 0xFFFFF000) ||| BitVec.ofNat 32 ((field (s.prog 0x010) 11 0 + 4) % 4096)) := if_pos ainc

theorem State.reachable_of_outside (outside : s.fcol.safe = false) : s.reachable = true := by simp [State.reachable, outside]

theorem State.unreachable_of_safe (safe : s.fcol.safe = true) : s.reachable = false := by simp [State.reachable, safe]

section IndWrite
variable {v : View} {data : Word} {c : ChanId}

theorem State.indWrite_of_named (single : flag (s.prog 0x010) 25 = false) (named : s.namedAgent = some c)
    (outside : s.fcol.safe = false) :
    s.indWrite v data = ((s.writeAgent v c s.indOff data).setIndErr 0).advanceInd := by
  simp [State.indWrite, single, named, State.reachable_of_outside outside]

theorem State.indWrite_of_unnamed (single : flag (s.prog 0x010) 25 = false) (unnamed : s.namedAgent = none) :
    s.indWrite v data = (s.setIndErr 1).advanceInd := by
  simp [State.indWrite, single, unnamed]

theorem State.indWrite_of_bcast (bcast : flag (s.prog 0x010) 25 = true) (outside : s.fcol.safe = false) :
    s.indWrite v data =
      ((allChans.foldl (fun (u : State) (c : ChanId) => u.writeAgent v c s.indOff data) s).setIndErr 0).advanceInd := by
  simp [State.indWrite, bcast, State.reachable_of_outside outside]

theorem State.indWrite_of_safe (safe : s.fcol.safe = true) (aimed : flag (s.prog 0x010) 25 = true ∨ s.namedAgent ≠ none) :
    s.indWrite v data = (s.setIndErr 2).advanceInd := by
  cases bcast : flag (s.prog 0x010) 25 with
  | true => simp [State.indWrite, bcast, State.unreachable_of_safe safe]
  | false =>
    obtain ⟨c, named⟩ := Option.ne_none_iff_exists'.mp (aimed.resolve_left (by simp [bcast]))
    simp [State.indWrite, bcast, named, State.unreachable_of_safe safe]

end IndWrite

section IndRead
variable {c : ChanId}

theorem State.indRead_of_named (named : s.namedAgent = some c) (outside : s.fcol.safe = false) :
    s.indRead = (s.readAgent c s.indOff, 0) := by
  simp [State.indRead, named, State.reachable_of_outside outside]

theorem State.indRead_of_unnamed (unnamed : s.namedAgent = none) : s.indRead = (0, 1) := by
  simp [State.indRead, unnamed]

theorem State.indRead_of_safe (named : s.namedAgent ≠ none) (safe : s.fcol.safe = true) : s.indRead = (0, 2) := by
  obtain ⟨c, named⟩ := Option.ne_none_iff_exists'.mp named
  simp [State.indRead, named, State.unreachable_of_safe safe]

theorem State.readPatchReg_of_unnamed (unnamed : s.namedAgent = none) : s.readPatchReg = s := by
  simp [State.readPatchReg, unnamed]

theorem State.readPatchReg_of_safe (safe : s.fcol.safe = true) : s.readPatchReg = s := by
  unfold State.readPatchReg
  split
  · rfl
  · exact if_neg (by simp [State.unreachable_of_safe safe])

section Named
variable (named : s.namedAgent = some c)
include named

theorem State.readPatchReg_outside (outside : s.indOff < 0x400 ∨ 0x600 ≤ s.indOff) : s.readPatchReg = s := by
  have noEntry : ¬(s.reachable = true ∧ 0x400 ≤ s.indOff ∧ s.indOff < 0x600) := by omega
  simp only [State.readPatchReg, named, if_neg noEntry]

section Table
variable (answers : s.fcol.safe = false) (above : 0x400 ≤ s.indOff) (below : s.indOff < 0x600)
include answers above below

theorem State.readPatchReg_of_good (good : acts ((s.chan c).patch.entry ((s.indOff - 0x400) / 8)).bad = false) :
    s.readPatchReg = s.readEntry c ((s.indOff - 0x400) / 8) := by
  simp [State.readPatchReg, named, State.reachable_of_outside answers, above, below, good]

theorem State.readPatchReg_of_bad (bad : acts ((s.chan c).patch.entry ((s.indOff - 0x400) / 8)).bad = true) :
    s.readPatchReg =
      { (s.cpAnswer (Config.openWord s.freeIx) false).readEntry c ((s.indOff - 0x400) / 8) with freeIx := s.freeIx + 1 } := by
  simp [State.readPatchReg, named, State.reachable_of_outside answers, above, below, bad]

end Table
end Named

theorem exec_indDataRead_of_awake {v : View} {read : Word × Nat} (awake : s.awake = true) (answer : s.indRead = read) :
    exec (.indDataRead v) s =
      .next (((s.cpAnswer read.1 false).setIndErr read.2).readPatchReg.advanceInd).sweepFails := by
  rw [← answer]
  exact congrArg Host.Outcome.next (State.ctl_of_awake _ awake)

end IndRead
end Registers

end Sys2Proof.Machine
end

section
/-! CERTIFICATE. Clears by word and by sequence number; the stitch check and the mailbox; register writes, their views, and
IND_DATA. -/

namespace Sys2Proof.Machine

/-- Settles O37: a register write acts where the registers answer, and the record's clear by whether the SEQ is its own. -/
theorem clearsByWordAndSequence : Obligations.ClearsByWordAndSequence := by
  unfold Obligations.ClearsByWordAndSequence
  refine ⟨⟨?word, ?otherWord⟩, ?perr, ?vstat, ?wbx, ?psn, ?rdue, ?updAt, ?brk, ?press, ?pchg, ?wake, ?other⟩
  case word =>
    exact fun data s word awake current =>
      congrArg Host.Outcome.next ((State.ctl_of_awake _ awake).trans (State.clearFault_of_current word current))
  case otherWord =>
    exact fun data s awake other =>
      congrArg Host.Outcome.next ((State.ctl_of_awake _ awake).trans (State.clearFault_of_other other))
  case perr =>
    exact fun p data s awake seq => congrArg Host.Outcome.next <| (State.ctl_of_awake _ awake).trans <|
      State.modPort_congr (congrArg (fun e => { s.port p with perr := e }) (if_pos seq.symm))
  case vstat =>
    exact fun p data s awake seq => congrArg Host.Outcome.next <| (State.ctl_of_awake _ awake).trans <|
      State.modPort_congr (congrArg (fun e => { s.port p with vstat := e }) (if_pos seq.symm))
  case wbx =>
    exact fun p data s awake seq => congrArg Host.Outcome.next <| (State.ctl_of_awake _ awake).trans <|
      State.modPort_congr (congrArg (fun e => { s.port p with wbx := e }) (if_pos seq.symm))
  case psn =>
    exact fun c data s awake outside seq => congrArg Host.Outcome.next <|
      (State.agentCtl_of_answering _ awake outside).trans <|
      State.modChan_congr (congrArg (fun e => { s.chan c with psn := e }) (if_pos seq.symm))
  case rdue =>
    exact fun c data s awake outside seq => congrArg Host.Outcome.next <|
      (State.agentCtl_of_answering _ awake outside).trans <|
      State.modChan_congr (congrArg (fun e => { s.chan c with rdue := e }) (if_pos seq.symm))
  case updAt =>
    exact fun data s awake seq => congrArg Host.Outcome.next ((State.ctl_of_awake _ awake).trans (if_pos seq.symm))
  case brk =>
    exact fun data s awake seq => congrArg Host.Outcome.next <| (State.ctl_of_awake _ awake).trans <|
      congrArg (fun e => { s with mill := { s.mill with brk := e } }) (if_pos seq.symm)
  case press =>
    exact fun data s awake seq => congrArg Host.Outcome.next ((State.ctl_of_awake _ awake).trans (if_pos seq.symm))
  case pchg =>
    exact fun data s awake seq => congrArg Host.Outcome.next ((State.ctl_of_awake _ awake).trans (if_pos seq.symm))
  case wake =>
    exact fun data s awake seq => congrArg Host.Outcome.next <| (State.ctl_of_awake _ awake).trans <|
      congrArg (fun e => { s with sbm := { s.sbm with wakeCause := e } }) (if_pos seq.symm)
  case other =>
    intro data p c s
    refine ⟨fun seq => ?perr, fun seq => ?vstat, fun seq => ?wbx, fun seq => ?psn, fun seq => ?rdue, fun seq => ?updAt,
      fun seq => ?brk, fun seq => ?press, fun seq => ?pchg, fun seq => ?wake⟩ <;>
      refine congrArg Host.Outcome.next ?_
    case perr =>
      exact State.ctl_of_fixed <|
        State.modPort_same (congrArg (fun e => { s.port p with perr := e }) (if_neg seq.symm))
    case vstat =>
      exact State.ctl_of_fixed <|
        State.modPort_same (congrArg (fun e => { s.port p with vstat := e }) (if_neg seq.symm))
    case wbx =>
      exact State.ctl_of_fixed <|
        State.modPort_same (congrArg (fun e => { s.port p with wbx := e }) (if_neg seq.symm))
    case psn =>
      exact State.agentCtl_of_fixed <|
        State.modChan_same (congrArg (fun e => { s.chan c with psn := e }) (if_neg seq.symm))
    case rdue =>
      exact State.agentCtl_of_fixed <|
        State.modChan_same (congrArg (fun e => { s.chan c with rdue := e }) (if_neg seq.symm))
    case updAt | press | pchg => exact State.ctl_of_fixed (if_neg seq.symm)
    case brk =>
      exact State.ctl_of_fixed (congrArg (fun e => { s with mill := { s.mill with brk := e } }) (if_neg seq.symm))
    case wake =>
      exact State.ctl_of_fixed (congrArg (fun e => { s with sbm := { s.sbm with wakeCause := e } }) (if_neg seq.symm))

/-- Settles O39: a sweep by whether a commit is asked for, and the mailbox by the item's value. -/
theorem stitchAndMailbox : Obligations.StitchAndMailbox := by
  unfold Obligations.StitchAndMailbox
  refine ⟨?go, ?commits, ?compares, ?select, ?fetched⟩
  case go => exact fun data s awake => congrArg Host.Outcome.next (State.ctl_of_awake _ awake)
  case commits =>
    exact fun s awake asked nothingPosted => congrArg Host.Outcome.next <|
      (State.ctl_of_awake _ awake).trans (State.sweepStitch_commits asked nothingPosted)
  case compares =>
    exact fun s awake notAsked armed outside => congrArg Host.Outcome.next <|
      (State.ctl_of_awake _ awake).trans (State.sweepStitch_compares notAsked armed outside)
  case select => exact fun data s awake => congrArg Host.Outcome.next (State.ctl_of_awake (·.selectSnap data) awake)
  case fetched =>
    exact fun s awake busy => congrArg Host.Outcome.next <|
      (State.ctl_of_awake _ awake).trans (State.endSnap_of_busy busy)

/-- Settles O38: a direct write and a view's by the address, a stored register by whether R462 holds the write, IND_DATA by the
agents that IND_ADDR names and whether they answer. -/
theorem registerAndIndirectWrites : Obligations.RegisterAndIndirectWrites := by
  unfold Obligations.RegisterAndIndirectWrites
  refine ⟨⟨?unmapped, ?unmappedView, ?mapped, ?mappedView, ?indData, ?asleep, ?views, ?plain, ?atOnce, ?held, ?cinch⟩,
    ⟨?named, ?unnamed, ?bcast, ?safe, ?reads, ?readsGood, ?readsBad, ?readsNone, ?readsSafe, ?fixed, ?ainc⟩⟩
  case unmapped =>
    exact fun addr data s awake unmapped => congrArg Host.Outcome.next <|
      (State.ctl_of_awake _ awake).trans (State.cpWrite_of_unmapped unmapped)
  case unmappedView =>
    exact fun v addr data s awake unmapped => congrArg Host.Outcome.next <|
      (State.ctl_of_awake _ awake).trans (State.cpWrite_of_unmapped unmapped)
  case mapped =>
    exact fun addr data s awake mapped other => congrArg Host.Outcome.next <|
      (State.ctl_of_awake _ awake).trans (State.cpWrite_of_mapped mapped other)
  case mappedView =>
    exact fun v addr data s awake mapped other => congrArg Host.Outcome.next <|
      (State.ctl_of_awake _ awake).trans (State.cpWrite_of_mapped mapped other)
  case indData =>
    intro v addr data s indData
    have same (v : View) : (fun t : State => t.cpWrite v addr data) = fun t => (t.cpAnswer 0 false).indWrite v data :=
      funext fun t => State.cpWrite_indData indData
    exact ⟨congrArg (fun f => Host.Outcome.next (s.ctl f)) (same .direct),
      congrArg (fun f => Host.Outcome.next (s.ctl f)) (same v)⟩
  case asleep =>
    intro v addr data s asleep
    have nothing (f : State → State) : Host.Outcome.next (s.ctl f) = (.next s : Host.Outcome State Fault Refusal) :=
      congrArg _ (State.ctl_of_asleep f asleep)
    exact ⟨nothing _, nothing _, nothing _, nothing _, nothing _⟩
  case views => exact fun old data => ⟨rfl, rfl, rfl, rfl⟩
  case plain => exact fun addr w s low noSvc plain => State.writeGlobal_of_plain low noSvc plain
  case atOnce => exact fun key val s free => State.store_at_once free
  case held => exact fun key val s shadowed holds => State.store_held shadowed holds
  case cinch => exact fun data s awake => congrArg Host.Outcome.next (State.ctl_of_awake (·.setCinch data) awake)
  case named =>
    exact fun v data c s awake single named outside => congrArg Host.Outcome.next <|
      (State.ctl_of_awake _ awake).trans (State.indWrite_of_named (s := s.cpAnswer 0 false) single named outside)
  case unnamed =>
    exact fun v data s awake single unnamed => congrArg Host.Outcome.next <|
      (State.ctl_of_awake _ awake).trans (State.indWrite_of_unnamed (s := s.cpAnswer 0 false) single unnamed)
  case bcast =>
    exact fun v data s awake bcast outside => congrArg Host.Outcome.next <|
      (State.ctl_of_awake _ awake).trans (State.indWrite_of_bcast (s := s.cpAnswer 0 false) bcast outside)
  case safe =>
    exact fun v data s awake safe aimed => congrArg Host.Outcome.next <|
      (State.ctl_of_awake _ awake).trans (State.indWrite_of_safe (s := s.cpAnswer 0 false) safe aimed)
  case reads =>
    intro v c s awake named answers outside
    rw [exec_indDataRead_of_awake awake (State.indRead_of_named named answers),
      State.readPatchReg_outside (s := (s.cpAnswer _ false).setIndErr 0) named outside]
    rfl
  case readsGood =>
    intro v c s awake named answers above below good
    rw [exec_indDataRead_of_awake awake (State.indRead_of_named named answers),
      State.readPatchReg_of_good (s := (s.cpAnswer _ false).setIndErr 0) named answers above below good]
    rfl
  case readsBad =>
    intro v c s awake named answers above below bad
    rw [exec_indDataRead_of_awake awake (State.indRead_of_named named answers),
      State.readPatchReg_of_bad (s := (s.cpAnswer _ false).setIndErr 0) named answers above below bad]
    simp only [State.cpAnswer, State.setIndErr]
    rfl
  case readsNone =>
    intro v s awake unnamed
    rw [exec_indDataRead_of_awake awake (State.indRead_of_unnamed unnamed),
      State.readPatchReg_of_unnamed (s := (s.cpAnswer _ false).setIndErr 1) unnamed]
    rfl
  case readsSafe =>
    intro v s awake named safe
    rw [exec_indDataRead_of_awake awake (State.indRead_of_safe named safe),
      State.readPatchReg_of_safe (s := (s.cpAnswer _ false).setIndErr 2) safe]
    rfl
  case fixed => exact fun s fixed => State.advanceInd_of_fixed fixed
  case ainc => exact fun s ainc => State.advanceInd_of_ainc ainc

end Sys2Proof.Machine
end

section
/-! SUPPORT. How a command packet is decided (R407 to R413): each refusal in its place, and a packet that is accepted. -/

namespace Sys2Proof.Machine

/-! ### The decision -/

section Decide
variable {s : State} {k : Packet} {e opc : Nat} {own : State → Packet → Option Nat} {act : State → Packet → State}

theorem State.decidePacket_bad (bad : s.badPacket k = some e) :
    s.decidePacket k own act = (s.answer k stBadPacket e []).raise 557 := by
  simp only [State.decidePacket, bad]

section Taken
variable (good : s.badPacket k = none)
include good

theorem State.decidePacket_unknown (unknown : paramBits k.opc = none) :
    s.decidePacket k own act = (s.takePacket k).answer k stUnknown 0 [] := by
  simp only [State.decidePacket, good, unknown, Option.isNone_none, if_true]

section Known
variable (known : (paramBits k.opc).isNone = false)
include known

theorem State.decidePacket_gated (gated : (s.takePacket k).gate k = some e) :
    s.decidePacket k own act = (s.takePacket k).answer k stRefused e [] := by
  simp only [State.decidePacket, good, known, gated, Bool.false_eq_true, if_false]

section Open
variable (free : (s.takePacket k).gate k = none)
include free

theorem State.decidePacket_deferred (warned : s.sbm.warn = true) (waits : flagW k.opc = true) :
    s.decidePacket k own act = (s.takePacket k).answer k stDeferred 0 [] := by
  have defers : ((s.takePacket k).sbm.warn && (flagW k.opc || k.asksPpr)) = true := by
    rw [waits, Bool.true_or, Bool.and_true]
    exact warned
  simp only [State.decidePacket, good, known, free, defers, Bool.false_eq_true, if_false, if_true]

section Now
variable (now : ((s.takePacket k).sbm.warn && (flagW k.opc || k.asksPpr)) = false)
include now

theorem State.decidePacket_refused (refused : own (s.takePacket k) k = some e) :
    s.decidePacket k own act = (s.takePacket k).answer k stRefused e [] := by
  simp only [State.decidePacket, good, known, free, now, refused, Bool.false_eq_true, if_false]

theorem State.decidePacket_no_slot (carried : own (s.takePacket k) k = none) (long : k.opc ∈ longOps)
    (full : ∀ j, (s.job j).st ≠ 0) : s.decidePacket k own act = (s.takePacket k).answer k stRefused 8 [] := by
  have noSlot : (s.takePacket k).freeJob = none :=
    List.find?_eq_none.mpr fun j _ h => full j (by simpa [State.job, State.takePacket] using h)
  have refuses : (longOps.contains k.opc && (s.takePacket k).freeJob.isNone) = true := by
    rw [noSlot, List.contains_iff_mem.mpr long]
    rfl
  simp only [State.decidePacket, good, known, free, now, carried, refuses, Bool.false_eq_true, if_false, if_true]

end Now
end Open
end Known
end Taken

theorem State.serve_of_front (front : s.front = some k) (mine : k.opc = opc) :
    s.serve opc own act = s.decidePacket k own act := by
  simp only [State.serve, front, if_pos mine]

/-! ### BAD_PACKET and the shared refusals -/

theorem State.badPacket_of_good (crc : k.crcOk = true) (seq : s.cmp.seqSet = true → k.seq = (s.cmp.lseq + 1) % 65536) :
    s.badPacket k = none := by
  have inOrder : ¬(s.cmp.seqSet && k.seq != (s.cmp.lseq + 1) % 65536) = true := by simpa using seq
  exact (if_neg (by simp [crc])).trans (if_neg inOrder)

theorem State.badPacket_of_crc (broken : k.crcOk = false) : s.badPacket k = some 3 := if_pos (by simp [broken])

theorem State.badPacket_of_seq (crc : k.crcOk = true) (set : s.cmp.seqSet = true)
    (other : k.seq ≠ (s.cmp.lseq + 1) % 65536) : s.badPacket k = some 2 :=
  (if_neg (by simp [crc])).trans (if_pos (by simp [set, other]))

section Gate

theorem State.not_gated_by_boot (booted : s.cmp.boot.st = 5 ∨ k.opc ∈ bootOps) :
    ¬(s.cmp.boot.st ≠ 5 ∧ (!bootOps.contains k.opc) = true) := by
  simpa [or_iff_not_imp_left] using booted

theorem State.not_gated_by_safe (answers : s.fcol.safe = false ∨ k.opc ∈ safeOps) :
    ¬(s.fcol.safe = true ∧ (!safeOps.contains k.opc) = true) := by
  obtain outside | safeOp := answers
  · simp [outside]
  · simp [safeOp]

theorem State.not_gated_by_halt (runs : s.cmp.nuHalt = false ∨ k.opc ∈ flagC) :
    ¬(s.cmp.nuHalt = true ∧ (!flagC.contains k.opc) = true) := by
  obtain running | withoutNuinun := runs
  · simp [running]
  · simp [withoutNuinun]

theorem State.gate_of_boot (notRunning : s.cmp.boot.st ≠ 5) (other : k.opc ∉ bootOps) : s.gate k = some 4 :=
  if_pos ⟨notRunning, by simpa using other⟩

variable (booted : s.cmp.boot.st = 5 ∨ k.opc ∈ bootOps)
include booted

theorem State.gate_of_safe (safe : s.fcol.safe = true) (other : k.opc ∉ safeOps) : s.gate k = some 12 :=
  (if_neg (State.not_gated_by_boot booted)).trans (if_pos ⟨safe, by simpa using other⟩)

variable (answers : s.fcol.safe = false ∨ k.opc ∈ safeOps)
include answers

theorem State.gate_of_halt (halted : s.cmp.nuHalt = true) (other : k.opc ∉ flagC) : s.gate k = some 5 :=
  (if_neg (State.not_gated_by_boot booted)).trans <| (if_neg (State.not_gated_by_safe answers)).trans <|
    if_pos ⟨halted, by simpa using other⟩

variable (runs : s.cmp.nuHalt = false ∨ k.opc ∈ flagC)
include runs

/-- What is left of the shared refusals once boot state, safe state and Nuinun let the packet by. -/
theorem State.gate_eq : s.gate k =
    if s.pers.strobe = true ∧ flagD k.opc = true then some 11 else if s.breaksParam k = true then some 1 else none :=
  (if_neg (State.not_gated_by_boot booted)).trans <| (if_neg (State.not_gated_by_safe answers)).trans <|
    if_neg (State.not_gated_by_halt runs)

theorem State.gate_of_strobe (strobed : s.pers.strobe = true) (dram : flagD k.opc = true) : s.gate k = some 11 :=
  (State.gate_eq booted answers runs).trans (if_pos ⟨strobed, dram⟩)

theorem State.gate_eq_of_calm (calm : s.pers.strobe = false ∨ flagD k.opc = false) :
    s.gate k = if s.breaksParam k = true then some 1 else none := by
  refine (State.gate_eq booted answers runs).trans (if_neg ?_)
  obtain noStrobe | noDram := calm
  · simp [noStrobe]
  · simp [noDram]

end Gate
end Decide

/-! ### The rows of R414 -/

/-- A row's command serves its opcode, with the refusals of its own that the row names; no row is LADDER_TAKE. -/
theorem exec_packetRow {x : Nat × Instr × (State → Packet → Option Nat)} (row : x ∈ packetRows) :
    (∃ act, ∀ s, exec x.2.1 s = .next (s.serve x.1 x.2.2 act)) ∧ (paramBits x.1).isNone = false ∧ x.1 ≠ 0x24 := by
  simp only [packetRows, List.mem_cons, List.not_mem_nil, or_false] at row
  rcases row with rfl | rfl | rfl | rfl | rfl | rfl | rfl | rfl | rfl | rfl | rfl | rfl | rfl | rfl | rfl | rfl | rfl | rfl |
    rfl | rfl | rfl | rfl | rfl | rfl | rfl | rfl | rfl | rfl | rfl | rfl | rfl | rfl | rfl | rfl
  all_goals exact ⟨⟨_, fun s => rfl⟩, rfl, by decide⟩

/-- The packet of a row at the front of the ring is decided with the row's own refusals. -/
theorem exec_packetRow_decides {x : Nat × Instr × (State → Packet → Option Nat)} {s : State} {k : Packet}
    (row : x ∈ packetRows) (front : s.front = some k) (mine : k.opc = x.1) :
    (∃ act, exec x.2.1 s = .next (s.decidePacket k x.2.2 act)) ∧ (paramBits k.opc).isNone = false ∧ k.asksPpr = false := by
  obtain ⟨⟨act, serves⟩, known, noLadder⟩ := exec_packetRow row
  refine ⟨⟨act, ?_⟩, mine ▸ known, ?_⟩
  · rw [serves s, State.serve_of_front front mine]
  · simp [Packet.asksPpr, mine, noLadder]

/-! ### An accepted packet -/

section Accepted
variable {s : State} {k : Packet} {opc : Nat} {own : State → Packet → Option Nat}

theorem Accepts.opc_eq (accepts : Accepts s k opc) : k.opc = opc := by
  obtain ⟨-, mine, -⟩ := accepts
  exact mine

/-- A packet that nothing shared turns away is decided by its opcode's own refusals. -/
theorem serve_of_accepts (act : State → Packet → State) (accepts : Accepts s k opc)
    (known : (paramBits opc).isNone = false) :
    s.serve opc own act = match own (s.takePacket k) k with
      | some e => (s.takePacket k).answer k stRefused e []
      | none => act (s.takePacket k) k := by
  obtain ⟨front, mine, crc, seq, booted, answers, runs, calm, params, now, slot⟩ := accepts
  subst mine
  have gate : (s.takePacket k).gate k = none := by
    change s.gate k = none
    rw [State.gate_eq_of_calm booted answers runs calm, params]
    rfl
  have slot' : longOps.contains k.opc = false ∨ (s.takePacket k).freeJob.isSome = true := by
    obtain short | ⟨j, free⟩ := slot
    · exact .inl (by simpa using short)
    · exact .inr (List.find?_isSome.mpr ⟨j, List.mem_finRange j, beq_iff_eq.mpr free⟩)
  exact serve_decided act front rfl (State.badPacket_of_good crc seq) gate now slot' known

theorem serve_carries_out (act : State → Packet → State) (accepts : Accepts s k opc)
    (known : (paramBits opc).isNone = false) (unrefused : own (s.takePacket k) k = none) :
    s.serve opc own act = act (s.takePacket k) k := by
  rw [serve_of_accepts act accepts known, unrefused]

theorem serve_refuses {e : Nat} (act : State → Packet → State) (accepts : Accepts s k opc)
    (known : (paramBits opc).isNone = false) (refused : own (s.takePacket k) k = some e) :
    s.serve opc own act = (s.takePacket k).answer k stRefused e [] := by
  rw [serve_of_accepts act accepts known, refused]

end Accepted

end Sys2Proof.Machine
end

section
/-! CERTIFICATE. The command ring and its replies; packets that are turned away. -/

namespace Sys2Proof.Machine

/-- Settles O40, by the room that a new producer would leave, and by how an unknown packet is decided. -/
theorem ringAndReplies : Obligations.RingAndReplies := by
  unfold Obligations.RingAndReplies
  refine ⟨?room, ?overflow, ?unknown, ?bad, ?reply⟩
  case room =>
    exact fun data s awake room => congrArg Host.Outcome.next <|
      (State.ctl_of_awake _ awake).trans (if_neg (Nat.not_lt.mpr room))
  case overflow =>
    exact fun data s awake full => congrArg Host.Outcome.next ((State.ctl_of_awake _ awake).trans (if_pos full))
  case unknown =>
    intro k s front unknown crc seq
    change execUnknownOpcode s = _
    simp only [execUnknownOpcode, front, unknown, Option.isNone_none, if_true,
      State.decidePacket_unknown (State.badPacket_of_good crc seq) unknown]
    rfl
  case bad =>
    intro k e s front unknown bad
    change execUnknownOpcode s = _
    simp only [execUnknownOpcode, front, unknown, Option.isNone_none, if_true, State.decidePacket_bad bad]
  case reply => exact fun k status err res s => rfl

/-- Settles O41: a row's packet by the first refusal of the decision that holds. -/
theorem packetsTurnedAway : Obligations.PacketsTurnedAway := by
  unfold Obligations.PacketsTurnedAway
  have atOnce {k : Packet} {s : State} (ppr : k.asksPpr = false) (now : s.sbm.warn = false ∨ flagW k.opc = false) :
      ((s.takePacket k).sbm.warn && (flagW k.opc || k.asksPpr)) = false := by
    change (s.sbm.warn && (flagW k.opc || k.asksPpr)) = false
    obtain calm | noFlag := now
    · rw [calm, Bool.false_and]
    · rw [noFlag, ppr, Bool.or_self, Bool.and_false]
  refine ⟨?bad, ?gated, ?deferred, ?refused, ?noSlot, ?crc, ?seq, ?boot, ?safe, ?halt, ?strobe, ?params⟩
  case bad =>
    intro x k e s row front mine bad
    obtain ⟨⟨act, decides⟩, -, -⟩ := exec_packetRow_decides row front mine
    rw [decides, State.decidePacket_bad bad]
  case gated =>
    intro x k e s row front mine good gated
    obtain ⟨⟨act, decides⟩, known, -⟩ := exec_packetRow_decides row front mine
    rw [decides, State.decidePacket_gated good known gated]
  case deferred =>
    intro x k s row front mine good free warned waits
    obtain ⟨⟨act, decides⟩, known, -⟩ := exec_packetRow_decides row front mine
    rw [decides, State.decidePacket_deferred good known free warned waits]
  case refused =>
    intro x k e s row front mine good free now refused
    obtain ⟨⟨act, decides⟩, known, ppr⟩ := exec_packetRow_decides row front mine
    rw [decides, State.decidePacket_refused good known free (atOnce ppr now) refused]
  case noSlot =>
    intro x k s row front mine good free now carried long full
    obtain ⟨⟨act, decides⟩, known, ppr⟩ := exec_packetRow_decides row front mine
    rw [decides, State.decidePacket_no_slot good known free (atOnce ppr now) carried long full]
  case crc => exact fun k s broken => State.badPacket_of_crc broken
  case seq => exact fun k s crc set other => State.badPacket_of_seq crc set other
  case boot => exact fun k s notRunning other => State.gate_of_boot notRunning other
  case safe => exact fun k s booted safe other => State.gate_of_safe booted safe other
  case halt => exact fun k s booted answers halted other => State.gate_of_halt booted answers halted other
  case strobe => exact fun k s booted answers runs strobed dram => State.gate_of_strobe booted answers runs strobed dram
  case params =>
    intro k s booted answers runs calm broken
    rw [State.gate_eq_of_calm booted answers runs calm, if_pos broken]

end Sys2Proof.Machine
end

section
/-! SUPPORT. Jobs and lists of refusals; the commands that answer at once (R414 to R417). -/

namespace Sys2Proof.Machine

/-! ### Refusals and job slots -/

theorem firstOf_eq_none_iff {l : List (Bool × Nat)} : firstOf l = none ↔ ∀ x ∈ l, x.1 = false := by
  induction l with
  | nil => simp [firstOf]
  | cons x l ih =>
    obtain ⟨b, e⟩ := x
    cases b with
    | false => simpa [firstOf] using ih
    | true => simp [firstOf]

section Jobs
variable {s : State} {p : Job → Bool}

theorem State.anyJob_iff : s.anyJob p = true ↔ ∃ j, p (s.job j) = true := by
  simp only [State.anyJob, List.any_eq_true, Vector.mem_toList_iff]
  constructor
  · rintro ⟨b, mem, holds⟩
    obtain ⟨i, hi, rfl⟩ := Vector.mem_iff_getElem.mp mem
    exact ⟨⟨i, hi⟩, holds⟩
  · rintro ⟨j, holds⟩
    exact ⟨_, Vector.getElem_mem j.isLt, holds⟩

theorem State.anyJob_eq_false (none : ∀ j, p (s.job j) = false) : s.anyJob p = false := by
  refine Bool.eq_false_iff.mpr fun any => ?_
  obtain ⟨j, holds⟩ := State.anyJob_iff.mp any
  exact Bool.eq_false_iff.mp (none j) holds

end Jobs

/-! ### The commands -/

section Immediate
variable {s : State} {k : Packet}

theorem spdFetchOwn_eq_none {b : List Byte} (read : s.spdOf k = some b) : spdFetchOwn s k = none := by
  simp [spdFetchOwn, firstOf_eq_none_iff, read]

theorem State.spdFetch_of_read {b : List Byte} (read : s.spdOf k = some b) :
    s.spdFetch k = s.answer k stOk 0 (byteWords (b.drop (k.p 1).toNat) 12) := by
  simp only [State.spdFetch, read, Option.getD_some]

theorem jobStatusOwn_eq_none (allowed : (s.job k.job).st ≠ 1 ∨ flag (k.p 0) 8 = false) : jobStatusOwn s k = none := by
  obtain ended | keeps := allowed
  · simp [jobStatusOwn, firstOf_eq_none_iff, ended]
  · simp [jobStatusOwn, firstOf_eq_none_iff, keeps]

theorem State.jobStatus_of_ended (ended : (s.job k.job).st ≠ 1) :
    s.jobStatus k = (
      let b := s.job k.job
      let t := s.answer k stOk 0 ([word b.stat, word b.progWord] ++ b.res)
      if flag (k.p 0) 8 then t.modJob k.job fun _ => {} else t) := by
  simp only [State.jobStatus, State.jobWords, if_neg ended]

theorem State.jobStatus_of_running (running : (s.job k.job).st = 1) (keeps : flag (k.p 0) 8 = false) :
    s.jobStatus k = (
      let b := s.job k.job
      let t := s.answer k stOk 0 ([word b.stat, word ({ b with prog := s.progNow b } : Job).progWord] ++
        (List.range 11).map fun i => Config.openWord (s.freeIx + i))
      { t with freeIx := t.freeIx + 11 }) := by
  simp only [State.jobStatus, State.jobWords, if_pos running, keeps, Bool.false_eq_true, if_false]

theorem jobCancelOwn_eq_none (running : (s.job k.job).st = 1)
    (stoppable : (s.job k.job).opc = 0x10 ∨ (s.job k.job).opc = 0x15 ∨ (s.job k.job).opc = 0x20) :
    jobCancelOwn s k = none := by
  simp only [jobCancelOwn, firstOf_eq_none_iff, List.forall_mem_singleton, running]
  simp [stoppable]

theorem State.jobCancel_train (train : (s.job k.job).opc = 0x15) :
    s.jobCancel k = (s.modJob k.job fun b => { b with cancel := true }).answer k stOk 0 [] := by
  simp [State.jobCancel, train]

theorem State.jobCancel_scrub (scrub : (s.job k.job).opc = 0x20) :
    s.jobCancel k = ((s.modJob k.job fun b => { b with cancel := true }).cancelScrub
      ⟨(s.job k.job).target % 20, Nat.mod_lt _ (by decide)⟩).answer k stOk 0 [] := by
  simp [State.jobCancel, scrub]

theorem State.jobCancel_spdRead (spdRead : (s.job k.job).opc = 0x10) :
    s.jobCancel k = (
      let t := s.modJob k.job fun b => { b with cancel := true }
      let t := allChans.foldl (fun (t : State) (c : ChanId) => t.cancelSpd k.job c) t
      (t.spdStopped k.job).answer k stOk 0 []) := by
  simp [State.jobCancel, spdRead]

/-- What FLASH_INFO does once it is taken. -/
theorem exec_flashInfo_of_accepts (accepts : Accepts s k 0x40) :
    exec .flashInfo s = .next (
      let t := s.takePacket k
      if s.flash.failed then (t.answer k stRefused 13 []).flashTold
      else t.answer k stOk 0 [Config.flashId, Config.flashKib, word (match s.flash.image with
        | some (svn, _) => 1 + place svn 8 8
        | none => 0)]) :=
  congrArg Host.Outcome.next (serve_carries_out _ accepts rfl rfl)

end Immediate

end Sys2Proof.Machine
end

section
/-! CERTIFICATE. The ring commands that answer at once. -/

namespace Sys2Proof.Machine

/-- Settles O42: each accepted packet is carried out, JOB_STATUS by whether its job runs and JOB_CANCEL by the job's opcode. -/
theorem immediateCommands : Obligations.ImmediateCommands := by
  unfold Obligations.ImmediateCommands
  refine ⟨?identify, ?status, ?echo, ?spd, ?noImage, ?image, ?flashFailed, ?ended, ?running, ?train, ?scrub, ?spdRead,
    ?challenge⟩
  case identify => exact fun k s accepts => congrArg Host.Outcome.next (serve_carries_out _ accepts rfl rfl)
  case status => exact fun k s accepts => congrArg Host.Outcome.next (serve_carries_out _ accepts rfl rfl)
  case echo => exact fun k s accepts => congrArg Host.Outcome.next (serve_carries_out _ accepts rfl rfl)
  case spd =>
    exact fun k b s accepts read => congrArg Host.Outcome.next <|
      (serve_carries_out _ accepts rfl (spdFetchOwn_eq_none read)).trans
        (State.spdFetch_of_read (s := s.takePacket k) read)
  case noImage =>
    intro k s accepts works empty
    simp only [exec_flashInfo_of_accepts accepts, works, empty]
    rfl
  case image =>
    intro k svn bs s accepts works stored
    simp only [exec_flashInfo_of_accepts accepts, works, stored]
    rfl
  case flashFailed =>
    intro k s accepts failed
    simp only [exec_flashInfo_of_accepts accepts, failed, if_true]
  case ended =>
    exact fun k s accepts ended => congrArg Host.Outcome.next <|
      (serve_carries_out _ accepts rfl (jobStatusOwn_eq_none (.inl ended))).trans
        (State.jobStatus_of_ended (s := s.takePacket k) ended)
  case running =>
    exact fun k s accepts running keeps => congrArg Host.Outcome.next <|
      (serve_carries_out _ accepts rfl (jobStatusOwn_eq_none (.inr keeps))).trans
        (State.jobStatus_of_running (s := s.takePacket k) running keeps)
  case train =>
    exact fun k s accepts running train => congrArg Host.Outcome.next <|
      (serve_carries_out _ accepts rfl (jobCancelOwn_eq_none running (.inr (.inl train)))).trans
        (State.jobCancel_train (s := s.takePacket k) train)
  case scrub =>
    exact fun k s accepts running scrub => congrArg Host.Outcome.next <|
      (serve_carries_out _ accepts rfl (jobCancelOwn_eq_none running (.inr (.inr scrub)))).trans
        (State.jobCancel_scrub (s := s.takePacket k) scrub)
  case spdRead =>
    exact fun k s accepts running spdRead => congrArg Host.Outcome.next <|
      (serve_carries_out _ accepts rfl (jobCancelOwn_eq_none running (.inl spdRead))).trans
        (State.jobCancel_spdRead (s := s.takePacket k) spdRead)
  case challenge => exact fun k s accepts => congrArg Host.Outcome.next (serve_carries_out _ accepts rfl rfl)

end Sys2Proof.Machine
end

section
/-! SUPPORT. An image's load and store (R401, R402, R404), and the boot events (R399, R405). -/

namespace Sys2Proof.Machine

section Boot
variable {s t : State} {k : Packet}

theorem State.modBoot_congr {f g : Boot → Boot} (same : f s.cmp.boot = g s.cmp.boot) : s.modBoot f = s.modBoot g := by
  simp only [State.modBoot, same]

theorem State.tellBoot_of_other (goesOn : t.cmp.boot.st ≠ 6) : s.tellBoot t = t := if_neg fun h => goesOn h.2

theorem State.tellBoot_of_failed (before : s.cmp.boot.st ≠ 6) (failed : t.cmp.boot.st = 6) : s.tellBoot t = t.raise 558 :=
  if_pos ⟨before, failed⟩

/-! ### Refusals -/

theorem loadBeginOwn_eq_none (ready : s.cmp.boot.st ≠ 0) (notStarting : s.cmp.boot.st ≠ 4) (notRunning : s.cmp.boot.st ≠ 5)
    (stored : flag (k.p 1) 0 = true → s.flash.image ≠ none) : loadBeginOwn s k = none := by
  simpa [loadBeginOwn, firstOf_eq_none_iff, ready, notStarting, notRunning] using fun load =>
    Option.isSome_iff_ne_none.mpr (stored load)

section Chunk
variable {got total : Nat} (fits : ChunkFits s k got total)
include fits

theorem chunkBroken_of_fits : chunkBroken k got total = false := by
  obtain ⟨offset, aligned, nonempty, short, within, -⟩ := fits
  simp only [chunkBroken, offset, aligned, Bool.or_eq_false_iff, bne_self_eq_false, decide_eq_false_iff_not, true_and,
    beq_eq_false_iff_ne]
  exact ⟨⟨nonempty, Nat.not_lt.mpr short⟩, Nat.not_lt.mpr within⟩

theorem State.chunkCrcBad_of_fits : s.chunkCrcBad k = false := by
  obtain ⟨-, -, -, -, -, crc⟩ := fits
  simp [State.chunkCrcBad, crc]

end Chunk

theorem loadChunkOwn_eq_none (loading : s.cmp.boot.st = 2) (ring : s.cmp.boot.src = false)
    (fits : ChunkFits s k s.cmp.boot.image.length s.cmp.boot.total) : loadChunkOwn s k = none := by
  simp [loadChunkOwn, firstOf_eq_none_iff, loading, ring, State.chunkCrcBad_of_fits fits, chunkBroken_of_fits fits]

theorem loadEndOwn_eq_none (loading : s.cmp.boot.st = 2) (whole : s.cmp.boot.total ≤ s.cmp.boot.image.length) :
    loadEndOwn s k = none := by
  simp [loadEndOwn, firstOf_eq_none_iff, loading, whole]

section Store
variable {x : Store} (store : s.flash.store = some x)
  (opened : (x.erased = true ∨ ∃ j, (s.job j).runs 0x41 = true) ∧ ∀ j, (s.job j).runs 0x43 = false)
include opened

theorem State.storeOpen_of_begun : s.storeOpen x = true := by
  obtain ⟨begun, notEnding⟩ := opened
  have begun' : (x.erased || s.anyJob fun b => b.runs 0x41) = true := by
    rw [Bool.or_eq_true, State.anyJob_iff]
    exact begun
  rw [State.storeOpen, begun', State.anyJob_eq_false notEnding]
  rfl

include store

theorem storeChunkOwn_eq_none (fits : ChunkFits s k s.flash.img.length x.total) : storeChunkOwn s k = none := by
  simp [storeChunkOwn, store, firstOf_eq_none_iff, State.storeOpen_of_begun opened, State.chunkCrcBad_of_fits fits,
    chunkBroken_of_fits fits]

theorem storeEndOwn_eq_none (whole : x.total ≤ s.flash.img.length) : storeEndOwn s k = none := by
  simp [storeEndOwn, store, firstOf_eq_none_iff, State.storeOpen_of_begun opened, whole]

end Store

/-! ### A chunk of a load (R402, R404) -/

theorem Boot.headerDue_stays {b : Boot} {before : Nat}
    (passes : 512 ≤ before ∨ b.image.length < 512 ∨ headerOk b.image b.total = true) : b.headerDue before = b := by
  refine if_neg ?_
  rintro ⟨early, whole, bad⟩
  obtain done | short | good := passes
  · exact Nat.not_le.mpr early done
  · exact Nat.not_le.mpr short whole
  · simp [good] at bad

theorem Boot.headerDue_fails {b : Boot} {before : Nat} (early : before < 512) (whole : 512 ≤ b.image.length)
    (bad : headerOk b.image b.total = false) : b.headerDue before = { b with st := 6, err := 15 } :=
  if_pos ⟨early, whole, by simp [bad]⟩

/-- What LOAD_CHUNK appends, before the header is looked at. -/
def Boot.append (bytes : List Byte) (b : Boot) : Boot := { b with image := b.image ++ bytes }

theorem State.loadChunk_eq : s.loadChunk k =
    (s.tellBoot (s.modBoot fun b => (b.append (s.loadBuf (k.p 1).toNat)).headerDue b.image.length)).answer k stOk 0 [] := rfl

theorem State.loadChunk_goes_on (loading : s.cmp.boot.st = 2)
    (passes : 512 ≤ s.cmp.boot.image.length ∨ s.cmp.boot.image.length + (s.loadBuf (k.p 1).toNat).length < 512 ∨
      headerOk (s.cmp.boot.image ++ s.loadBuf (k.p 1).toNat) s.cmp.boot.total = true) :
    s.loadChunk k = (s.modBoot (Boot.append (s.loadBuf (k.p 1).toNat))).answer k stOk 0 [] := by
  have stays := Boot.headerDue_stays (b := s.cmp.boot.append (s.loadBuf (k.p 1).toNat)) (by
    simpa only [Boot.append, List.length_append] using passes)
  rw [State.loadChunk_eq, State.modBoot_congr (g := Boot.append (s.loadBuf (k.p 1).toNat)) stays, State.tellBoot_of_other]
  exact fun failed => absurd (loading.symm.trans failed) (by decide)

theorem State.loadChunk_fails (loading : s.cmp.boot.st = 2) (early : s.cmp.boot.image.length < 512)
    (whole : 512 ≤ s.cmp.boot.image.length + (s.loadBuf (k.p 1).toNat).length)
    (bad : headerOk (s.cmp.boot.image ++ s.loadBuf (k.p 1).toNat) s.cmp.boot.total = false) :
    s.loadChunk k = ((s.modBoot fun b =>
      { b.append (s.loadBuf (k.p 1).toNat) with st := 6, err := 15 }).raise 558).answer k stOk 0 [] := by
  have fails := Boot.headerDue_fails (b := s.cmp.boot.append (s.loadBuf (k.p 1).toNat)) early (by
    simpa only [Boot.append, List.length_append] using whole) bad
  rw [State.loadChunk_eq,
    State.modBoot_congr (g := fun b => { b.append (s.loadBuf (k.p 1).toNat) with st := 6, err := 15 }) fails,
    State.tellBoot_of_failed (by simp [loading]) rfl]

/-! ### The checks of R402 -/

theorem Otp.imageErr_eq_none_iff {o : Otp} {bs : List Byte} : o.imageErr bs = none ↔
    (∃ slot, o.slotFor bs = some slot) ∧ o.minSvn ≤ bytesAt bs 11 8 ∧ hash384 (bs.drop 512) = hashAt bs 160 ∧
    ecdsaVerify (pubKey bs) (sha384 (bs.take 208)) ((bs.drop 208).take 96) = true := by
  simp only [Otp.imageErr, firstOf_eq_none_iff, List.forall_mem_cons, List.not_mem_nil, false_implies, implies_true, and_true,
    Option.isNone_eq_false_iff, Option.isSome_iff_exists, decide_eq_false_iff_not, Nat.not_lt, bne_eq_false_iff_eq,
    Bool.not_eq_false']

/-! ### Boot events -/

theorem exec_imageVerified_starts {slot : Bool} (verifying : s.cmp.boot.st = 3)
    (passes : s.otp.imageErr s.cmp.boot.image = none) (key : s.otp.slotFor s.cmp.boot.image = some slot) :
    exec .imageVerified s = .next (s.startNuinun s.cmp.boot.image slot) := by
  change execImageVerified s = _
  simp [execImageVerified, verifying, passes, key]

theorem exec_imageVerified_fails {e : Nat} (verifying : s.cmp.boot.st = 3)
    (broken : s.otp.imageErr s.cmp.boot.image = some e) :
    exec .imageVerified s = .next ((s.modBoot fun b => { b with st := 6, err := e }).raise 558) := by
  change execImageVerified s = _
  simp [execImageVerified, State.tellBoot, State.modBoot, Boot.fail, verifying, broken]

theorem State.startNuinun_of_unarmed {bs : List Byte} {slot : Bool} (unarmed : s.armedG 17 0 = none) :
    s.startNuinun bs slot = (
      let t := s.modBoot fun b => { b with st := 4, keySlot := slot, svn := bytesAt bs 11 8 % 256 }
      { t with cmp := { t.cmp with
        nuRun := !s.cmp.nuHeld, nuHalt := s.cmp.nuHeld, nuEntry := bytesAt bs 23 20, nuBad := none
        imem := (bs.drop 512).take (bytesAt bs 15 12)
        dmem := ((bs.drop 512).drop (bytesAt bs 15 12)).take (bytesAt bs 19 16) } }) := by
  simp only [State.startNuinun, unarmed, State.spendG]
  rfl

section FlashRead
variable {svn : Nat} {bytes : List Byte} (stored : s.flash.image = some (svn, bytes)) (loading : s.cmp.boot.st = 2)
  (fromFlash : s.cmp.boot.src = true)
include stored loading fromFlash

theorem exec_flashImageReadDone_good (works : s.flash.failed = false)
    (good : headerOk (bytes.take s.cmp.boot.total) s.cmp.boot.total = true) :
    exec .flashImageReadDone s = .next (s.modBoot fun b => { b with image := bytes.take b.total, st := 3 }) := by
  change execFlashImageReadDone s = _
  simp [execFlashImageReadDone, State.tellBoot, State.modBoot, stored, loading, fromFlash, works, good]

theorem exec_flashImageReadDone_bad (works : s.flash.failed = false)
    (bad : headerOk (bytes.take s.cmp.boot.total) s.cmp.boot.total = false) :
    exec .flashImageReadDone s = .next
      ((s.modBoot fun b => { b with image := bytes.take b.total, st := 6, err := 15 }).raise 558) := by
  change execFlashImageReadDone s = _
  simp [execFlashImageReadDone, State.tellBoot, State.modBoot, Boot.fail, stored, loading, fromFlash, works, bad]

theorem exec_flashImageReadDone_failed (failed : s.flash.failed = true) :
    exec .flashImageReadDone s = .next ((s.modBoot fun b => { b with st := 6, err := 13 }).raise 558).flashTold := by
  change execFlashImageReadDone s = _
  simp [execFlashImageReadDone, State.tellBoot, State.modBoot, Boot.fail, stored, loading, fromFlash, failed]

end FlashRead

theorem exec_firmwareReady_of_starting (starting : s.cmp.boot.st = 4) (running : s.cmp.nuHalt = false)
    (good : s.cmp.nuBad = none) : exec .firmwareReady s = .next (s.modBoot fun b => { b with st := 5 }) := by
  change execFirmwareReady s = _
  simp [execFirmwareReady, State.modBoot, State.readG, acts, starting, running, good]

theorem exec_startTimeout_of_starting (starting : s.cmp.boot.st = 4) :
    exec .startTimeout s = .next ((s.stopNuinun.modBoot fun b => { b with st := 6, err := 24 }).raise 558) :=
  congrArg Host.Outcome.next <|
    (if_neg (by simp [starting])).trans (State.tellBoot_of_failed (by simp [starting]) rfl)

end Boot

end Sys2Proof.Machine
end

section
/-! CERTIFICATE. An image's load and store, and the boot events. -/

namespace Sys2Proof.Machine

/-- Settles O43: an accepted packet by its own refusals and the header's check, a boot event by the state in which it finds the
load. -/
theorem imagesAndBoot : Obligations.ImagesAndBoot := by
  unfold Obligations.ImagesAndBoot
  refine ⟨⟨?begin, ?chunk, ?badHeader, ?loadEnd, ?storeBegin, ?storeChunk, ?storeFailed, ?storeEnd⟩,
    ⟨?starts, ?fails, ?checks, ?read, ?readBad, ?readFailed, ?ready, ?late, ?ignored⟩⟩
  case begin =>
    exact fun k s accepts ready notStarting notRunning stored => congrArg Host.Outcome.next <|
      serve_carries_out _ accepts rfl (loadBeginOwn_eq_none ready notStarting notRunning stored)
  case chunk =>
    exact fun k s accepts loading ring fits passes => congrArg Host.Outcome.next <|
      (serve_carries_out _ accepts rfl (loadChunkOwn_eq_none loading ring fits)).trans
        (State.loadChunk_goes_on (s := s.takePacket k) loading passes)
  case badHeader =>
    exact fun k s accepts loading ring fits before after bad => congrArg Host.Outcome.next <|
      (serve_carries_out _ accepts rfl (loadChunkOwn_eq_none loading ring fits)).trans
        (State.loadChunk_fails (s := s.takePacket k) loading before after bad)
  case loadEnd =>
    exact fun k s accepts loading whole => congrArg Host.Outcome.next <|
      serve_carries_out _ accepts rfl (loadEndOwn_eq_none loading whole)
  case storeBegin =>
    intro k s accepts idle
    refine congrArg Host.Outcome.next (serve_carries_out _ accepts rfl (firstOf_eq_none_iff.mpr ?_))
    exact List.forall_mem_singleton.mpr idle
  case storeChunk =>
    exact fun k x s accepts store begun notEnding fits works => congrArg Host.Outcome.next <|
      (serve_carries_out _ accepts rfl (storeChunkOwn_eq_none store ⟨begun, notEnding⟩ fits)).trans
        (if_neg (Bool.eq_false_iff.mp works))
  case storeFailed =>
    exact fun k x s accepts store begun notEnding fits failed => congrArg Host.Outcome.next <|
      (serve_carries_out _ accepts rfl (storeChunkOwn_eq_none store ⟨begun, notEnding⟩ fits)).trans (if_pos failed)
  case storeEnd =>
    exact fun k x s accepts store begun notEnding whole => congrArg Host.Outcome.next <|
      serve_carries_out _ accepts rfl (storeEndOwn_eq_none store ⟨begun, notEnding⟩ whole)
  case starts =>
    intro slot s verifying passes key unarmed
    rw [exec_imageVerified_starts verifying passes key, State.startNuinun_of_unarmed unarmed]
  case fails => exact fun e s verifying broken => exec_imageVerified_fails verifying broken
  case checks => exact fun bs o => Otp.imageErr_eq_none_iff
  case read =>
    exact fun svn bytes s stored loading fromFlash good works =>
      exec_flashImageReadDone_good stored loading fromFlash works good
  case readBad =>
    exact fun svn bytes s stored loading fromFlash bad works =>
      exec_flashImageReadDone_bad stored loading fromFlash works bad
  case readFailed =>
    exact fun x s stored loading fromFlash failed => exec_flashImageReadDone_failed stored loading fromFlash failed
  case ready => exact fun s starting running good => exec_firmwareReady_of_starting starting running good
  case late => exact fun s starting => exec_startTimeout_of_starting starting
  case ignored =>
    intro s other
    exact ⟨congrArg Host.Outcome.next (if_pos other), congrArg Host.Outcome.next (if_pos (.inl other))⟩

end Sys2Proof.Machine
end

section
/-! SUPPORT. The long commands' own refusals (R414, R328, R331, R338, R374), and what starts with their jobs. -/

namespace Sys2Proof.Machine

section Long
variable {s : State} {k : Packet}

theorem State.startJob_of_free {target : Nat} {f : Job → Job} {j : Fin 8} (free : s.freeJob = some j) :
    s.startJob k target f = (s.modJob j fun _ => f { st := 1, opc := k.opc, target := target, cseq := k.seq }).answer k
      stAccepted 0 [BitVec.ofNat 32 j.val] := by
  simp only [State.startJob, free]

/-- A job's start and its reply change the command processor alone. -/
theorem State.startJob_frame (target : Nat) (f : Job → Job) :
    (s.startJob k target f).regs = s.regs ∧ (s.startJob k target f).spans = s.spans := by
  cases free : s.freeJob with
  | none => simp only [State.startJob, free, and_self]
  | some j => simp only [State.startJob, free, State.answer, State.reply, State.modJob, and_self]

theorem State.startJob_geom (target : Nat) (f : Job → Job) (c : ChanId) :
    (s.startJob k target f).geom c = s.geom c := by
  have word : (s.startJob k target f).agent c 0x000 = s.agent c 0x000 := by
    simp only [State.agent, State.live, (State.startJob_frame target f).1]
  simp only [State.geom]
  rw [word]

theorem State.startJob_span (target : Nat) (f : Job → Job) (m : SetId) :
    (s.startJob k target f).span m = s.span m := by
  simp only [State.span, (State.startJob_frame target f).2]

/-! ### Sideband and training -/

theorem spdReadOwn_eq_none (inUse : ∀ c ∈ k.chans, (s.chan c).svc.st = 1 ∨ (s.chan c).svc.st = 2)
    (noRead : s.jobMeets k 0x10 = false) (noTrain : s.jobMeets k 0x15 = false) : spdReadOwn s k = none := by
  have bars : (k.chans.any fun c => (s.chan c).svc.st != 1 && (s.chan c).svc.st != 2) = false := by
    refine List.any_eq_false.mpr fun c mem => ?_
    obtain powered | inService := inUse c mem
    · simp [powered]
    · simp [inService]
  simp [spdReadOwn, firstOf_eq_none_iff, bars, noRead, noTrain]

theorem State.spdRead_of_free {j : Fin 8} (free : s.freeJob = some j) :
    s.spdRead k = (
      let t := k.chans.foldl (fun (t : State) (c : ChanId) => t.askXfers c
        ([0, 1].map fun slot => { slot := slot, target := 0, len := 1024, use := .spd j.val })) s
      (t.startJob k 31 fun b => { b with mask := k.mask }).spdStopped j) := by
  simp only [State.spdRead, free]
  rfl

theorem pmicEnableOwn_eq_none
    (ready : ∀ c ∈ k.chans, s.phyEn c = false ∧ ((s.chan c).spd0.isSome = true ∨ (s.chan c).spd1.isSome = true))
    (noOther : ∀ i, (s.job i).runs 0x13 = false) : pmicEnableOwn s k = none := by
  have bars : (k.chans.any fun c => s.phyEn c || ((s.chan c).spd0.isNone && (s.chan c).spd1.isNone)) = false := by
    refine List.any_eq_false.mpr fun c mem => ?_
    obtain ⟨off, slot0 | slot1⟩ := ready c mem
    · simp [off, Option.isNone_eq_false_iff.mpr slot0]
    · simp [off, Option.isNone_eq_false_iff.mpr slot1]
  simp [pmicEnableOwn, firstOf_eq_none_iff, bars, State.anyJob_eq_false (p := fun b => b.runs 0x13) noOther]

theorem State.pmicEnable_of_free {j : Fin 8} (free : s.freeJob = some j) :
    s.pmicEnable k = (s.startJob k 31 fun b => { b with mask := k.mask, todo := s.modules k }).nextEnable j := by
  simp only [State.pmicEnable, free]
  rfl

theorem trainOwn_eq_none (ready : ∀ c ∈ k.chans, (s.chan c).phy.cal = true ∧ s.schEn c = false)
    (noTrain : s.jobMeets k 0x15 = false) : trainOwn s k = none := by
  have bars : (k.chans.any fun c => !(s.chan c).phy.cal || s.schEn c) = false := by
    refine List.any_eq_false.mpr fun c mem => ?_
    obtain ⟨cal, off⟩ := ready c mem
    simp [cal, off]
  simp [trainOwn, firstOf_eq_none_iff, bars, noTrain]

theorem patchLoadOwn_eq_none (ready : ∀ c ∈ k.chans, s.phyEn c = true ∧ s.schEn c = false) : patchLoadOwn s k = none := by
  have bars : (k.chans.any fun c => !s.phyEn c || s.schEn c) = false := by
    refine List.any_eq_false.mpr fun c mem => ?_
    obtain ⟨on, off⟩ := ready c mem
    simp [on, off]
  simp [patchLoadOwn, firstOf_eq_none_iff, bars]

/-! ### Span sets -/

theorem sweepOwn_eq_none (closed : s.allClosed = true)
    (spans : ∀ m : SetId, k.sets.getLsbD m.val = true → s.spanMode m = true) : sweepOwn s k = none := by
  have bars : (allSets.any fun m => k.sets.getLsbD m.val && !s.spanMode m) = false := by
    refine List.any_eq_false.mpr fun m _ => ?_
    simpa using spans m
  simp [sweepOwn, firstOf_eq_none_iff, closed, bars]

theorem rebuildOwn_eq_none (span : s.spanMode k.set = true) (degraded : (s.span k.set).st = 1)
    (trained : (s.chan (chanOf k.set (s.span k.set).pos)).phy.trained = true)
    (running : s.running (chanOf k.set (s.span k.set).pos) = true) (idle : (s.span k.set).reb.on = false) :
    rebuildOwn s k = none := by
  simp [rebuildOwn, firstOf_eq_none_iff, span, degraded, trained, running, idle]

theorem State.rebuild_eq : s.rebuild k = (
    let t := s.startJob k k.set.val id
    let t := if flag (k.p 0) 8 = true then t.newModule (chanOf k.set (s.span k.set).pos) else t
    (setChans k.set).foldl (fun (u : State) (c : ChanId) => (u.ask c 4).after c)
      (t.modReb k.set fun _ => { on := true, isNew := flag (k.p 0) 8 })) := by
  simp only [State.rebuild, State.startJob_span]

/-! ### Maintenance -/

theorem scrubOwn_eq_none (idle : (s.chan k.chan).scrub.st ≠ 1) (running : s.running k.chan = true)
    (within : k.line + k.count ≤ (s.geom k.chan).reserved) : scrubOwn s k = none := by
  simp [scrubOwn, firstOf_eq_none_iff, idle, running, within]

theorem patchInstallOwn_eq_none (running : s.running k.chan = true)
    (unpatched : ∀ e, (s.chan k.chan).patchOf k.line = some e → e.st = 0) (idle : k.line ∉ (s.chan k.chan).patch.wait)
    (unlocked : s.pprLocked k.chan k.line = false) (entry : (s.chan k.chan).patch.freeEntry.isSome = true)
    (spare : ((s.chan k.chan).patch.freeSpare ((s.geom k.chan).place k.line).sub).isSome = true) :
    patchInstallOwn s k = none := by
  have free : (((s.chan k.chan).patchOf k.line).map fun (e : PatchE) => e.st).getD 0 = 0 := by
    cases found : (s.chan k.chan).patchOf k.line with
    | none => rfl
    | some e => exact unpatched e found
  simp [patchInstallOwn, firstOf_eq_none_iff, running, free, idle, unlocked, Option.isNone_eq_false_iff.mpr entry,
    Option.isNone_eq_false_iff.mpr spare]

section Bars
variable {c : ChanId} {row : Nat} {hard restore : Bool}

/-- What lets a PPR of a row begin (R328). -/
theorem State.pprBars_pass (idle : (s.chan c).ppr.step = 0) (free : s.rankHeld c row = false) (running : s.running c = true)
    (present : s.spanMode (setOf c) = true → s.lineLost (setOf c) (posOf c) row = false)
    (staged : (s.chan c).patch.staged = none ∨ (s.chan c).patch.staged = some row)
    (restores : restore = true → hard = false ∧ row ∈ (s.chan c).patch.soft) :
    firstOf (s.pprBars c row hard restore) = none := by
  have there : (s.spanMode (setOf c) && s.lineLost (setOf c) (posOf c) row) = false := by simpa using present
  have own : ((s.chan c).patch.staged.isSome && (s.chan c).patch.staged != some row) = false := by
    obtain none | mine := staged
    · simp [none]
    · simp [mine]
  have soft : (restore && (hard || !(s.chan c).patch.soft.contains row)) = false := by
    cases restore with
    | false => rfl
    | true =>
      obtain ⟨notHard, mem⟩ := restores rfl
      simp [notHard, mem]
  simp only [firstOf_eq_none_iff, State.pprBars, List.forall_mem_cons, there, own, soft, idle, free, running]
  simp

end Bars

theorem State.ppr_eq : s.ppr k = (
    let t := (s.startJob k k.chan.val id).modPpr k.chan fun _ =>
      { step := 1, row := k.line, hard := flag (k.p 0) 8, restore := flag (k.p 0) 9 }
    let t := t.modPatch k.chan fun p =>
      { p with recheck := (p.recheck ++ p.wait.filter fun l => (s.geom k.chan).sameRow k.line l).eraseDups }
    (t.ask k.chan 3).after k.chan) := by
  simp only [State.ppr, State.beginPpr, State.startJob_geom]

theorem pprUnstageOwn_eq_none {row : Nat} (staged : (s.chan k.chan).patch.staged = some row)
    (idle : (s.chan k.chan).ppr.step = 0) : pprUnstageOwn s k = none := by
  simp [pprUnstageOwn, firstOf_eq_none_iff, staged, idle]

theorem State.pprUnstage_of_staged {row : Nat} (staged : (s.chan k.chan).patch.staged = some row) :
    s.pprUnstage k = (
      let t := (s.startJob k k.chan.val id).modPpr k.chan fun _ => { step := 7, row := row, unstage := true, lock := true }
      (t.ask k.chan 3).after k.chan) := by
  simp only [State.pprUnstage, staged, Option.getD_some]

theorem ladderTakeOwn_eq_none (wanted : field (k.p 0) 10 8 = (s.chan k.chan).ladder.want)
    (ppr : (s.chan k.chan).ladder.want = 2 → firstOf (s.pprBars k.chan ((s.geom k.chan).rowOf (s.chan k.chan).ladder.wantLine)
      ((s.chan k.chan).patch.soft.contains ((s.geom k.chan).rowOf (s.chan k.chan).ladder.wantLine)) false) = none) :
    ladderTakeOwn s k = none := by
  simp only [firstOf_eq_none_iff] at ppr
  simp only [ladderTakeOwn, firstOf_eq_none_iff, List.forall_mem_cons, wanted, bne_self_eq_false, true_and]
  split
  case isTrue rung => exact ppr rung
  case isFalse => exact fun x none => absurd none List.not_mem_nil

theorem State.ladderTake_of_wanted (wanted : field (k.p 0) 10 8 = (s.chan k.chan).ladder.want) :
    s.ladderTake k = (
      let l := (s.chan k.chan).ladder
      let line := if l.want = 2 then (s.geom k.chan).rowOf l.wantLine else l.wantLine
      (s.startJob k k.chan.val fun b => { b with line := line }).takeRung k.chan l.want) := by
  simp only [State.ladderTake, wanted]

/-! ### Prepare -/

theorem prepareOwn_eq_none (inService : (s.chan k.chan).svc.st = 2) (calm : s.pers.strobe = false)
    (allowed : flag (k.p 0) 8 = true ∨
      (s.spanMode (setOf k.chan) = true ∧ (s.span (setOf k.chan)).st ≠ 3 ∧
       ((s.span (setOf k.chan)).st = 0 ∨ (s.span (setOf k.chan)).pos = posOf k.chan) ∧
       ∀ d ∈ setChans (setOf k.chan), d ≠ k.chan → (s.chan d).svc.st ≠ 3)) : prepareOwn s k = none := by
  obtain forced | ⟨span, online, position, others⟩ := allowed
  · simp [prepareOwn, firstOf_eq_none_iff, inService, calm, forced]
  · have elsewhere : ((((s.span (setOf k.chan)).st == 1 || (s.span (setOf k.chan)).st == 2)) &&
        (s.span (setOf k.chan)).pos != posOf k.chan) = false := by
      obtain normal | here := position
      · simp [normal]
      · simp [here]
    have noOther : (((setChans (setOf k.chan)).filter (· != k.chan)).any fun d => (s.chan d).svc.st == 3) = false := by
      refine List.any_eq_false.mpr fun d mem => ?_
      simp only [List.mem_filter, bne_iff_ne] at mem
      simpa using others d mem.1 mem.2
    simp only [prepareOwn, firstOf_eq_none_iff, List.forall_mem_cons, span, elsewhere, noOther, inService, calm]
    simp [online]

end Long

end Sys2Proof.Machine
end

section
/-! CERTIFICATE. A long ring command that is accepted starts a job. -/

namespace Sys2Proof.Machine

/-- Settles O44: each opcode's own refusals let the packet by, and what is carried out is its command's definition. -/
theorem longCommandsStartJobs : Obligations.LongCommandsStartJobs := by
  unfold Obligations.LongCommandsStartJobs
  refine ⟨?job, ?train, ?phy, ?patchLoad, ?zero, ?resweep, ?spd, ?pmic, ?scrub, ?install, ?ppr, ?unstage, ?ladder, ?rungs,
    ?rebuild, ?prepare⟩
  case job => exact fun k target f j s free => State.startJob_of_free free
  case train =>
    exact fun k s accepts ready noTrain => congrArg Host.Outcome.next <|
      serve_carries_out _ accepts rfl (trainOwn_eq_none ready noTrain)
  case phy => exact fun p => ⟨fun level => if_pos level, fun level => if_neg level⟩
  case patchLoad =>
    exact fun k s accepts ready => congrArg Host.Outcome.next <|
      serve_carries_out _ accepts rfl (patchLoadOwn_eq_none ready)
  case zero =>
    intro k s accepts closed spans
    have opc : (k.opc == 0x26) = true := by rw [accepts.opc_eq]; rfl
    have swept := serve_carries_out State.startSweep accepts rfl (sweepOwn_eq_none closed spans)
    simp only [State.startSweep, opc] at swept
    exact congrArg Host.Outcome.next swept
  case resweep =>
    intro k s accepts closed spans
    have opc : (k.opc == 0x26) = false := by rw [accepts.opc_eq]; rfl
    have swept := serve_carries_out State.startSweep accepts rfl (sweepOwn_eq_none closed spans)
    simp only [State.startSweep, opc] at swept
    exact congrArg Host.Outcome.next swept
  case spd =>
    exact fun k j s accepts inUse noRead noTrain free => congrArg Host.Outcome.next <|
      (serve_carries_out _ accepts rfl (spdReadOwn_eq_none inUse noRead noTrain)).trans
        (State.spdRead_of_free (s := s.takePacket k) free)
  case pmic =>
    exact fun k j s accepts ready noOther free => congrArg Host.Outcome.next <|
      (serve_carries_out _ accepts rfl (pmicEnableOwn_eq_none ready noOther)).trans
        (State.pmicEnable_of_free (s := s.takePacket k) free)
  case scrub =>
    exact fun k s accepts idle running within => congrArg Host.Outcome.next <|
      serve_carries_out _ accepts rfl (scrubOwn_eq_none idle running within)
  case install =>
    exact fun k s accepts running unpatched idle unlocked entry spare => congrArg Host.Outcome.next <|
      serve_carries_out _ accepts rfl (patchInstallOwn_eq_none running unpatched idle unlocked entry spare)
  case ppr =>
    exact fun k s accepts idle free running present staged restores => congrArg Host.Outcome.next <|
      (serve_carries_out _ accepts rfl (State.pprBars_pass idle free running present staged restores)).trans
        (State.ppr_eq (s := s.takePacket k))
  case unstage =>
    exact fun k row s accepts staged idle => congrArg Host.Outcome.next <|
      (serve_carries_out _ accepts rfl (pprUnstageOwn_eq_none staged idle)).trans
        (State.pprUnstage_of_staged (s := s.takePacket k) staged)
  case ladder =>
    rintro k row s accepts wanted rfl passes
    refine congrArg (fun t : State => Host.Outcome.next t.settleAll.sweepFails) <|
      (serve_carries_out _ accepts rfl (ladderTakeOwn_eq_none wanted fun rung => ?_)).trans
        (State.ladderTake_of_wanted (s := s.takePacket k) wanted)
    obtain ⟨idle, free, running, present, staged⟩ := passes rung
    exact State.pprBars_pass idle free running present staged fun restore => nomatch restore
  case rungs => exact fun c s => ⟨rfl, rfl, rfl, rfl, rfl⟩
  case rebuild =>
    exact fun k s accepts span degraded trained running idle => congrArg Host.Outcome.next <|
      (serve_carries_out _ accepts rfl (rebuildOwn_eq_none span degraded trained running idle)).trans
        (State.rebuild_eq (s := s.takePacket k))
  case prepare =>
    exact fun k s accepts inService calm allowed => congrArg Host.Outcome.next <|
      serve_carries_out _ accepts rfl (prepareOwn_eq_none inService calm allowed)

end Sys2Proof.Machine
end

section
/-! SUPPORT. The commands that hold the ring (R353, R383, R387, R265), DEGRADE_RANK (R335) and EVR_CLEAR (R445, R446). -/

namespace Sys2Proof.Machine

section Holders
variable {s : State} {k : Packet}

/-! ### Their own refusals -/

theorem i3cReadOwn_eq_none (noWindow : s.phase ≠ .commit) (awake : s.phase ≠ .slumber) : i3cReadOwn s k = none := by
  simp [i3cReadOwn, firstOf_eq_none_iff, noWindow, awake]

theorem pmicSetOwn_eq_none (inService : (s.chan k.chan).svc.st = 2) (unlocked : (s.chan k.chan).ppr.lock = false) :
    pmicSetOwn s k = none := by
  simp [pmicSetOwn, firstOf_eq_none_iff, inService, unlocked]

theorem mrReadOwn_eq_none (on : s.schEn k.chan = true) : mrReadOwn s k = none := by
  simp [mrReadOwn, firstOf_eq_none_iff, on]

theorem mrWriteOwn_eq_none (on : s.schEn k.chan = true) (unlocked : (s.chan k.chan).ppr.lock = false) :
    mrWriteOwn s k = none := by
  simp [mrWriteOwn, firstOf_eq_none_iff, on, unlocked]

theorem slumberOwn_eq_none (closed : s.allClosed = true) (off : s.mill.st = .off) (noJob : ∀ j, (s.job j).st ≠ 1)
    (noPrepare : ∀ c, (s.chan c).svc.st ≠ 3) : slumberOwn s k = none := by
  have jobs : s.anyJob (fun b => b.st == 1) = false := State.anyJob_eq_false fun j => by simp [noJob j]
  have chans : (allChans.any fun c => (s.chan c).svc.st == 3) = false :=
    List.any_eq_false.mpr fun c _ => by simp [noPrepare c]
  simp [slumberOwn, firstOf_eq_none_iff, closed, off, jobs, chans]

theorem millActionOwn_eq_none (allowed : s.actOk (field (k.p 0) 2 0) = true) : millActionOwn s k = none := by
  simp [millActionOwn, firstOf_eq_none_iff, allowed]

theorem degradeOwn_eq_none (span : s.spanMode (setOf k.chan) = true)
    (whole : (s.span (setOf k.chan)).st ≠ 2 ∧ (s.span (setOf k.chan)).st ≠ 3)
    (mine : (s.span (setOf k.chan)).st = 1 → (s.span (setOf k.chan)).pos = posOf k.chan) : degradeOwn s k = none := by
  obtain ⟨notRebuilding, online⟩ := whole
  simpa [degradeOwn, firstOf_eq_none_iff, span, notRebuilding, online] using mine

theorem evrClearOwn_eq_none {c key : List Byte} (chal : s.evr.chal = some c) (loaded : s.evrKey = some key) :
    evrClearOwn s k = none := by
  simp [evrClearOwn, firstOf_eq_none_iff, chal, loaded]

/-! ### What they do -/

theorem State.pmicSet_eq : s.pmicSet k = ((s.holdRing k 0).ask k.chan 7).after k.chan := by
  simp only [State.pmicSet, State.askWeir]

theorem State.mrRead_eq : s.mrRead k = ((s.holdRing k 0).ask k.chan 6).after k.chan := by
  simp only [State.mrRead, State.askWeir]

theorem State.mrWrite_eq : s.mrWrite k = ((s.holdRing k 0).ask k.chan 6).after k.chan := by
  simp only [State.mrWrite, State.askWeir]

theorem State.idleEnter_of_all (ready : ∀ c ∈ k.chans, s.mayIdle c = true ∧ (s.chan c).pwrst = 0) :
    s.idleEnter k = (k.chans.foldl State.beginIdle (s.holdRing k k.mask)).finishIdle := by
  have refused : k.chans.foldl (fun (b : BitVec 20) (c : ChanId) => if (!s.mayIdle c) = true then b ||| chanBit c else b) 0 = 0 :=
    foldl_zero _ fun c mem => by simp [(ready c mem).1]
  have there : k.chans.foldl (fun (b : BitVec 20) (c : ChanId) =>
      if (s.mayIdle c && (s.chan c).pwrst == 2) = true then b ||| chanBit c else b) 0 = 0 :=
    foldl_zero _ fun c mem => by simp [(ready c mem).2]
  have all : (k.chans.filter fun c => s.mayIdle c && (s.chan c).pwrst == 0) = k.chans :=
    List.filter_eq_self.mpr fun c mem => by simp [ready c mem]
  simp only [State.idleEnter, refused, there, all]
  rfl

theorem State.idleExit_of_all (idle : ∀ c ∈ k.chans, (s.chan c).pwrst = 2) :
    s.idleExit k = (k.chans.foldl State.beginExit (s.holdRing k k.mask)).finishIdle := by
  have out : k.chans.foldl (fun (b : BitVec 20) (c : ChanId) =>
      if (s.chan c).pwrst = 2 ∨ (s.chan c).pwrst = 3 then b else b ||| chanBit c) 0 = 0 :=
    foldl_keep _ (fun c => (s.chan c).pwrst = 2 ∨ (s.chan c).pwrst = 3) (fun c mem => .inl (idle c mem)) 0
  have all : (k.chans.filter fun c => (s.chan c).pwrst == 2) = k.chans :=
    List.filter_eq_self.mpr fun c mem => by simp [idle c mem]
  simp only [State.idleExit, out, all]
  rfl

theorem State.millAction_eq : s.millAction k =
    ((s.holdRing k 0).store 0x9004 (k.p 0 &&& 7)).post (groupBit 27) (s.tide + 64) false := by
  have tide : ((s.holdRing k 0).store 0x9004 (k.p 0 &&& 7)).tide = s.tide := (State.store_tame ..).tide
  simp only [State.millAction, State.postNow, tide]

/-! ### EVR_CLEAR -/

theorem State.consumed_of_taken {t : State} (front : s.front = some k) (mine : k.opc = 0x49) (good : s.badPacket k = none) :
    s.consumed t = { t with evr := { t.evr with chal := none } } := by
  simp only [State.consumed, front]
  exact if_pos ⟨mine, by rw [good]; rfl⟩

/-- An accepted EVR_CLEAR leaves its challenge used up (R445). -/
theorem exec_evrClear_of_accepts {u : State} (accepts : Accepts s k 0x49)
    (served : s.serve 0x49 evrClearOwn State.evrClear = u) :
    exec .evrClear s = .next { u with evr := { u.evr with chal := none } } := by
  obtain ⟨front, mine, crc, seq, -⟩ := accepts
  rw [← State.consumed_of_taken front mine (State.badPacket_of_good crc seq), ← served]
  rfl

section Key
variable {c key : List Byte} (chal : s.evr.chal = some c) (loaded : s.evrKey = some key)
include chal loaded

theorem State.evrClear_of_proof
    (proves : hmacSha256 key ([0x45, 0x56, 0x52, 0x43] ++ c) = ((k.params.take 8).map wordBytes).flatten) :
    s.evrClear k = s.clearRecords.answer k stOk 0 [] := by
  have proof : s.provesClear (s.evrKey.getD []) k = true := by
    simp only [State.provesClear, chal, loaded, Option.getD_some, beq_iff_eq, proves]
  exact if_pos proof

theorem State.evrClear_of_no_proof
    (fails : hmacSha256 key ([0x45, 0x56, 0x52, 0x43] ++ c) ≠ ((k.params.take 8).map wordBytes).flatten) :
    s.evrClear k = ((s.note 10 s.newestRseq).raise 561).answer k stRefused 20 [] := by
  have noProof : ¬s.provesClear (s.evrKey.getD []) k = true := by
    simpa only [State.provesClear, chal, loaded, Option.getD_some, beq_iff_eq] using fails
  exact if_neg noProof

end Key
end Holders

end Sys2Proof.Machine
end

section
/-! CERTIFICATE. The ring commands that hold the ring, SLUICE, DEGRADE_RANK and EVR_CLEAR. -/

namespace Sys2Proof.Machine

/-- Settles O45: each opcode's own refusals let the packet by, and what is carried out is its command's definition. -/
theorem ringHoldersSluiceDegradeClear : Obligations.RingHoldersSluiceDegradeClear := by
  unfold Obligations.RingHoldersSluiceDegradeClear
  refine ⟨⟨?holds, ?i3c, ?pmic, ?mrRead, ?mrWrite, ?enter, ?enterAny, ?exit, ?exitAny, ?slumber, ?mill⟩,
    ⟨?sluice, ?noSluice, ?degrade, ?clear, ?noClear, ?noChallenge⟩⟩
  case holds => exact fun k mask s => rfl
  case i3c =>
    exact fun k s accepts noWindow awake => congrArg Host.Outcome.next <|
      serve_carries_out _ accepts rfl (i3cReadOwn_eq_none noWindow awake)
  case pmic =>
    exact fun k s accepts inService unlocked => congrArg Host.Outcome.next <|
      (serve_carries_out _ accepts rfl (pmicSetOwn_eq_none inService unlocked)).trans
        (State.pmicSet_eq (s := s.takePacket k))
  case mrRead =>
    exact fun k s accepts on => congrArg Host.Outcome.next <|
      (serve_carries_out _ accepts rfl (mrReadOwn_eq_none on)).trans (State.mrRead_eq (s := s.takePacket k))
  case mrWrite =>
    exact fun k s accepts on unlocked => congrArg Host.Outcome.next <|
      (serve_carries_out _ accepts rfl (mrWriteOwn_eq_none on unlocked)).trans
        (State.mrWrite_eq (s := s.takePacket k))
  case enter =>
    exact fun k s accepts ready => congrArg Host.Outcome.next <|
      (serve_carries_out _ accepts rfl rfl).trans (State.idleEnter_of_all (s := s.takePacket k) ready)
  case enterAny => exact fun k s accepts => congrArg Host.Outcome.next (serve_carries_out _ accepts rfl rfl)
  case exit =>
    exact fun k s accepts idle => congrArg Host.Outcome.next <|
      (serve_carries_out _ accepts rfl rfl).trans (State.idleExit_of_all (s := s.takePacket k) idle)
  case exitAny => exact fun k s accepts => congrArg Host.Outcome.next (serve_carries_out _ accepts rfl rfl)
  case slumber =>
    exact fun k s accepts closed off noJob noPrepare => congrArg Host.Outcome.next <|
      serve_carries_out _ accepts rfl (slumberOwn_eq_none closed off noJob noPrepare)
  case mill =>
    exact fun k s accepts allowed => congrArg Host.Outcome.next <|
      (serve_carries_out _ accepts rfl (millActionOwn_eq_none allowed)).trans
        (State.millAction_eq (s := s.takePacket k))
  case sluice =>
    exact fun k s accepts key => congrArg (fun t : State => Host.Outcome.next t.sweepFails) <|
      serve_carries_out _ accepts rfl (if_neg (by simp [key]))
  case noSluice =>
    exact fun k s accepts other => congrArg (fun t : State => Host.Outcome.next t.sweepFails) <|
      serve_refuses _ accepts rfl (if_pos (by simpa using other))
  case degrade =>
    exact fun k s accepts span whole mine => congrArg (fun t : State => Host.Outcome.next t.settleAll) <|
      serve_carries_out _ accepts rfl (degradeOwn_eq_none span whole mine)
  case clear =>
    exact fun k c key s accepts chal loaded proves => exec_evrClear_of_accepts accepts <|
      (serve_carries_out _ accepts rfl (evrClearOwn_eq_none chal loaded)).trans
        (State.evrClear_of_proof (s := s.takePacket k) chal loaded proves)
  case noClear =>
    exact fun k c key s accepts chal loaded fails => exec_evrClear_of_accepts accepts <|
      (serve_carries_out _ accepts rfl (evrClearOwn_eq_none chal loaded)).trans
        (State.evrClear_of_no_proof (s := s.takePacket k) chal loaded fails)
  case noChallenge =>
    exact fun k s accepts none => exec_evrClear_of_accepts accepts <|
      serve_refuses _ accepts rfl (if_pos (Option.isNone_iff_eq_none.mpr none))

end Sys2Proof.Machine
end

section
/-! SUPPORT. The end of a job (R416 to R418), and the 25 ms limit (R413). -/

namespace Sys2Proof.Machine

/-! ### A job leaves RUNNING -/

section Close
variable {b : Job}

theorem Job.close_done (res : List Word) (stands : b.cancel = false) :
    b.close 0 res = { b with st := 2, err := 0, prog := 1024, res := res } := by
  simp [Job.close, stands]

theorem Job.close_failed {e : Nat} (res : List Word) (fails : e ≠ 0) (stands : b.cancel = false) :
    b.close e res = { b with st := 3, err := e, res := res } := by
  simp [Job.close, fails, stands]

theorem Job.close_cancelled (e : Nat) (res : List Word) (cancelled : b.cancel = true) :
    b.close e res = { b with st := 4, err := 0, res := res } := by
  simp [Job.close, cancelled]

end Close

section JobEnds
variable {s : State} {j : Fin 8} {r : JobEnd} {f : Tab TrnFail 20}

theorem exec_jobEnd_of_running (running : (s.job j).st = 1) :
    exec (.jobEnd j r f) s = .next (s.endJob j r f).settleAll.sweepFails :=
  congrArg Host.Outcome.next (if_neg (not_not_intro running))

theorem exec_jobEnd_of_endJob {t : State} (running : (s.job j).st = 1) (ends : s.endJob j r f = t) :
    exec (.jobEnd j r f) s = .next t.settleAll.sweepFails := by
  rw [exec_jobEnd_of_running running, ends]

/-- A running job that an engine carries out, SPD_READ among them, ends with the engine's ERR once it has finished. -/
theorem State.endJob_of_engine (engine : (s.job j).opc ∉ [0x15, 0x18, 0x41, 0x43]) :
    s.endJob j r f = match s.jobFin j with
      | none => s
      | some e => s.modJob j fun b => b.close e (s.job j).words := by
  simp only [State.endJob, State.closeJob]
  split
  case h_1 opc => exact absurd (by rw [opc]; decide) engine
  case h_2 opc => exact absurd (by rw [opc]; decide) engine
  case h_3 opc => exact absurd (by rw [opc]; decide) engine
  case h_4 opc => exact absurd (by rw [opc]; decide) engine
  case h_5 => rfl

section Engine
variable (engine : (s.job j).opc ∉ [0x10, 0x15, 0x18, 0x41, 0x43])
include engine

theorem State.endJob_of_fin : s.endJob j r f = match (s.job j).fin with
      | none => s
      | some e => s.modJob j fun b => b.close e (s.job j).words := by
  have notSpd : (s.job j).opc ≠ 0x10 := fun opc => engine (by rw [opc]; decide)
  have fin : s.jobFin j = (s.job j).fin := if_neg fun h => notSpd h.1
  rw [State.endJob_of_engine fun mem => engine (List.mem_cons_of_mem _ mem), fin]

end Engine

section Spd
variable (spd : (s.job j).opc = 0x10)
include spd

theorem State.endJob_spd_over (allOver : ∀ c, ∀ x ∈ (s.chan c).i3c, x.use ≠ .spd j.val) :
    s.endJob j r f = s.modJob j fun b => b.close 0 (s.job j).words := by
  have all : (allChans.all fun c => !((s.chan c).i3c.any fun x => x.use == .spd j.val)) = true := by simpa using fun c _ => allOver c
  have fin : s.jobFin j = some 0 := if_pos ⟨spd, all⟩
  rw [State.endJob_of_engine (by rw [spd]; decide), fin]

theorem State.endJob_spd_goes_on {c : ChanId} {x : Xfer} (mem : x ∈ (s.chan c).i3c) (use : x.use = .spd j.val)
    (unfinished : (s.job j).fin = none) : s.endJob j r f = s := by
  have notAll : ¬((s.job j).opc = 0x10 ∧
      (allChans.all fun c => !((s.chan c).i3c.any fun x => x.use == .spd j.val)) = true) := by
    rintro ⟨-, all⟩
    have none := List.all_eq_true.mp all c (List.mem_finRange c)
    simp only [Bool.not_eq_true', List.any_eq_false, beq_iff_eq] at none
    exact none x mem use
  have fin : s.jobFin j = none := (if_neg notAll).trans unfinished
  rw [State.endJob_of_engine (by rw [spd]; decide), fin]

end Spd

/-! ### Training, patch tables and the image store -/

theorem State.endJob_train (train : (s.job j).opc = 0x15) :
    s.endJob j r f = (
      let x := s.endTrain (s.job j) r f
      x.1.modJob j fun b => b.close 0 [maskWord x.2.1, maskWord x.2.2]) := by
  simp only [State.endJob, train, State.closeJob]

theorem State.endJob_patchLoad (load : (s.job j).opc = 0x18) :
    s.endJob j r f = (
      let m := (s.job j).mask &&& ~~~(s.job j).bad
      (s.endPatchLoad m).modJob j fun b => b.close 0 (s.patchLoadWords m)) := by
  simp only [State.endJob, load, State.closeJob]

section Flash

theorem State.endJob_barred (store : (s.job j).opc = 0x41 ∨ (s.job j).opc = 0x43) (barred : s.mayProgram = false) :
    s.endJob j r f = s := by
  obtain erase | check := store
  · simp only [State.endJob, erase, barred, Bool.not_false, if_true]
  · simp only [State.endJob, check, barred, Bool.not_false, if_true]

variable (may : s.mayProgram = true)
include may

theorem State.endJob_flash_failed (store : (s.job j).opc = 0x41 ∨ (s.job j).opc = 0x43) (failed : r.err ≠ 0) :
    s.endJob j r f =
      (({ s with flash := { s.flash with under := false, store := none } } : State).modJob j fun b => b.close 13 []).raise 556 := by
  obtain erase | check := store
  · simp only [State.endJob, erase, may, failed, State.programmed, State.flashFail, State.closeJob, Bool.not_true,
      Bool.false_eq_true, if_false]
  · simp only [State.endJob, check, may, failed, State.programmed, State.flashFail, State.closeJob, Bool.not_true,
      Bool.false_eq_true, if_false, ne_eq, not_false_eq_true, if_true]

section Works
variable {x : Store} (works : r.err = 0) (begun : s.flash.store = some x)
include works begun

theorem State.endJob_erase (erase : (s.job j).opc = 0x41) :
    s.endJob j r f =
      ({ s with flash := { s.flash with under := false, store := some { x with erased := true } } } : State).modJob j fun b =>
        b.close 0 [] := by
  simp only [State.endJob, erase, may, works, begun, State.programmed, State.closeJob, Bool.not_true, Bool.false_eq_true,
    if_false, if_true, Option.map_some]

theorem State.endJob_check (check : (s.job j).opc = 0x43) :
    s.endJob j r f = (
      let bad := if headerOk s.flash.img x.total then s.otp.imageErr s.flash.img else some 15
      let t : State := { s with flash := { s.flash with
        under := false, store := none
        desc := match bad with
          | none => some (imgDesc x.total (bytesAt s.flash.img 11 8))
          | some _ => none } }
      t.modJob j fun b => b.close (bad.getD 0) []) := by
  simp only [State.endJob, check, may, works, begun, State.programmed, State.endStore, State.closeJob, Bool.not_true,
    Bool.false_eq_true, if_false, ne_eq, not_true_eq_false] <;> rfl

end Works
end Flash
end JobEnds

/-! ### The 25 ms limit -/

section Limit
variable {s : State} {u : Cur}

theorem exec_commandTimeout_of_none (idle : s.cmp.cur = none) : exec .commandTimeout s = .next s := by
  change execCommandTimeout s = _
  simp only [execCommandTimeout, idle]

section Current
variable (current : s.cmp.cur = some u)
include current

theorem exec_commandTimeout_of_cur :
    exec .commandTimeout s = .next (
      if [0x12, 0x14, 0x16, 0x17].contains u.opc && !s.accessBegun u then s.withdraw u
      else if u.opc = 0x31 ∨ u.opc = 0x32 then s.endIdle u
      else s) := by
  change execCommandTimeout s = _
  simp only [execCommandTimeout, current]

theorem exec_commandTimeout_withdraws (waits : u.opc ∈ [0x12, 0x14, 0x16, 0x17]) (notBegun : s.accessBegun u = false) :
    exec .commandTimeout s = .next (s.withdraw u) := by
  rw [exec_commandTimeout_of_cur current]
  exact congrArg Host.Outcome.next (if_pos (by rw [List.contains_iff_mem.mpr waits, notBegun]; rfl))

theorem exec_commandTimeout_goes_on (noIdle : u.opc ≠ 0x31 ∧ u.opc ≠ 0x32)
    (goesOn : u.opc ∉ [0x12, 0x14, 0x16, 0x17] ∨ s.accessBegun u = true) : exec .commandTimeout s = .next s := by
  have stays : ¬([0x12, 0x14, 0x16, 0x17].contains u.opc && !s.accessBegun u) = true := by
    rw [Bool.and_eq_true, List.contains_iff_mem, Bool.not_eq_true']
    rintro ⟨mem, notBegun⟩
    obtain other | begun := goesOn
    · exact other mem
    · exact absurd begun (Bool.eq_false_iff.mp notBegun)
  rw [exec_commandTimeout_of_cur current, if_neg stays, if_neg (not_or.mpr noIdle)]

theorem exec_commandTimeout_idle (idle : u.opc = 0x31 ∨ u.opc = 0x32) : exec .commandTimeout s = .next (s.endIdle u) := by
  have stays : ¬([0x12, 0x14, 0x16, 0x17].contains u.opc && !s.accessBegun u) = true := by
    rw [Bool.and_eq_true, List.contains_iff_mem]
    rintro ⟨mem, -⟩
    obtain enter | exit := idle
    · rw [enter] at mem
      exact absurd mem (by decide)
    · rw [exit] at mem
      exact absurd mem (by decide)
  rw [exec_commandTimeout_of_cur current, if_neg stays, if_pos idle]

end Current

/-! ### Whether the access of a command has begun -/

theorem State.accessBegun_i3cRead (opc : u.opc = 0x12) :
    s.accessBegun u = true ↔ ∃ x ∈ (s.chan u.ch).i3c, x.sent = true ∧ x.use = .i3cRead := by
  simp [State.accessBegun, opc]

theorem State.accessBegun_pmicSet (opc : u.opc = 0x14) :
    s.accessBegun u = true ↔
      (∃ x ∈ (s.chan u.ch).i3c, x.sent = true ∧ x.use = .pmicSet) ∨ (s.chan u.ch).settling = true := by
  simp [State.accessBegun, opc]

theorem State.accessBegun_modeRegister (opc : u.opc = 0x16 ∨ u.opc = 0x17) : s.accessBegun u = u.begun := by
  obtain read | write := opc
  · simp [State.accessBegun, read]
  · simp [State.accessBegun, write]

end Limit

end Sys2Proof.Machine
end

section
/-! CERTIFICATE. A running job ends, or its command's TMO passes. -/

namespace Sys2Proof.Machine

/-- Settles O46: JOB_END by what carries its job out, the limit by the command that holds the ring and whether its access has
begun. -/
theorem jobsEnd : Obligations.JobsEnd := by
  unfold Obligations.JobsEnd
  refine ⟨⟨?running, ?ended, ?done, ?failed, ?cancelled, ?goesOn, ?finished, ?spdOver, ?spdGoesOn, ?train, ?load, ?erase, ?check,
    ?flash, ?barred⟩, ⟨?withdraws, ?begun, ?exit, ?enter, ?none⟩⟩
  case running => exact fun j r f s running => exec_jobEnd_of_running running
  case ended => exact fun j r f s ended => congrArg Host.Outcome.next (if_pos ended)
  case done => exact fun b res stands => Job.close_done res stands
  case failed => exact fun b e res fails stands => Job.close_failed res fails stands
  case cancelled => exact fun b e res cancelled => Job.close_cancelled e res cancelled
  case goesOn => exact fun j r f s running engine fin =>
    exec_jobEnd_of_endJob running (by rw [State.endJob_of_fin engine, fin])
  case finished => exact fun j r f e s running engine fin =>
    exec_jobEnd_of_endJob running (by rw [State.endJob_of_fin engine, fin])
  case spdOver => exact fun j r f s running spd allOver =>
    exec_jobEnd_of_endJob running (State.endJob_spd_over spd allOver)
  case spdGoesOn => exact fun j r f c x s running spd mem use unfinished =>
    exec_jobEnd_of_endJob running (State.endJob_spd_goes_on spd mem use unfinished)
  case train => exact fun j r f s running train =>
    exec_jobEnd_of_endJob running (State.endJob_train train)
  case load => exact fun j r f s running load =>
    exec_jobEnd_of_endJob running (State.endJob_patchLoad load)
  case erase => exact fun j r f x s running erase works may begun =>
    exec_jobEnd_of_endJob running (State.endJob_erase (State.mayProgram_iff.mpr may) works begun erase)
  case check => exact fun j r f x s running check works may begun =>
    exec_jobEnd_of_endJob running (State.endJob_check (State.mayProgram_iff.mpr may) works begun check)
  case flash => exact fun j r f s running store failed may =>
    exec_jobEnd_of_endJob running (State.endJob_flash_failed (State.mayProgram_iff.mpr may) store failed)
  case barred => exact fun j r f s running store warned noneUnder =>
    exec_jobEnd_of_endJob running (State.endJob_barred store (by simp [State.mayProgram, warned, noneUnder]))
  case withdraws =>
    rintro u s current (⟨opc, notBegun⟩ | ⟨opc, notSent⟩ | ⟨opc, notSent, settled⟩)
    · refine exec_commandTimeout_withdraws current ?_ ((State.accessBegun_modeRegister opc).trans notBegun)
      rcases opc with opc | opc <;> simp [opc]
    · refine exec_commandTimeout_withdraws current (by simp [opc]) (Bool.eq_false_iff.mpr ?_)
      rw [Ne, State.accessBegun_i3cRead opc]
      rintro ⟨x, mem, sent, use⟩
      exact notSent x mem sent use
    · refine exec_commandTimeout_withdraws current (by simp [opc]) (Bool.eq_false_iff.mpr ?_)
      rw [Ne, State.accessBegun_pmicSet opc]
      rintro (⟨x, mem, sent, use⟩ | settles)
      · exact notSent x mem sent use
      · exact absurd settles (Bool.eq_false_iff.mp settled)
  case begun =>
    rintro u s current (⟨opc, begun⟩ | ⟨opc, sent⟩ | ⟨opc, begun⟩ | other)
    · refine exec_commandTimeout_goes_on current ?_ (.inr ((State.accessBegun_modeRegister opc).trans begun))
      rcases opc with opc | opc <;> simp [opc]
    · exact exec_commandTimeout_goes_on current (by simp [opc]) (.inr ((State.accessBegun_i3cRead opc).mpr sent))
    · exact exec_commandTimeout_goes_on current (by simp [opc]) (.inr ((State.accessBegun_pmicSet opc).mpr begun))
    · refine exec_commandTimeout_goes_on current ?_ (.inl fun mem => other ?_)
      · simp only [List.mem_cons, List.not_mem_nil, or_false, not_or] at other
        omega
      · simp only [List.mem_cons, List.not_mem_nil, or_false] at mem ⊢
        omega
  case exit =>
    intro u s current exit
    have noEnter : u.opc ≠ 0x31 := by omega
    rw [exec_commandTimeout_idle current (.inr exit)]
    simp only [State.endIdle, if_neg noEnter, current]
  case enter =>
    intro u s current enter
    rw [exec_commandTimeout_idle current (.inl enter)]
    simp only [State.endIdle, if_pos enter]
    generalize List.foldl State.leaveEntry s _ = t
    cases t.cmp.cur with
    | none => rfl
    | some v => rfl
  case none => exact fun s idle => exec_commandTimeout_of_none idle

end Sys2Proof.Machine
end
